-- ==== Sys2Proof/Word.lean ====
section
/-! DEFINITION. The word types, the operand types of the commands, and nothing that computes.

The commands of the table name ports, packets, readings and choices of the surroundings; each such
operand has its type here, so that `Sys2Proof/Syntax.lean` holds the commands alone. -/

namespace Sys2Proof

/-- A byte. -/
abbrev Byte := BitVec 8
/-- A 16-bit half word. -/
abbrev Half := BitVec 16
/-- A 32-bit register word (00_scope.md R12). -/
abbrev Word := BitVec 32
/-- A 64-bit double word. -/
abbrev Dword := BitVec 64

/-- The port on which a register access or management request arrives
(17_configuration_and_security.md R454, Table CFG-8). -/
inductive Port where
  | core (n : Nat)
  | mgmtA
  | mgmtB
  | pcie (n : Nat)
deriving DecidableEq, Repr

/-- The four scopes of 08_memory_model.md R229, Table MEM-1. -/
inductive Scope where
  | quad
  | die
  | package
  | system
deriving DecidableEq, Repr

/-- The agent that performs a synchronisation operation (08_memory_model.md R229). -/
inductive Agent where
  | quad (q : Nat)
  | core (c : Nat)
  | mgmt
  | stepUnit
  | pcie (p : Nat)
  | eth (n : Nat)
deriving DecidableEq, Repr

/-- One operation that reaches a sync object (08_memory_model.md R235, Table MEM-3). -/
structure SyncOp where
  agent : Agent
  scope : Scope
  isSet : Bool
  value : Dword
deriving DecidableEq, Repr

/-- The width of a write to DIE_SYNCi_ADD or _SET (08_memory_model.md R239). -/
inductive WordHalf where
  | dword
  | low
  | high
deriving DecidableEq, Repr

/-- The counter and limit registers of a receive window (08_memory_model.md Table MEM-9). -/
inductive WindowCounter where
  | bytesLo
  | bytesHi
  | pkts
  | limitLo
  | limitHi
deriving DecidableEq, Repr

/-- Package coordinates (13_axis_links_and_drone.md R361). -/
structure Coords where
  x : Nat
  y : Nat
  z : Nat
deriving DecidableEq, Repr

/-- The packet types of 13_axis_links_and_drone.md Table AXL-5. -/
inductive PacketKind where
  | data
  | inline
  | ack
  | nack
deriving DecidableEq, Repr

/-- The stages of a packet's route (13_axis_links_and_drone.md R363, Table AXL-3). -/
inductive Stage where
  | n
  | d0
  | d12
  | d3
  | t
deriving DecidableEq, Repr

/-- A packet: the header of 13_axis_links_and_drone.md Table AXL-5 with its data and record bytes.
`length` is the number of data bytes. -/
structure Packet where
  kind : PacketKind
  stage : Stage
  pastDateline : Bool
  sideMinus : Bool
  tag : Nat
  dest : Coords
  src : Coords
  dquad : Nat
  window : Nat
  epoch : Half
  offset : Nat
  squad : Nat
  status : Byte
  data : List Byte
  rcd : List Byte
deriving DecidableEq, Repr

/-- A flit on an axis link (13_axis_links_and_drone.md R357, Table AXL-1): its header fields, its
payload and the CRC it arrives with. -/
structure Flit where
  type : Nat
  vc : Nat
  seq : Nat
  ack : Nat
  creditVc : Nat
  credit : Nat
  payload : List Byte
  crc : Word
deriving DecidableEq, Repr

/-- The direction of an axis link's failed lane (13_axis_links_and_drone.md R359). -/
inductive LinkDir where
  | tx
  | rx
deriving DecidableEq, Repr

/-- The clock faults of 01_package.md R29. Roots are numbered as in Table PKG-8. -/
inductive ClockFaultKind where
  | refLost
  | rootUnlocked (die : Nat)
  | crossingFifo (die : Nat)
deriving DecidableEq, Repr

/-- The requester of a coherence transaction (12_coherence.md R330): a caching agent, or a
cache-less requester named by a number. -/
inductive Requester where
  | agent (a : Nat)
  | cacheless (n : Nat)
deriving DecidableEq, Repr

/-- The stash targets of 11_host_cores_and_cache.md R326. -/
inductive Stash where
  | none
  | h0
  | h1
  | extension
  | l2 (core : Nat)
deriving DecidableEq, Repr

/-- The integer atomics of 08_memory_model.md Table MEM-8. -/
inductive AmoOp where
  | add
  | minS
  | maxS
  | minU
  | maxU
  | swap
  | and
  | or
  | xor
deriving DecidableEq, Repr

/-- An atomic that a home performs on a line (12_coherence.md R346): an AMO or compare-and-swap at
a byte offset of the line, or a float add of 16, 32 or 64 elements of a sector. -/
inductive LineAtomic where
  | amo (off : Nat) (wide : Bool) (op : AmoOp) (v : Dword)
  | cas (off : Nat) (wide : Bool) (expect new : Dword)
  | floatAdd (fmt : Nat) (mask : Dword) (incs : List Word)
deriving DecidableEq, Repr

/-- The cache-block operations of 11_host_cores_and_cache.md R314. -/
inductive CmoKind where
  | clean
  | flush
  | inval
deriving DecidableEq, Repr

/-- The page-based memory type of a host access (11_host_cores_and_cache.md R312). -/
inductive Pbmt where
  | pma
  | nc
  | io
deriving DecidableEq, Repr

/-- What a load of a host core is (11_host_cores_and_cache.md R310, R319): scalar, an instruction fetch, the first after
a FENCE.I or not, or a vector load into registers from vd on. -/
inductive LoadKind where
  | scalar
  | fetch (fenced : Bool)
  | vector (vd : Nat)
deriving DecidableEq, Repr

/-- Where a core's access goes, and the attribute of its page (11_host_cores_and_cache.md R312). -/
structure CoreAt where
  pa : Nat
  pbmt : Pbmt
deriving DecidableEq, Repr

/-- What a store of a host core writes: bytes, or the first n bytes of the vector registers from vs on
(11_host_cores_and_cache.md R310). -/
inductive StoreSrc where
  | bytes (bs : List Byte)
  | vector (vs n : Nat)
deriving DecidableEq, Repr

/-- The caches whose protection a lookup may find at fault (11_host_cores_and_cache.md Tables HST-4, HST-5). -/
inductive CacheLevel where
  | l1i
  | l1d
  | l2
  | system
  | extension
deriving DecidableEq, Repr

/-- An access of a hart's debug module (11_host_cores_and_cache.md R309, R310, R317): a CSR by its number, an integer or a
vector register, the hart's mtimecmp, mtime, or a request that the spec does not describe. -/
inductive HartAccess where
  | csrRead (n : Nat)
  | csrWrite (n : Nat) (v : Dword)
  | gprRead (r : Nat)
  | gprWrite (r : Nat) (v : Dword)
  | vecRead (r : Nat)
  | vecWrite (r : Nat) (bs : List Byte)
  | timecmpRead
  | timecmpWrite (v : Dword)
  | timeRead
  | timeWrite (v : Dword)
  | module (req : Dword)
deriving DecidableEq, Repr

/-- What an error check of a word or line finds (15_resilience.md R397 to R400; 11_host_cores_and_cache.md Table
HST-5): `corrected` is also one failed tag copy, `tags` both of them; `control` is an uncorrectable error in a control
table that a line's home keeps (R399), and `report` an HBM device's own report (R398). -/
inductive EccFinding where
  | clean
  | corrected
  | uncorrectable
  | tags
  | control
  | report
deriving DecidableEq, Repr

/-- What a load of a host core is, and the error that its lookup meets in a cache, if any (11_host_cores_and_cache.md
R319, R325). -/
structure LoadHow where
  kind : LoadKind
  err : Option (CacheLevel × EccFinding)
deriving DecidableEq, Repr

/-- The SCATTER_ADD of a queue that makes a sector add, and the address it adds to (06_reed_chanter_gather.md R186). -/
structure AddAt where
  q : Nat
  j : Nat
  idx : Word
  pa : Nat
deriving DecidableEq, Repr

/-- A tile whose flash read is done, and the retries it took, more than 8 where it stayed uncorrectable
(09_memory_tiers.md R262, R263). -/
structure FlashRead where
  tile : Nat
  retries : Nat
deriving DecidableEq, Repr

/-- A flash channel that collects, and whether its erases succeed (09_memory_tiers.md R262). -/
structure Collection where
  ch : Nat
  ok : Bool
deriving DecidableEq, Repr

/-- A package that an election reaches (13_axis_links_and_drone.md R375): its coordinates, priority,
whether it has synchronised, and the tree hops it reports. -/
structure Candidate where
  at_ : Coords
  priority : Nat
  synced : Bool
  hops : Nat
deriving DecidableEq, Repr

/-- What a recalibration measures on one die (16_power_clocks_thermal.md R433): telemetry and model
energy of the window in nanojoules, and the load-line drop in millivolts. -/
structure CalFit where
  die : Nat
  telemetry : Nat
  model : Nat
  drop : Nat
deriving DecidableEq, Repr

/-- The events of the energy model (16_power_clocks_thermal.md Table PWR-5). -/
inductive EnergyEvent where
  | macFp8
  | macInt8
  | mac16
  | macMx
  | muted
  | gated
  | reedCycle
  | chanterMac
  | poolByte
  | hop
  | bridgeFlit
  | hbmLine
  | hbmRow
  | ddrLine
  | flashRead
  | flashProgram
  | flashErase
  | linkFlit
  | ethByte
deriving DecidableEq, Repr

/-- The events of one context on one die in one interval (16_power_clocks_thermal.md R430, R431). The context is none
for energy that goes to PWR_UNATTR. -/
structure CtxEnergy where
  ctx : Option Nat
  counts : List (EnergyEvent × Nat)
deriving DecidableEq, Repr

/-- What one die reports for a 10 µs interval (16_power_clocks_thermal.md R430): mean rail voltage in
millivolts, current in amperes, effective clock in MHz, mean temperature in °C, and its events. -/
structure DieActivity where
  die : Nat
  mv : Nat
  amps : Nat
  mhz : Nat
  temp : Nat
  events : List CtxEnergy
deriving DecidableEq, Repr

/-- A thermal sample (16_power_clocks_thermal.md R434): hottest sensor index and reading of each of
the eight dies, the reading of each HBM stack and of each flash module. -/
structure ThermalReadings where
  dies : List (Nat × Nat)
  hbm : List Nat
  flash : List Nat
deriving DecidableEq, Repr

/-- What LOG_READ reads (17_configuration_and_security.md Table CFG-6): a record of the log by index,
or the staging queue of a die. -/
inductive LogSource where
  | log (index : Word)
  | staging (die : Nat)
deriving DecidableEq, Repr

/-- A configuration item (17_configuration_and_security.md R444). -/
structure CfgItem where
  sect : Nat
  code : Nat
  index : Nat
  value : Word
deriving DecidableEq, Repr

/-- Where a package reset comes from (18_boot_and_reset.md R464). -/
inductive ResetCause where
  | powerGood
  | pin
  | ctrl (p : Port)
deriving DecidableEq, Repr

/-- Where a host complex reset comes from (18_boot_and_reset.md R464). -/
inductive HostResetSource where
  | pin
  | ctrl (p : Port)
deriving DecidableEq, Repr

/-- What the surroundings answer when a boot stage ends (18_boot_and_reset.md R468, R470): the stage
finished, or failed with a code of Table BRT-6. `selfTest` names the physical quads (die × 18 +
physical) that failed self-test in stage 0x4; `romDigest` is the digest M0 is extended with. -/
structure BootReport where
  stage : Nat
  err : Nat
  selfTestFailed : List Nat
deriving DecidableEq, Repr

/-- The RoCEv2 NAKs of 14_network_and_pcie.md R386. -/
inductive NakKind where
  | remoteAccess
  | invalidRequest
  | remoteOperational
  | rnr
deriving DecidableEq, Repr

/-- One packet of an inbound RDMA WRITE (14_network_and_pcie.md R387): the QP, the R_Key, the byte
offset of the whole message, its whole length, how many of its bytes came before, the data, and
whether it is the last packet. -/
structure RdmaIn where
  qpn : Nat
  rkey : Word
  base : Nat
  total : Nat
  done : Nat
  data : List Byte
  last : Bool
deriving DecidableEq, Repr

/-- A memory request of a PCIe device (14_network_and_pcie.md R394). -/
inductive PcieRequest where
  | read (pa : Nat) (n : Nat)
  | write (pa : Nat) (bs : List Byte)
  | msi (hart : Nat) (file : Bool) (identity : Nat)
deriving DecidableEq, Repr

end Sys2Proof
end

