-- ==== Sys2Proof/Syntax.lean ====
section
/-! DEFINITION. The commands of the block: one constructor for each row of spec/opcode_table.json, in
the table's order. No row of the table gives bits; the operands are what the row's rule names, and what
the surroundings choose where the rule leaves a choice to them. -/

namespace Sys2Proof

/-- The commands of spec/opcode_table.json. -/
inductive Instr where
  /-- DOORBELL: R214. -/
  | doorbell (p : Port) (q : Nat) (j : Nat) (v : Word)
  /-- QUEUE_CTRL_WRITE: R220. -/
  | queueCtrlWrite (p : Port) (q : Nat) (j : Nat) (v : Word)
  /-- QUEUE_HEAD_WRITE: R220. -/
  | queueHeadWrite (p : Port) (q : Nat) (j : Nat) (v : Word)
  /-- QUEUE_ABORT: R220. -/
  | queueAbort (p : Port) (q : Nat) (j : Nat)
  /-- QUEUE_RESUME: R220. -/
  | queueResume (p : Port) (q : Nat) (j : Nat)
  /-- DESCRIPTOR_FETCH: R215. -/
  | descriptorFetch (q : Nat)
  /-- COMMAND_DECODE: R198. -/
  | commandDecode (q : Nat) (j : Nat)
  /-- SEG_LOOKUP_MISS: R290. -/
  | segLookupMiss (q : Nat) (ctx : Nat) (va : Nat)
  /-- COMMAND_START: R60. -/
  | commandStart (q : Nat)
  /-- STATION_RELEASE: R63. -/
  | stationRelease (q : Nat) (j : Nat) (idx : Word) (stn : Nat)
  /-- COMMAND_COMPLETE: R63. -/
  | commandComplete (q : Nat) (j : Nat) (idx : Word)
  /-- MOVE: R207. -/
  | move (q : Nat) (j : Nat) (idx : Word)
  /-- GEMM: R200. -/
  | gemm (q : Nat) (j : Nat) (idx : Word)
  /-- GEMM_T: R135. -/
  | gemmT (q : Nat) (j : Nat) (idx : Word)
  /-- GEMV: R175. -/
  | gemv (q : Nat) (j : Nat) (idx : Word)
  /-- GATHER_POOL: R180. -/
  | gatherPool (q : Nat) (j : Nat) (idx : Word)
  /-- SCATTER_ADD: R185. -/
  | scatterAdd (q : Nat) (j : Nat) (idx : Word)
  /-- VECOP: R168. -/
  | vecop (q : Nat) (j : Nat) (idx : Word)
  /-- NORM_BACK: R153. -/
  | normBack (q : Nat) (j : Nat) (idx : Word)
  /-- SOFTMAX_BACK: R154. -/
  | softmaxBack (q : Nat) (j : Nat) (idx : Word)
  /-- SEND: R366. -/
  | send (q : Nat) (j : Nat) (idx : Word)
  /-- INLINE_SEND: R208. -/
  | inlineSend (q : Nat) (j : Nat) (idx : Word)
  /-- SIGNAL: R210. -/
  | signal (q : Nat) (j : Nat) (idx : Word)
  /-- WAIT: R210. -/
  | wait (q : Nat) (j : Nat) (idx : Word)
  /-- FENCE: R210. -/
  | fence (q : Nat) (j : Nat) (idx : Word)
  /-- PREFETCH_HINT: R277. -/
  | prefetchHint (q : Nat) (j : Nat) (idx : Word)
  /-- MIGRATE: R277. -/
  | migrate (q : Nat) (j : Nat) (idx : Word)
  /-- WAKE_ARRIVE: R238. -/
  | wakeArrive (q : Nat) (j : Nat) (idx : Word)
  /-- WAIT_TIMEOUT: R238. -/
  | waitTimeout (q : Nat) (j : Nat) (idx : Word)
  /-- SWEEP_WAKE: R233. -/
  | sweepWake (d : Nat)
  /-- SYNC_OBJECT_OP: R236. -/
  | syncObjectOp (d : Nat) (i : Nat) (ops : List SyncOp)
  /-- DIE_SYNC_ADD: R239. -/
  | dieSyncAdd (p : Port) (d : Nat) (i : Nat) (half : WordHalf) (v : Dword)
  /-- DIE_SYNC_SET: R239. -/
  | dieSyncSet (p : Port) (d : Nat) (i : Nat) (half : WordHalf) (v : Dword)
  /-- REPLAY_UNIT: R403. -/
  | replayUnit (q : Nat) (j : Nat) (idx : Word) (stn : Nat) (unit : Nat) (check : Nat)
  /-- SECTOR_ADD: R186. -/
  | sectorAdd (at_ : AddAt) (fmt : Nat) (mask : Dword) (incs : List Word) (err : Bool)
  /-- SEG_READ: R306. -/
  | segRead (p : Port) (u : Nat) (ctx : Nat) (slot : Nat)
  /-- SEG_INSTALL: R286. -/
  | segInstall (p : Port) (u : Nat) (ctx : Nat) (slot : Nat)
  /-- SEG_WITHDRAW: R301. -/
  | segWithdraw (p : Port) (u : Nat) (ctx : Nat) (slot : Nat)
  /-- SEG_OP_DONE: R306. -/
  | segOpDone (u : Nat)
  /-- WITHDRAW_DRAINED: R301. -/
  | withdrawDrained (u : Nat)
  /-- FAULT_RETRY: R299. -/
  | faultRetry (p : Port) (u : Nat) (r : Nat)
  /-- FAULT_FAIL: R299. -/
  | faultFail (p : Port) (u : Nat) (r : Nat)
  /-- WINDOW_CTRL_WRITE: R243. -/
  | windowCtrlWrite (p : Port) (q : Nat) (w : Nat) (v : Word)
  /-- WINDOW_COUNTER_WRITE: R248. -/
  | windowCounterWrite (p : Port) (q : Nat) (w : Nat) (r : WindowCounter) (v : Word)
  /-- PACKET_DELIVER: R244. -/
  | packetDeliver (pk : Packet)
  /-- PACKET_FORWARD: R364. -/
  | packetForward (arr : Nat) (pk : Packet)
  /-- ACK_RECEIVE: R369. -/
  | ackReceive (q : Nat) (tag : Nat)
  /-- NACK_RECEIVE: R370. -/
  | nackReceive (q : Nat) (tag : Nat) (st : Byte)
  /-- PACKET_DEADLINE: R369. -/
  | packetDeadline (q : Nat) (tag : Nat)
  /-- FLIT_RECEIVE: R358. -/
  | flitReceive (n : Nat) (f : Flit)
  /-- REPLAY_REQUEST: R358. -/
  | replayRequest (n : Nat)
  /-- REPLAY_TIMEOUT: R358. -/
  | replayTimeout (n : Nat)
  /-- LINK_LANE_FAIL: R359. -/
  | linkLaneFail (n : Nat) (dir : LinkDir) (lane : Nat)
  /-- LINK_RETRAIN_TIMEOUT: R359. -/
  | linkRetrainTimeout (n : Nat)
  /-- LINK_TRAIN_RETRY: R359. -/
  | linkTrainRetry (n : Nat)
  /-- LINK_TRAINED: R360. -/
  | linkTrained (n : Nat) (partner : Coords) (partnerLink : Nat)
  /-- AXL_FI_CTRL_WRITE: R373. -/
  | axlFiCtrlWrite (p : Port) (n : Nat) (v : Word)
  /-- BRIDGE_LANE_FAIL: R24. -/
  | bridgeLaneFail (b : Nat) (repaired : Bool)
  /-- BRIDGE_RETRAIN_START: R25. -/
  | bridgeRetrainStart (b : Nat)
  /-- BRIDGE_RETRAIN_DONE: R25. -/
  | bridgeRetrainDone (b : Nat)
  /-- BRIDGE_RETRAIN_LONG: R352. -/
  | bridgeRetrainLong (b : Nat)
  /-- BRIDGE_LOST: R25. -/
  | bridgeLost (b : Nat)
  /-- CLOCK_FAULT: R29. -/
  | clockFault (k : ClockFaultKind)
  /-- RD_SHARED: R341. -/
  | rdShared (a : Nat) (line : Nat)
  /-- RD_OWN: R341. -/
  | rdOwn (a : Nat) (line : Nat)
  /-- UPGRADE: R341. -/
  | upgrade (a : Nat) (line : Nat)
  /-- RD_ONCE: R341. -/
  | rdOnce (r : Requester) (line : Nat)
  /-- WR_FULL: R341. -/
  | wrFull (r : Requester) (line : Nat) (data : List Byte) (stash : Stash)
  /-- WR_PART: R341. -/
  | wrPart (r : Requester) (line : Nat) (mask : Dword) (data : List Byte)
  /-- ATOMIC: R346. -/
  | atomic (r : Requester) (line : Nat) (op : LineAtomic)
  /-- CMO: R341. -/
  | cmo (r : Requester) (line : Nat) (k : CmoKind)
  /-- SNP_SHR: R341. -/
  | snpShr (a : Nat) (line : Nat)
  /-- SNP_OWN: R341. -/
  | snpOwn (a : Nat) (line : Nat)
  /-- SNP_INV: R341. -/
  | snpInv (a : Nat) (line : Nat)
  /-- SNP_ONCE: R341. -/
  | snpOnce (a : Nat) (line : Nat)
  /-- SNP_CLN: R341. -/
  | snpCln (a : Nat) (line : Nat)
  /-- RSP_STATE: R341. -/
  | rspState (a : Nat) (line : Nat)
  /-- RSP_INWB: R351. -/
  | rspInwb (a : Nat) (line : Nat)
  /-- CMP: R339. -/
  | cmp (r : Requester) (line : Nat)
  /-- CMP_ACK: R339. -/
  | cmpAck (a : Nat) (line : Nat)
  /-- RETRY: R345. -/
  | retry (a : Nat) (line : Nat)
  /-- GRANT: R345. -/
  | grant (a : Nat) (line : Nat)
  /-- WB_ACK: R337. -/
  | wbAck (a : Nat) (line : Nat)
  /-- DAT_HOME: R341. -/
  | datHome (r : Requester) (line : Nat)
  /-- DAT_FWD: R338. -/
  | datFwd (a : Nat) (line : Nat)
  /-- DAT_SNP: R338. -/
  | datSnp (a : Nat) (line : Nat)
  /-- DAT_INSTALL: R327. -/
  | datInstall (t : Nat) (line : Nat)
  /-- WB_DIRTY: R337. -/
  | wbDirty (a : Nat) (line : Nat)
  /-- WB_CLEAN: R337. -/
  | wbClean (a : Nat) (line : Nat)
  /-- WB_MOVE: R335. -/
  | wbMove (a : Nat) (line : Nat)
  /-- SNOOP_TIMEOUT: R348. -/
  | snoopTimeout (a : Nat) (line : Nat)
  /-- AMO: R313. -/
  | amo (c : Nat) (at_ : CoreAt) (wide : Bool) (op : AmoOp) (v : Dword)
  /-- AMOCAS: R313. -/
  | amocas (c : Nat) (at_ : CoreAt) (size : Nat) (expect : Dword) (new : Dword)
  /-- LR: R313. -/
  | lr (c : Nat) (at_ : CoreAt) (wide : Bool)
  /-- SC: R313. -/
  | sc (c : Nat) (at_ : CoreAt) (wide : Bool) (v : Dword)
  /-- LR_RESERVATION_EXPIRE: R313. -/
  | lrReservationExpire (c : Nat)
  /-- CBO_CLEAN: R314. -/
  | cboClean (c : Nat) (pa : Nat) (pbmt : Pbmt)
  /-- CBO_FLUSH: R314. -/
  | cboFlush (c : Nat) (pa : Nat) (pbmt : Pbmt)
  /-- CBO_INVAL: R314. -/
  | cboInval (c : Nat) (pa : Nat) (pbmt : Pbmt) (err : Option (CacheLevel × EccFinding))
  /-- CBO_ZERO: R314. -/
  | cboZero (c : Nat) (pa : Nat) (pbmt : Pbmt)
  /-- PREFETCH_R: R314. -/
  | prefetchR (c : Nat) (pa : Nat) (pbmt : Pbmt)
  /-- PREFETCH_W: R314. -/
  | prefetchW (c : Nat) (pa : Nat) (pbmt : Pbmt)
  /-- TIMER_COMPARE: R317. -/
  | timerCompare (c : Nat)
  /-- STREAM_RUN_TIMEOUT: R324. -/
  | streamRunTimeout (det : Nat) (run : Nat)
  /-- EXT_ERROR_WINDOW_EXPIRE: R325. -/
  | extErrorWindowExpire (d : Nat) (way : Nat)
  /-- SCRUB_READ: R400. -/
  | scrubRead (pa : Nat) (found : EccFinding)
  /-- PROMOTION_LANDS: R266. -/
  | promotionLands (r : FlashRead)
  /-- WRITE_GROUP_TIMEOUT: R268. -/
  | writeGroupTimeout (ch : Nat)
  /-- PAGE_PROGRAMMED: R266. -/
  | pageProgrammed (ch : Nat)
  /-- PROGRAM_FAILURE: R266. -/
  | programFailure (ch : Nat)
  /-- GARBAGE_COLLECTION: R262. -/
  | garbageCollection (g : Collection)
  /-- MAP_CHECKPOINT: R265. -/
  | mapCheckpoint (x : Nat)
  /-- OBJECT_TABLE_WRITE: R274. -/
  | objectTableWrite (p : Port) (n : Nat) (v : Word)
  /-- OBJECT_EVICT_DONE: R274. -/
  | objectEvictDone
  /-- SCHED_ENABLE_WRITE: R278. -/
  | schedEnableWrite (p : Port) (v : Word)
  /-- SCHED_TAIL_WRITE: R278. -/
  | schedTailWrite (p : Port) (v : Word)
  /-- SCHED_ENTRY_ACTIVATE: R279. -/
  | schedEntryActivate
  /-- PROTECTION_EXPIRE: R280. -/
  | protectionExpire (t : Nat)
  /-- REGION_LOAD: R282. -/
  | regionLoad (p : Port) (r : Nat)
  /-- REGION_ERASE: R282. -/
  | regionErase (p : Port) (r : Nat)
  /-- REGION_OP_DONE: R282. -/
  | regionOpDone (fails : List (Nat × Nat))
  /-- DRONE_SYNC_EXCHANGE: R376. -/
  | droneSyncExchange (t1 : Dword) (t2 : Dword) (t3 : Dword) (t4 : Dword)
  /-- DRONE_LOAD: R378. -/
  | droneLoad (t1 : Dword) (t2 : Dword) (t3 : Dword) (t4 : Dword)
  /-- ROOT_ELECTION: R375. -/
  | rootElection (cands : List Candidate)
  /-- DRONE_FREE_RUN: R377. -/
  | droneFreeRun
  /-- STEP_BOUNDARY_PUSH: R379. -/
  | stepBoundaryPush (p : Port) (v : Word)
  /-- STEP_BOUNDARY: R379. -/
  | stepBoundary (fits : List CalFit)
  /-- SUSPICION_DECAY: R406. -/
  | suspicionDecay
  /-- PWR_MODE_WRITE: R421. -/
  | pwrModeWrite (p : Port) (v : Word)
  /-- MODE_STEP: R426. -/
  | modeStep (d : Nat)
  /-- MODE_CHANGE_ABANDON: R427. -/
  | modeChangeAbandon
  /-- ENERGY_INTERVAL: R430. -/
  | energyInterval (e : List DieActivity)
  /-- DROOP_TRIP: R428. -/
  | droopTrip (d : Nat)
  /-- DROOP_RELEASE: R424. -/
  | droopRelease (d : Nat)
  /-- VR_ALERT: R429. -/
  | vrAlert (b : Nat)
  /-- FLOOR_EXIT: R429. -/
  | floorExit
  /-- THERMAL_SAMPLE: R434. -/
  | thermalSample (r : ThermalReadings)
  /-- THERMAL_TRIP: R435. -/
  | thermalTrip (d : Nat) (sensor : Nat) (reading : Nat)
  /-- CE_MERGE_EXPIRE: R414. -/
  | ceMergeExpire (d : Nat) (k : Nat)
  /-- RECORD_TO_LOG: R415. -/
  | recordToLog
  /-- ERR_LOG_CTRL_WRITE: R413. -/
  | errLogCtrlWrite (p : Port) (v : Word)
  /-- ERR_LOG_READ_WRITE: R420. -/
  | errLogReadWrite (p : Port) (v : Word)
  /-- GET_INFO: R452. -/
  | getInfo (p : Port)
  /-- REG_READ: R452. -/
  | regRead (p : Port) (off : Nat) (n : Nat)
  /-- REG_WRITE: R454. -/
  | regWrite (p : Port) (off : Nat) (vs : List Word)
  /-- SEM_ACQUIRE: R453. -/
  | semAcquire (p : Port)
  /-- SEM_RENEW: R453. -/
  | semRenew (p : Port)
  /-- SEM_RELEASE: R453. -/
  | semRelease (p : Port)
  /-- LEASE_EXPIRE: R453. -/
  | leaseExpire
  /-- TXN_BEGIN: R446. -/
  | txnBegin (p : Port)
  /-- TXN_STAGE: R446. -/
  | txnStage (p : Port) (items : List CfgItem)
  /-- TXN_READ: R446. -/
  | txnRead (p : Port)
  /-- TXN_COMMIT: R448. -/
  | txnCommit (p : Port)
  /-- TXN_ROLLBACK: R447. -/
  | txnRollback (p : Port)
  /-- TXN_AUTO_ROLLBACK: R447. -/
  | txnAutoRollback
  /-- TXN_QUIET: R448. -/
  | txnQuiet
  /-- TXN_APPLY: R448. -/
  | txnApply
  /-- STORE_READ: R452. -/
  | storeRead (p : Port) (off : Nat) (n : Nat)
  /-- STORE_ERASE: R442. -/
  | storeErase (p : Port) (bank : Nat)
  /-- STORE_WRITE: R442. -/
  | storeWrite (p : Port) (bank : Nat) (off : Nat) (bs : List Byte)
  /-- STORE_FINISH: R442. -/
  | storeFinish (p : Port) (bank : Nat) (len : Nat) (digest : List Byte)
  /-- LOG_READ: R452. -/
  | logRead (p : Port) (src : LogSource)
  /-- ATTEST: R458. -/
  | attest (p : Port) (nonce : List Byte)
  /-- GET_CERT: R456. -/
  | getCert (p : Port)
  /-- KEY_FUSE: R455. -/
  | keyFuse (p : Port) (slot : Nat) (digest : List Byte) (signer : Nat) (sig : List Byte)
  /-- KEY_REVOKE: R455. -/
  | keyRevoke (p : Port) (slot : Nat) (signer : Nat) (sig : List Byte)
  /-- KEY_SVN_RAISE: R455. -/
  | keySvnRaise (p : Port) (svn : Nat) (signer : Nat) (sig : List Byte)
  /-- DEBUG: R452. -/
  | debug (p : Port) (hart : Nat) (req : HartAccess)
  /-- PACKAGE_RESET: R464. -/
  | packageReset (c : ResetCause)
  /-- COMPUTE_DIE_RESET: R465. -/
  | computeDieReset (p : Port) (d : Nat)
  /-- HOST_COMPLEX_RESET: R467. -/
  | hostComplexReset (src : HostResetSource)
  /-- HOST_RESET_RELEASE: R467. -/
  | hostResetRelease
  /-- QUAD_RESET: R466. -/
  | quadReset (p : Port) (q : Nat)
  /-- DIE_RESET_DONE: R465. -/
  | dieResetDone (d : Nat) (selfTest : List Bool)
  /-- BOOT_STAGE: R468. -/
  | bootStage (r : BootReport)
  /-- RST_CAUSE_FATAL_CLEAR: R473. -/
  | rstCauseFatalClear (p : Port)
  /-- ETH_QP_DB: R385. -/
  | ethQpDb (p : Port) (x : Nat) (v : Word)
  /-- QP_MOVE: R384. -/
  | qpMove (p : Port) (x : Nat) (v : Word)
  /-- QP_MOVE_ERROR: R384. -/
  | qpMoveError (p : Port) (x : Nat) (qpn : Nat)
  /-- WQE_WRITE: R385. -/
  | wqeWrite (x : Nat) (qpn : Nat)
  /-- WQE_READ: R385. -/
  | wqeRead (x : Nat) (qpn : Nat)
  /-- WQE_SEND: R385. -/
  | wqeSend (x : Nat) (qpn : Nat)
  /-- RDMA_NAK_RECEIVE: R386. -/
  | rdmaNakReceive (x : Nat) (qpn : Nat) (k : NakKind)
  /-- RDMA_WRITE_IN: R387. -/
  | rdmaWriteIn (n : Nat) (x : RdmaIn)
  /-- RDMA_READ_IN: R388. -/
  | rdmaReadIn (n : Nat) (qpn : Nat) (rkey : Word) (off : Nat) (len : Nat)
  /-- RDMA_SEND_IN: R389. -/
  | rdmaSendIn (n : Nat) (qpn : Nat) (bs : List Byte)
  /-- PCIE_MEM_REQUEST: R394. -/
  | pcieMemRequest (n : Nat) (r : PcieRequest)
  /-- COUNTER_LO_READ: R133. -/
  | counterLoRead (p : Port) (off : Nat)
  /-- RC_REGISTER_READ: R12. -/
  | rcRegisterRead (p : Port) (off : Nat)
  /-- REGISTER_WRITE: R12. -/
  | registerWrite (p : Port) (off : Nat) (v : Word)
  /-- PACKAGE_RESET_RELEASE: R480. -/
  | packageResetRelease (straps : BitVec 16)
  /-- HOST_LOAD: R312. -/
  | hostLoad (c : Nat) (at_ : CoreAt) (n : Nat) (how : LoadHow)
  /-- HOST_STORE: R312. -/
  | hostStore (c : Nat) (pa : Nat) (src : StoreSrc) (pbmt : Pbmt)
  /-- MARGIN_WARNING: R406. -/
  | marginWarning (q : Nat)
  /-- LR_SNOOP_DELAY_END: R347. -/
  | lrSnoopDelayEnd (c : Nat)
  /-- RDMA_RESPONSE_RECEIVE: R386. -/
  | rdmaResponseReceive (x : Nat) (qpn : Nat) (bs : List Byte)
  /-- RDMA_ACK_TIMEOUT: R386. -/
  | rdmaAckTimeout (x : Nat) (qpn : Nat)
  /-- PFC_PAUSE_RECEIVE: R382. -/
  | pfcPauseReceive (n : Nat) (paused : Byte) (mask : Byte)
  /-- CNP_RECEIVE: R382. -/
  | cnpReceive (n : Nat) (qpn : Nat)
  /-- BYPASS_READ_DONE: R270. -/
  | bypassReadDone (r : FlashRead)
deriving DecidableEq, Repr

end Sys2Proof
end

