-- ==== Sys2Proof/Config.lean ====
section
/-! DEFINITION. What an implementation fixes and the spec leaves open, as constants with no body. No
proof can evaluate one of them, so a claim holds whatever they are. -/

namespace Sys2Proof.Config

/-- The free byte of number n: a value the spec calls undefined (07_commands_and_queues.md R222).
Log entry 2. -/
opaque freeByte : Nat → Byte
/-- The free double word of number n, for values wider than a byte. Log entry 2. -/
opaque freeDword : Nat → Dword
/-- The free natural number of number n, which callers bound. Log entry 2. -/
opaque freeNat : Nat → Nat
/-- The fixed hash that picks the directory set of a line at its home (12_coherence.md R342): a
function of address bits [47:6] that the spec does not print. Log entry 6. -/
opaque dirSet : Nat → Nat
/-- The fixed hash that picks the system-cache slice of a line (11_host_cores_and_cache.md R320). Log
entry 6. -/
opaque scSlice : Nat → Nat
/-- The set of a line in its system-cache slice, whose indexing the spec does not print
(11_host_cores_and_cache.md R320, R323). Log entry 6. -/
opaque scSet : Nat → Nat
/-- The set of a line in a die's extension (11 R323). Log entry 6. -/
opaque extSet : Nat → Nat
/-- The set of a line in an L2, whose indexing the spec does not print (11_host_cores_and_cache.md Table HST-4). Log
entry 6. -/
opaque l2Set : Nat → Nat
/-- The sets of a line in an L1D and an L1I, whose indexing the spec does not print (11_host_cores_and_cache.md Table
HST-4). Log entry 6. -/
opaque l1dSet : Nat → Nat
/-- See `l1dSet`. Log entry 6. -/
opaque l1iSet : Nat → Nat
/-- SHAKE256 with a 64-byte output (17_configuration_and_security.md R457, after FIPS 202). Log
entry 7. -/
opaque shake256 : List Byte → List Byte
/-- Whether an SLH-DSA-SHAKE-256s signature verifies: public key, message, signature
(17_configuration_and_security.md R455, after FIPS 205). Log entry 7. -/
opaque slhVerify : List Byte → List Byte → List Byte → Bool
/-- The SLH-DSA-SHAKE-256f signature under the fused identity key (17 R456, R458). Log entry 7. -/
opaque slhSign : List Byte → List Byte
/-- The device identity public key, 64 bytes (17 R456). Log entry 7. -/
opaque identityKey : List Byte
/-- The certificate that GET_CERT returns with the identity key (17 R456). Log entry 7. -/
opaque certificate : List Byte
/-- The boot ROM's bytes, whose digest M0 takes (17 Table CFG-10). Log entry 7. -/
opaque bootRom : List Byte
/-- The public key with which the slot of a key digest signs a KEY_OP request
(17 R455): the key whose digest the slot holds. Log entry 7. -/
opaque slotKey : List Byte → List Byte
/-- Where the Reed's EXP, EXP2, LOG, SIGMOID or TANH passes from one FP32 value to the next one up
(06_reed_chanter_gather.md R165 fixes the functions and does not print them): the least operand, by its place in
the order of FP32 values, with the upper answer. Arguments: the op and the lower answer's place. Log entry 8. -/
opaque ulpStep : Nat → Nat → Nat


/-- Whether the arrays mute the INT8 encoding 0x80 of a stationary operand: 04_matrix_array.md R125 lists it among the
zero encodings, and 03_formats.md R79 makes it -128. Log entry 19. -/
opaque int8MinMuted : Bool
/-- The host first stage in the bytes of an image's section 0x0A (18_boot_and_reset.md R467, Table BRT-4): where it
stands in the section is not printed. Log entry 22. -/
opaque hostFirstStage : List Byte → List Byte
/-- A die's fused rail voltage in a mode, as an offset in millivolts that callers bound to the range of
16_power_clocks_thermal.md Table PWR-1. Arguments: die and mode. Log entry 23. -/
opaque fusedRail : Nat → Nat → Nat
/-- A die's fused energy coefficient of an event in femtojoules (16_power_clocks_thermal.md R430, Table PWR-5). Arguments:
die and event. Log entry 190. -/
opaque energyCoef : Nat → EnergyEvent → Nat
/-- A die's fused static power at 0.75 V and 85 °C in milliwatts (16 R430, Table PWR-5). Log entry 190. -/
opaque staticMw : Nat → Nat

end Sys2Proof.Config
end

