-- ==== Sys2Proof/Machine/State.lean ====
section
/-! DEFINITION. The state of the package as plain data, and the state right after package reset.

Sparse state is a `Table`: pairs of a key and a value, keys strictly rising, no entry equal to the
default of the table. Each field names the rule that gives it. -/

namespace Sys2Proof.Machine

/-- Reasons the machine would stop with a fault. -/
inductive Fault where
  /-- No command raises it: every row of the table has an effect that the spec gives, and errors of the
  device are state (status codes, completion codes, records). Safe. -/
  | never
deriving DecidableEq, Repr

/-- Reasons a command has no meaning here. -/
inductive Refusal where
  /-- Raised by an arm of `exec` for a row without a meaning yet; names the row. Safe. -/
  | notModelled (mnemonic : String)
deriving DecidableEq, Repr

/-- A sparse table in canonical form (see the file's first words). -/
abbrev Table (α : Type) := List (Nat × α)

/-! ### Translation and commands -/

/-- A translated extent (10_segments.md R285, R291): virtual and physical first byte, length, the
segment's attributes, and the slot and generation it was translated under. -/
structure Extent where
  va : Nat
  pa : Nat
  len : Nat
  coherent : Bool
  tier : Nat
  ctx : Nat
  slot : Nat
  gen : Half
deriving DecidableEq, Repr

/-- A segment slot (10_segments.md Table SEG-1, R288). -/
structure Seg where
  valid : Bool
  vbase : Nat
  pbase : Nat
  len2m : Nat
  attr : Byte
  gen : Half
deriving DecidableEq, Repr

/-- The reset value of a segment slot (10_segments.md R288). -/
def Seg.reset : Seg := { valid := false, vbase := 0, pbase := 0, len2m := 0, attr := 0, gen := 0 }

/-- An entry of a quad's descriptor copy (10_segments.md R290). -/
structure SegCopy where
  ctx : Nat
  slot : Nat
  seg : Seg
deriving DecidableEq, Repr

/-- A fault record of a translation unit (10_segments.md Table SEG-9). -/
structure FaultRec where
  valid : Bool
  waiters : Nat
  ctx : Nat
  va : Nat
  queue : Nat
  drone : Word
deriving DecidableEq, Repr

/-- The reset value of a fault record. -/
def FaultRec.reset : FaultRec :=
  { valid := false, waiters := 0, ctx := 0, va := 0, queue := 0, drone := 0 }

/-- The operation a translation unit runs (10_segments.md R306). -/
inductive StuOp where
  | read (ctx slot : Nat)
  | install (result : Nat) (gen : Half)
  | withdraw (ctx slot : Nat) (gen : Half)
deriving DecidableEq, Repr

/-- A system translation unit (10_segments.md R289, Tables SEG-5 to SEG-9). -/
structure Stu where
  stage : Table Word
  cmdOp : Nat
  cmdSlot : Nat
  cmdCtx : Nat
  running : Option StuOp
  generation : Half
  result : Nat
  segs : Table Seg
  faults : Table FaultRec
  overflow : Nat
  faultPending : Bool
  resolveFail : Bool
  resolveRecord : Nat
  lookups : Nat
deriving DecidableEq, Repr

/-- A translation unit after package reset. -/
def Stu.reset : Stu :=
  { stage := [], cmdOp := 0, cmdSlot := 0, cmdCtx := 0, running := none, generation := 0, result := 0,
    segs := [], faults := [], overflow := 0, faultPending := false, resolveFail := false,
    resolveRecord := 0, lookups := 0 }

/-- A wait condition (08_memory_model.md R235): object, scope, comparison and value. -/
structure Cond where
  obj : Nat
  scope : Scope
  eq : Bool
  value : Dword
deriving DecidableEq, Repr

/-- A registered condition at its home (08_memory_model.md R237). -/
structure Reg where
  q : Nat
  j : Nat
  idx : Word
  cond : Cond
deriving DecidableEq, Repr

/-- A destination entry (07_commands_and_queues.md Table CMD-14): its three words. -/
structure DestEntry where
  w0 : Word
  w4 : Word
  w8 : Word
deriving DecidableEq, Repr

/-- The reset value of a destination entry. -/
def DestEntry.reset : DestEntry := { w0 := 0, w4 := 0, w8 := 0 }

/-- Where a decoded command stands (02_stations_and_routes.md R59, 07_commands_and_queues.md R216). -/
inductive Phase where
  | waitCond
  | waitOrder
  | waitFault (u r : Nat)
  | ready
  | running
deriving DecidableEq, Repr

/-- A decoded command: its descriptor and index, what decode read for it, and how far it is. Extents,
keyed by the body offset of their address word, are held from decode to completion (10 R291). -/
structure Cmd where
  idx : Word
  desc : List Byte
  stamp : Nat
  phase : Phase
  exts : Table Extent
  prog : List Byte
  dest : DestEntry
  stash : Word
  conds : List Cond
  deadline : Option Nat
  late : Bool
  held : List (Nat × Nat)
  ran : Bool
  status : Nat
  failedAt : Option Nat
  detail : Dword
  tiles : Nat
  unsent : List Packet
  passes : Table Nat
  redecode : Bool
  withdrawn : Bool
  migrating : List Nat
deriving DecidableEq, Repr

/-- A fetched descriptor that decode has not taken yet (07_commands_and_queues.md R215). -/
structure Fetched where
  idx : Word
  desc : List Byte
  stamp : Nat
deriving DecidableEq, Repr

/-- Queue states (07_commands_and_queues.md Table CMD-16). -/
inductive QState where
  | disabled
  | running
  | stopping
  | stopped
deriving DecidableEq, Repr

/-- A command queue (07_commands_and_queues.md Tables CMD-13, CMD-15 to CMD-17; 11 Table HST-8). -/
structure Queue where
  enable : Bool
  stopOnError : Bool
  context : Nat
  log2Size : Nat
  base : BitVec 48
  cpl : BitVec 48
  head : Word
  tail : Word
  done : Word
  ended : List Word
  dbError : Bool
  error : Bool
  state : QState
  thenDisabled : Bool
  thenError : Bool
  lastErr : Word
  stash : Word
  fetched : List Fetched
  slot : Option Cmd
  cmds : List Cmd
deriving DecidableEq, Repr

/-- A queue after quad reset (07_commands_and_queues.md Tables CMD-13 to CMD-17). -/
def Queue.reset : Queue :=
  { enable := false, stopOnError := true, context := 0, log2Size := 4, base := 0, cpl := 0, head := 0,
    tail := 0, done := 0, ended := [], dbError := false, error := false, state := .disabled,
    thenDisabled := false, thenError := false, lastErr := 0, stash := 0, fetched := [], slot := none,
    cmds := [] }

/-! ### Windows, ports and the quad -/

/-- A receive window (08_memory_model.md Table MEM-9; 13 Table AXL-10), with the translation it was
opened under and the packets held at its limit (08 R247). -/
structure Window where
  base : BitVec 48
  size : BitVec 48
  opened : Bool
  linkEn : Bool
  context : Nat
  epoch : Half
  link : Nat
  bytes : BitVec 48
  packets : Word
  limit : BitVec 48
  stale : Nat
  beyond : Nat
  closed : Nat
  recBase : BitVec 48
  stride : Nat
  ext : Option Extent
  recExt : Option Extent
  held : List Packet
deriving DecidableEq, Repr

/-- A window after quad reset. -/
def Window.reset : Window :=
  { base := 0, size := 0, opened := false, linkEn := false, context := 0, epoch := 0, link := 0,
    bytes := 0, packets := 0, limit := 0xFFFFFFFFFFFF, stale := 0, beyond := 0, closed := 0,
    recBase := 0, stride := 0, ext := none, recExt := none, held := [] }

/-- A packet that awaits a response (13_axis_links_and_drone.md R369). -/
structure OutPkt where
  tag : Nat
  j : Nat
  idx : Word
  bytes : Nat
  deadline : Nat
deriving DecidableEq, Repr

/-- The registers of one array (04_matrix_array.md R132, R133). GATED counts slice-cycles at all times, so the field
holds its last value read (log entry 24). -/
structure ArrayRegs where
  mac : Dword
  muted : Dword
  gated : Dword
  residue : Nat
  parity : Nat
  checkRow : Nat
  checkCol : Nat
deriving DecidableEq, Repr

/-- An array after quad reset. -/
def ArrayRegs.reset : ArrayRegs :=
  { mac := 0, muted := 0, gated := 0, residue := 0, parity := 0,
    checkRow := 0, checkCol := 0 }

/-- A wake on its way to a quad (08_memory_model.md R233, R238), with the condition that was met. -/
structure Wake where
  j : Nat
  idx : Word
  obj : Nat
deriving DecidableEq, Repr

/-- A logical quad. -/
structure Quad where
  queues : Table Queue
  windows : Table Window
  dests : Table DestEntry
  tilesOut : Table Word
  stall : Table Nat
  checkFail : Nat
  checkRetry : Nat
  slots : Nat
  arrays : Table ArrayRegs
  gradSat : Bool
  gradNan : Bool
  gradUflow : Bool
  satCount : Nat
  uflowCount : Nat
  gthRows : Nat
  badIndex : Word
  reedStep : Dword
  chtMac : Dword
  lateWakes : Nat
  segCopy : List SegCopy
  segMisses : Nat
  portLate : Nat
  outstanding : List OutPkt
  nextTag : Nat
  wakes : List Wake
  rotStart : Nat
  rotFetch : Nat
  reservation : Option (Nat × Word)
  stamp : Nat
  replays : Nat
  exhausted : Nat
  control : Nat
  suspect : Bool
  score : Nat
deriving DecidableEq, Repr

/-- A quad after quad reset, its suspicion score at the value of package reset. -/
def Quad.reset : Quad :=
  { queues := [], windows := [], dests := [], tilesOut := [], stall := [], checkFail := 0,
    checkRetry := 0, slots := 0, arrays := [], gradSat := false, gradNan := false, gradUflow := false,
    satCount := 0, uflowCount := 0, gthRows := 0, badIndex := 0xFFFFFFFF, reedStep := 0, chtMac := 0,
    lateWakes := 0, segCopy := [], segMisses := 0, portLate := 0, outstanding := [], nextTag := 0,
    wakes := [], rotStart := 0, rotFetch := 0, reservation := none, stamp := 0, replays := 0,
    exhausted := 0, control := 0, suspect := false, score := 0 }

/-! ### Host complex and coherence -/

/-- Stable states of a line in a caching agent (12_coherence.md Table COH-2). -/
inductive LState where
  | i
  | s
  | e
  | o
  | m
deriving DecidableEq, Repr

/-- Transient states (12_coherence.md R334). -/
inductive Transient where
  | stable
  | isD
  | imD
  | smA
  | omA
  | miWb
  | oiWb
  | eiWb
  | siWb
deriving DecidableEq, Repr

/-- A line in a caching agent: state, transient, its 64 bytes and poison. -/
structure Line where
  st : LState
  tr : Transient
  data : List Byte
  poison : Bool
deriving DecidableEq, Repr

/-- A line an agent does not hold. -/
def Line.none : Line := { st := .i, tr := .stable, data := [], poison := false }

/-- Directory states (12_coherence.md Table COH-5, Table COH-6). -/
inductive DState where
  | di
  | ds
  | dx
  | do_
deriving DecidableEq, Repr

/-- A directory entry (12_coherence.md Table COH-6). The pointers are agent numbers, the owner first
in DO and DX; `stamp` is the allocation order of R344. -/
structure DirEntry where
  st : DState
  ptrs : List Nat
  bcast : Bool
  stamp : Nat
deriving DecidableEq, Repr

/-- No entry. -/
def DirEntry.none : DirEntry := { st := .di, ptrs := [], bcast := false, stamp := 0 }

/-- The requests of class REQ (12_coherence.md Table COH-3). -/
inductive Req where
  | rdShared
  | rdOwn
  | upgrade
  | rdOnce
  | wrFull (data : List Byte) (stash : Stash)
  | wrPart (mask : Dword) (data : List Byte)
  | atomic (op : LineAtomic)
  | cmo (k : CmoKind)
deriving DecidableEq, Repr

/-- The snoops (12_coherence.md Table COH-3). -/
inductive Snp where
  | shr
  | own
  | inv
  | once
  | cln
deriving DecidableEq, Repr

/-- An open transaction (12_coherence.md R339): its requester and request, the snoops that still
await an answer with their deadlines, the holders whose writeback is awaited after RSP_INWB, the snooped holders
whose handover has come before their answer (R351), the data that came from a holder with its poison, whether a
holder has forwarded data to the requester, whether the line was poisoned while it was open, whether the home has
sent its completing message, and whether the requester's CMP_ACK has come. -/
structure Txn where
  who : Requester
  req : Req
  waits : List (Nat × Snp × Nat)
  awaitWb : List Nat
  moved : List Nat
  data : Option (List Byte × Bool)
  fromSnoop : Bool
  poison : Bool
  answered : Bool
  acked : Bool
deriving DecidableEq, Repr

/-- A transaction that has just opened. -/
def Txn.fresh (who : Requester) (req : Req) : Txn :=
  { who := who, req := req, waits := [], awaitWb := [], moved := [], data := none, fromSnoop := false,
    poison := false, answered := false, acked := false }

/-- A message in flight on the fabric (12_coherence.md Table COH-3). DAT_FWD names its holder first. -/
inductive Msg where
  | snp (k : Snp) (a line : Nat) (who : Requester)
  | rspState (st : LState) (a line : Nat) (fwd : Bool)
  | rspInwb (a line : Nat)
  | cmp (who : Requester) (line : Nat) (poison : Bool) (result : Dword)
  | cmpAck (a line : Nat)
  | retry (a line : Nat)
  | grant (a line : Nat)
  | wbAck (a line : Nat)
  | datHome (who : Requester) (line : Nat) (grant : LState) (data : List Byte) (poison : Bool)
  | datFwd (h a line : Nat) (grant : LState) (data : List Byte) (poison : Bool)
  | datSnp (a line : Nat) (data : List Byte) (poison : Bool)
  | datInstall (t line : Nat) (data : List Byte)
  | wbDirty (a line : Nat) (data : List Byte) (poison : Bool)
  | wbClean (a line : Nat)
  | wbMove (a line : Nat) (st : LState) (data : List Byte) (poison : Bool)
deriving DecidableEq, Repr

/-- The counters and event bits of a home agent (12_coherence.md Table COH-8). -/
structure Home where
  late : Bool
  poison : Bool
  timeout : Bool
  retry : Bool
  poisonCount : Nat
  lateCount : Nat
  bcastCount : Nat
  backinv : Nat
  retryCount : Nat
  last : Dword
  probe : Word
  probed : Dword
deriving DecidableEq, Repr

/-- A home agent after package reset: COH_LAST_HI.agent reads 0xFF. -/
def Home.reset : Home :=
  { late := false, poison := false, timeout := false, retry := false, poisonCount := 0, lateCount := 0,
    bcastCount := 0, backinv := 0, retryCount := 0, last := 0x00FF000000000000, probe := 0, probed := 0 }

/-- The coherence state of the package (12_coherence.md). Lines are keyed by agent × 2^42 plus line
number, the other tables by line number. `stale` are messages of transactions that a long retrain has ended, which
their arrival discards (R352). -/
structure Coh where
  lines : Table Line
  dir : Table DirEntry
  txns : Table (Option Txn)
  waiting : List (Nat × Requester × Req)
  retryQ : List (Nat × Nat × Req)
  reserved : List (Nat × Nat)
  msgs : List Msg
  stale : List Msg
  homes : Table Home
  dead : List Nat
  closed : Bool
  stamp : Nat
  results : Table (List Byte)
deriving DecidableEq, Repr

/-- Coherence after package reset. -/
def Coh.reset : Coh :=
  { lines := [], dir := [], txns := [], waiting := [], retryQ := [], reserved := [], msgs := [],
    stale := [], homes := [], dead := [], closed := false, stamp := 0, results := [] }

/-- What a host-core access reported last (11_host_cores_and_cache.md R312, R33; 15 R416). -/
inductive HostResult where
  | none
  | data (bs : List Byte)
  | stored
  | scFail
  | accessFault
  | illegal
  | hwError
  | waits
deriving DecidableEq, Repr

/-- A run that a stream detector tracks (11_host_cores_and_cache.md R324). -/
structure StreamRun where
  lastLine : Nat
  up : Bool
  count : Nat
deriving DecidableEq, Repr

/-- The privilege modes of a hart (11_host_cores_and_cache.md R309). -/
inductive Priv where
  | u
  | s
  | m
deriving DecidableEq, Repr

/-- What governs an interrupt file of a hart's IMSIC beside its pending identities (11_host_cores_and_cache.md R315):
the identities enabled, delivery, and the threshold. -/
structure IntFile where
  enabled : List Nat
  deliver : Bool
  threshold : Nat
deriving DecidableEq, Repr

/-- A file with nothing enabled (log entry 162). -/
def IntFile.reset : IntFile := { enabled := [], deliver := false, threshold := 0 }

/-- A host core (11_host_cores_and_cache.md R308 to R319). `irqM` and `irqS` are the identities pending in its two
interrupt files. `xregs` holds the integer registers that differ from what the hart starts with. `stateen` holds mstateen0
to 3 and sstateen0 to 3; a trigger is its three data words; `hpm` and `hpmEvent` are keyed 3 to 31; `l1d` names the lines of the L1D, whose
bytes the L2 holds, and `l1i` holds the lines of the L1I. -/
structure Core where
  mtimecmp : Dword
  stimecmp : Dword
  mtip : Bool
  stip : Bool
  reservation : Option Nat
  snoopHeld : Option (Snp × Requester × Nat)
  result : HostResult
  missStash : Nat
  writeAround : Nat
  scFailures : Nat
  uncached : Nat
  irqM : List Nat
  irqS : List Nat
  fileM : IntFile
  fileS : IntFile
  iselM : Nat
  iselS : Nat
  priv : Priv
  pc : Dword
  xregs : Table Dword
  satp : Dword
  menvcfg : Dword
  senvcfg : Dword
  stateen : Table Dword
  tselect : Nat
  triggers : Table (Dword × Dword × Dword)
  pmpCfg : Table Byte
  pmpAddr : Table Dword
  vregs : Table (List Byte)
  cycle : Dword
  instret : Dword
  hpm : Table Dword
  hpmEvent : Table Dword
  lcof : Bool
  l1d : List Nat
  l1i : Table (List Byte)
deriving DecidableEq, Repr

/-- A core after reset, as its hart starts: in M-mode at address 0 (18_boot_and_reset.md R469). The spec gives the other
registers no reset value (log entries 9 and 162). -/
def Core.reset : Core :=
  { mtimecmp := 0xFFFFFFFFFFFFFFFF, stimecmp := 0xFFFFFFFFFFFFFFFF, mtip := false, stip := false,
    reservation := none, snoopHeld := none, result := .none, missStash := 0, writeAround := 0, scFailures := 0, uncached := 0,
    irqM := [], irqS := [], fileM := .reset, fileS := .reset, iselM := 0, iselS := 0, priv := .m, pc := 0,
    xregs := [], satp := 0, menvcfg := 0, senvcfg := 0, stateen := [], tselect := 0, triggers := [], pmpCfg := [], pmpAddr := [], vregs := [], cycle := 0, instret := 0,
    hpm := [], hpmEvent := [], lcof := false, l1d := [], l1i := [] }

/-- A host die's cache registers (11_host_cores_and_cache.md Table HST-6). -/
structure HostDie where
  corrected : Nat
  uncorr : Nat
  tagBoth : Nat
  errLoc : Word
  stashDropped : Nat
deriving DecidableEq, Repr

/-- After package reset. -/
def HostDie.reset : HostDie :=
  { corrected := 0, uncorr := 0, tagBoth := 0, errLoc := 0, stashDropped := 0 }

/-- A way of the die-pool extension's error window (11_host_cores_and_cache.md R325). -/
structure ExtWay where
  errors : Nat
  opened : Nat
deriving DecidableEq, Repr

/-- No error counted. -/
def ExtWay.reset : ExtWay := { errors := 0, opened := 0 }

/-! ### Tiers -/

/-- The states of a tile of the tiered range (09_memory_tiers.md Table TIR-5). -/
inductive TileSt where
  | u
  | f
  | p
  | r
  | d
  | w
deriving DecidableEq, Repr

/-- A read of a tile served past the slots (09_memory_tiers.md R270): not asked for, under way, or
standing in the I/O die's read buffer. -/
inductive Bypass where
  | none
  | asked
  | buffered
deriving DecidableEq, Repr

/-- The three kinds of access of 09_memory_tiers.md Table TIR-6. -/
inductive TAcc where
  | read
  | whole
  | part
deriving DecidableEq, Repr

/-- What is known of one tile: its state, whether a flash copy exists, schedule protection (end step
and promotion tick, R279, R280), its bypass read, and the access that waits for its page to be programmed
first. -/
structure Tile where
  st : TileSt
  inFlash : Bool
  protTill : Option Nat
  protAt : Nat
  bypass : Bypass
  wanted : Option TAcc
deriving DecidableEq, Repr

/-- A tile never written. -/
def Tile.fresh : Tile :=
  { st := .u, inFlash := false, protTill := none, protAt := 0, bypass := .none, wanted := none }

/-- A 16 KiB slot of a die's tier share (09_memory_tiers.md R257, R269). -/
structure Slot where
  used : Bool
  group : Nat
  nru : Bool
  released : Bool
deriving DecidableEq, Repr

/-- An empty slot. -/
def Slot.empty : Slot := { used := false, group := 0, nru := false, released := false }

/-- A flash channel's write group (09_memory_tiers.md R268) and its flash die (R262): the block being written
with the pages it has taken, the blocks in use and retired, free and spare blocks, those held for read-only state
(R272), and per block the reads since its last program and its erases. In STRIPED mode `remap` is the bad-block table
of R261, the spare's block plus 1 by plane × 2,048 + region. Block numbers are plane × 2,048 + block. -/
structure Channel where
  open_ : List Nat
  firstAt : Nat
  programming : List (List Nat)
  cur : Option (Nat × Nat)
  used : List Nat
  retired : List Nat
  free : Nat
  spare : Nat
  held : Nat
  remap : Table Nat
  blockReads : Table Nat
  blockErases : Table Nat
deriving DecidableEq, Repr

/-- A channel of a fresh part: 8,192 blocks less 256 spares, of which 16 are held for read-only state
(09_memory_tiers.md Table TIR-3, R262, R272; log entry 10). -/
def Channel.reset : Channel :=
  { open_ := [], firstAt := 0, programming := [], cur := none, used := [], retired := [], free := 7920,
    spare := 256, held := 16, remap := [], blockReads := [], blockErases := [] }

/-- A placement object (09_memory_tiers.md Table TIR-7). -/
structure TObj where
  base : Nat
  size : Nat
  valid : Bool
  userHint : Bool
  pin : Nat
  noevict : Bool
  home : Nat
  context : Nat
deriving DecidableEq, Repr

/-- The reset value of an object. -/
def TObj.reset : TObj :=
  { base := 0, size := 0, valid := false, userHint := false, pin := 0, noevict := false, home := 4,
    context := 0 }

/-- An active schedule entry (09_memory_tiers.md R279). -/
structure Sched where
  tiles : List Nat
  deadline : Nat
  hold : Nat
  judged : Bool
deriving DecidableEq, Repr

/-- A compute die's tier counters (09_memory_tiers.md Table TIR-13). -/
structure TierDie where
  hits : Dword
  promoted : Nat
  evDirty : Nat
  evClean : Nat
  bypass : Nat
  late : Nat
deriving DecidableEq, Repr

/-- After package reset. -/
def TierDie.reset : TierDie :=
  { hits := 0, promoted := 0, evDirty := 0, evClean := 0, bypass := 0, late := 0 }

/-- The counters of an I/O die's flash (09_memory_tiers.md Table TIR-14). -/
structure FlashDie where
  retired : Nat
  reads : Nat
  programs : Nat
  refresh : Nat
  uncorr : Nat
deriving DecidableEq, Repr

/-- A fresh part. -/
def FlashDie.reset : FlashDie := { retired := 0, reads := 0, programs := 0, refresh := 0, uncorr := 0 }

/-- The tiers (09_memory_tiers.md). `placed` is the flash map: a tile's block, page and position in its channel as
(block × 1,024 + page) × 4 + position, plus 1 (R262). `readQ` are promotions and bypass reads that wait for one of
their I/O die's flash reads, with their class: 0 demand, 1 schedule, 2 hint (R267). `owed` are tiles that a pin still
has to promote, or to evict where true (R274). `regionOp` is the operation that runs: region, whether it loads, and
its source (R282).
`evicting` are slots of a former home that evictions still owe, by die and group (R274); `checkpoints` counts an I/O
die's tiles written back since its last map checkpoint (R265). -/
structure Tier where
  tiles : Table Tile
  placed : Table Nat
  slots : Table Slot
  walk : Table Nat
  channels : Table Channel
  objects : Table TObj
  objErr : Nat
  evicting : List (Nat × Nat)
  readOnly : Bool
  schedBad : Bool
  schedBase : BitVec 48
  schedEnable : Bool
  schedLog2 : Nat
  schedHead : Word
  schedTail : Word
  schedErr : Word
  active : List Sched
  regionErr : Nat
  regionOp : Option (Nat × Bool × Nat)
  regionCmd : Nat
  regionNum : Nat
  regionSrc : BitVec 48
  regions : Table Nat
  hintQ : List Nat
  readQ : List (Nat × Nat)
  owed : List (Nat × Bool)
  dies : Table TierDie
  flash : Table FlashDie
  formatted : Nat × Nat
  checkpoints : Table Nat
deriving DecidableEq, Repr

/-- The tier of a fresh part after package reset. Regions not listed read EMPTY (R281). The part is
recorded as formatted under the image's defaults (log entry 3). -/
def Tier.reset : Tier :=
  { tiles := [], placed := [], slots := [], walk := [], channels := [], objects := [], objErr := 0, evicting := [],
    readOnly := false, schedBad := false, schedBase := 0, schedEnable := false, schedLog2 := 4,
    schedHead := 0, schedTail := 0, schedErr := 0xFFFFFFFF, active := [], regionErr := 0,
    regionOp := none, regionCmd := 0, regionNum := 0, regionSrc := 0, regions := [], hintQ := [],
    readQ := [], owed := [], dies := [], flash := [], formatted := (0, 4), checkpoints := [] }

/-! ### Links, Drone and Ethernet -/

/-- Link states (13_axis_links_and_drone.md Table AXL-9). -/
inductive LinkSt where
  | down
  | training
  | up
  | retraining
deriving DecidableEq, Repr

/-- A packet that waits at a link: the link it came by, the packet as it came and as this link carries it, its bytes that
have not been sent, and whether a flit has taken some (13_axis_links_and_drone.md R364, R365). -/
structure TxPkt where
  arr : Nat
  pk : Packet
  out : Packet
  rest : List Byte
  begun : Bool
deriving DecidableEq, Repr

/-- One axis link (13_axis_links_and_drone.md R358 to R360, Table AXL-9). `txWait` holds the packets that wait, `used`
the flits of each channel whose credits have not come back, `rr` the channel that the next flit is looked for from (R363),
`swap` a flit that
injection sends behind the next, and `fiSeen` the flits that have come to injection, modulo its longest period (R372). -/
structure Link where
  st : LinkSt
  miswired : Bool
  spareRx : Bool
  spareTx : Bool
  width8 : Bool
  half : Bool
  failedTx : List Nat
  failedRx : List Nat
  crc : Nat
  replays : Nat
  fecCorrected : Nat
  fecUncorr : Nat
  flits : Dword
  detour : Nat
  lost : Nat
  fiEnable : Bool
  fiDenied : Bool
  fiCtrl : Word
  fiSeed : Word
  fiCount : Nat
  fiSeen : Nat
  txSeq : Nat
  rxSeq : Nat
  replayBuf : List (Flit × Nat)
  txWait : List TxPkt
  used : Table Nat
  rr : Nat
  swap : Option Flit
  inRow : Nat
  since : Nat
  rx : Table (List Byte)
deriving DecidableEq, Repr

/-- A link after package reset (13 Table AXL-9: FI_CTRL rate 4 and vc_mask 0xFF, seed 1). -/
def Link.reset : Link :=
  { st := .down, miswired := false, spareRx := false, spareTx := false, width8 := false, half := false,
    failedTx := [], failedRx := [], crc := 0, replays := 0, fecCorrected := 0, fecUncorr := 0,
    flits := 0, detour := 0, lost := 0, fiEnable := false, fiDenied := false, fiCtrl := 0x000800FF,
    fiSeed := 1, fiCount := 0, fiSeen := 0, txSeq := 0, rxSeq := 0, replayBuf := [], txWait := [], used := [], rr := 0,
    swap := none, inRow := 0, since := 0, rx := [] }

/-- The torus time and steps of the package (13_axis_links_and_drone.md R374 to R379); `prev` is the Drone value
before its last tick, by which a deadline's deciding cycle is known (08_memory_model.md R238). -/
structure Time where
  drone : Nat
  prev : Nat
  synced : Bool
  freeRun : Bool
  isRoot : Bool
  parent : Nat
  rootAt : BitVec 30
  hops : Nat
  loaded : Bool
  offset : Int
  lastSlew : Nat
  lastExchange : Nat
  step : Nat
  bounds : List Nat
  bndHigh : Word
  linkEn : Bool
  bndErr : Bool
  linkObj : Nat
deriving DecidableEq, Repr

/-- After package reset (13 Tables AXL-7 and AXL-8). -/
def Time.reset : Time :=
  { drone := 0, prev := 0, synced := false, freeRun := false, isRoot := false, parent := 7, rootAt := 0, hops := 0,
    loaded := false, offset := 0, lastSlew := 0, lastExchange := 0, step := 0, bounds := [],
    bndHigh := 0, linkEn := false, bndErr := false, linkObj := 0 }

/-- The running part of a queue pair (14_network_and_pcie.md R384 to R386): the next work request to start and the
tail, the requests in progress, bytes that a READ has received, retries made of the oldest, its reductions of rate,
and the bytes accepted of an inbound message. The rest of its context is its table entry in DDR5. -/
structure Qp where
  head : Nat
  tail : Nat
  busy : List Nat
  got : Nat
  retries : Nat
  rnr : Nat
  rateDown : Nat
  inDone : Option Nat
deriving DecidableEq, Repr

/-- A queue pair with empty rings. -/
def Qp.reset : Qp :=
  { head := 0, tail := 0, busy := [], got := 0, retries := 0, rnr := 0, rateDown := 0, inDone := none }

/-- An Ethernet port (14_network_and_pcie.md Table NET-4). -/
structure Eth where
  paused : Byte
  stash : Word
  drop : Nat
  gids : Table (BitVec 128)
  segCopy : List SegCopy
deriving DecidableEq, Repr

/-- After package reset. -/
def Eth.reset : Eth := { paused := 0, stash := 0, drop := 0, gids := [], segCopy := [] }

/-- The queue-pair registers of an I/O die (14_network_and_pcie.md Table NET-4). -/
structure QpRegs where
  base : BitVec 48
  cmdState : Nat
  cmdQpn : Nat
  db : Word
deriving DecidableEq, Repr

/-- After package reset. -/
def QpRegs.reset : QpRegs := { base := 0, cmdState := 0, cmdQpn := 0, db := 0 }

/-- A PCIe root port (14_network_and_pcie.md Table NET-4). The link trains outside the table's rows: once it may,
up, rate and width are free at each read and hold what the last read found (log entry 11). -/
structure Pcie where
  up : Bool
  rate : Nat
  width : Nat
  denied : Nat
deriving DecidableEq, Repr

/-- After package reset. -/
def Pcie.reset : Pcie := { up := false, rate := 0, width := 0, denied := 0 }

/-! ### Errors, power, configuration and reset -/

/-- An error record (15_resilience.md Table RES-5); `open_` while a staged CE record's merge window is open
(R414). -/
structure ErrRec where
  cls : Nat
  source : Nat
  code : Nat
  die : Nat
  unit : Nat
  phys : Nat
  flags : Nat
  drone : Nat
  addr : Dword
  context : Nat
  queue : Nat
  tag : Nat
  status : Nat
  opcode : Nat
  count : Nat
  syndrome : Nat
  aux0 : Nat
  aux1 : Nat
  open_ : Bool
deriving DecidableEq, Repr

/-- The error log (15_resilience.md R413 to R417, Table RES-9). -/
structure ErrLog where
  base : BitVec 48
  enable : Bool
  log2Size : Nat
  write : Word
  read : Word
  fatal : Bool
  fatalMore : Nat
  lost : Nat
  lostSince : Bool
  fatalLast : List Byte
  staging : Table (List ErrRec)
  rot : Nat
deriving DecidableEq, Repr

/-- After package reset and with power just applied. -/
def ErrLog.reset : ErrLog :=
  { base := 0, enable := false, log2Size := 6, write := 0, read := 0, fatal := false, fatalMore := 0,
    lost := 0, lostSince := false, fatalLast := [], staging := [], rot := 0 }

/-- A die's power state (16_power_clocks_thermal.md R424 to R435, Table PWR-10): its divider and rail, its thermal
level and the intervals at 16, FLOOR of its own heat, its droop stretch, when its last droop or FLOOR stretch ended,
since when a mode step is deferred, when the next rail step may come, what DIE_PWR_ registers show, whether it has
finished a mode change, and its droop threshold above the fused margin with one that waits for a release. -/
structure DiePower where
  divider : Nat
  railMv : Nat
  thermL : Nat
  thermSat : Nat
  floorTherm : Bool
  droop : Bool
  lastStretch : Nat
  deferredAt : Option Nat
  nextRamp : Nat
  effMhz : Nat
  trips : Nat
  mv : Nat
  amps : Nat
  sensor : Nat
  hottest : Nat
  stepDone : Bool
  threshold : Nat
  pendingThreshold : Option Nat
deriving DecidableEq, Repr

/-- A die after package reset: FULL's divider, no stretch. Rail and threshold have no printed reset
value (log entry 12). -/
def DiePower.reset : DiePower :=
  { divider := 4, railMv := 750, thermL := 0, thermSat := 0, floorTherm := false, droop := false, lastStretch := 0,
    deferredAt := none, nextRamp := 0, effMhz := 0, trips := 0, mv := 0, amps := 0, sensor := 0, hottest := 0,
    stepDone := true, threshold := 20, pendingThreshold := none }

/-- The package's power state (16_power_clocks_thermal.md Tables PWR-8 and PWR-9): requested mode, mode in force and
mode being entered; the cap's level with the intervals it has stood at 16; the last 100 intervals' energies and the
package's energy in nJ; contexts' and unattributed energy in fJ; alerts with the time of the last assertion; what
calibration has fitted, by die and mode; since when no FLOOR, throttle or transition has run. -/
structure Power where
  req : Nat
  cur : Nat
  target : Nat
  transition : Bool
  queuedReq : Option Nat
  floorAlert : Bool
  throttled : Bool
  overCap : Bool
  abandoned : Bool
  capL : Nat
  capSat : Nat
  history : List Nat
  energy : Nat
  unattr : Nat
  ctxEnergy : Table Nat
  events : Nat
  seen : Byte
  level : Byte
  alertAt : Nat
  calReject : Bool
  calCount : Nat
  calStep : Nat
  calModes : List Nat
  calG : Table (Nat × Nat)
  calDrop : Table Nat
  lastCal : Nat
  cleanSince : Nat
  trip : Bool
  hbmMax : Nat
  dieMax : Nat
  hotDie : Nat
  hbm : Table Nat
  hbmSlow : Table Bool
  flashSuspended : Table Bool
  dies : Table DiePower
deriving DecidableEq, Repr

/-- After package reset: boot mode FULL from the image's default. -/
def Power.reset : Power :=
  { req := 0, cur := 0, target := 0, transition := false, queuedReq := none, floorAlert := false, throttled := false,
    overCap := false, abandoned := false, capL := 0, capSat := 0, history := [], energy := 0, unattr := 0,
    ctxEnergy := [], events := 0, seen := 0, level := 0, alertAt := 0, calReject := false, calCount := 0, calStep := 0,
    calModes := [], calG := [], calDrop := [], lastCal := 0, cleanSince := 0, trip := false, hbmMax := 0, dieMax := 0,
    hotDie := 0, hbm := [], hbmSlow := [], flashSuspended := [], dies := [] }

/-- An event message to a management port (17_configuration_and_security.md Table CFG-6, R416). -/
inductive Event where
  | record (bs : List Byte)
  | txn (result : Nat)
  | leaseEnd (holder : Nat)
deriving DecidableEq, Repr

/-- The answer to a management request (17_configuration_and_security.md Table CFG-7). -/
structure Response where
  code : Nat
  words : List Word
  bytes : List Byte
deriving DecidableEq, Repr

/-- No answer yet. -/
def Response.none : Response := { code := 0, words := [], bytes := [] }

/-- A fused key slot (17_configuration_and_security.md R455). -/
structure KeySlot where
  digest : Option (List Byte)
  revoked : Bool
deriving DecidableEq, Repr

/-- Configuration, management and security (17_configuration_and_security.md). `items` holds the items
in force that differ from the defaults of Table CFG-4, keyed by section, item and index. -/
structure Cfg where
  orderingCode : Nat
  siliconRev : Nat
  iana : Word
  keys : List KeySlot
  minSvn : Nat
  items : Table (Option Word)
  quadsEnabled : Nat
  bank : Nat
  booted : Bool
  fallback : Bool
  verifyErr : Nat
  svn : Nat
  seq : Word
  imageDigest : List Byte
  txnState : Nat
  txnOwner : Nat
  txnResult : Nat
  failCode : Nat
  failItem : Nat
  staged : List CfgItem
  txnDeadline : Option Nat
  applyAt : Option Nat
  rollbacks : Nat
  applied : Nat
  fieldEntries : Nat
  field : List (List CfgItem × List Byte)
  meas : Table (List Byte)
  holder : Nat
  lastHolder : Nat
  leaseEnd : Nat
  events : Table (List Event)
  lostA : Nat
  lostB : Nat
  store : Table Byte
  storing : Option Nat
  answers : Table Response
  debug : List (Nat × Dword)
deriving DecidableEq, Repr

/-- After package reset. The fused values are log entry 4; both board-store banks read erased, the
store's default (log entry 5). Items are Table CFG-4's defaults and the spare map of log entry 3. -/
def Cfg.reset : Cfg :=
  { orderingCode := 0, siliconRev := 0, iana := 0,
    keys := [⟨some [], false⟩, ⟨some [], false⟩, ⟨none, false⟩, ⟨none, false⟩], minSvn := 0, items := [],
    quadsEnabled := 64, bank := 0, booted := false, fallback := false, verifyErr := 0, svn := 0,
    seq := 0, imageDigest := [], txnState := 0, txnOwner := 0, txnResult := 0, failCode := 0,
    failItem := 0, staged := [], txnDeadline := none, applyAt := none, rollbacks := 0, applied := 0,
    fieldEntries := 0, field := [], meas := [], holder := 0, lastHolder := 1, leaseEnd := 0,
    events := [], lostA := 0, lostB := 0, store := [], storing := none, answers := [], debug := [] }

/-- Boot and reset (18_boot_and_reset.md Tables BRT-5 and BRT-7). -/
structure Boot where
  done : Bool
  recovery : Bool
  failedStage : Nat
  err : Nat
  stage : Nat
  memDone : Bool
  flashDone : Bool
  level : Nat
  die : Nat
  quad : Nat
  hostBusy : Bool
  diesInReset : List Nat
  hostResets : Nat
  afterFatal : Bool
  mgmt : Bool
  pin : Bool
  powerOn : Bool
  thermtrip : Bool
  held : Bool
  straps : BitVec 16
  perstReleased : Bool
  hostHeld : Bool
  rewaits : List Reg
  heldSync : List (Nat × SyncOp)
  physState : Table Nat
deriving DecidableEq, Repr

/-- After a package reset by PWR_GOOD, released: stage 0x1, hosts and quads held (R468). -/
def Boot.reset : Boot :=
  { done := false, recovery := false, failedStage := 0, err := 0, stage := 1, memDone := false,
    flashDone := false, level := 0, die := 0, quad := 0, hostBusy := false, diesInReset := [],
    hostResets := 0, afterFatal := false, mgmt := false, pin := false, powerOn := true, thermtrip := false, held := false,
    straps := 0, perstReleased := false, hostHeld := true, rewaits := [], heldSync := [], physState := [] }

/-- The fabric (01_package.md R24 to R29, Tables PKG-4, PKG-5 and PKG-8): `downAt` is when a bridge began to
retrain, `passedLong` and `lost` say whether that retrain has passed 50 µs and 10 ms. -/
structure Fabric where
  up : BitVec 12
  degraded : BitVec 12
  retrainSeen : BitVec 12
  retrainLong : BitVec 12
  downAt : Table Nat
  passedLong : BitVec 12
  lost : BitVec 12
  refPresent : Bool
  rootLocked : Byte
deriving DecidableEq, Repr

/-- After package reset (Tables PKG-4, PKG-5 and PKG-8). -/
def Fabric.reset : Fabric :=
  { up := 0xFFF, degraded := 0, retrainSeen := 0, retrainLong := 0, downAt := [], passedLong := 0, lost := 0, refPresent := true,
    rootLocked := 0xFF }

/-- Where a queue pair's message goes and what its packets carry (14_network_and_pcie.md Table NET-2): the remote pair, the
first packet's sequence number, the traffic class and priority, the addresses, and the VLAN where it is tagged. -/
structure EthHead where
  destQpn : Nat
  psn : Nat
  tclass : Nat
  pcp : Nat
  ip6 : Bool
  remoteIp : List Byte
  remoteMac : List Byte
  gid : BitVec 128
  vlan : Option Nat
deriving DecidableEq, Repr

/-- What the package has sent and nothing has taken yet: packets for this package (link 6), packets that came
whole by link n (link 8 + n), flits put on a link, replay requests, Ethernet messages, PCIe completions, and
accesses of host cores to PCIe devices. -/
inductive Out where
  | packet (link : Nat) (p : Packet)
  | flit (link : Nat) (f : Flit)
  | replayRequest (link : Nat)
  | eth (n : Nat) (qpn : Nat) (h : EthHead) (op : Nat) (addr : Nat) (rkey : Word) (len : Nat) (data : List Byte)
  | ethNak (n : Nat) (qpn : Nat) (k : NakKind)
  | ethAck (n : Nat) (qpn : Nat)
  | pcieData (n : Nat) (data : List Byte)
  | pcieUnsupported (n : Nat)
  | pciePoison (n : Nat)
  | pcieRead (n : Nat) (off len : Nat)
  | pcieWrite (n : Nat) (off : Nat) (data : List Byte)
deriving DecidableEq, Repr

/-- The state of the package. -/
structure State where
  pending : List Instr
  free : Nat
  mem : List Host.Cell
  flash : List Host.Cell
  poison : Table Bool
  flashPoison : Table Bool
  sync : Table Dword
  regs : Table (List Reg)
  sweepWakes : Table Nat
  quads : Table Quad
  stus : Table Stu
  coh : Coh
  cores : Table Core
  hostDies : Table HostDie
  routes : Table Word
  streams : Table (List StreamRun)
  extWays : Table ExtWay
  extSelfDis : Table Nat
  extLfsr : Table Half
  extErr : Table (Nat × Nat × Nat)
  extHits : Table Dword
  extMisses : Table Dword
  ext : Table Nat
  scWays : Table Nat
  scTrees : Table Nat
  tier : Tier
  links : Table Link
  time : Time
  eths : Table Eth
  qpRegs : Table QpRegs
  qps : Table Qp
  pcie : Table Pcie
  log : ErrLog
  power : Power
  cfg : Cfg
  boot : Boot
  fabric : Fabric
  latches : Table Word
  lastRead : Word
  out : List Out
deriving DecidableEq, Repr

/-- The package right after package reset (18_boot_and_reset.md R468, Table BRT-3): every register at
its reset value, memory with nothing listed, nothing waiting. -/
def State.reset : State :=
  { pending := [], free := 0, mem := [], flash := [], poison := [], flashPoison := [], sync := [],
    regs := [], sweepWakes := [], quads := [], stus := [], coh := .reset, cores := [], hostDies := [],
    routes := [], streams := [], extWays := [], extSelfDis := [], extLfsr := [], extErr := [],
    extHits := [], extMisses := [], ext := [], scWays := [], scTrees := [], tier := .reset, links := [],
    time := .reset, eths := [], qpRegs := [], qps := [], pcie := [], log := .reset, power := .reset,
    cfg := .reset, boot := .reset, fabric := .reset, latches := [], lastRead := 0, out := [] }

end Sys2Proof.Machine
end

