-- ==== Sys2Proof/Machine/Ops.lean ====
section
/-! DEFINITION. The operations the meanings share: sparse tables, bytes and bit fields, memory with its
poison, free values, the configuration items in force, and one modifier for each part of the state. -/

namespace Sys2Proof.Machine

/-! ### Sparse tables -/

/-- What a table holds at a key; an unlisted key holds the default. -/
def Table.get {α : Type} (d : α) : Table α → Nat → α
  | [], _ => d
  | (k, v) :: t, i => if k = i then v else Table.get d t i

/-- The entries of a run of values from a key on, defaults left out. -/
def Table.run {α : Type} [DecidableEq α] (d : α) : Nat → List α → Table α
  | _, [] => []
  | k, v :: vs => if v = d then Table.run d (k + 1) vs else (k, v) :: Table.run d (k + 1) vs

/-- The entries below a key. -/
def Table.below {α : Type} (t : Table α) (k : Nat) : Table α := t.filter (fun e => decide (e.1 < k))

/-- The entries from a key on. -/
def Table.from {α : Type} (t : Table α) (k : Nat) : Table α := t.filter (fun e => decide (k ≤ e.1))

/-- The one write of a table: a run of values replaces what stood under its keys. It keeps the
canonical form (`Sys2Proof/Laws/Table.lean`). -/
def Table.splice {α : Type} [DecidableEq α] (d : α) (t : Table α) (k : Nat) (vs : List α) : Table α :=
  t.below k ++ (Table.run d k vs ++ t.from (k + vs.length))

/-- A single-entry write. -/
def Table.put {α : Type} [DecidableEq α] (d : α) (t : Table α) (k : Nat) (v : α) : Table α :=
  t.splice d k [v]

/-- The canonical form: keys strictly rising and no entry equal to the default. -/
def Table.wf {α : Type} [DecidableEq α] (d : α) (t : Table α) : Bool :=
  (t.map Prod.fst).Pairwise (· < ·) && t.all (fun e => decide (e.2 ≠ d))

/-- The values of n keys from k on, of a table whose keys rise and start at k or above. -/
def Table.walk {α : Type} (d : α) : Nat → Nat → Table α → List α
  | 0, _, _ => []
  | n + 1, k, [] => d :: Table.walk d n (k + 1) []
  | n + 1, k, (i, v) :: t =>
    if i = k then v :: Table.walk d n (k + 1) t else d :: Table.walk d n (k + 1) ((i, v) :: t)

/-- The values of a run of n keys. -/
def Table.range {α : Type} (d : α) (t : Table α) (k n : Nat) : List α := Table.walk d n k (t.from k)

/-- Removes the keys of a run. -/
def Table.drop {α : Type} (t : Table α) (k n : Nat) : Table α := t.below k ++ t.from (k + n)

/-! ### Bytes and bit fields -/

/-- A bit field of a number, from its low bit, of a width (00_scope.md R12). -/
def bits (v lo width : Nat) : Nat := v / 2 ^ lo % 2 ^ width

/-- A bit of a number. -/
def bit (v i : Nat) : Bool := v / 2 ^ i % 2 == 1

/-- A Bool as a bit placed at a position. -/
def flag (b : Bool) (i : Nat) : Nat := if b then 2 ^ i else 0

/-- The n bytes of a number, little-endian (00_scope.md R16). -/
def leBytes : Nat → Nat → List Byte
  | 0, _ => []
  | n + 1, v => BitVec.ofNat 8 v :: leBytes n (v / 256)

/-- The number that bytes hold, little-endian (00_scope.md R16). -/
def ofLe : List Byte → Nat
  | [] => 0
  | b :: bs => b.toNat + 256 * ofLe bs

/-- n bytes of a list from an offset on, as a number. -/
def field (bs : List Byte) (off n : Nat) : Nat := ofLe ((bs.drop off).take n)

/-- A counter that saturates (00_scope.md R12, as each register's table says). -/
def satAdd (cap x n : Nat) : Nat := min cap (x + n)

/-- Sign extension of a field of a width to an integer. -/
def signed (v width : Nat) : Int :=
  if v % 2 ^ width < 2 ^ (width - 1) then (v % 2 ^ width : Nat) else (v % 2 ^ width : Nat) - (2 ^ width : Nat)

/-- Divides, rounding up. -/
def ceilDiv (a b : Nat) : Nat := (a + b - 1) / b

/-! ### Check codes -/

/-- One bit step of the reflected CRC-32C (03_formats.md R99: polynomial 0x1EDC_6F41). -/
def crcBit (c : Word) : Word :=
  if c.getLsbD 0 then (c >>> 1) ^^^ 0x82F63B78 else c >>> 1

/-- One byte step of CRC-32C. -/
def crcByte (c : Word) (b : Byte) : Word :=
  crcBit (crcBit (crcBit (crcBit (crcBit (crcBit (crcBit (crcBit (c ^^^ b.setWidth 32))))))))

/-- CRC-32C with initial value 0xFFFF_FFFF and final inversion (03_formats.md R99). -/
def crc32c (bs : List Byte) : Word := ~~~ (bs.foldl crcByte 0xFFFFFFFF)

/-! ### Memory -/

/-- What a byte of memory that nothing is listed for reads as: 0, since boot writes every populated
byte with zeros (18_boot_and_reset.md Table BRT-4). Log entry 5. -/
def memDefault : Byte := 0

/-- The canonical form of a byte memory. -/
def Memory.wf (m : List Host.Cell) : Bool := Table.wf memDefault m

/-- A byte of memory. -/
def State.byte (s : State) (pa : Nat) : Byte := Table.get memDefault s.mem pa

/-- n bytes of memory. -/
def State.bytes (s : State) (pa n : Nat) : List Byte := Table.range memDefault s.mem pa n

/-- The one write of memory. -/
def State.setBytes (s : State) (pa : Nat) (bs : List Byte) : State :=
  { s with mem := Table.splice memDefault s.mem pa bs }

/-- Whether a 64-byte sector is poisoned (15_resilience.md R399, 12_coherence.md R350). -/
def State.sectorPoison (s : State) (sector : Nat) : Bool := Table.get false s.poison sector

/-- The sectors a range touches. -/
def sectorsOf (pa n : Nat) : List Nat :=
  if n = 0 then [] else (List.range ((pa + n - 1) / 64 - pa / 64 + 1)).map (pa / 64 + ·)

/-- Whether any sector of a range is poisoned. -/
def State.anyPoison (s : State) (pa n : Nat) : Bool :=
  if n = 0 then false
  else s.poison.any (fun e => e.2 && decide (pa / 64 ≤ e.1) && decide (e.1 ≤ (pa + n - 1) / 64))

/-- Sets or clears the poison of a sector. -/
def State.setPoison (s : State) (sector : Nat) (b : Bool) : State :=
  { s with poison := Table.put false s.poison sector b }

/-- Clears the poison of the sectors that a write covers whole (12_coherence.md R350). -/
def State.clearWhole (s : State) (pa n : Nat) : State :=
  let lo := ceilDiv pa 64
  let hi := (pa + n) / 64
  if lo < hi then { s with poison := Table.drop s.poison lo (hi - lo) } else s

/-- A write at memory: whole sectors lose their poison, and a part of a poisoned sector is not applied
(12_coherence.md R350: a write that meets poison is not applied). The write is cut at sector ends. -/
def State.writeMem (s : State) (pa : Nat) (bs : List Byte) : State :=
  let lo := ceilDiv pa 64 * 64
  let hi := (pa + bs.length) / 64 * 64
  if hi ≤ lo ∧ pa / 64 = (pa + bs.length - 1) / 64 then
    if s.sectorPoison (pa / 64) ∧ bs.length < 64 then s
    else (s.clearWhole pa bs.length).setBytes pa bs
  else
    let s := (s.clearWhole lo (hi - lo)).setBytes lo ((bs.drop (lo - pa)).take (hi - lo))
    let head := bs.take (lo - pa)
    let tail := bs.drop (hi - pa)
    let s := if head.isEmpty || s.sectorPoison (pa / 64) then s else s.setBytes pa head
    if tail.isEmpty || s.sectorPoison (hi / 64) then s else s.setBytes hi tail

/-! ### Free values -/

/-- n fresh free bytes, and the state that has drawn them. Log entry 2. -/
def State.drawBytes (s : State) (n : Nat) : List Byte × State :=
  ((List.range n).map (fun i => Config.freeByte (s.free + i)), { s with free := s.free + n })

/-- A fresh free number below a bound, and the state that has drawn it. Log entry 2. -/
def State.drawNat (s : State) (bound : Nat) : Nat × State :=
  (Config.freeNat s.free % bound, { s with free := s.free + 1 })

/-- A fresh free double word, and the state that has drawn it. Log entry 2. -/
def State.drawDword (s : State) : Dword × State :=
  (Config.freeDword s.free, { s with free := s.free + 1 })

/-- Makes a range of memory undefined (07_commands_and_queues.md R222): free bytes. -/
def State.scramble (s : State) (pa n : Nat) : State :=
  let (bs, s) := s.drawBytes n
  s.setBytes pa bs

/-! ### Modifiers, one for each part of the state -/

/-- The Drone value (13_axis_links_and_drone.md R374). Every die's copy is modelled equal to X0's (log
entry 13). -/
def State.drone (s : State) : Nat := s.time.drone

/-- Whether a deadline's deciding cycle, the first one at or above it, has not passed: a slewing tick may step over
the deadline's own value (08_memory_model.md R238, 12_coherence.md R348, 13 R374). -/
def State.inTime (s : State) (deadline : Nat) : Bool :=
  decide (s.drone ≤ deadline) || decide (s.time.prev < deadline)

/-- A quad. -/
def State.quad (s : State) (q : Nat) : Quad := Table.get Quad.reset s.quads q
/-- Changes a quad. -/
def State.modQuad (s : State) (q : Nat) (f : Quad → Quad) : State :=
  { s with quads := Table.put Quad.reset s.quads q (f (s.quad q)) }
/-- A queue of a quad. -/
def Quad.queue (x : Quad) (j : Nat) : Queue := Table.get Queue.reset x.queues j
/-- Changes a queue of a quad. -/
def Quad.modQueue (x : Quad) (j : Nat) (f : Queue → Queue) : Quad :=
  { x with queues := Table.put Queue.reset x.queues j (f (x.queue j)) }
/-- A queue. -/
def State.queue (s : State) (q j : Nat) : Queue := (s.quad q).queue j
/-- Changes a queue. -/
def State.modQueue (s : State) (q j : Nat) (f : Queue → Queue) : State :=
  s.modQuad q (fun x => x.modQueue j f)
/-- A window of a quad. -/
def Quad.window (x : Quad) (w : Nat) : Window := Table.get Window.reset x.windows w
/-- A window. -/
def State.window (s : State) (q w : Nat) : Window := (s.quad q).window w
/-- Changes a window. -/
def State.modWindow (s : State) (q w : Nat) (f : Window → Window) : State :=
  s.modQuad q (fun x => { x with windows := Table.put Window.reset x.windows w (f (x.window w)) })
/-- A destination entry. -/
def Quad.dest (x : Quad) (n : Nat) : DestEntry := Table.get DestEntry.reset x.dests n
/-- An array's registers. -/
def Quad.array (x : Quad) (n : Nat) : ArrayRegs := Table.get ArrayRegs.reset x.arrays n
/-- Changes an array's registers. -/
def Quad.modArray (x : Quad) (n : Nat) (f : ArrayRegs → ArrayRegs) : Quad :=
  { x with arrays := Table.put ArrayRegs.reset x.arrays n (f (x.array n)) }
/-- A translation unit. -/
def State.stu (s : State) (u : Nat) : Stu := Table.get Stu.reset s.stus u
/-- Changes a translation unit. -/
def State.modStu (s : State) (u : Nat) (f : Stu → Stu) : State :=
  { s with stus := Table.put Stu.reset s.stus u (f (s.stu u)) }
/-- A segment slot: contexts 2,048n to 2,048n + 2,047 stand in STUn (10_segments.md R289). -/
def Stu.seg (t : Stu) (ctx slot : Nat) : Seg := Table.get Seg.reset t.segs (ctx * 16 + slot)
/-- Writes a segment slot. -/
def Stu.setSeg (t : Stu) (ctx slot : Nat) (g : Seg) : Stu :=
  { t with segs := Table.put Seg.reset t.segs (ctx * 16 + slot) g }
/-- A fault record. -/
def Stu.fault (t : Stu) (r : Nat) : FaultRec := Table.get FaultRec.reset t.faults r
/-- Writes a fault record. -/
def Stu.setFault (t : Stu) (r : Nat) (x : FaultRec) : Stu :=
  { t with faults := Table.put FaultRec.reset t.faults r x }
/-- A host core. -/
def State.core (s : State) (c : Nat) : Core := Table.get Core.reset s.cores c
/-- Changes a host core. -/
def State.modCore (s : State) (c : Nat) (f : Core → Core) : State :=
  { s with cores := Table.put Core.reset s.cores c (f (s.core c)) }
/-- A link. -/
def State.link (s : State) (n : Nat) : Link := Table.get Link.reset s.links n
/-- Changes a link. -/
def State.modLink (s : State) (n : Nat) (f : Link → Link) : State :=
  { s with links := Table.put Link.reset s.links n (f (s.link n)) }
/-- The power state of a die. -/
def State.diePower (s : State) (d : Nat) : DiePower := Table.get DiePower.reset s.power.dies d
/-- Changes the package's power state. -/
def State.modPower (s : State) (f : Power → Power) : State := { s with power := f s.power }
/-- Changes the power state of a die. -/
def State.modDiePower (s : State) (d : Nat) (f : DiePower → DiePower) : State :=
  s.modPower (fun p => { p with dies := Table.put DiePower.reset p.dies d (f (Table.get DiePower.reset p.dies d)) })
/-- Changes the configuration unit. -/
def State.modCfg (s : State) (f : Cfg → Cfg) : State := { s with cfg := f s.cfg }
/-- Changes the boot unit. -/
def State.modBoot (s : State) (f : Boot → Boot) : State := { s with boot := f s.boot }
/-- Changes the error log. -/
def State.modLog (s : State) (f : ErrLog → ErrLog) : State := { s with log := f s.log }
/-- Changes the tier. -/
def State.modTier (s : State) (f : Tier → Tier) : State := { s with tier := f s.tier }
/-- Changes the time. -/
def State.modTime (s : State) (f : Time → Time) : State := { s with time := f s.time }
/-- Changes coherence. -/
def State.modCoh (s : State) (f : Coh → Coh) : State := { s with coh := f s.coh }
/-- Changes the fabric. -/
def State.modFabric (s : State) (f : Fabric → Fabric) : State := { s with fabric := f s.fabric }
/-- A host die's cache registers. -/
def State.hostDie (s : State) (h : Nat) : HostDie := Table.get HostDie.reset s.hostDies h
/-- Changes a host die's cache registers. -/
def State.modHostDie (s : State) (h : Nat) (f : HostDie → HostDie) : State :=
  { s with hostDies := Table.put HostDie.reset s.hostDies h (f (s.hostDie h)) }
/-- An Ethernet port. -/
def State.eth (s : State) (n : Nat) : Eth := Table.get Eth.reset s.eths n
/-- Changes an Ethernet port. -/
def State.modEth (s : State) (n : Nat) (f : Eth → Eth) : State :=
  { s with eths := Table.put Eth.reset s.eths n (f (s.eth n)) }
/-- A PCIe root port. -/
def State.pciePort (s : State) (n : Nat) : Pcie := Table.get Pcie.reset s.pcie n
/-- Changes a PCIe root port. -/
def State.modPcie (s : State) (n : Nat) (f : Pcie → Pcie) : State :=
  { s with pcie := Table.put Pcie.reset s.pcie n (f (s.pciePort n)) }
/-- Changes a queue pair: X0's are 0 to 8,191, X1's 8,192 to 16,383 (14_network_and_pcie.md R383). -/
def State.qp (s : State) (x qpn : Nat) : Qp := Table.get Qp.reset s.qps (x * 8192 + qpn)
/-- Changes a queue pair. -/
def State.modQp (s : State) (x qpn : Nat) (f : Qp → Qp) : State :=
  { s with qps := Table.put Qp.reset s.qps (x * 8192 + qpn) (f (s.qp x qpn)) }
/-- The queue-pair registers of an I/O die. -/
def State.qpReg (s : State) (x : Nat) : QpRegs := Table.get QpRegs.reset s.qpRegs x
/-- Changes the queue-pair registers of an I/O die. -/
def State.modQpReg (s : State) (x : Nat) (f : QpRegs → QpRegs) : State :=
  { s with qpRegs := Table.put QpRegs.reset s.qpRegs x (f (s.qpReg x)) }
/-- A home agent: 4 × die + agent, dies C0 to C3, H0, H1 (12_coherence.md R331). -/
def Coh.home (x : Coh) (h : Nat) : Home := Table.get Home.reset x.homes h
/-- Changes a home agent. -/
def State.modHome (s : State) (h : Nat) (f : Home → Home) : State :=
  s.modCoh (fun x => { x with homes := Table.put Home.reset x.homes h (f (x.home h)) })
/-- A die's tier counters. -/
def Tier.die (x : Tier) (d : Nat) : TierDie := Table.get TierDie.reset x.dies d
/-- Changes a die's tier counters. -/
def State.modTierDie (s : State) (d : Nat) (f : TierDie → TierDie) : State :=
  s.modTier (fun x => { x with dies := Table.put TierDie.reset x.dies d (f (x.die d)) })
/-- An I/O die's flash counters. -/
def Tier.flashDie (x : Tier) (d : Nat) : FlashDie := Table.get FlashDie.reset x.flash d
/-- Changes an I/O die's flash counters. -/
def State.modFlashDie (s : State) (d : Nat) (f : FlashDie → FlashDie) : State :=
  s.modTier (fun x => { x with flash := Table.put FlashDie.reset x.flash d (f (x.flashDie d)) })
/-- A flash channel. -/
def Tier.channel (x : Tier) (c : Nat) : Channel := Table.get Channel.reset x.channels c
/-- Changes a flash channel. -/
def State.modChannel (s : State) (c : Nat) (f : Channel → Channel) : State :=
  s.modTier (fun x => { x with channels := Table.put Channel.reset x.channels c (f (x.channel c)) })
/-- Sends something out of the package. -/
def State.emit (s : State) (o : Out) : State := { s with out := s.out ++ [o] }

/-! ### Configuration items in force -/

/-- The default of an item (17_configuration_and_security.md Table CFG-4). For spare_map, which has
none, log entry 3 chooses physical quad p active as local index p for p below n, spare above. -/
def itemDefault (ordering sect code index : Nat) : Nat :=
  match sect, code with
  | 2, 1 => let n := if ordering = 0 then 16 else 14
            if index % 32 < n then index % 32 else 16
  | 2, 4 => 1
  | 3, 1 => 16
  | 3, 2 => 16
  | 3, 3 => 16
  | 3, 7 => 1
  | 4, 2 => 0x80000000
  | 4, 3 => 0x3F
  | 5, 1 => index + 4
  | 6, 2 => if ordering = 0 then (if index = 0 then 3800 else if index = 1 then 3300 else 2500)
            else (if index = 0 then 3400 else if index = 1 then 3000 else 2300)
  | 6, 3 => 0xFF
  | 7, 2 => 4
  | 8, 1 => 2
  | 8, 2 => 6
  | _, _ => 0

/-- The key of an item in the table of items. -/
def itemKey (sect code index : Nat) : Nat := (sect * 256 + code) * 65536 + index

/-- An item in force (17_configuration_and_security.md R444). -/
def State.item (s : State) (sect code index : Nat) : Nat :=
  match Table.get none s.cfg.items (itemKey sect code index) with
  | some v => v.toNat
  | none => itemDefault s.cfg.orderingCode sect code index

/-- Puts an item in force. -/
def State.setItem (s : State) (i : CfgItem) : State :=
  s.modCfg (fun c => { c with items := Table.put none c.items (itemKey i.sect i.code i.index) (some i.value) })

/-! ### Dies, quads and the address map -/

/-- The enabled quads of each compute die (00_scope.md Table SCP-2). -/
def State.perDie (s : State) : Nat := if s.cfg.orderingCode = 0 then 16 else 14

/-- The state of a physical quad (15_resilience.md Table RES-6): 0 active, 1 spare, 2 retired, 3 failed
self-test. Key: die × 18 + physical quad. States other than the spare map's stand in `physState`. -/
def State.physState (s : State) (d p : Nat) : Nat :=
  match Table.get 0 s.boot.physState (d * 18 + p) with
  | 0 => if s.item 2 1 (d * 32 + p) < 16 then 0 else 1
  | v => v

/-- The local index of a physical quad that the spare map marks active. -/
def State.physLocal (s : State) (d p : Nat) : Nat := s.item 2 1 (d * 32 + p) % 16

/-- The physical quad behind a logical quad, if any (00_scope.md R5, R10). -/
def State.physOf (s : State) (q : Nat) : Option Nat :=
  (List.range 18).find? (fun p => s.physState (q / 16) p = 0 && s.physLocal (q / 16) p = q % 16)

/-- Whether a logical quad exists (00_scope.md R6, R9; 15_resilience.md R410). -/
def State.present (s : State) (q : Nat) : Bool := decide (q < 64) && (s.physOf q).isSome

/-- PKG_QUAD_MAP0 and PKG_QUAD_MAP1 as one number (00_scope.md Table SCP-4). -/
def State.quadMap (s : State) : Nat :=
  ((List.range 64).map (fun q => flag (s.present q) q)).foldl (· + ·) 0

/-- The regions of the address map (01_package.md Table PKG-9). -/
inductive Region where
  | ddr
  | hbm (d : Nat)
  | tiered
  | scratch (q : Nat)
  | pool (d : Nat)
  | config
deriving DecidableEq, Repr

/-- Bytes of DDR5 the board populates. The spec leaves the size to the board (R30, R31); the model
takes the 4 TiB of R482's largest build (log entry 14). -/
def ddrSize : Nat := 2 ^ 42

/-- The populated part of a region: base and size (01_package.md Table PKG-9, R32; 09 R256, Table
TIR-1). -/
def State.populated (s : State) : Region → Nat × Nat
  | .ddr => (0, ddrSize)
  | .hbm d => (0x080000000000 + d * 0x4000000000, 9 * (16 - s.item 7 2 0) * 2 ^ 30)
  | .tiered => (0x100000000000, if s.item 7 1 0 = 0 then 13 * 2 ^ 39 else 31 * 2 ^ 38)
  | .scratch q => (0x180000000000 + q * 0x2000000, if s.present q then 24 * 2 ^ 20 else 0)
  | .pool d => (0x180080000000 + d * 0x8000000, s.item 3 1 d * 2 ^ 23)
  | .config => (0x190000000000, 2 ^ 24 * 9)

/-- The region whose window holds an address (01_package.md Table PKG-9). -/
def regionOf (pa : Nat) : Option Region :=
  if pa < 0x040000000000 then some .ddr
  else if 0x080000000000 ≤ pa ∧ pa < 0x090000000000 then some (.hbm ((pa - 0x080000000000) / 0x4000000000))
  else if 0x100000000000 ≤ pa ∧ pa < 0x180000000000 then some .tiered
  else if 0x180000000000 ≤ pa ∧ pa < 0x180080000000 then some (.scratch ((pa - 0x180000000000) / 0x2000000))
  else if 0x180080000000 ≤ pa ∧ pa < 0x1800A0000000 then some (.pool ((pa - 0x180080000000) / 0x8000000))
  else if 0x190000000000 ≤ pa ∧ pa < 0x190100000000 then some .config
  else none

/-- Whether a range lies wholly inside the populated part of one region, and which (R33, R286). -/
def State.backed (s : State) (pa n : Nat) : Option Region :=
  match regionOf pa with
  | none => none
  | some r =>
    let (b, z) := s.populated r
    if b ≤ pa ∧ pa + n ≤ b + z then some r else none

/-- The compute die, host die (4, 5) or I/O die (6, 7) that owns an address (01_package.md R19, R31;
09 R261). DDR5 by channel interleave; the tiered range by its group's channel. -/
def State.ddrDie (s : State) (pa : Nat) : Nat :=
  if s.item 3 8 0 = 0 then (if pa / 4096 % 16 < 8 then 4 else 5)
  else (if pa < ddrSize / 2 then 4 else 5)

/-! ### Boot and stops -/

/-- Whether the package runs: boot done, not held in reset, no FATAL (15_resilience.md R417,
18_boot_and_reset.md R468). -/
def State.running (s : State) : Bool := s.boot.done && !s.boot.held && !s.log.fatal

/-- Whether a quad runs: the package runs, the quad exists and its die is not in reset (18 R465). -/
def State.quadRuns (s : State) (q : Nat) : Bool :=
  s.running && s.present q && !(s.boot.diesInReset.contains (q / 16))

/-- Whether the host cores run (18_boot_and_reset.md R467, R468). -/
def State.hostRuns (s : State) : Bool := s.boot.done && !s.boot.held && !s.boot.hostHeld

/-! ### Stretched clocks -/

/-- Whether a die runs at FLOOR (16_power_clocks_thermal.md R421, R429, R434, R435). -/
def State.dieFloor (s : State) (d : Nat) : Bool :=
  s.power.floorAlert || s.power.trip || (s.diePower d).floorTherm

/-- Whether any die runs at FLOOR (16 Table PWR-8). -/
def State.anyFloor (s : State) : Bool := (List.range 8).any s.dieFloor

/-- Whether a droop or FLOOR stretch is active on a die. -/
def State.stretched (s : State) (d : Nat) : Bool := (s.diePower d).droop || s.dieFloor d

/-- The level applied on a die: on a compute die the greater of the cap's and its thermal level
(16 Tables PWR-6, PWR-10). -/
def State.level (s : State) (d : Nat) : Nat :=
  if d < 4 then max s.power.capL (s.diePower d).thermL else (s.diePower d).thermL

/-- Root periods of 16 cycles of a die's ÷4 domain: in each cycle the longest length that a source asks for (16 R424,
Table PWR-3). -/
def State.groupRoots (s : State) (d : Nat) : Nat :=
  let n := (s.diePower d).divider
  if s.dieFloor d then 256 else if (s.diePower d).droop then 32 * n else 16 * n + s.level d

end Sys2Proof.Machine
end

