-- ==== Sys2Proof/Machine/Num.lean ====
section
/-! DEFINITION. Numbers of the element formats (03_formats.md R71 to R89): exact dyadic values, decoding,
the two roundings, conversions with their counts, and FP32 arithmetic in which every operation rounds
once (06_reed_chanter_gather.md R162, 05_backward_pass.md R152). -/

namespace Sys2Proof.Machine

/-- A value: NaN, an infinity, or (−1)^neg × m × 2^e. A zero has m = 0 and keeps its sign (R73). -/
inductive Fp where
  | nan
  | inf (neg : Bool)
  | fin (neg : Bool) (m : Nat) (e : Int)
deriving DecidableEq, Repr

/-- +0. -/
def Fp.zero : Fp := .fin false 0 0
/-- 1.0. -/
def Fp.one : Fp := .fin false 1 0
/-- A natural number. -/
def Fp.ofNat (n : Nat) : Fp := .fin false n 0
/-- Whether a value is ±0. -/
def Fp.isZero : Fp → Bool
  | .fin _ m _ => decide (m = 0)
  | _ => false
/-- Whether a value is NaN. -/
def Fp.isNan : Fp → Bool
  | .nan => true
  | _ => false
/-- Whether a value is an infinity. -/
def Fp.isInf : Fp → Bool
  | .inf _ => true
  | _ => false
/-- Whether a value is infinite or NaN: a marked element (04_matrix_array.md R125). -/
def Fp.marked : Fp → Bool
  | .fin _ _ _ => false
  | _ => true
/-- −x. NaN has no sign (R72). -/
def Fp.neg : Fp → Fp
  | .nan => .nan
  | .inf s => .inf (!s)
  | .fin s m e => .fin (!s) m e
/-- |x|. -/
def Fp.abs : Fp → Fp
  | .nan => .nan
  | .inf _ => .inf false
  | .fin _ m e => .fin false m e

/-! ### Formats (Table FMT-2, Table FMT-3) -/

/-- A floating-point format: fraction bits, exponent bits, bias, whether it has infinities, and its
largest finite value as a significand and exponent. -/
structure Fmt where
  fb : Nat
  eb : Nat
  bias : Nat
  ieee : Bool
  maxM : Nat
  maxE : Int
deriving DecidableEq, Repr

/-- A format with the IEEE 754 pattern of specials. -/
def ieeeFmt (fb eb bias : Nat) : Fmt := ⟨fb, eb, bias, true, 2 ^ (fb + 1) - 1, (bias : Int) - fb⟩
/-- E4M3: largest finite 448 = 14 × 2^5 (R74). -/
def e4m3 : Fmt := ⟨3, 4, 7, false, 14, 5⟩
/-- E5M2. -/
def e5m2 : Fmt := ieeeFmt 2 5 15
/-- BF16. -/
def bf16 : Fmt := ieeeFmt 7 8 127
/-- G16 (R81). -/
def g16 : Fmt := ieeeFmt 6 9 255
/-- FP32. -/
def fp32 : Fmt := ieeeFmt 23 8 127
/-- E2M1, the MXFP4 element: largest 6 = 3 × 2 (R75, R84). -/
def e2m1 : Fmt := ⟨1, 2, 1, false, 3, 1⟩

/-- The exponent of the smallest normal value. -/
def Fmt.emin (f : Fmt) : Int := 1 - (f.bias : Int)

/-- Reads an encoding (R71, R74, Table FMT-2). -/
def Fmt.decode (f : Fmt) (v : Nat) : Fp :=
  let s := bit v (f.fb + f.eb)
  let e := bits v f.fb f.eb
  let m := v % 2 ^ f.fb
  if e = 0 then .fin s m (f.emin - f.fb)
  else if f.ieee ∧ e = 2 ^ f.eb - 1 then (if m = 0 then .inf s else .nan)
  else if ¬ f.ieee ∧ f.eb = 4 ∧ e = 15 ∧ m = 7 then .nan
  else .fin s (2 ^ f.fb + m) ((e : Int) - f.bias - f.fb)

/-- floor(log2) of a significand times a power of two. -/
def floorLog (m : Nat) (e : Int) : Int := (Nat.log2 m : Int) + e

/-- m × 2^e divided by 2^q: the quotient's floor, the remainder, and the bits dropped. -/
def scaleFloor (m : Nat) (e q : Int) : Nat × Nat × Nat :=
  if q ≤ e then (m * 2 ^ (e - q).toNat, 0, 0)
  else (m / 2 ^ (q - e).toNat, m % 2 ^ (q - e).toNat, (q - e).toNat)

/-- Whether k × 2^q lies beyond a format's largest finite value. -/
def Fmt.over (f : Fmt) (k : Nat) (q : Int) : Bool :=
  if f.maxE ≤ q then decide (f.maxM < k * 2 ^ (q - f.maxE).toNat)
  else decide (f.maxM * 2 ^ (f.maxE - q).toNat < k)

/-- Rounds a non-zero magnitude to a format (R84): to nearest even, or stochastically with a 16-bit draw.
Answers the significand and its unit, or none for a finite overflow. -/
def Fmt.round (f : Fmt) (draw : Option Nat) (m : Nat) (e : Int) : Option (Nat × Int) :=
  let q := max (floorLog m e) f.emin - f.fb
  let (k, rem, sh) := scaleFloor m e q
  let up := match draw with
    | none => decide (2 ^ sh < 2 * rem) || (decide (2 * rem = 2 ^ sh) && decide (k % 2 = 1))
    | some r => decide (65536 ≤ rem * 65536 / 2 ^ sh + r)
  let k := if up then k + 1 else k
  if f.over k q then none else some (k, q)

/-- The encoding of a representable magnitude with a sign. -/
def Fmt.encode (f : Fmt) (neg : Bool) (k : Nat) (q : Int) : Nat :=
  let s := flag neg (f.fb + f.eb)
  if k = 0 then s
  else
    let le := floorLog k q
    if le < f.emin then s + (scaleFloor k q (f.emin - f.fb)).1
    else s + (le + f.bias).toNat * 2 ^ f.fb + ((scaleFloor k q (le - f.fb)).1 - 2 ^ f.fb)

/-- The encoding of infinity's magnitude. -/
def Fmt.infBits (f : Fmt) (neg : Bool) : Nat := flag neg (f.fb + f.eb) + (2 ^ f.eb - 1) * 2 ^ f.fb
/-- The canonical NaN (Table FMT-2). -/
def Fmt.nanBits (f : Fmt) : Nat :=
  if f.ieee then (2 ^ f.eb - 1) * 2 ^ f.fb + 2 ^ (f.fb - 1) else 0x7F

/-- Whether a finite overflow gives the largest finite value: E4M3, E5M2 and E2M1; BF16, G16 and FP32 give an
infinity (Table FMT-6). -/
def Fmt.saturates (f : Fmt) : Bool := !f.ieee || decide (f = e5m2)
/-- What a conversion writes: the encoding, and whether the element counts in sat_count and in nan_count
(R89). -/
structure Conv where
  code : Nat
  sat : Bool
  nan : Bool
deriving DecidableEq, Repr

/-- A conversion into a floating-point format (R84, Table FMT-6). -/
def Fmt.conv (f : Fmt) (draw : Option Nat) : Fp → Conv
  | .nan => ⟨f.nanBits, false, true⟩
  | .inf s => if f.ieee then ⟨f.infBits s, false, false⟩ else ⟨f.nanBits, false, true⟩
  | .fin s m e =>
    if m = 0 then ⟨f.encode s 0 0, false, false⟩
    else match f.round draw m e with
      | some (k, q) => ⟨f.encode s k q, false, false⟩
      | none => ⟨if f.saturates then f.encode s f.maxM f.maxE else f.infBits s, true, false⟩

/-- A conversion into a two's-complement integer of a width (R79, R89). -/
def intConv (width : Nat) : Fp → Conv
  | .nan => ⟨0, false, true⟩
  | .inf s => ⟨if s then 2 ^ (width - 1) else 2 ^ (width - 1) - 1, true, false⟩
  | .fin s m e =>
    let (k, rem, sh) := scaleFloor m e 0
    let k := if 2 ^ sh < 2 * rem ∨ (2 * rem = 2 ^ sh ∧ k % 2 = 1) then k + 1 else k
    if s then (if 2 ^ (width - 1) < k then ⟨2 ^ (width - 1), true, false⟩ else ⟨(2 ^ width - k) % 2 ^ width, false, false⟩)
    else if 2 ^ (width - 1) - 1 < k then ⟨2 ^ (width - 1) - 1, true, false⟩ else ⟨k, false, false⟩

/-- An integer encoding's value. -/
def intValue (width v : Nat) : Fp :=
  if v % 2 ^ width < 2 ^ (width - 1) then .fin false (v % 2 ^ width) 0
  else .fin true (2 ^ width - v % 2 ^ width) 0

/-- An E2M1 element under a block scale (R76). -/
def mxValue (scale code : Nat) : Fp :=
  if scale = 255 then .nan
  else match e2m1.decode code with
    | .fin s m e => .fin s m (e + scale - 127)
    | x => x

/-- The largest magnitude's floor(log2) of a list of values, if any is non-zero. -/
def maxLog : List Fp → Option Int
  | [] => none
  | .fin _ m e :: t =>
    if m = 0 then maxLog t
    else match maxLog t with
      | some x => some (max x (floorLog m e))
      | none => some (floorLog m e)
  | _ :: t => maxLog t

/-- Whether a value lies beyond 6 × 2^e: R78 counts such an element as saturated, and the example after R89 counts
6.283, which rounds to 6. DEDUCED, log entry 164. -/
def beyondSix (e : Int) : Fp → Bool
  | .fin _ m ex => e2m1.over m (ex - e)
  | _ => false
/-- Quantises a block of 32 values into MXFP4 (R78): the scale byte, the codes, and how many elements
count as saturated and as NaN. -/
def quantise (xs : List Fp) : Nat × List Nat × Nat × Nat :=
  if xs.any Fp.marked then (255, xs.map (fun _ => 0), 0, xs.length)
  else match maxLog xs with
    | none => (0, xs.map (fun x => (e2m1.conv none x).code), 0, 0)
    | some l =>
      let e := min (max (l - 2) (-127)) 127
      let cs := xs.map (fun x => match x with
        | .fin s m ex => e2m1.conv none (.fin s m (ex - e))
        | x => e2m1.conv none x)
      ((e + 127).toNat, cs.map Conv.code, xs.countP (beyondSix e), 0)

/-! ### FP32 arithmetic (06 R162) -/

/-- Rounds an exact value to FP32, to nearest even. -/
def Fp.r32 : Fp → Fp
  | .fin s m e =>
    if m = 0 then .fin s 0 0
    else match fp32.round none m e with
      | some (k, q) => .fin s k q
      | none => .inf s
  | x => x

/-- The exact sum, with the special values of IEEE 754. -/
def Fp.addX : Fp → Fp → Fp
  | .nan, _ => .nan
  | _, .nan => .nan
  | .inf s, .inf t => if s = t then .inf s else .nan
  | .inf s, _ => .inf s
  | _, .inf t => .inf t
  | .fin s m e, .fin t n f =>
    let g := min e f
    let a : Int := (m * 2 ^ (e - g).toNat : Nat)
    let b : Int := (n * 2 ^ (f - g).toNat : Nat)
    let v := (if s then -a else a) + (if t then -b else b)
    if v = 0 then .fin (s && t && decide (m = 0) && decide (n = 0)) 0 0 else .fin (decide (v < 0)) v.natAbs g

/-- The exact product, with the special values of IEEE 754. -/
def Fp.mulX : Fp → Fp → Fp
  | .nan, _ => .nan
  | _, .nan => .nan
  | .inf s, .inf t => .inf (s != t)
  | .inf s, .fin t n _ => if n = 0 then .nan else .inf (s != t)
  | .fin s m _, .inf t => if m = 0 then .nan else .inf (s != t)
  | .fin s m e, .fin t n f => .fin (s != t) (m * n) (e + f)

/-- a + b, rounded once. -/
def Fp.add (a b : Fp) : Fp := (a.addX b).r32
/-- a − b, rounded once. -/
def Fp.sub (a b : Fp) : Fp := (a.addX b.neg).r32
/-- a × b, rounded once. -/
def Fp.mul (a b : Fp) : Fp := (a.mulX b).r32
/-- a × b + c, rounded once. -/
def Fp.fma (a b c : Fp) : Fp := ((a.mulX b).addX c).r32
/-- x × 2^e, exact (05_backward_pass.md R144). -/
def Fp.scale (x : Fp) (k : Int) : Fp :=
  match x with
  | .fin s m e => .fin s m (e + k)
  | x => x

/-- a > b; false when either is NaN. -/
def Fp.gt (a b : Fp) : Bool :=
  match a, b with
  | .nan, _ => false
  | _, .nan => false
  | .inf s, .inf t => !s && t
  | .inf s, _ => !s
  | _, .inf t => t
  | a, b => match a.addX b.neg with
    | .fin s m _ => !s && decide (m ≠ 0)
    | _ => false

/-- Whether a value has a set sign. -/
def Fp.isNeg : Fp → Bool
  | .nan => false
  | .inf s => s
  | .fin s _ _ => s

/-- max (R162): NaN if either is, and max(−0, +0) is +0. -/
def Fp.max (a b : Fp) : Fp :=
  if a.isNan || b.isNan then .nan
  else if a.gt b then a
  else if b.gt a then b
  else if a.isNeg then b else a

/-- min (R162): NaN if either is, and min(−0, +0) is −0. -/
def Fp.min (a b : Fp) : Fp :=
  if a.isNan || b.isNan then .nan
  else if a.gt b then b
  else if b.gt a then a
  else if a.isNeg then a else b

/-- ReLU (04_matrix_array.md R123, 06 Table VEC-2): negative values and −0 become +0. -/
def Fp.relu (x : Fp) : Fp :=
  match x with
  | .nan => .nan
  | .inf s => if s then Fp.zero else .inf false
  | .fin s m e => if s || decide (m = 0) then Fp.zero else .fin s m e

/-- A quotient of magnitudes with enough bits to round once: the significand carries a sticky bit. -/
def divMag (m : Nat) (e : Int) (n : Nat) (f : Int) : Nat × Int :=
  let sh := 64 + Nat.log2 n - Nat.log2 m
  let q := m * 2 ^ sh / n
  (2 * q + (if m * 2 ^ sh % n = 0 then 0 else 1), e - f - sh - 1)

/-- a / b, correctly rounded. -/
def Fp.div (a b : Fp) : Fp :=
  match a, b with
  | .nan, _ => .nan
  | _, .nan => .nan
  | .inf _, .inf _ => .nan
  | .inf s, .fin t _ _ => .inf (s != t)
  | .fin s _ _, .inf t => .fin (s != t) 0 0
  | .fin s m e, .fin t n f =>
    if n = 0 then (if m = 0 then .nan else .inf (s != t))
    else if m = 0 then .fin (s != t) 0 0
    else let (k, q) := divMag m e n f
         (Fp.fin (s != t) k q).r32

/-- A significand with an even exponent. -/
def evenExp (m : Nat) (e : Int) : Nat × Int := if e % 2 = 0 then (m, e) else (2 * m, e - 1)

/-- sqrt, correctly rounded (06 R165). -/
def Fp.sqrt (x : Fp) : Fp :=
  match x with
  | .nan => .nan
  | .inf s => if s then .nan else .inf false
  | .fin s m e =>
    if m = 0 then .fin s 0 0
    else if s then .nan
    else
      let (m, e) := evenExp m e
      let r := Nat.sqrt (m * 2 ^ 128)
      (Fp.fin false (2 * r + (if r * r = m * 2 ^ 128 then 0 else 1)) (e / 2 - 65)).r32

/-- 1 / sqrt, correctly rounded (06 R165). -/
def Fp.rsqrt (x : Fp) : Fp :=
  match x with
  | .nan => .nan
  | .inf s => if s then .nan else Fp.zero
  | .fin s m e =>
    if m = 0 then .inf s
    else if s then .nan
    else
      let (m, e) := evenExp m e
      let sh := 64 + Nat.log2 m
      let r := Nat.sqrt (2 ^ (2 * sh) / m)
      (Fp.fin false (2 * r + (if r * r * m = 2 ^ (2 * sh) then 0 else 1)) (-(e / 2) - sh - 1)).r32

/-! ### EXP, EXP2, LOG, SIGMOID and TANH (06 R165)

Each is computed far beyond FP32 in fixed point with 192 fraction bits. The device answers one of the
FP32 values within one unit of the exact result, as a function that never falls; where it rises, `Config.ulpStep`
says (log entry 8). -/

/-- One in fixed point. -/
def fxOne : Nat := 2 ^ 192
/-- ln 2 in fixed point. -/
def fxLn2 : Nat := 4350955369971217654477563090224794165364344896676135745069

/-- The terms of the exponential series from term n on. -/
def expTerms (r : Nat) : Nat → Nat → Nat → Nat
  | 0, _, _ => 0
  | k + 1, n, t => t + expTerms r k (n + 1) (t * r / fxOne / (n + 1))

/-- e^r in fixed point for r below ln 2. -/
def fxExp (r : Nat) : Nat := expTerms r 64 0 fxOne

/-- A magnitude m × 2^e in fixed point. -/
def toFx (m : Nat) (e : Int) : Nat := (scaleFloor m e (-192)).1

/-- e^x for a signed fixed-point x: a significand and exponent. -/
def expOf (neg : Bool) (x : Nat) : Nat × Int :=
  if neg then
    let k := (x + fxLn2 - 1) / fxLn2
    (fxExp (k * fxLn2 - x), -(k : Int) - 192)
  else
    (fxExp (x % fxLn2), (x / fxLn2 : Nat) - 192)

/-- The terms of artanh's series. -/
def artanhTerms (z2 : Nat) : Nat → Nat → Nat → Nat
  | 0, _, _ => 0
  | k + 1, n, t => t / n + artanhTerms z2 k (n + 2) (t * z2 / fxOne)

/-- ln of m × 2^e as a sign and a fixed-point magnitude. -/
def lnOf (m : Nat) (e : Int) : Bool × Nat :=
  let l := floorLog m e
  let y := (scaleFloor m (e - l) (-192)).1
  let z := (y - fxOne) * fxOne / (y + fxOne)
  let part := 2 * artanhTerms (z * z / fxOne) 64 1 z
  let v : Int := l * (fxLn2 : Int) + part
  (decide (v < 0), v.natAbs)

/-- The FP32 value at or below a magnitude: significand and unit. -/
def floor32 (m : Nat) (e : Int) : Nat × Int :=
  let q := max (floorLog m e) fp32.emin - 23
  ((scaleFloor m e q).1, q)

/-- A magnitude as an FP32 value, infinity beyond the largest. -/
def mag32 (neg : Bool) (k : Nat) (q : Int) : Fp := if fp32.over k q then .inf neg else .fin neg k q

/-- The value below a representable magnitude. -/
def pred32 (k : Nat) (q : Int) : Nat × Int :=
  if k = 2 ^ 23 ∧ fp32.emin - 23 < q then (2 ^ 24 - 1, q - 1) else (k - 1, q)

/-- A value's place in the order of FP32 values, the zeros in one place. -/
def orderKey (x : Fp) : Nat :=
  let c := (fp32.conv none x).code
  if c < 2 ^ 31 then 2 ^ 31 + c else 2 ^ 32 - c

/-- Whether an operand lies at or past the step from a lower answer to the next. -/
def pastStep (op : Nat) (x lo : Fp) : Bool := decide (Config.ulpStep op (orderKey lo) ≤ orderKey x)

/-- The device's answer where the exact result lies between two neighbours. -/
def between (op : Nat) (x lo hi : Fp) : Fp := if pastStep op x lo then hi else lo

/-- The device's answer where the exact result is an FP32 value: itself or a neighbour. -/
def around (op : Nat) (x below here above : Fp) : Fp :=
  if pastStep op x here then above else if pastStep op x below then here else below

/-- The device's answer for an exact result of a sign and magnitude: an FP32 value within one unit of it, and never
below the answer of a smaller operand (R165; log entry 8). `exact` says that the magnitude is an FP32 value. -/
def within1 (op : Nat) (x : Fp) (exact neg : Bool) (m : Nat) (e : Int) : Fp :=
  let (k, q) := if m = 0 then (0, -149) else floor32 m e
  let up := mag32 neg (k + 1) q
  let here := mag32 neg k q
  let (k', q') := pred32 k q
  let down := if k = 0 then .fin (!neg) 1 (-149) else .fin neg k' q'
  if exact then (if neg then around op x up here down else around op x down here up)
  else if neg then between op x up here else between op x here up

/-- The operand of 2^x in fixed point of the base-2 exponent: integer part and fraction. -/
def expArg (neg : Bool) (m : Nat) (e : Int) : Int × Nat :=
  let fx := toFx m e
  if neg then
    let k := (fx + fxOne - 1) / fxOne
    (-(k : Int), k * fxOne - fx)
  else ((fx / fxOne : Nat), fx % fxOne)

/-- e^x (R165). -/
def Fp.exp (x : Fp) : Fp :=
  match x with
  | .nan => .nan
  | .inf s => if s then Fp.zero else .inf false
  | .fin s m e =>
    if m = 0 then within1 15 x true false 1 0
    else if 8 ≤ floorLog m e then (if s then within1 15 x false false 0 0 else .inf false)
    else let (k, q) := expOf s (toFx m e)
         within1 15 x false false k q

/-- 2^x (R165). -/
def Fp.exp2 (x : Fp) : Fp :=
  match x with
  | .nan => .nan
  | .inf s => if s then Fp.zero else .inf false
  | .fin s m e =>
    if m = 0 then within1 16 x true false 1 0
    else if 9 ≤ floorLog m e then (if s then within1 16 x false false 0 0 else .inf false)
    else let (k, f) := expArg s m e
         if f = 0 then within1 16 x (decide (-149 ≤ k) && decide (k ≤ 127)) false 1 k
         else within1 16 x false false (fxExp (f * fxLn2 / fxOne)) (k - 192)

/-- ln x (R165). -/
def Fp.log (x : Fp) : Fp :=
  match x with
  | .nan => .nan
  | .inf s => if s then .nan else .inf false
  | .fin s m e =>
    if m = 0 then .inf true
    else if s then .nan
    else let (neg, v) := lnOf m e
         if m * 2 ^ e.toNat = 2 ^ (-e).toNat then within1 17 x true false 0 0
         else within1 17 x false neg v (-192)

/-- 1 / (1 + e^−x) (R165). -/
def Fp.sigmoid (x : Fp) : Fp :=
  match x with
  | .nan => .nan
  | .inf s => if s then Fp.zero else Fp.one
  | .fin s m e =>
    if m = 0 then within1 18 x true false 1 (-1)
    else if 8 ≤ floorLog m e then
      (if s then within1 18 x false false 0 0 else between 18 x (.fin false (2 ^ 24 - 1) (-24)) Fp.one)
    else
      -- E = e^−|x| = y × 2^k
      let (y, k) := expOf true (toFx m e)
      let den := 2 ^ (-k).toNat + y
      let num := if s then y else 2 ^ (-k).toNat
      within1 18 x false false (num * 2 ^ 600 / den) (-600)

/-- tanh x (R165). -/
def Fp.tanh (x : Fp) : Fp :=
  match x with
  | .nan => .nan
  | .inf s => within1 19 x true s 1 0
  | .fin s m e =>
    if m = 0 then within1 19 x true s 0 0
    else if floorLog m e < -12 then
      let (k, q) := floor32 m e
      let (k', q') := pred32 k q
      if s then between 19 x (.fin s k q) (.fin s k' q') else between 19 x (.fin s k' q') (.fin s k q)
    else if 7 ≤ floorLog m e then
      (if s then between 19 x (.fin s 1 0) (.fin s (2 ^ 24 - 1) (-24)) else between 19 x (.fin s (2 ^ 24 - 1) (-24)) (.fin s 1 0))
    else
      let (y, k) := expOf true (2 * toFx m e)
      let one := 2 ^ (-k).toNat
      within1 19 x false s ((one - y) * 2 ^ 600 / (one + y)) (-600)

end Sys2Proof.Machine
end

