-- ==== Sys2Proof/Machine/Tiles.lean ====
section
/-! DEFINITION. Tile formats and layouts, metadata records, the rounding generators and the writing of
result tiles (03_formats.md R69, R78, R86 to R101; 06_reed_chanter_gather.md R159, R160). -/

namespace Sys2Proof.Machine

/-! ### Format codes (Table FMT-1) -/

def fRaw : Nat := 0
def fE4m3 : Nat := 1
def fE5m2 : Nat := 2
def fMxfp4 : Nat := 3
def fInt8 : Nat := 4
def fBf16 : Nat := 5
def fG16 : Nat := 6
def fFp32 : Nat := 7
def fInt32 : Nat := 8

/-- Tile height (Table FMT-1); 0 for RAW and reserved codes. -/
def tileH (f : Nat) : Nat :=
  if f = fE4m3 ∨ f = fE5m2 ∨ f = fMxfp4 ∨ f = fInt8 then 64
  else if f = fBf16 ∨ f = fG16 then 32
  else if f = fFp32 ∨ f = fInt32 then 16
  else 0
/-- Tile width (Table FMT-1); 0 for RAW and reserved codes. -/
def tileW (f : Nat) : Nat := if f = fMxfp4 then 128 else if tileH f = 0 then 0 else 64
/-- Elements of a tile (R159). -/
def tileE (f : Nat) : Nat := tileH f * tileW f
/-- Bytes of an element, of formats other than MXFP4. -/
def elemB (f : Nat) : Nat :=
  if f = fBf16 ∨ f = fG16 then 2 else if f = fFp32 ∨ f = fInt32 then 4 else 1
/-- The floating-point format of a code. -/
def floatOf (f : Nat) : Option Fmt :=
  if f = fE4m3 then some e4m3 else if f = fE5m2 then some e5m2 else if f = fBf16 then some bf16
  else if f = fG16 then some g16 else if f = fFp32 then some fp32 else none
/-- Bytes of a record in its extent (R95). -/
def recStride (f : Nat) : Nat := if f = fMxfp4 then 320 else 64
/-- Tiles of a matrix (R92). -/
def matTiles (f rows cols : Nat) : Nat := rows * cols / tileE f
/-- Tiles of a vector (R159). -/
def vecTiles (f n : Nat) : Nat := ceilDiv n (tileE f)

/-- n pieces of k elements each. -/
def chunks {α : Type} (k : Nat) : Nat → List α → List (List α)
  | 0, _ => []
  | n + 1, l => l.take k :: chunks k n (l.drop k)

/-! ### Elements -/

/-- The value of an encoding in a format without block scales. -/
def elemVal (f v : Nat) : Fp :=
  match floatOf f with
  | some x => x.decode v
  | none => if f = fInt8 then intValue 8 v else if f = fInt32 then intValue 32 v else .nan

/-- Elements of b bytes each. -/
def elemsOf (f b : Nat) : Nat → List Byte → List Fp
  | 0, _ => []
  | n + 1, l => elemVal f (ofLe (l.take b)) :: elemsOf f b n (l.drop b)

/-- The two elements of each byte of an MXFP4 block (R90). -/
def mxElems (scale : Nat) (bs : List Byte) : List Fp :=
  bs.flatMap (fun b => [mxValue scale (b.toNat % 16), mxValue scale (b.toNat / 16)])

/-- The elements of a tile row by row (R90). Scales are one byte for each block of 32 elements. -/
def tileElems (f : Nat) (data scales : List Byte) : List Fp :=
  if f = fMxfp4 then (List.zipWith (fun b sc => mxElems sc.toNat b) (chunks 16 256 data) scales).flatten
  else elemsOf f (elemB f) (tileE f) data

/-! ### Matrices and vectors (R92, R159) -/

/-- Blocks of 64 rows set side by side. -/
def besideBlocks {α : Type} (w : Nat) (blocks : List (List α)) : List (List α) :=
  blocks.foldr (fun b acc => List.zipWith (· ++ ·) (chunks w 64 b) acc) (List.replicate 64 [])

/-- The rows of a matrix from its tiles' elements (R92). -/
def matrixOf {α : Type} (f rows cols : Nat) (tiles : List (List α)) : List (List α) :=
  let w := tileW f
  let blocks := (chunks (64 / tileH f) (rows / 64 * (cols / w)) tiles).map List.flatten
  (chunks (cols / w) (rows / 64) blocks).flatMap (besideBlocks w)

/-- The tiles' elements of a matrix, in tile order (R92). -/
def tilesOfMatrix {α : Type} (f rows cols : Nat) (m : List (List α)) : List (List α) :=
  let w := tileW f
  (chunks 64 (rows / 64) m).flatMap (fun band =>
    (List.range (cols / w)).flatMap (fun j =>
      (chunks (tileH f) (64 / tileH f) (band.map (fun r => (r.drop (j * w)).take w))).map List.flatten))

/-- The matrix with rows and columns exchanged. -/
def transpose {α : Type} (n : Nat) (m : List (List α)) : List (List α) :=
  m.foldr (fun r acc => List.zipWith (· :: ·) r acc) (List.replicate n [])

/-- The elements of a vector of n from its tiles (R159, R160: elements past its end are ignored). -/
def vectorOf (n : Nat) (tiles : List (List Fp)) : List Fp := tiles.flatten.take n

/-- The tiles' elements of a vector, padded with +0 (R160). -/
def tilesOfVector (f : Nat) (v : List Fp) : List (List Fp) :=
  let n := vecTiles f v.length
  chunks (tileE f) n (v ++ List.replicate (n * tileE f - v.length) Fp.zero)

/-! ### Rounding generators (R86, R87) -/

/-- One LFSR step. -/
def lfsrStep (s : Word) : Word := if s.getLsbD 0 then (s >>> 1) ^^^ 0x80200003 else s >>> 1

/-- n LFSR steps. -/
def lfsrSteps : Nat → Word → Word
  | 0, s => s
  | n + 1, s => lfsrSteps n (lfsrStep s)

/-- The generator of a tile column (R86). -/
def srSeed (ctx : Nat) (seed : Word) (tile c : Nat) : Word :=
  let t := BitVec.ofNat 32 tile
  let s := (BitVec.ofNat 32 ctx <<< 20) ^^^ seed ^^^ ((t <<< 11) ||| (t >>> 21)) ^^^ BitVec.ofNat 32 (c * 0x01010101)
  lfsrSteps 32 (if s = 0 then 1 else s)

/-- The draws of n rows, row by row, from the columns' generators (R87). -/
def srDraws : Nat → List Word → List Nat
  | 0, _ => []
  | n + 1, gs =>
    let gs := gs.map (lfsrSteps 16)
    gs.map (fun g => g.toNat % 65536) ++ srDraws n gs

/-- The draws of a tile, one for each element row by row. -/
def tileDraws (f ctx : Nat) (seed : Word) (tile : Nat) : List Nat :=
  srDraws (tileH f) ((List.range (tileW f)).map (srSeed ctx seed tile))

/-! ### Result tiles -/

/-- How a command rounds its results: to nearest even, or stochastically from a context and seed. -/
structure Rounding where
  sr : Bool
  ctx : Nat
  seed : Word
deriving DecidableEq, Repr

/-- A written tile: its data and scales, and its counts (R89; `uflow` under 05 R145). -/
structure OutTile where
  data : List Byte
  scales : List Byte
  sat : Nat
  nan : Nat
  uflow : Nat
deriving DecidableEq, Repr

/-- A conversion into a format without block scales. -/
def convElem (f : Nat) (draw : Option Nat) (x : Fp) : Conv :=
  match floatOf f with
  | some y => y.conv draw x
  | none => if f = fInt8 then intConv 8 x else intConv 32 x

/-- Whether an encoding is a zero of its format. -/
def zeroCode (f v : Nat) : Bool :=
  if f = fInt8 ∨ f = fInt32 then decide (v = 0) else decide (v % 2 ^ (8 * elemB f - 1) = 0)

/-- Whether a conversion underflowed (05_backward_pass.md R145). -/
def underflowed (f : Nat) (x : Fp) (c : Conv) : Bool :=
  !x.isZero && !x.marked && zeroCode f c.code

/-- Two 4-bit codes in each byte. -/
def packNibbles : List Nat → List Byte
  | a :: b :: t => BitVec.ofNat 8 (a + 16 * b) :: packNibbles t
  | _ => []

/-- Writes a tile's elements in a format (R78, R84 to R89). -/
def writeTile (f : Nat) (r : Rounding) (index : Nat) (xs : List Fp) : OutTile :=
  if f = fMxfp4 then
    let qs := (chunks 32 256 xs).map quantise
    ⟨packNibbles (qs.flatMap (fun q => q.2.1)), qs.map (fun q => BitVec.ofNat 8 q.1),
      (qs.map (fun q => q.2.2.1)).sum, (qs.map (fun q => q.2.2.2)).sum,
      (List.zipWith (fun x c => !x.isZero && !x.marked && decide (c % 8 = 0)) xs (qs.flatMap (fun q => q.2.1))).countP id⟩
  else
    let cs := if r.sr then List.zipWith (fun x d => convElem f (some d) x) xs (tileDraws f r.ctx r.seed index)
              else xs.map (convElem f none)
    ⟨cs.flatMap (fun c => leBytes (elemB f) c.code), [], cs.countP Conv.sat, cs.countP Conv.nan,
      (List.zipWith (underflowed f) xs cs).countP id⟩

/-! ### Records (R94, Table FMT-7) -/

/-- The row statistics a record carries (R101). -/
structure Stats where
  row : Nat
  kind : Nat
  vals : List (Word × Word)
deriving DecidableEq, Repr

/-- No statistics. -/
def Stats.none : Stats := ⟨0, 0, []⟩

/-- A record's first 60 bytes. -/
def recBody (f flags valid : Nat) (st : Stats) (index producer smin smax sat nan : Nat) (crc : Word) : List Byte :=
  leBytes 1 f ++ leBytes 1 flags ++ leBytes 1 (tileH f) ++ leBytes 1 (tileW f) ++ leBytes 2 valid ++
  leBytes 1 st.row ++ leBytes 1 (st.kind * 16 + st.vals.length) ++ leBytes 4 index ++ leBytes 1 producer ++
  [0] ++ leBytes 1 smin ++ leBytes 1 smax ++
  (((st.vals ++ List.replicate 4 ((0, 0) : Word × Word)).take 4).flatMap (fun (p : Word × Word) => leBytes 4 p.1.toNat ++ leBytes 4 p.2.toNat)) ++
  leBytes 2 (min sat 0xFFFF) ++ leBytes 2 (min nan 0xFFFF) ++ leBytes 4 0 ++ leBytes 4 crc.toNat

/-- A record with its rec_crc. -/
def withCrc (b : List Byte) : List Byte := b ++ leBytes 4 (crc32c b).toNat

/-- The smallest and largest block scale that is not NaN; 0 where there is none (Table FMT-7). -/
def scaleRange (scales : List Byte) : Nat × Nat :=
  let l := (scales.map BitVec.toNat).filter (· ≠ 255)
  match l with
  | [] => (0, 0)
  | a :: t => (t.foldl min a, t.foldl max a)

/-- The record of a result tile (R94, R99), followed by its scale extension for MXFP4. -/
def resultRec (f : Nat) (sr : Bool) (st : Stats) (index producer : Nat) (t : OutTile) : List Byte :=
  let flags := flag sr 4 + flag (t.nan ≠ 0) 3 + flag (t.sat ≠ 0) 2 + 1
  let (lo, hi) := scaleRange t.scales
  withCrc (recBody f flags 4096 st index producer lo hi t.sat t.nan (crc32c (t.data ++ t.scales))) ++ t.scales

/-- The record INTAKE makes for a tile read without one (R96). -/
def synthRec (f valid index : Nat) : List Byte :=
  withCrc (recBody f 0x20 valid Stats.none index 0 0 0 0 0 0)

/-- Whether a record's rec_crc is right (R98). -/
def recCrcOk (r : List Byte) : Bool := decide (field r 0x3C 4 = (crc32c (r.take 60)).toNat)

/-- Whether a record passes the checks of R98 that end a command BAD_FORMAT. A compute command names the
format its operand must have. A record of no statistics has no rows that its stat_row could place outside the tile:
DEDUCED, log entry 48. -/
def recFieldsOk (named : Option Nat) (r : List Byte) : Bool :=
  let f := field r 0 1
  let cnt := bits (field r 7 1) 0 4
  named.all (fun n => decide (f = n)) && decide (f ≤ 8) &&
  decide (field r 2 1 = tileH f) && decide (field r 3 1 = tileW f) &&
  (decide (f = fRaw) || decide (field r 4 2 = 4096)) &&
  decide (bits (field r 7 1) 4 4 ≤ 2) && decide (cnt ≤ 4) && (decide (cnt = 0) || decide (field r 6 1 + cnt ≤ field r 2 1))

/-- Whether a tile's data matches the record's data_crc where crc_valid is set (R99, R100). -/
def dataCrcOk (r data scales : List Byte) : Bool :=
  !(bit (field r 1 1) 0) || decide (field r 0x38 4 = (crc32c (data ++ scales)).toNat)

/-- The record of a tile that a CROOK lane emits (05_backward_pass.md R140), from the source tile's
record, for transposed data at a new position. -/
def crookRec (r data : List Byte) (index : Nat) : List Byte :=
  withCrc (r.take 1 ++ leBytes 1 (field r 1 1 % 64 / 4 * 4 + 1) ++ (r.drop 2).take 2 ++ leBytes 2 4096 ++ [0, 0] ++
    leBytes 4 index ++ (r.drop 12).take 1 ++ [0] ++ (r.drop 14).take 2 ++ List.replicate 32 0 ++
    (r.drop 0x30).take 4 ++ leBytes 4 0 ++ leBytes 4 (crc32c data).toNat)

end Sys2Proof.Machine
end

