-- ==== Sys2Proof/Machine/Reed.lean ====
section
/-! DEFINITION. The Reed: sums in the order of 05_backward_pass.md R152, programs, second operands and
the kernels of functions 1 to 4 (06_reed_chanter_gather.md R161 to R174). -/

namespace Sys2Proof.Machine

/-! ### Sums (R152, R166) -/

/-- Pairs of neighbours combined; a value without a neighbour goes on as it is. -/
def pairUp (op : Fp → Fp → Fp) : List Fp → List Fp
  | a :: b :: t => op a b :: pairUp op t
  | l => l

/-- The tree over 2^n values: n rounds of pairs. -/
def treeN (op : Fp → Fp → Fp) : Nat → List Fp → Fp
  | 0, l => l.headD Fp.zero
  | n + 1, l => treeN op n (pairUp op l)

/-- The tree over a band's values. A band of fewer than 64 rows, as a GEMV's vectors may make, has the same tree over
the rows it has: DEDUCED, log entry 18. -/
def bandTree (l : List Fp) : Fp := treeN Fp.add 6 l

/-- A row's sum or maximum over its 64-column groups from left to right (R152, R166). -/
def rowFold (op : Fp → Fp → Fp) (row : List Fp) : Fp :=
  match (chunks 64 (row.length / 64) row).map (treeN op 6) with
  | [] => Fp.zero
  | a :: t => t.foldl op a

/-- A row's sum. -/
def rowSum (row : List Fp) : Fp := rowFold Fp.add row
/-- A row's maximum. -/
def rowMax (row : List Fp) : Fp := rowFold Fp.max row

/-- The sum of one column: trees over its 64-row bands, added in increasing row order (R152). -/
def colSum1 (col : List Fp) : Fp :=
  match (chunks 64 (ceilDiv col.length 64) col).map bandTree with
  | [] => Fp.zero
  | a :: t => t.foldl Fp.add a

/-- The sums of a matrix's n columns (R152). -/
def colSum (n : Nat) (m : List (List Fp)) : List Fp := (transpose n m).map colSum1

/-! ### Programs (R163, R164, Tables VEC-1 and VEC-2) -/

/-- A step's op. -/
def stepOp (w : Nat) : Nat := bits w 11 5
/-- A step's cost in lane-cycles for each element (Table VEC-2). -/
def stepCost (w : Nat) : Nat :=
  if stepOp w = 0 then 0 else if 0x0C ≤ stepOp w ∧ stepOp w ≤ 0x13 then 4 else 1
/-- A program's cost. -/
def progCost (p : List Nat) : Nat := (p.map stepCost).sum
/-- Whether an op reads selector b as well as a (Table VEC-2). -/
def readsB (op : Nat) : Bool := [0x01, 0x02, 0x03, 0x04, 0x05, 0x06, 0x0A, 0x0B].contains op
/-- Whether a step reads selector 0xC. NOP reads nothing, and an op of one operand reads selector a alone:
DEDUCED, log entry 165. -/
def usesRow (w : Nat) : Bool :=
  decide (stepOp w ≠ 0) && (decide (bits w 4 4 = 0xC) || (readsB (stepOp w) && decide (w % 16 = 0xC)))
/-- Whether a step is RSUM or RMAX. -/
def isRowRed (w : Nat) : Bool := decide (stepOp w = 0x14) || decide (stepOp w = 0x15)
/-- Whether a step is CSUM. -/
def isColRed (w : Nat) : Bool := decide (stepOp w = 0x16)

/-- Whether a one-pass program is legal (R164, R166). -/
def onePassOk (p : List Nat) : Bool :=
  p.all (fun w => decide (stepOp w ≤ 0x16) && !usesRow w && !isRowRed w) && decide (p.countP isColRed ≤ 1)

/-- Whether a two-pass program is legal: its passes' steps (R164, R166). -/
def twoPassOk (p1 p2 : List Nat) : Bool :=
  (p1 ++ p2).all (fun w => decide (stepOp w ≤ 0x16)) && p1.all (fun w => !usesRow w) &&
  decide (p1.countP isRowRed = 1) && !(p2.any isRowRed) && decide ((p1 ++ p2).countP isColRed ≤ 1)

/-- A matrix in FP32, as the Reed takes its operands (R161). -/
def toFp32 (m : List (List Fp)) : List (List Fp) := m.map (List.map Fp.r32)

/-- What a step reads besides the working values: the constants, the row result, and the indices. -/
structure LaneIn where
  k : List Fp
  r : Fp
  row : Nat
  col : Nat

/-- An operand by its selector (Table VEC-1). -/
def selVal (c : LaneIn) (v : List Fp) (s : Nat) : Fp :=
  if s < 8 then v.getD s Fp.zero
  else if s < 12 then c.k.getD (s - 8) Fp.zero
  else if s = 12 then c.r
  else if s = 13 then (Fp.ofNat c.col).r32
  else if s = 14 then (Fp.ofNat c.row).r32
  else Fp.zero

/-- The value of an op (Table VEC-2); `d` is the destination's old value, which FMA adds. -/
def opVal (op : Nat) (a b d : Fp) : Fp :=
  match op with
  | 0x01 => a.add b
  | 0x02 => a.sub b
  | 0x03 => a.mul b
  | 0x04 => a.fma b d
  | 0x05 => a.min b
  | 0x06 => a.max b
  | 0x07 => a.abs
  | 0x08 => a.neg
  | 0x09 => if a.isNan || a.gt Fp.zero then a else Fp.zero
  | 0x0A => if b.gt Fp.zero then a else Fp.zero
  | 0x0B => if a.gt b then Fp.one else Fp.zero
  | 0x0C => Fp.one.div a
  | 0x0D => a.sqrt
  | 0x0E => a.rsqrt
  | 0x0F => a.exp
  | 0x10 => a.exp2
  | 0x11 => a.log
  | 0x12 => a.sigmoid
  | 0x13 => a.tanh
  | _ => d

/-- The lane of one element: working values, what it adds to the row result, and to its column's. -/
structure Lane where
  v : List Fp
  rowIn : Fp
  colIn : Fp

/-- A step of a lane. -/
def Lane.step (c : LaneIn) (l : Lane) (w : Nat) : Lane :=
  let op := stepOp w
  let dst := bits w 8 3
  let a := selVal c l.v (bits w 4 4)
  let b := selVal c l.v (w % 16)
  if op = 0 then l
  else if isRowRed w then { l with rowIn := a }
  else if isColRed w then { l with colIn := a }
  else { l with v := l.v.set dst (opVal op a b (l.v.getD dst Fp.zero)) }

/-- Runs steps on one element (R161). -/
def runLane (c : LaneIn) (p : List Nat) (x y : Fp) : Lane :=
  p.foldl (Lane.step c) ⟨[x, y, Fp.zero, Fp.zero, Fp.zero, Fp.zero, Fp.zero, Fp.zero], Fp.zero, Fp.zero⟩

/-- Runs steps on every element of a matrix; `r` gives each row's result. -/
def runPass (k : List Fp) (p : List Nat) (x y : List (List Fp)) (r : List Fp) : List (List Lane) :=
  (List.zip (List.zip x y) r).zipIdx.map (fun (row : ((List Fp × List Fp) × Fp) × Nat) =>
    (List.zip row.1.1.1 row.1.1.2).zipIdx.map (fun (e : (Fp × Fp) × Nat) =>
      runLane ⟨k, row.1.2, row.2, e.2⟩ p e.1.1 e.1.2))

/-- A second operand of a mode as a matrix of the result's shape (R167): 1 same shape, 2 per column,
3 per row, 0 none. -/
def spreadOp2 (mode rows cols : Nat) (same : List (List Fp)) (vec : List Fp) : List (List Fp) :=
  if mode = 1 then same
  else if mode = 2 then List.replicate rows vec
  else if mode = 3 then vec.map (List.replicate cols)
  else List.replicate rows (List.replicate cols Fp.zero)

/-- What a Reed run hands on: the FP32 results, row results, and column results. -/
structure ReedOut where
  out : List (List Fp)
  rowRes : List Fp
  colRes : List Fp

/-- The column sums of what a pass's lanes put into them. -/
def laneCols (cols : Nat) (m : List (List Lane)) : List Fp := colSum cols (m.map (List.map Lane.colIn))

/-- A one-pass program over a matrix in FP32 (R168 function 0, R174). -/
def reedOnePass (k : List Fp) (p : List Nat) (cols : Nat) (x y : List (List Fp)) : ReedOut :=
  let l := runPass k p x y (List.replicate x.length Fp.zero)
  ⟨l.map (List.map (fun e => e.v.headD Fp.zero)), [], laneCols cols l⟩

/-- A two-pass program (R168 function 1, R169): pass 2 starts again from the main input kept in the
workspace, the second operand and the row result. -/
def reedTwoPass (k : List Fp) (p1 p2 : List Nat) (cols : Nat) (x y : List (List Fp)) : ReedOut :=
  let l1 := runPass k p1 x y (List.replicate x.length Fp.zero)
  let isMax := p1.any (fun w => decide (stepOp w = 0x15))
  let r := l1.map (fun row => (if isMax then rowMax else rowSum) (row.map Lane.rowIn))
  let l2 := runPass k p2 x y r
  ⟨l2.map (List.map (fun e => e.v.headD Fp.zero)), r,
   if p1.any isColRed then laneCols cols l1 else laneCols cols l2⟩

/-! ### Forward kernels (R170, R171) -/

/-- round(1 / n). -/
def invOf (n : Nat) : Fp := Fp.one.div (Fp.ofNat n)

/-- A row of LayerNorm or RMSNorm forward: its mean, its reciprocal standard deviation, its results
(R170). c is round(-mu * rstd) as R170's steps have it, which for RMSNorm is -0.0 (NaN where rstd is infinite), where
NORM_BACK takes +0.0: DEDUCED, log entry 174. -/
def normRow (rms : Bool) (eps : Fp) (gamma beta xs : List Fp) : Fp × Fp × List Fp :=
  let inv := invOf xs.length
  let mu := if rms then Fp.zero else (rowSum xs).mul inv
  let var := (rowSum (xs.map (fun x => let d := x.sub mu; d.mul d))).mul inv
  let rstd := (var.add eps).rsqrt
  let c := mu.neg.mul rstd
  (mu, rstd, List.zipWith (fun x (g : Fp × Fp) => (x.fma rstd c).fma g.1 g.2) xs (List.zip gamma beta))

/-- A row of softmax forward (R171). -/
def softmaxRow (k0 : Fp) (xs : List Fp) : List Fp :=
  let ws := xs.map (fun x => x.mul k0)
  let m := rowMax ws
  if m = .inf true then xs.map (fun _ => Fp.zero)
  else
    let es := ws.map (fun x => (x.sub m).exp)
    let q := Fp.one.div (rowSum es)
    es.map (fun e => e.mul q)

/-! ### Backward kernels (05 R153, R154) -/

/-- Row statistics of a NORM_BACK row: mean and reciprocal standard deviation. -/
structure RowStat where
  mu : Fp
  rstd : Fp

/-- A row of NORM_BACK: results, and the row's contributions to dγ and dβ (05_backward_pass.md R153). -/
def normBackRow (rms : Bool) (stash : Option RowStat) (eps : Fp) (gamma dy x : List Fp) :
    List Fp × List Fp × List Fp :=
  let inv := invOf x.length
  let g := List.zipWith Fp.mul dy gamma
  let sumG := rowSum g
  let (rstd, c, sumP) := match stash with
    | some t =>
      let c := if rms then Fp.zero else t.mu.neg.mul t.rstd
      (t.rstd, c, rowSum (List.zipWith (fun (g x : Fp) => g.mul (x.fma t.rstd c)) g x))
    | none =>
      let sumGx := rowSum (List.zipWith Fp.mul g x)
      let mu := if rms then Fp.zero else (rowSum x).mul inv
      let var := (((rowSum (x.map (fun (v : Fp) => v.mul v))).mul inv).sub (mu.mul mu)).max Fp.zero
      let rstd := (var.add eps).rsqrt
      (rstd, (if rms then Fp.zero else mu.neg.mul rstd), rstd.mul (sumGx.sub (mu.mul sumG)))
  let mg := if rms then Fp.zero else sumG.mul inv
  let mp := sumP.mul inv
  let xh := x.map (fun v => v.fma rstd c)
  let dx := List.zipWith (fun g h => (h.neg.fma mp (g.sub mg)).mul rstd) g xh
  (dx, List.zipWith Fp.mul dy xh, dy)

/-- A row of SOFTMAX_BACK (05_backward_pass.md R154). -/
def softmaxBackRow (dy y : List Fp) : List Fp :=
  let s := rowSum (List.zipWith Fp.mul dy y)
  List.zipWith (fun d v => v.mul (d.sub s)) dy y

/-! ### Lane-cycles (R172, Table VEC-3, Table BWD-4) -/

/-- Lane-cycles of each element of functions 2 to 4: 256 / rate, summed over the passes. -/
def kernelCost (fn : Nat) : Nat := if fn = 4 then 1 + 4 + 1 else 6

end Sys2Proof.Machine
end

