-- ==== Sys2Proof/Machine/Matrix.lean ====
section
/-! DEFINITION. Matrix products on the arrays and the Chanter: row sums, accumulation, the output stage and
the activity counts (04_matrix_array.md R103 to R127; 06_reed_chanter_gather.md R175, R176). -/

namespace Sys2Proof.Machine

/-- Operand classes (Table ARR-1). -/
inductive Cls where
  | fp8
  | int8
  | mxfp4
  | half
deriving DecidableEq, Repr

/-- The class of an operand format. -/
def clsOf (f : Nat) : Option Cls :=
  if f = fE4m3 ∨ f = fE5m2 then some .fp8 else if f = fInt8 then some .int8
  else if f = fMxfp4 then some .mxfp4 else if f = fBf16 ∨ f = fG16 then some .half else none

/-- The result formats of a class (Table ARR-1). -/
def clsResults : Cls → List Nat
  | .fp8 => [fE4m3, fE5m2, fBf16, fG16, fFp32]
  | .int8 => [fInt8, fInt32, fBf16, fFp32]
  | .mxfp4 => [fMxfp4, fE4m3, fBf16, fFp32]
  | .half => [fBf16, fG16, fE4m3, fE5m2, fFp32]

/-- Elements of a K block (R104). -/
def kBlock (c : Cls) : Nat := if c = .mxfp4 then 512 else 256

/-- A product truncated to the grid of unit 2^u, signed (R119). -/
def gridTerm (u : Int) : Fp → Int
  | .fin s m e => let g := (scaleFloor m e u).1; if s then -(g : Int) else g
  | _ => 0

/-- The reduction of a row's products to one FP32 value, and whether the sum overflowed FP32 (R119,
R120). -/
def reduceRow (ps : List Fp) : Fp × Bool :=
  if ps.any Fp.isNan then (.nan, false)
  else if ps.any Fp.isInf then
    if ps.any (fun p => decide (p = .inf false)) && ps.any (fun p => decide (p = .inf true)) then (.nan, false)
    else (.inf (ps.any (fun p => decide (p = .inf true))), false)
  else match maxLog ps with
    | none => (Fp.zero, false)
    | some l =>
      let u := l - 47
      let g := (ps.map (gridTerm u)).sum
      if g = 0 then (Fp.zero, false)
      else
        let r := (Fp.fin (decide (g < 0)) g.natAbs u).r32
        (r, r.isInf)

/-- The sum of the row sums of the K blocks in increasing k, and whether one of them or a running sum
overflowed (R120, R121). -/
def accumulate : Fp × Bool → List (Fp × Bool) → Fp × Bool
  | a, [] => a
  | a, s :: t =>
    let v := a.1.add s.1
    accumulate (v, a.2 || s.2 || (v.isInf && !a.1.isInf && !s.1.isInf)) t

/-- One result element before the output stage, from a row and a column (R118 to R121). -/
def dotElem (c : Cls) (row col : List Fp) : Fp × Bool :=
  let ps := List.zipWith Fp.mulX row col
  match (chunks (kBlock c) (ceilDiv ps.length (kBlock c)) ps).map reduceRow with
  | [] => (Fp.zero, false)
  | s :: t => accumulate s t

/-- The product of a stationary matrix and a stream matrix given by its n columns: elements with their
overflow flags. -/
def productOf (c : Cls) (a cols : List (List Fp)) : List (List (Fp × Bool)) :=
  a.map (fun row => cols.map (dotElem c row))

/-- The product's elements and, beside them, how many of each tile overflowed is read from the flags. -/
def relued (relu : Bool) (m : List (List (Fp × Bool))) : List (List (Fp × Bool)) :=
  if relu then m.map (List.map (fun e => (e.1.relu, e.2))) else m

/-- An element of a stationary operand, as the cells hold it (R125; log entry 19). -/
def stationary (f : Nat) (x : Fp) : Fp :=
  if f = fInt8 && Config.int8MinMuted && decide (x = .fin true 128 0) then Fp.zero else x

/-- The order in which the tiles of an array's result leave (R113): row blocks of 256, their tile columns from left to
right, and the bands of one column from top to bottom. Each place names a tile by its index under R92. -/
def arrayOrder (f rows cols : Nat) : List Nat :=
  let per := 64 / tileH f
  let w := cols / tileW f
  (List.range (ceilDiv rows 256)).flatMap (fun b =>
    (List.range w).flatMap (fun j =>
      (List.range (min 4 (rows / 64 - 4 * b))).flatMap (fun i =>
        (List.range per).map (fun p => ((4 * b + i) * w + j) * per + p))))

/-- Whether an encoding is a zero of the stationary operand (R125), by its value: an MXFP4 element of a
NaN block is not one. -/
def countZeros (m : List (List Fp)) : Nat := (m.map (fun r => r.countP Fp.isZero)).sum

/-- The MACs that cells compute (R125, R127): each stationary element that is not muted meets every
column, and a muted element computes where it meets a marked one. -/
def computedMacs (a cols : List (List Fp)) : Nat :=
  let live := (a.map (fun r => r.countP (fun x => !x.isZero))).sum
  live * cols.length +
  (a.map (fun r => (cols.map (fun c => (List.zipWith (fun x y => x.isZero && y.marked) r c).countP id)).sum)).sum

/-- QD_ARRn_MAC's count of a product: CHECKED mode adds the checksum row and column slots, 1/256 and
1/32 of the useful MACs (R127). They are taken of the unmuted MACs of the whole product, each rounded down, also where
a row block is short: DESIGN CHOICE, log entry 43. -/
def macCount (checked : Bool) (macs : Nat) : Nat := if checked then macs + macs / 256 + macs / 32 else macs

/-- The elements of a result rounded to a format by RNE and read back, as a station behind the array or
Chanter sees them (R174). MXFP4 blocks run along rows. -/
def roundVia (f : Nat) (m : List (List Fp)) : List (List Fp) :=
  if f = fMxfp4 then
    m.map (fun r => (chunks 32 (r.length / 32) r).flatMap (fun b =>
      let q := quantise b
      q.2.1.map (mxValue q.1)))
  else m.map (List.map (fun x => elemVal f (convElem f none x).code))

end Sys2Proof.Machine
end

