-- ==== Sys2Proof/Machine/Flags.lean ====
section
/-! DEFINITION. The flag and counter computations of registers: the access types of 00_scope.md R12,
Table SCP-7, the reserved-field rules R13 and R14, and the comparisons of free-running indices. -/

namespace Sys2Proof.Machine

/-- The low word of a 64-bit or narrower register. -/
def loWord (v : Nat) : Word := BitVec.ofNat 32 v
/-- The high word of a 64-bit register. -/
def hiWord (v : Nat) : Word := BitVec.ofNat 32 (v / 2 ^ 32)

/-- Writes the low half of a 48-bit address register, keeping bits [31:k] of the value
(RW with low bits reserved). -/
def setLo48 (x : BitVec 48) (v : Word) (k : Nat) : BitVec 48 :=
  BitVec.ofNat 48 (x.toNat / 2 ^ 32 * 2 ^ 32 + v.toNat / 2 ^ k * 2 ^ k)

/-- Writes the high half of a 48-bit address register: bits [15:0] of the value. -/
def setHi48 (x : BitVec 48) (v : Word) : BitVec 48 :=
  BitVec.ofNat 48 (x.toNat % 2 ^ 32 + v.toNat % 2 ^ 16 * 2 ^ 32)

/-- Write one to clear (00_scope.md Table SCP-7). -/
def w1c (cur : Bool) (v : Word) (i : Nat) : Bool := cur && !(bit v.toNat i)

/-- A field of RW bits takes a written encoding unless it is reserved, when it keeps its value
(00_scope.md R14). -/
def unlessReserved {α : Type} (reserved : Bool) (cur new : α) : α := if reserved then cur else new

/-- Distance of two free-running 32-bit indices (07_commands_and_queues.md R213). -/
def dist32 (a b : Word) : Nat := (a - b).toNat

/-- The doorbell rule of 07_commands_and_queues.md R214 at 32 bits. -/
def doorbellOk (v head tail : Word) (size : Nat) : Bool :=
  decide (dist32 v head ≤ size) && decide (dist32 v tail < 2 ^ 31)

/-- The doorbell rule of R214 at the 16-bit indices of 14_network_and_pcie.md R385. -/
def doorbellOk16 (v head tail size : Nat) : Bool :=
  decide ((v + 65536 - head) % 65536 ≤ size) && decide ((v + 65536 - tail) % 65536 < 2 ^ 15)

/-- The status codes of 07_commands_and_queues.md Table CMD-18. -/
def stOk : Nat := 0x00
def stOkLate : Nat := 0x01
def stSegFault : Nat := 0x10
def stSegLimit : Nat := 0x11
def stSegPerm : Nat := 0x12
def stBadOpcode : Nat := 0x20
def stBadRoute : Nat := 0x21
def stBadLength : Nat := 0x22
def stBadInline : Nat := 0x23
def stBadFormat : Nat := 0x24
def stWaitTimeout : Nat := 0x30
def stReplayExhausted : Nat := 0x40
def stPoison : Nat := 0x41
def stHostReset : Nat := 0x42
def stLinkLost : Nat := 0x43
def stEpochStale : Nat := 0x44
def stAborted : Nat := 0x50

/-- The management completion codes of 17_configuration_and_security.md Table CFG-7. -/
def ccOk : Nat := 0
def ccNoSem : Nat := 1
def ccBusy : Nat := 2
def ccInvalid : Nat := 3
def ccDenied : Nat := 4
def ccError : Nat := 5

end Sys2Proof.Machine
end

