-- ==== Sys2Proof/Machine/Operands.lean ====
section
/-! DEFINITION. The operand forms: the fields of a descriptor header and its bodies
(07_commands_and_queues.md R190 to R211), address words, number formats' sizes
(03_formats.md Table FMT-1), and packet routes' coordinates. -/

namespace Sys2Proof.Machine

/-! ### Header (Table CMD-1) -/

/-- The opcode of a descriptor. -/
def opcodeOf (d : List Byte) : Nat := field d 0 1
/-- Flag bit i of a descriptor. -/
def flagOf (d : List Byte) (i : Nat) : Bool := bit (field d 1 1) i
/-- ordered: start only after every earlier command of the queue. -/
def dOrdered (d : List Byte) : Bool := flagOf d 0
/-- cpl: write a record for OK too. -/
def dCpl (d : List Byte) : Bool := flagOf d 1
/-- irq: raise the completion interrupt. -/
def dIrq (d : List Byte) : Bool := flagOf d 2
/-- verify: INTAKE verifies data_crc. -/
def dVerify (d : List Byte) : Bool := flagOf d 3
/-- sr: stochastic rounding. -/
def dSr (d : List Byte) : Bool := flagOf d 4
/-- relu. -/
def dRelu (d : List Byte) : Bool := flagOf d 5
/-- wait_en. -/
def dWaitEn (d : List Byte) : Bool := flagOf d 6
/-- sig_en. -/
def dSigEn (d : List Byte) : Bool := flagOf d 7
/-- The tag. -/
def dTag (d : List Byte) : Nat := field d 2 2
/-- The 24-bit route. -/
def dRoute (d : List Byte) : Nat := field d 4 3
/-- timeout of sync_ctl. -/
def dTimeout (d : List Byte) : Nat := bits (field d 7 1) 0 6
/-- wait_cond: true for equality. -/
def dWaitEq (d : List Byte) : Bool := bit (field d 7 1) 6
/-- sig_op: true for set. -/
def dSigSet (d : List Byte) : Bool := bit (field d 7 1) 7
/-- A scope code (08_memory_model.md Table MEM-1). -/
def scopeOf (n : Nat) : Scope :=
  if n = 0 then .quad else if n = 1 then .die else if n = 2 then .package else .system
/-- wait_obj. -/
def dWaitObj (d : List Byte) : Nat := bits (field d 8 2) 0 14
/-- wait_scope. -/
def dWaitScope (d : List Byte) : Scope := scopeOf (bits (field d 8 2) 14 2)
/-- sig_obj. -/
def dSigObj (d : List Byte) : Nat := bits (field d 10 2) 0 14
/-- sig_scope. -/
def dSigScope (d : List Byte) : Scope := scopeOf (bits (field d 10 2) 14 2)
/-- xarg: cmd_seed or INLINE_SEND's fields. -/
def dXarg (d : List Byte) : Nat := field d 12 4
/-- wait_value. -/
def dWaitValue (d : List Byte) : Nat := field d 16 8
/-- sig_value. -/
def dSigValue (d : List Byte) : Nat := field d 24 4
/-- xarg2: INLINE_SEND's window offset. -/
def dXarg2 (d : List Byte) : Nat := field d 28 4
/-- n bytes of the body from an offset. -/
def body (d : List Byte) (off n : Nat) : Nat := field d (32 + off) n

/-! ### Address words (R194) -/

/-- Whether the address word at a body offset is present. -/
def present (d : List Byte) (off : Nat) : Bool := bit (body d off 8) 63
/-- The 48-bit virtual address of the word at a body offset. -/
def addrOf (d : List Byte) (off : Nat) : Nat := body d off 8 % 2 ^ 48

/-! ### Opcodes (Table CMD-2) -/

def opMove : Nat := 1
def opGemm : Nat := 2
def opGemmT : Nat := 3
def opGemv : Nat := 4
def opGather : Nat := 5
def opScatter : Nat := 6
def opVecop : Nat := 7
def opNormBack : Nat := 8
def opSoftmaxBack : Nat := 9
def opSend : Nat := 10
def opInline : Nat := 11
def opSignal : Nat := 12
def opWait : Nat := 13
def opFence : Nat := 14
def opPrefetch : Nat := 15
def opMigrate : Nat := 16

/-! ### Routes (02_stations_and_routes.md R55, Table STN-2) -/

/-- The six slots of a route. -/
def slots (r : Nat) : List Nat := (List.range 6).map (fun i => r / 16 ^ i % 16)
/-- The run of non-zero slots from slot 0. -/
def routeOf (r : Nat) : List Nat := (slots r).takeWhile (· ≠ 0)

def stIntake : Nat := 1
def stCrook : Nat := 2
def stArray0 : Nat := 3
def stArray1 : Nat := 4
def stChanter : Nat := 5
def stReed : Nat := 6
def stGather : Nat := 7
def stBell : Nat := 8
def stPort : Nat := 9

/-- The coordinates of 30 bits, x in [9:0], y in [19:10], z in [29:20]
(13_axis_links_and_drone.md Table AXL-5). -/
def coordsOf (v : Nat) : Coords := { x := bits v 0 10, y := bits v 10 10, z := bits v 20 10 }
/-- Coordinates as 30 bits. -/
def coordsVal (c : Coords) : Nat := c.x + c.y * 2 ^ 10 + c.z * 2 ^ 20

/-! ### Destination entries (Table CMD-14) -/

/-- The coordinates of an entry. -/
def DestEntry.coords (e : DestEntry) : Coords := coordsOf e.w0.toNat
/-- The epoch of an entry. -/
def DestEntry.epoch (e : DestEntry) : Half := BitVec.ofNat 16 (bits e.w4.toNat 16 16)
/-- The window of an entry. -/
def DestEntry.window (e : DestEntry) : Nat := bits e.w4.toNat 8 5
/-- The quad of an entry. -/
def DestEntry.quad (e : DestEntry) : Nat := bits e.w4.toNat 0 6
/-- Whether an entry is usable. -/
def DestEntry.valid (e : DestEntry) : Bool := bit e.w8.toNat 31
/-- The context that may name an entry. -/
def DestEntry.context (e : DestEntry) : Nat := bits e.w8.toNat 0 12

end Sys2Proof.Machine
end

