-- ==== Sys2Proof/Machine/Errors.lean ====
section
/-! DEFINITION. Error records (15_resilience.md R411 to R417), their staging queues, FATAL, the event
messages to the management ports and the package's interrupt messages. -/

namespace Sys2Proof.Machine

/-- A record of a class, source, code, die and unit, with nothing else to say. -/
def errRec (cls source code die unit : Nat) : ErrRec :=
  { cls := cls, source := source, code := code, die := die, unit := unit, phys := 0xFF, flags := 0,
    drone := 0, addr := 0, context := 0xFFFF, queue := 0xFFFF, tag := 0, status := 0, opcode := 0,
    count := 1, syndrome := 0, aux0 := 0, aux1 := 0, open_ := false }

/-- A record's first 60 bytes with a log index (15_resilience.md R412, Table RES-5). -/
def ErrRec.body (r : ErrRec) (seq : Word) : List Byte :=
  leBytes 1 r.cls ++ leBytes 1 r.source ++ leBytes 2 r.code ++ leBytes 1 r.die ++ leBytes 1 r.unit ++
  leBytes 1 r.phys ++ leBytes 1 r.flags ++ leBytes 8 r.drone ++ leBytes 8 r.addr.toNat ++
  leBytes 2 r.context ++ leBytes 2 r.queue ++ leBytes 2 r.tag ++ leBytes 1 r.status ++
  leBytes 1 r.opcode ++ leBytes 4 r.count ++ leBytes 4 r.syndrome ++ leBytes 8 r.aux0 ++
  leBytes 8 r.aux1 ++ leBytes 4 seq.toNat

/-- A record's 64 bytes: the body and its CRC-32C (15_resilience.md Table RES-5). -/
def ErrRec.bytes (r : ErrRec) (seq : Word) : List Byte :=
  r.body seq ++ leBytes 4 (crc32c (r.body seq)).toNat

/-- Puts an event in a port's queue of 64, or counts it lost
(17_configuration_and_security.md R460). Port 0 is MGMT_A, 1 MGMT_B. -/
def State.sendEventTo (s : State) (port : Nat) (e : Event) : State :=
  s.modCfg (fun c =>
    let q := Table.get [] c.events port
    if q.length < 64 then { c with events := Table.put [] c.events port (q ++ [e]) }
    else if port = 0 then { c with lostA := satAdd 0xFFFF c.lostA 1 }
    else { c with lostB := satAdd 0xFFFF c.lostB 1 })

/-- Sends an event to both ports (17 R452). -/
def State.sendEvent (s : State) (e : Event) : State := (s.sendEventTo 0 e).sendEventTo 1 e

/-- The merge window of a CE record, 2^20 Drone ticks (15_resilience.md R414). -/
def mergeWindow : Nat := 2 ^ 20

/-- Whether a CE record merges into a staged one (15_resilience.md R414). -/
def ErrRec.mergesInto (r t : ErrRec) : Bool :=
  t.open_ && decide (r.cls = 0) && decide (t.cls = 0) && decide (r.source = t.source) &&
  decide (r.die = t.die) && decide (r.unit = t.unit) && decide (r.code = t.code) &&
  decide (r.drone ≤ t.drone + mergeWindow)

/-- Adds 1 to the count of the first staged record that a record merges into. -/
def mergeOne (r : ErrRec) : List ErrRec → Option (List ErrRec)
  | [] => none
  | t :: ts =>
    if r.mergesInto t then some ({ t with count := t.count + 1 } :: ts)
    else (mergeOne r ts).map (t :: ·)

/-- Closes the merge window of the oldest held CE record (15_resilience.md R414: when a queue holds 64
records its oldest held CE record leaves at once). -/
def closeOldest : List ErrRec → List ErrRec
  | [] => []
  | t :: ts => if t.open_ then { t with open_ := false } :: ts else t :: closeOldest ts

/-- The staging queue of a die. -/
def ErrLog.queue (l : ErrLog) (d : Nat) : List ErrRec := Table.get [] l.staging d

/-- Writes the staging queue of a die. -/
def ErrLog.setQueue (l : ErrLog) (d : Nat) (q : List ErrRec) : ErrLog :=
  { l with staging := Table.put [] l.staging d q }

/-- Counts a lost record (15_resilience.md R415). -/
def ErrLog.lose (l : ErrLog) : ErrLog :=
  { l with lost := satAdd 0xFFFFFFFF l.lost 1, lostSince := true }

/-- Whether a FATAL copy was made in the same cycle as a record, for a higher die (15_resilience.md R417). -/
def yields (last : List Byte) (r : ErrRec) : Bool :=
  decide (field last 8 8 = r.drone) && decide (r.die < field last 4 1)

/-- The copy of the first FATAL, or its count (15_resilience.md R417): ERR_FATAL_LAST is overwritten only when it holds
none, or one of the same cycle and a higher die. -/
def ErrLog.takeFatal (l : ErrLog) (r : ErrRec) : ErrLog :=
  if l.fatalLast.isEmpty then { l with fatal := true, fatalLast := r.bytes 0xFFFFFFFF }
  else
    { l with fatal := true, fatalMore := satAdd 0xFF l.fatalMore 1,
             fatalLast := if yields l.fatalLast r then r.bytes 0xFFFFFFFF else l.fatalLast }

/-- Makes a record: drone stamped, events and FATAL as R416 and R417 say, then staged, merged or lost
(R414, R415). -/
def State.logErr (s : State) (r0 : ErrRec) : State :=
  let r := { r0 with drone := s.drone, open_ := decide (r0.cls = 0) }
  let s := if r.cls ≥ 2 then s.sendEvent (.record (r.bytes 0xFFFFFFFF)) else s
  let s := if r.cls = 3 then s.modLog (·.takeFatal r) else s
  s.modLog (fun l =>
    let q := l.queue r.die
    match mergeOne r q with
    | some q' => l.setQueue r.die q'
    | none => if q.length < 64 then
                let q' := q ++ [r]
                l.setQueue r.die (if q'.length = 64 then closeOldest q' else q')
              else l.lose)

/-- A FATAL record (15_resilience.md Table RES-8): the device stops quads, queues and homes, because
`State.running` reads ERR_STATUS.fatal. -/
def State.fatal (s : State) (source code die unit : Nat) : State :=
  s.logErr (errRec 3 source code die unit)

/-- Sends one interrupt message of a package source through its route
(11_host_cores_and_cache.md R315, R316, Table HST-7). -/
def State.raiseIrq (s : State) (src : Nat) : State :=
  let r := (Table.get 0 s.routes src).toNat
  if bit r 31 then
    s.modCore (bits r 16 7) (fun c =>
      if bit r 30 then { c with irqS := c.irqS.insert (bits r 0 11) }
      else { c with irqM := c.irqM.insert (bits r 0 11) })
  else s

end Sys2Proof.Machine
end

