-- ==== Sys2Proof/Machine/Places.lean ====
section
/-! DEFINITION. Where things stand: the fabric's paths (01_package.md R19 to R25), the tiles of the tiered range and
their homes (09_memory_tiers.md R257 to R261), the home of a line (12_coherence.md R331), and the die-pool extension in
front of the HBM (11_host_cores_and_cache.md R323).

The bytes of a tile in R, D or W stand in memory at its address in the tiered range (its slot or write
group); the bytes of its flash copy stand in `flash` at the same address. -/

namespace Sys2Proof.Machine

/-! ### Paths -/

/-- The bridge by which a host or I/O die attaches to a compute die: H0 to C0 and C2, H1 to C1 and C3, X0 to C0 and C1,
X1 to C2 and C3 (01_package.md Table PKG-2). -/
def attachBridge (c x : Nat) : Option Nat :=
  if x < 6 then (if c % 2 = x - 4 then some (2 * x - 4 + c / 2) else none)
  else if c / 2 = x - 6 ∧ x < 8 then some (2 * x - 4 + c % 2)
  else none

/-- The bridge between two adjacent dies, C0 to C3, H0, H1, X0, X1 as 0 to 7
(01_package.md Table PKG-2). -/
def bridgeOf (a b : Nat) : Option Nat :=
  let c := min a b
  let x := max a b
  if c = x ∨ 4 ≤ c then none
  else if 4 ≤ x then attachBridge c x
  else if c / 2 = x / 2 then some (c / 2)
  else if c % 2 = x % 2 then some (2 + c % 2)
  else none

/-- The path between two compute dies: BR0 or BR1 first (01_package.md R22). -/
def computePath (a b : Nat) : List Nat :=
  if a = b then [a]
  else if a % 2 = b % 2 ∨ a / 2 = b / 2 then [a, b]
  else [a, a / 2 * 2 + b % 2, b]

/-- The compute die nearer to a compute die that a host or I/O die attaches to
(01_package.md R22, Table PKG-2). -/
def attachNear (x c : Nat) : Nat :=
  if x = 4 then c / 2 * 2
  else if x = 5 then c / 2 * 2 + 1
  else if x = 6 then c % 2
  else c % 2 + 2

/-- The path of a message (01_package.md Table PKG-3): the dies it passes, for address bit 12. -/
def fabricPath (a b : Nat) (bit12 : Bool) : List Nat :=
  if a = b then [a]
  else if a < 4 ∧ b < 4 then computePath a b
  else if a < 4 then computePath a (attachNear b a) ++ [b]
  else if b < 4 then
    -- the reverse of the path from the compute die
    (computePath b (attachNear a b) ++ [a]).reverse
  else if a / 2 = b / 2 then
    -- H0 to H1 and X0 to X1 split by bit 12
    let mid := if a / 2 = 2 then (if bit12 then [2, 3] else [0, 1]) else (if bit12 then [1, 3] else [0, 2])
    if a < b then a :: mid ++ [b] else a :: mid.reverse ++ [b]
  else
    -- a host die and an I/O die share one compute die
    let h := if a < 6 then a else b
    let x := if a < 6 then b else a
    [a, (h - 4) + 2 * (x - 6), b]

/-- The bridges of a path. -/
def bridgesOf : List Nat → List Nat
  | a :: b :: t => (bridgeOf a b).toList ++ bridgesOf (b :: t)
  | _ => []

/-- Whether every bridge that a message between two dies crosses passes traffic (01_package.md R25). -/
def State.pathUp (s : State) (a b : Nat) (pa : Nat) : Bool :=
  decide (s.fabric.up = 0xFFF) || (bridgesOf (fabricPath a b (bit pa 12))).all (fun n => s.fabric.up.getLsbD n)

/-- Whether an access from a die and its reply, each on its own path, can pass (01_package.md R22, R25). -/
def State.wayUp (s : State) (a b : Nat) (pa : Nat) : Bool := s.pathUp a b pa && s.pathUp b a pa

/-- The die of a caching agent: the host die of its core or system cache (12_coherence.md Table COH-1). -/
def agentDie (a : Nat) : Nat := if a < 64 then 4 else if a < 128 then 5 else a - 124

/-- The die of a cache-less requester's number (log entry 169): 0 to 63 the quads, 64 to 69 the axis links, 70 to 73 the
Ethernet ports, 74 and 75 the PCIe ports, then the uncached accesses of the cores (12_coherence.md R330;
01_package.md Table PKG-1). -/
def cachelessDie (n : Nat) : Nat :=
  if n < 64 then n / 16
  else if n < 67 then 6
  else if n < 70 then 7
  else if n < 72 then 6
  else if n < 74 then 7
  else if n < 76 then n - 68
  else 4 + (n - 76) / 64 % 2

/-- The die of a requester. -/
def requesterDie : Requester → Nat
  | .agent a => agentDie a
  | .cacheless n => cachelessDie n

/-! ### Tiles -/

/-- The base of the tiered range (01_package.md Table PKG-9). -/
def tierBase : Nat := 0x100000000000
/-- The tile of an address. -/
def tileOf (pa : Nat) : Nat := (pa - tierBase) / 4096
/-- The address of a tile. -/
def tileAddr (t : Nat) : Nat := tierBase + t * 4096
/-- The tiles a range touches. -/
def tilesOf (pa n : Nat) : List Nat :=
  if n = 0 then [] else (List.range (tileOf (pa + n - 1) - tileOf pa + 1)).map (tileOf pa + ·)

/-- STRIPED mode (09_memory_tiers.md Table TIR-10). -/
def State.striped (s : State) : Bool := decide (s.item 7 1 0 = 1)

/-- A tile as listed; in STRIPED mode an unlisted tile of a READY region stands in flash
(09_memory_tiers.md R281). -/
def State.tile (s : State) (t : Nat) : Tile := Table.get Tile.fresh s.tier.tiles t
/-- Writes a tile. -/
def State.setTile (s : State) (t : Nat) (x : Tile) : State :=
  s.modTier (fun z => { z with tiles := Table.put Tile.fresh z.tiles t x })
/-- The state of a STRIPED region: 0 EMPTY, 1 LOADING, 2 READY, 3 FAILED (09 Table TIR-9). -/
def State.region (s : State) (r : Nat) : Nat := Table.get 0 s.tier.regions r

/-- A placement object (09_memory_tiers.md Table TIR-7). -/
def Tier.object (x : Tier) (n : Nat) : TObj := Table.get TObj.reset x.objects n
/-- Whether a valid object holds a tile: bases and sizes are in units of 2 MiB, 512 tiles. -/
def TObj.has (o : TObj) (t : Nat) : Bool := o.valid && decide (o.base * 512 ≤ t) && decide (t < (o.base + o.size) * 512)
/-- The object of a tile (09_memory_tiers.md R273: valid objects do not overlap). -/
def State.objectOf (s : State) (t : Nat) : Option (Nat × TObj) := s.tier.objects.find? (fun e => e.2.has t)

/-- The default home die of a group (09_memory_tiers.md R259). -/
def defaultHome (g : Nat) : Nat := g * 16384 / 2 ^ 21 % 4
/-- The home die of a group (09_memory_tiers.md R259). -/
def State.tierHome (s : State) (g : Nat) : Nat :=
  match s.objectOf (g * 4) with
  | some (_, o) => if o.home < 4 then o.home else defaultHome g
  | none => defaultHome g

/-- The state of a tile as an access meets it: a STRIPED tile takes it from its region
(09_memory_tiers.md R281). -/
def State.tileSt (s : State) (t : Nat) : TileSt :=
  let x := s.tile t
  if s.striped && decide (x.st = .u) then
    (if s.region (t / 2 ^ 20) = 2 then .f else .u)
  else x.st

/-- The bytes of a tile as any observer reads them (09_memory_tiers.md Table TIR-5). -/
def State.tileBytes (s : State) (t : Nat) : List Byte :=
  match s.tileSt t with
  | .u => List.replicate 4096 0
  | .f => Table.range memDefault s.flash (tileAddr t) 4096
  | .p => Table.range memDefault s.flash (tileAddr t) 4096
  | _ => s.bytes (tileAddr t) 4096

/-- Whether an address lies in the tiered range. -/
def isTiered (pa : Nat) : Bool := decide (regionOf pa = some .tiered)

/-- Whether a tile's bytes stand in memory: it is resident, or in its channel's write group. -/
def State.tileInMem (s : State) (t : Nat) : Bool :=
  decide (s.tileSt t = .r) || decide (s.tileSt t = .d) || decide (s.tileSt t = .w)

/-- Whether reads of a tile return poison (09_memory_tiers.md R263, Table TIR-9). -/
def State.tilePoison (s : State) (t : Nat) : Bool :=
  (s.striped && decide (s.region (t / 2 ^ 20) = 3)) ||
  ((decide (s.tileSt t = .f) || decide (s.tileSt t = .p)) && Table.get false s.flashPoison t)

/-- The bytes of a range wherever they stand: memory, and for a tile its slot, its write group, its flash copy or
zeros (09_memory_tiers.md R266). -/
def State.baseBytes (s : State) (pa n : Nat) : List Byte :=
  if isTiered pa then (((tilesOf pa n).flatMap s.tileBytes).drop ((pa - tierBase) % 4096)).take n else s.bytes pa n

/-- The 64 bytes of a line wherever they stand. -/
def State.baseLine (s : State) (line : Nat) : List Byte :=
  if isTiered (line * 64) && !(s.tileInMem (tileOf (line * 64))) then s.baseBytes (line * 64) 64
  else s.bytes (line * 64) 64

/-- Whether a line is poisoned where it stands (12_coherence.md R350, 09_memory_tiers.md R263). -/
def State.basePoison (s : State) (line : Nat) : Bool :=
  if isTiered (line * 64) && !(s.tileInMem (tileOf (line * 64))) then s.tilePoison (tileOf (line * 64))
  else s.sectorPoison line

/-- The channel of a group (09_memory_tiers.md R261). -/
def channelOf (g : Nat) : Nat := g % 64

/-- A tile enters its channel's write group; a full group is programmed (09_memory_tiers.md R268). -/
def State.enterGroup (s : State) (t : Nat) : State :=
  s.modChannel (channelOf (t / 4)) (fun c =>
    let open' := c.open_ ++ [t]
    if open'.length = 4 then { c with open_ := [], programming := c.programming ++ [open'] }
    else { c with open_ := open', firstAt := if c.open_.isEmpty then s.drone else c.firstAt })

/-- Fills a tile's bytes in memory with those of its flash copy, poison with it. -/
def State.fillFromFlash (s : State) (t : Nat) : State :=
  let bs := Table.range memDefault s.flash (tileAddr t) 4096
  let bad := Table.get false s.flashPoison t
  let s := s.setBytes (tileAddr t) bs
  { s with poison := Table.splice false s.poison (tileAddr t / 64) (List.replicate 64 bad) }

/-- Fills a tile's bytes in memory with zeros. -/
def State.fillZero (s : State) (t : Nat) : State :=
  { s with mem := Table.drop s.mem (tileAddr t) 4096, poison := Table.drop s.poison (tileAddr t / 64) 64 }

/-! ### Homes of lines -/

/-- The die of an address: its owner of Table PKG-9; a tile's is its group's home (01_package.md R19,
09_memory_tiers.md R259). -/
def State.dieOf (s : State) (pa : Nat) : Nat :=
  match regionOf pa with
  | some .ddr => s.ddrDie pa
  | some (.hbm d) => d
  | some .tiered => s.tierHome (tileOf pa / 4)
  | some (.scratch q) => q / 16
  | some (.pool d) => d
  | some .config => 6
  | none => 0

/-- The home agent of a line: 4 × die + agent, dies C0 to C3, H0, H1 (12_coherence.md R331). HBM lines
interleave over the die's stacks at 4 KiB (01_package.md R31). -/
def State.homeOf (s : State) (line : Nat) : Nat :=
  let pa := line * 64
  match regionOf pa with
  | some .ddr =>
    let chans := if s.item 3 8 0 = 0 then pa / 4096 % 16 % 8 else pa / 4096 % 8
    4 * s.ddrDie pa + chans / 2
  | _ => 4 * s.dieOf pa + pa / 4096 % 4

/-- Whether accesses from a die reach an address now: every bridge on the way there and back passes traffic, and the
die that owns it is not in reset (01_package.md R19, R25; 18_boot_and_reset.md R465). -/
def State.dieReaches (s : State) (from_ pa : Nat) : Bool :=
  s.wayUp from_ (s.dieOf pa) pa && !(s.boot.diesInReset.contains (s.dieOf pa))

/-- Whether accesses from a die reach every page of a range. -/
def State.dieReachesAll (s : State) (from_ pa n : Nat) : Bool :=
  (decide (s.fabric.up = 0xFFF) && s.boot.diesInReset.isEmpty) ||
  (List.range (n / 4096 + 1)).all (fun k => s.dieReaches from_ (pa + 4096 * k))

/-- Whether a quad's accesses reach an address now. -/
def State.reaches (s : State) (q pa : Nat) : Bool := s.dieReaches (q / 16) pa

/-- Whether a quad's accesses reach every page of a range. -/
def State.reachesAll (s : State) (q pa n : Nat) : Bool := s.dieReachesAll (q / 16) pa n

/-! ### The die-pool extension (11_host_cores_and_cache.md R323) -/

/-- Whether a way of a die's extension is enabled (11_host_cores_and_cache.md R325). -/
def State.extWayOn (s : State) (d w : Nat) : Bool :=
  !(bit (s.item 3 6 d) w) && !(bit (Table.get 0 s.extSelfDis d) w)

/-- Whether a compute die's extension takes lookups: size above 0 and a way enabled
(11_host_cores_and_cache.md R323, R325). -/
def State.extOn (s : State) (d : Nat) : Bool :=
  decide (s.item 3 1 d < 16) && (List.range (s.item 3 2 d)).any (s.extWayOn d)

/-- The key of a way of a line's set in a die's extension: the sets number its size over 64 times its ways
(11_host_cores_and_cache.md R323). -/
def State.extKey (s : State) (d line w : Nat) : Nat :=
  (d * 2 ^ 24 + Config.extSet line % max 1 ((16 - s.item 3 1 d) * 131072 / max 1 (s.item 3 2 d))) * 16 + w

/-- What a way of an extension holds: 0 for nothing, else twice the line number with 1 when clean and 2 when
dirty. -/
def extMark (line : Nat) (dirty : Bool) : Nat := 2 * line + (if dirty then 2 else 1)

/-- The enabled way of a die's extension that holds a line. -/
def State.extFind (s : State) (d line : Nat) : Option Nat :=
  (List.range (s.item 3 2 d)).find? (fun w =>
    s.extWayOn d w && decide ((Table.get 0 s.ext (s.extKey d line w) + 1) / 2 = line + 1))

/-- One step of the 16-bit Galois LFSR of taps 0xB400 (11_host_cores_and_cache.md R323). -/
def extStep (x : Half) : Half := if x.getLsbD 0 then (x >>> 1) ^^^ 0xB400 else x >>> 1

/-- The way that a fill of a die's extension takes: the lowest invalid enabled one, else LFSR mod ways or the next
enabled above it, wrapping (11_host_cores_and_cache.md R323). -/
def State.extVictim (s : State) (d line : Nat) : Option Nat :=
  let n := s.item 3 2 d
  match (List.range n).find? (fun w => s.extWayOn d w && decide (Table.get 0 s.ext (s.extKey d line w) = 0)) with
  | some w => some w
  | none => ((List.range n).map (fun i => ((Table.get 1 s.extLfsr d).toNat + i) % n)).find? (s.extWayOn d)

/-- Puts a line into the extension of a compute die, dirty or clean (11_host_cores_and_cache.md R323, R327). -/
def State.extFill (s : State) (d line : Nat) (dirty : Bool) : State :=
  if s.extOn d && (s.extFind d line).isNone then
    match s.extVictim d line with
    | some w =>
      { s with ext := Table.put 0 s.ext (s.extKey d line w) (extMark line dirty),
               extLfsr := Table.put 1 s.extLfsr d (extStep (Table.get 1 s.extLfsr d)) }
    | none => s
  else s

/-- The die whose HBM holds an address: direct, or a slot of its tier share (11_host_cores_and_cache.md R323). -/
def State.hbmDie (s : State) (pa : Nat) : Option Nat :=
  match regionOf pa with
  | some (.hbm d) => some d
  | some .tiered => if s.tileInMem (tileOf pa) && decide (s.tileSt (tileOf pa) ≠ .w) then some (s.tierHome (tileOf pa / 4)) else none
  | _ => none

/-- Marks the line that an extension holds dirty or clean. -/
def State.extSet (s : State) (d line : Nat) (dirty : Bool) : State :=
  match s.extFind d line with
  | some w => { s with ext := Table.put 0 s.ext (s.extKey d line w) (extMark line dirty) }
  | none => s

/-- Takes a line out of an extension. -/
def State.extDrop (s : State) (d line : Nat) : State :=
  match s.extFind d line with
  | some w => { s with ext := Table.put 0 s.ext (s.extKey d line w) 0 }
  | none => s

/-- Whether an extension holds a line dirty. -/
def State.extIsDirty (s : State) (d line : Nat) : Bool :=
  match s.extFind d line with
  | some w => decide (Table.get 0 s.ext (s.extKey d line w) = extMark line true)
  | none => false

/-- The extension's lookups of a range: hits and misses counted, and a write updates a line it holds
(11_host_cores_and_cache.md R323, Table HST-9). -/
def State.extLookup (s : State) (pa n : Nat) (write : Bool) : State :=
  match s.hbmDie pa with
  | none => s
  | some d =>
    if s.extOn d then
      let ls := sectorsOf pa n
      let hit := (ls.filter (fun l => (s.extFind d l).isSome)).length
      let s := if write then ls.foldl (fun s l => s.extSet d l true) s else s
      { s with extHits := Table.put 0 s.extHits d (Table.get 0 s.extHits d + BitVec.ofNat 64 hit),
               extMisses := Table.put 0 s.extMisses d (Table.get 0 s.extMisses d + BitVec.ofNat 64 (ls.length - hit)) }
    else s

/-- Takes a tile's lines out of the extension as its slot is freed; dirty ones go to the slot first. -/
def State.extDropTile (s : State) (d t : Nat) : State :=
  if s.ext.isEmpty then s else (sectorsOf (tileAddr t) 4096).foldl (fun s l => s.extDrop d l) s

/-! ### Writes of a line that must not wait -/

/-- Makes a tile writable at once: resident it is dirty from now on; one that is not goes to its channel's write group
with the bytes it has, as in a bypass (09_memory_tiers.md Table TIR-6, R270; log entry 170). -/
def State.openTile (s : State) (t : Nat) : State :=
  match s.tileSt t with
  | .r => s.setTile t { s.tile t with st := .d }
  | .d => s
  | .w => s
  | .f => ((s.fillFromFlash t).setTile t { s.tile t with st := .w }).enterGroup t
  | .p => ((s.fillFromFlash t).setTile t { s.tile t with st := .w }).enterGroup t
  | .u => ((s.fillZero t).setTile t { s.tile t with st := .w }).enterGroup t

/-- Makes the memory of a line writable at once. -/
def State.openLine (s : State) (line : Nat) : State :=
  if isTiered (line * 64) then s.openTile (tileOf (line * 64)) else s

/-- A line's bytes as they go to its memory from a cache, with their poison; only a full-line write of a requester
clears poison that the memory holds (12_coherence.md R350). -/
def State.lineWrite (s : State) (line : Nat) (d : List Byte) (poison : Bool) : State :=
  let s := (s.openLine line).extLookup (line * 64) 64 true
  (s.setBytes (line * 64) d).setPoison line (s.sectorPoison line || poison)

end Sys2Proof.Machine
end

