-- ==== Sys2Proof/Machine/CohOps.lean ====
section
/-! DEFINITION. What caching agents and homes hold and send: lines, messages and their lanes, the directory's room,
evictions, places in the caches, stash installs; and the reads and writes that cache-less agents make of coherent
memory as one step: the newest copy is read, and a write removes every copy (08_memory_model.md R226;
11_host_cores_and_cache.md R319 to R328; 12_coherence.md R330 to R350). -/

namespace Sys2Proof.Machine

/-- The key of a line in an agent. -/
def lineKey (a line : Nat) : Nat := a * 2 ^ 42 + line
/-- A line in an agent. -/
def State.line (s : State) (a line : Nat) : Line := Table.get Line.none s.coh.lines (lineKey a line)
/-- Writes a line in an agent. -/
def State.setLine (s : State) (a line : Nat) (x : Line) : State :=
  s.modCoh (fun c => { c with lines := Table.put Line.none c.lines (lineKey a line) x })
/-- The agents that hold a line, with their copies. -/
def State.holders (s : State) (line : Nat) : List (Nat × Line) :=
  (s.coh.lines.filter (fun e => decide (e.1 % 2 ^ 42 = line))).map (fun e => (e.1 / 2 ^ 42, e.2))
/-- The directory entry of a line. -/
def State.dirEntry (s : State) (line : Nat) : DirEntry := Table.get DirEntry.none s.coh.dir line
/-- Writes the directory entry of a line; an entry without holders is freed. -/
def State.setDir (s : State) (line : Nat) (e : DirEntry) : State :=
  s.modCoh (fun c => { c with dir := Table.put DirEntry.none c.dir line (if e.st = .di ∨ (e.ptrs = [] ∧ e.bcast = false) then DirEntry.none else e) })

/-- Whether a message is the writeback of a line with its data. -/
def Msg.isWbOf (line : Nat) : Msg → Bool
  | .wbDirty _ l _ _ => decide (l = line)
  | .wbMove _ l st _ _ => decide (l = line) && (decide (st = .m) || decide (st = .o))
  | _ => false

/-! ### Messages on their way (12_coherence.md Table COH-3) -/

/-- An end of a message: the line's home, or a requester. -/
inductive Node where
  | home
  | of (r : Requester)
deriving DecidableEq, Repr

/-- Where a message comes from. -/
def Msg.src : Msg → Node
  | .rspState _ a _ _ => .of (.agent a)
  | .rspInwb a _ => .of (.agent a)
  | .cmpAck a _ => .of (.agent a)
  | .datFwd h _ _ _ _ _ => .of (.agent h)
  | .datSnp a _ _ _ => .of (.agent a)
  | .wbDirty a _ _ _ => .of (.agent a)
  | .wbClean a _ => .of (.agent a)
  | .wbMove a _ _ _ _ => .of (.agent a)
  | .snp _ _ _ _ => .home
  | .cmp _ _ _ _ => .home
  | .retry _ _ => .home
  | .grant _ _ => .home
  | .wbAck _ _ => .home
  | .datHome _ _ _ _ _ => .home
  | .datInstall _ _ _ => .home

/-- Where a message goes. -/
def Msg.dst : Msg → Node
  | .snp _ a _ _ => .of (.agent a)
  | .cmp w _ _ _ => .of w
  | .retry a _ => .of (.agent a)
  | .grant a _ => .of (.agent a)
  | .wbAck a _ => .of (.agent a)
  | .datHome w _ _ _ _ => .of w
  | .datFwd _ a _ _ _ _ => .of (.agent a)
  | .datInstall t _ _ => .of (.agent t)
  | .rspState _ _ _ _ => .home
  | .rspInwb _ _ => .home
  | .cmpAck _ _ => .home
  | .datSnp _ _ _ _ => .home
  | .wbDirty _ _ _ _ => .home
  | .wbClean _ _ => .home
  | .wbMove _ _ _ _ _ => .home

/-- The line of a message. -/
def Msg.line : Msg → Nat
  | .snp _ _ l _ => l
  | .rspState _ _ l _ => l
  | .rspInwb _ l => l
  | .cmp _ l _ _ => l
  | .cmpAck _ l => l
  | .retry _ l => l
  | .grant _ l => l
  | .wbAck _ l => l
  | .datHome _ l _ _ _ => l
  | .datFwd _ _ l _ _ _ => l
  | .datSnp _ l _ _ => l
  | .datInstall _ l _ => l
  | .wbDirty _ l _ _ => l
  | .wbClean _ l => l
  | .wbMove _ l _ _ _ => l

/-- The class of a message: 1 SNP, 2 RSP, 3 DAT, 4 WB. -/
def Msg.cls : Msg → Nat
  | .snp _ _ _ _ => 1
  | .datHome _ _ _ _ _ => 3
  | .datFwd _ _ _ _ _ _ => 3
  | .datSnp _ _ _ _ => 3
  | .datInstall _ _ _ => 3
  | .wbDirty _ _ _ _ => 4
  | .wbClean _ _ => 4
  | .wbMove _ _ _ _ _ => 4
  | .rspState _ _ _ _ => 2
  | .rspInwb _ _ => 2
  | .cmp _ _ _ _ => 2
  | .cmpAck _ _ => 2
  | .retry _ _ => 2
  | .grant _ _ => 2
  | .wbAck _ _ => 2

/-- Messages of one lane keep their order: class, line and ends (01_package.md R23). -/
def Msg.lane (m : Msg) : Nat × Nat × Node × Node := (m.cls, m.line, m.src, m.dst)

/-- The die of an end of a line's messages. -/
def State.nodeDie (s : State) (line : Nat) : Node → Nat
  | .home => s.homeOf line / 4
  | .of r => requesterDie r

/-- The bridges that a message crosses (01_package.md R22). -/
def State.msgBridges (s : State) (m : Msg) : List Nat :=
  bridgesOf (fabricPath (s.nodeDie m.line m.src) (s.nodeDie m.line m.dst) (bit (m.line * 64) 12))

/-- Whether a message can arrive: a bridge that retrains holds it (01_package.md R25). -/
def State.msgUp (s : State) (m : Msg) : Bool :=
  decide (s.fabric.up = 0xFFF) || (s.msgBridges m).all (fun n => s.fabric.up.getLsbD n)

/-- The data of a dirty copy of a line, if any: a cache in M or O, or a writeback in flight. -/
def State.dirtyCopy (s : State) (line : Nat) : Option (List Byte × Bool) :=
  match (s.holders line).find? (fun h => decide (h.2.st = .m) || decide (h.2.st = .o)) with
  | some h => some (h.2.data, h.2.poison)
  | none =>
    match s.coh.msgs.find? (Msg.isWbOf line) with
    | some (.wbDirty _ _ d p) => some (d, p)
    | some (.wbMove _ _ _ d p) => some (d, p)
    | _ => none

/-- The newest 64 bytes of a line and its poison (12_coherence.md R340, R350). -/
def State.newest (s : State) (line : Nat) : List Byte × Bool :=
  match s.dirtyCopy line with
  | some (d, p) => (d, p)
  | none => (s.baseLine line, s.basePoison line)

/-- Records a poisoning by a line's home (12_coherence.md Table COH-8): the line, cause and agent. -/
def State.poisonLine (s : State) (line cause agent : Nat) : State :=
  let s := (s.openLine line).setPoison line true
  s.modHome (s.homeOf line) (fun h =>
    { h with poison := true, poisonCount := satAdd 0xFFFFFFFF h.poisonCount 1,
             last := BitVec.ofNat 64 (line * 64 % 2 ^ 48 + cause * 2 ^ 56 + agent * 2 ^ 48) })

/-- Ends every LR reservation on a line of a range: another agent gains write permission
(11_host_cores_and_cache.md R313). -/
def State.dropReserved (s : State) (pa n : Nat) : State :=
  (s.cores.filter (fun x => x.2.reservation.any (fun l => decide (pa / 64 ≤ l) && decide (l * 64 < pa + n)))).foldl
    (fun s x => s.modCore x.1 (fun c => { c with reservation := none })) s

/-- Ends the LR reservations of all cores but one on a line. -/
def State.dropReservations (s : State) (line : Nat) (but : Requester) : State :=
  (s.cores.filter (fun x => decide (x.2.reservation = some line) && decide (Requester.agent x.1 ≠ but))).foldl
    (fun s x => s.modCore x.1 (fun c => { c with reservation := none })) s

/-- What is left of an agent's line when its copy goes: the transient state of a request or writeback of its own
(12_coherence.md R334). -/
def Line.gone (x : Line) : Line := { Line.none with tr := x.tr }

/-- Takes a line out of a core's L1 caches, which hold nothing that its L2 has lost (12_coherence.md R335;
11_host_cores_and_cache.md R319). -/
def State.dropL1 (s : State) (a line : Nat) : State :=
  if a < 128 ∧ ((s.core a).l1d.contains line || decide (Table.get [] (s.core a).l1i line ≠ [])) then
    s.modCore a (fun c => { c with l1d := c.l1d.erase line, l1i := Table.put [] c.l1i line [] })
  else s

/-- Takes an agent's copy of a line. -/
def State.dropCopy (s : State) (a line : Nat) : State := (s.setLine a line (s.line a line).gone).dropL1 a line

/-- Counts a broadcast invalidation where a line's entry asks for one (12_coherence.md R343). -/
def State.countBcast (s : State) (line : Nat) : State :=
  if (s.dirEntry line).bcast then
    s.modHome (s.homeOf line) (fun h => { h with bcastCount := satAdd 0xFFFFFFFF h.bcastCount 1 })
  else s

/-- A message after every copy of a line is gone: the home has absorbed a writeback with data or a handover and
acknowledges it, and an install that memory already holds falls away (12_coherence.md R337). -/
def Msg.settled (line : Nat) (m : Msg) : Option Msg :=
  match m with
  | .wbDirty a l d p => if l = line then some (.wbAck a l) else some (.wbDirty a l d p)
  | .wbMove a l st d p => if l = line then some (.wbAck a l) else some (.wbMove a l st d p)
  | .datInstall t l d => if l = line then none else some (.datInstall t l d)
  | m => some m

/-- Removes every copy of a line from the caches, dirty data written to memory when `keep`, with its
directory entry and the writebacks and installs in flight (12_coherence.md R341, R344). A dead owner's copy is poison
(12 R349). -/
def State.purge (s : State) (line : Nat) (keep : Bool) : State :=
  let e := s.dirEntry line
  let deadOwner := (decide (e.st = .dx) || decide (e.st = .do_)) && s.coh.dead.contains (e.ptrs.headD 255)
  let dc := s.dirtyCopy line
  let s := if deadOwner then s.poisonLine line 4 (e.ptrs.headD 255)
           else match dc with
                | some (d, p) => if keep then s.lineWrite line d p else s
                | none => s
  let s := ((s.holders line).foldl (fun s h => s.dropL1 h.1 line) s).countBcast line
  s.modCoh (fun c =>
    { c with lines := (c.lines.map (fun x => if x.1 % 2 ^ 42 = line then (x.1, x.2.gone) else x)).filter
                        (fun x => decide (x.2 ≠ Line.none)),
             dir := Table.put DirEntry.none c.dir line DirEntry.none,
             msgs := c.msgs.filterMap (Msg.settled line) })

/-- The directory set of a line in its home's directory (12_coherence.md R342). -/
def dirSetOf (line : Nat) : Nat := Config.dirSet line % 32768

/-- Whether a line has an open transaction, which pins its entry (12_coherence.md R339, Table COH-6). -/
def State.pinned (s : State) (line : Nat) : Bool := (Table.get none s.coh.txns line).isSome

/-- Whether a request allocates an entry: one that brings the line into a caching agent, a write with a stash target
in a cache among them (12_coherence.md R344; 11_host_cores_and_cache.md R327). -/
def Req.allocates : Req → Bool
  | .rdShared => true
  | .rdOwn => true
  | .upgrade => true
  | .wrFull _ .h0 => true
  | .wrFull _ .h1 => true
  | .wrFull _ (.l2 _) => true
  | _ => false

/-- The lines for which a way of the directory is held without an entry: granted to a retried request, or taken by an
open transaction that will allocate (12_coherence.md R344, R345). -/
def State.heldWays (s : State) : List Nat :=
  s.coh.reserved.map Prod.snd ++
  (s.coh.txns.filter (fun e => e.2.any (fun t => t.req.allocates) && decide (s.dirEntry e.1 = DirEntry.none))).map Prod.fst

/-- Makes room for a line's directory entry: a full set recalls its least recently allocated entry that is
not pinned, one step with its snoops (12_coherence.md R344; 95: DIRECTORY_RECALL). None where every way is
pinned or held. -/
def State.dirRoom (s : State) (line : Nat) : Option State :=
  if s.dirEntry line ≠ DirEntry.none ∨ s.coh.dir.length + s.heldWays.length < 16 then some s
  else
    let same := fun (l : Nat) => decide (s.homeOf l = s.homeOf line) && decide (dirSetOf l = dirSetOf line)
    let es := s.coh.dir.filter (fun e => same e.1)
    if es.length + (s.heldWays.filter (fun l => same l && decide (l ≠ line))).length < 16 then some s
    else
      let free := es.filter (fun e => !s.pinned e.1)
      match free.map (fun e => e.2.stamp) with
      | [] => none
      | t :: ts =>
        match free.find? (fun e => decide (e.2.stamp = ts.foldl min t)) with
        | none => none
        | some e =>
          some ((s.purge e.1 true).modHome (s.homeOf e.1) (fun h => { h with backinv := satAdd 0xFFFFFFFF h.backinv 1 }))

/-- Takes an allocation stamp (12_coherence.md R344). -/
def State.nextStamp (s : State) : Nat × State := (s.coh.stamp, s.modCoh (fun c => { c with stamp := c.stamp + 1 }))

/-- Puts a message in flight. -/
def State.post (s : State) (m : Msg) : State := s.modCoh (fun c => { c with msgs := c.msgs ++ [m] })

/-- Takes the first message in flight that a test picks, where it is the next of its lane and no bridge holds it
(01_package.md R23, R25). -/
def State.takeMsg (s : State) (f : Msg → Bool) : Option (Msg × State) :=
  match s.coh.msgs.find? f with
  | none => none
  | some m =>
    if s.coh.msgs.find? (fun x => decide (x.lane = m.lane)) = some m ∧ s.msgUp m = true then
      some (m, s.modCoh (fun c => { c with msgs := c.msgs.erase m }))
    else none

/-- Counts a late message (12_coherence.md R348, R352). -/
def State.lateMsg (s : State) (line : Nat) : State :=
  s.modHome (s.homeOf line) (fun h => { h with late := true, lateCount := satAdd 0xFFFFFFFF h.lateCount 1 })

/-- The arrival of a message whose transaction a long retrain has ended: it is discarded and counted
(12_coherence.md R352). -/
def State.takeStale (s : State) (f : Msg → Bool) : Option State :=
  match s.coh.stale.find? f with
  | some m => if s.msgUp m then some ((s.modCoh (fun c => { c with stale := c.stale.erase m })).lateMsg m.line) else none
  | none => none

/-- What arrives where no message of a live transaction does. -/
def State.orStale (s : State) (f : Msg → Bool) : State := (s.takeStale f).getD s

/-- Whether an agent's line is in a writeback state (12_coherence.md R334). -/
def Line.inWb (x : Line) : Bool :=
  decide (x.tr = .miWb) || decide (x.tr = .oiWb) || decide (x.tr = .eiWb) || decide (x.tr = .siWb)

/-- Whether an agent holds one of its 4 WB credits at a line's home: each writeback holds one until its WB_ACK
(12_coherence.md R337). -/
def State.wbCredit (s : State) (a line : Nat) : Bool :=
  decide ((s.coh.lines.filter (fun e => decide (e.1 / 2 ^ 42 = a) && e.2.inWb &&
    decide (s.homeOf (e.1 % 2 ^ 42) = s.homeOf line))).length < 4)

/-! ### Performance events (11_host_cores_and_cache.md R318, Table HST-3) -/

/-- Whether a counter of a selection counts an event in a mode: bits 62, 61 and 60 inhibit M, S and U (Sscofpmf). -/
def hpmCounts (sel : Dword) (p : Priv) (code : Nat) : Bool :=
  decide (sel.toNat % 2 ^ 16 = code) &&
    !(match p with | .m => sel.getLsbD 62 | .s => sel.getLsbD 61 | .u => sel.getLsbD 60)

/-- A counter counts n events; the first overflow sets OF, bit 63 of its selection, and pends the counter-overflow
interrupt (R318, Sscofpmf). -/
def Core.count (x : Core) (k n : Nat) : Core :=
  let v := (Table.get 0 x.hpm k).toNat + n
  let sel := Table.get 0 x.hpmEvent k
  let x := { x with hpm := Table.put 0 x.hpm k (BitVec.ofNat 64 v) }
  if v < 2 ^ 64 then x
  else { x with hpmEvent := Table.put 0 x.hpmEvent k (sel ||| BitVec.ofNat 64 (2 ^ 63)),
                lcof := x.lcof || !(sel.getLsbD 63) }

/-- The model's own tallies of four events, for its statements: lines stashed, write-arounds, uncached accesses and SC
failures. -/
def Core.tally (x : Core) (code n : Nat) : Core :=
  match code with
  | 0x0009 => { x with missStash := x.missStash + n }
  | 0x000B => { x with writeAround := x.writeAround + n }
  | 0x000C => { x with uncached := x.uncached + n }
  | 0x000D => { x with scFailures := x.scFailures + n }
  | _ => x

/-- A core counts n events in every counter that selects them. -/
def Core.event (x : Core) (code n : Nat) : Core :=
  (x.hpmEvent.filter (fun e => hpmCounts e.2 x.priv code)).foldl (fun x e => x.count e.1 n) (x.tally code n)

/-- Counts n events of a core. -/
def State.countEvent (s : State) (c code n : Nat) : State := s.modCore c (fun x => x.event code n)

/-! ### Stream detectors (11_host_cores_and_cache.md R324) -/

/-- Whether a detector is enabled: 0 to 127 stand at the cores' L2 outputs, 128 + 4d + k at the ports into compute
die d. -/
def State.streamOn (s : State) (det : Nat) : Bool :=
  decide (s.item 3 7 (if det < 128 then 4 + det / 64 else (det - 128) / 4) = 1)

/-- Whether a full-line write extends a run: the next line in the run's direction, or either neighbour of a run of
one line. -/
def StreamRun.next (r : StreamRun) (line : Nat) : Bool :=
  if r.count ≤ 1 then decide (line = r.lastLine + 1) || decide (line + 1 = r.lastLine)
  else if r.up then decide (line = r.lastLine + 1) else decide (line + 1 = r.lastLine)

/-- Whether a write of a line leaves a run alone: it is to another page, or to the line the run stands at. -/
def StreamRun.spared (r : StreamRun) (line : Nat) : Bool :=
  decide (r.lastLine / 64 ≠ line / 64) || decide (r.lastLine = line)

/-- A detector's runs after a full-line write, the most recently extended first, and whether the write is marked
no-allocate: a run of 64 lines came before it. A write to another line of a run's page ends that run. -/
def streamStep (l : List StreamRun) (line : Nat) : List StreamRun × Bool :=
  match l.find? (·.next line) with
  | some r =>
    ({ lastLine := line, up := decide (r.lastLine < line), count := r.count + 1 } ::
      (l.filter (fun x => decide (x ≠ r) && x.spared line)), decide (64 ≤ r.count))
  | none =>
    if l.any (fun x => decide (x.lastLine = line)) then (l.filter (·.spared line), false)
    else ((⟨line, true, 1⟩ :: l.filter (·.spared line)).take 4, false)

/-- A full-line write at a detector: whether it is marked no-allocate. -/
def State.streamWrite (s : State) (det line : Nat) : Bool × State :=
  if s.streamOn det then
    let (l, m) := streamStep (Table.get [] s.streams det) line
    (m, { s with streams := Table.put [] s.streams det l })
  else (false, s)

/-- A write of part of a line at a detector: it ends the runs of its page at other lines. -/
def State.streamPart (s : State) (det line : Nat) : State :=
  if s.streamOn det && !(Table.get [] s.streams det).isEmpty then
    { s with streams := Table.put [] s.streams det ((Table.get [] s.streams det).filter (·.spared line)) }
  else s

/-- A write at a detector, line by line. -/
def State.streamRange (s : State) (det pa n : Nat) : State :=
  (sectorsOf pa n).foldl (fun s l =>
    if pa ≤ l * 64 ∧ l * 64 + 64 ≤ pa + n then (s.streamWrite det l).2 else s.streamPart det l) s

/-- The bridges of a compute die (01_package.md Table PKG-2). -/
def dieBridges (d : Nat) : List Nat := [[0, 2, 4, 8], [0, 3, 6, 9], [1, 2, 5, 10], [1, 3, 7, 11]].getD d []

/-- The detector of the port by which a die's writes enter the compute die that owns an address: the bridge at which
their path ends, counted among that die's four (01_package.md R22, Table PKG-2). A die's own writes enter by none. -/
def State.portDetector (s : State) (from_ pa : Nat) : Option Nat :=
  let d := s.dieOf pa
  if d < 4 ∧ from_ ≠ d then
    match (bridgesOf (fabricPath from_ d (bit pa 12))).getLast? with
    | some b => ((dieBridges d).idxOf? b).map (128 + 4 * d + ·)
    | none => none
  else none

/-! ### Evictions -/

/-- The writeback of a line: an agent that holds one of its credits sends data in M or O, a notice in E or S
(12_coherence.md R334, R337, Table COH-3). -/
def State.sendWb (s : State) (a line : Nat) : State :=
  let x := s.line a line
  let s := s.dropL1 a line
  match x.st with
  | .m => (s.setLine a line { Line.none with tr := .miWb }).post (.wbDirty a line x.data x.poison)
  | .o => (s.setLine a line { Line.none with tr := .oiWb }).post (.wbDirty a line x.data x.poison)
  | .e => (s.setLine a line { Line.none with tr := .eiWb }).post (.wbClean a line)
  | .s => (s.setLine a line { Line.none with tr := .siWb }).post (.wbClean a line)
  | .i => s

/-- Whether an agent can evict a line: it holds it in no transient state, and has a WB credit at its home. -/
def State.canEvict (s : State) (a line : Nat) : Bool :=
  decide ((s.line a line).tr = .stable) && decide ((s.line a line).st ≠ .i) && s.wbCredit a line

/-- An L2's dirty line passes the detector of its output: marked no-allocate, it goes around the system cache unless
that holds the line (11_host_cores_and_cache.md R324). -/
def State.passOut (s : State) (a line : Nat) : Bool × State :=
  let x := s.line a line
  if a < 128 ∧ (x.st = .m ∨ x.st = .o) then
    let (m, s) := s.streamWrite a line
    if m && decide ((s.line (128 + a / 64) line).st = .i) then
      (true, s.countEvent a 0x000B 1)
    else (false, s)
  else (false, s)

/-- An agent evicts a line to its home. -/
def State.evictLine (s : State) (a line : Nat) : State :=
  if s.canEvict a line then (s.passOut a line).2.sendWb a line else s

/-- An L2 hands a line over to its die's system cache (12_coherence.md R335); a write marked no-allocate goes to the
home. -/
def State.sendMove (s : State) (a line : Nat) : State :=
  if s.canEvict a line then
    match s.passOut a line with
    | (true, s) => s.sendWb a line
    | (false, s) =>
      let x := s.line a line
      let tr : Transient := if x.st = .m ∨ x.st = .e then .miWb else .oiWb
      ((s.setLine a line { Line.none with tr := tr }).dropL1 a line).post (.wbMove a line x.st x.data x.poison)
  else s

/-! ### Places in the system caches -/

/-- The stash ways of a host die's slices (11_host_cores_and_cache.md R321). -/
def State.stashWays (s : State) (h : Nat) : Nat := s.item 3 4 h

/-- The enabled ways of a host die's slices. -/
def State.scEnabled (s : State) (h : Nat) : List Nat := (List.range 16).filter (fun w => !(bit (s.item 3 5 h) w))

/-- The ways of a partition: the host partition takes the lowest enabled ways, the stash partition the next
(11_host_cores_and_cache.md R321). -/
def State.scPart (s : State) (h : Nat) (stash : Bool) : List Nat :=
  if stash then ((s.scEnabled h).drop (s.item 3 3 h)).take (s.stashWays h) else (s.scEnabled h).take (s.item 3 3 h)

/-- The set of a line in a host die's system cache: its slice and the set in the slice
(11_host_cores_and_cache.md R320). -/
def scSetOf (h line : Nat) : Nat := (h * 32 + Config.scSlice line % 32) * 3072 + Config.scSet line % 3072

/-- The bit of a subtree of ways (11_host_cores_and_cache.md R322). -/
def plruNode (lo n : Nat) : Nat := lo * 17 + n

/-- The victim of a tree over n ways from lo (11_host_cores_and_cache.md R322). -/
def plruVictim (t : Nat) : Nat → Nat → Nat → Nat
  | 0, lo, _ => lo
  | k + 1, lo, n =>
    if n ≤ 1 then lo
    else
      let h := (n + 1) / 2
      if bit t (plruNode lo n) then plruVictim t k (lo + h) (n - h) else plruVictim t k lo h

/-- A tree's bits with one set to a value. -/
def putBit (t i : Nat) (b : Bool) : Nat := t - flag (bit t i) i + flag b i

/-- A tree after a hit or fill of a way (11_host_cores_and_cache.md R322). -/
def plruTouch : Nat → Nat → Nat → Nat → Nat → Nat
  | 0, t, _, _, _ => t
  | k + 1, t, lo, n, w =>
    if n ≤ 1 then t
    else
      let h := (n + 1) / 2
      if w < lo + h then plruTouch k (putBit t (plruNode lo n) true) lo h w
      else plruTouch k (putBit t (plruNode lo n) false) (lo + h) (n - h) w

/-- Whether an agent has a place for a line: it holds it, or has asked for it (12_coherence.md R338). -/
def Line.placed (x : Line) : Bool := decide (x.st ≠ .i) || decide (x.tr = .isD) || decide (x.tr = .imD)

/-- The line in a way, plus 1; 0 where the way is invalid, which it is when its line has left the agent. -/
def State.scWay (s : State) (h line w : Nat) : Nat :=
  let v := Table.get 0 s.scWays (scSetOf h line * 16 + w)
  if v = 0 ∨ (s.line (128 + h) (v - 1)).placed = false then 0 else v

/-- Touches a way of a partition. -/
def State.scTouch (s : State) (h line : Nat) (stash : Bool) (i : Nat) : State :=
  let k := scSetOf h line * 2 + (if stash then 1 else 0)
  { s with scTrees := Table.put 0 s.scTrees k (plruTouch 16 (Table.get 0 s.scTrees k) 0 (s.scPart h stash).length i) }

/-- A hit of a line in a host die's system cache touches the way that holds it (11_host_cores_and_cache.md R321,
R322). -/
def State.scHit (s : State) (h line : Nat) : State :=
  match (s.scPart h false).findIdx? (fun w => decide (s.scWay h line w = line + 1)) with
  | some i => s.scTouch h line false i
  | none =>
    match (s.scPart h true).findIdx? (fun w => decide (s.scWay h line w = line + 1)) with
    | some i => s.scTouch h line true i
    | none => s

/-- The state with the staged items in force, retirements apart: what the verification looks at. -/
def State.asStaged (s : State) : State :=
  (s.cfg.staged.filter (fun it => !(decide (it.sect = 2) && decide (it.code = 0x10)))).foldl State.setItem s

/-- The partition that a way belongs to: host, stash, or none. -/
def State.wayGroup (s : State) (h w : Nat) : Nat :=
  if (s.scPart h false).contains w then 1 else if (s.scPart h true).contains w then 2 else 0

/-- Whether the staged items change a way of a host die's slices: it changes hands. -/
def State.wayChanges (s : State) (h w : Nat) : Bool := decide (s.wayGroup h w ≠ s.asStaged.wayGroup h w)

/-- Whether a committing transaction holds fills into a way of a host die (17_configuration_and_security.md
Table CFG-5). -/
def State.fillsHeld (s : State) (h w : Nat) : Bool := decide (s.cfg.txnState = 2) && s.wayChanges h w

/-- The way of a partition that a fill takes: the lowest invalid one, else the tree's victim
(11_host_cores_and_cache.md R322). -/
def State.scVictim (s : State) (h line : Nat) (stash : Bool) : Nat :=
  let ways := s.scPart h stash
  match ways.findIdx? (fun w => decide (s.scWay h line w = 0)) with
  | some i => i
  | none => plruVictim (Table.get 0 s.scTrees (scSetOf h line * 2 + (if stash then 1 else 0))) 16 0 ways.length

/-- A fill of a partition, whose victim is evicted. A line that either partition holds stays where it is, touched. A
partition without ways, and a victim that cannot be evicted now, take no fill: none (11_host_cores_and_cache.md R321,
R322). -/
def State.scFill (s : State) (h line : Nat) (stash : Bool) : Option State :=
  if (s.scPart h false ++ s.scPart h true).any (fun w => decide (s.scWay h line w = line + 1)) then some (s.scHit h line)
  else
    let i := s.scVictim h line stash
    match (s.scPart h stash)[i]?.filter (fun w => !(s.fillsHeld h w)) with
    | none => none
    | some w =>
      let v := s.scWay h line w
      if v ≠ 0 ∧ s.canEvict (128 + h) (v - 1) = false then none
      else
        let s := if v = 0 then s else s.evictLine (128 + h) (v - 1)
        some ({ s with scWays := Table.put 0 s.scWays (scSetOf h line * 16 + w) (line + 1) }.scTouch h line stash i)

/-- Makes room in a core's L2, 2,048 sets of 16 ways (11_host_cores_and_cache.md Table HST-4). Which line of a full set
leaves is a free choice among those that can; it goes to the die's system cache, which fills from L2 evictions (R320,
log entry 171). -/
def State.l2Room (s : State) (a line : Nat) : Option State :=
  let mine := s.coh.lines.filter (fun e => decide (e.1 / 2 ^ 42 = a) && e.2.placed && decide (e.1 % 2 ^ 42 ≠ line))
  if mine.length < 16 then some s
  else
    let set := mine.filter (fun e => decide (Config.l2Set (e.1 % 2 ^ 42) % 2048 = Config.l2Set line % 2048))
    if set.length < 16 then some s
    else
      let free := set.filter (fun e => s.canEvict a (e.1 % 2 ^ 42))
      let (i, s) := s.drawNat free.length
      match free[i]? with
      | some e => some (s.sendMove a (e.1 % 2 ^ 42))
      | none => none

/-- Makes room for a line in an agent's cache: in a system cache a way of the stash or host partition, in an L2 a way
of its set. None where no line of it can leave now. -/
def State.cacheRoom (s : State) (a line : Nat) (stash : Bool) : Option State :=
  if a < 128 then s.l2Room a line else s.scFill (a - 128) line stash

/-! ### Stash installs (11_host_cores_and_cache.md R326 to R328) -/

/-- Counts a dropped write hint at the host die that owns the target (11_host_cores_and_cache.md R328). -/
def State.dropHint (s : State) (h : Nat) : State :=
  s.modHostDie h (fun x => { x with stashDropped := satAdd 0xFFFFFFFF x.stashDropped 1 })

/-- The host die that owns a stash target, where one does: the extension's drops have no register. -/
def stashOwner : Stash → Option Nat
  | .h0 => some 0
  | .h1 => some 1
  | .l2 c => some (c / 64)
  | .none => none
  | .extension => none

/-- Drops a hint. -/
def State.dropStash (s : State) (t : Stash) : State :=
  match stashOwner t with
  | some h => s.dropHint h
  | none => s

/-- The stash target that a register names (11_host_cores_and_cache.md Tables HST-8, R326). -/
def stashOf (w : Word) : Stash :=
  let t := bits w.toNat 0 3
  if t = 1 then .h0 else if t = 2 then .h1 else if t = 3 then .extension
  else if t = 4 then .l2 (bits w.toNat 8 7) else .none

/-- The agent of a stash target in a cache (11_host_cores_and_cache.md R326). -/
def stashAgent : Stash → Option Nat
  | .h0 => some 128
  | .h1 => some 129
  | .l2 c => some c
  | .none => none
  | .extension => none

/-- A line's entry for a sole owner. -/
def State.ownedBy (s : State) (line a : Nat) : State :=
  let e := s.dirEntry line
  if e = DirEntry.none then
    let (t, s) := s.nextStamp
    s.setDir line ⟨.dx, [a], false, t⟩
  else s.setDir line { e with st := .dx, ptrs := [a], bcast := false }

/-- Stash installs in flight to an agent. -/
def State.installsTo (s : State) (a : Nat) : Nat :=
  (s.coh.msgs.filter (fun m => match m with | .datInstall t _ _ => decide (t = a) | _ => false)).length

/-- The cache that a hint reaches now, or none where it is dropped: an L2 with 16 installs in flight passes it to
its die's stash partition (11_host_cores_and_cache.md R328). A core held in reset takes none, nor an agent that is
dead (12_coherence.md R349). -/
def State.stashTo (s : State) (t : Stash) : Option Nat :=
  match stashAgent t with
  | none => none
  | some a =>
    let t := if a < 128 ∧ 16 ≤ s.installsTo a then 128 + a / 64 else a
    if s.coh.dead.contains t then none
    else if t < 128 then (if s.hostRuns then some t else none)
    else if s.stashWays (t - 128) = 0 then none else some t

/-- Installs at a stash target a line that memory holds already: the install is in flight, its target the owner from
now on (11_host_cores_and_cache.md R327; 12_coherence.md Table COH-5); a hint that cannot be followed is dropped. -/
def State.sendInstall (s : State) (t : Stash) (line : Nat) (d : List Byte) : State :=
  match t with
  | .none => s
  | .extension =>
    match s.hbmDie (line * 64) with
    | some c => s.extFill c line true
    | none => s
  | _ =>
    match s.stashTo t with
    | none => s.dropStash t
    | some a =>
      match s.dirRoom line with
      | none => s.dropStash t
      | some s => (s.ownedBy line a).post (.datInstall a line d)

/-- Whether the directory has a way for an install of each full line of a hinted write: a write that would allocate
waits while every way of a set is pinned (12_coherence.md R344, R345). -/
def State.hintReady (s : State) (t : Stash) (coherent : Bool) (pa n : Nat) : Bool :=
  (stashAgent t).isNone || !coherent || decide (s.coh.dir.length + s.heldWays.length < 16) ||
  (sectorsOf pa n).all (fun l => (s.dirRoom l).isSome)

/-! ### Accesses by agents without a cache -/

/-- Whether the protocol holds anything of a line. -/
def State.tracked (s : State) (line : Nat) : Bool :=
  decide (s.dirEntry line ≠ DirEntry.none) || s.coh.lines.any (fun x => decide (x.1 % 2 ^ 42 = line)) ||
  s.coh.msgs.any (Msg.isWbOf line)

/-- The tracked lines of a range. -/
def State.trackedIn (s : State) (pa n : Nat) : List Nat :=
  if s.coh.lines.isEmpty && s.coh.dir.isEmpty && s.coh.msgs.isEmpty then []
  else (sectorsOf pa n).filter s.tracked

/-- Whether every copy of a line can be reached from its home (01_package.md R25). -/
def State.holdersUp (s : State) (line : Nat) : Bool :=
  decide (s.fabric.up = 0xFFF) ||
  ((s.holders line).all (fun h => s.wayUp (s.homeOf line / 4) (agentDie h.1) (line * 64)) &&
   (s.coh.msgs.filter (fun m => decide (m.line = line))).all s.msgUp)

/-- Whether a request for a range would wait: for an open transaction, for requests accepted before it, or for a
holder behind a bridge that retrains (12_coherence.md R339, 01_package.md R25). -/
def State.cohBusy (s : State) (pa n : Nat) : Bool :=
  s.coh.txns.any (fun e => e.2.isSome && decide (pa / 64 ≤ e.1) && decide (e.1 * 64 < pa + n)) ||
  s.coh.waiting.any (fun w => decide (pa / 64 ≤ w.1) && decide (w.1 * 64 < pa + n)) ||
  (decide (s.fabric.up ≠ 0xFFF) && !((s.trackedIn pa n).all s.holdersUp))

/-- Coherent bytes of a range: each tracked line's newest copy, and elsewhere what stands there. -/
def State.cohBytes (s : State) (pa n : Nat) : List Byte :=
  if (s.trackedIn pa n).isEmpty then s.baseBytes pa n
  else (((sectorsOf pa n).flatMap (fun l => (s.newest l).1)).drop (pa % 64)).take n

/-- Whether a coherent read of a range meets poison (12_coherence.md R349, R350). -/
def State.cohPoison (s : State) (pa n : Nat) : Bool :=
  (s.trackedIn pa n).any (fun l =>
    (s.newest l).2 || ((decide ((s.dirEntry l).st = .dx) || decide ((s.dirEntry l).st = .do_)) &&
      s.coh.dead.contains ((s.dirEntry l).ptrs.headD 255))) ||
  (sectorsOf pa n).any (fun l => s.basePoison l && (s.dirtyCopy l).isNone)

/-- A coherent write by a cache-less agent: copies removed, dirty data kept where the write covers only
part of the line, reservations lost, then memory written (12_coherence.md Table COH-5, 11 R313). -/
def State.cohWrite (s : State) (pa : Nat) (bs : List Byte) : State :=
  let s := (s.trackedIn pa bs.length).foldl
    (fun s l => s.purge l (!(decide (pa ≤ l * 64) && decide (l * 64 + 64 ≤ pa + bs.length)))) s
  (s.dropReserved pa bs.length).writeMem pa bs

/-- Whether an access to a range returns HOST_RESET (12_coherence.md R353). -/
def State.hostClosed (s : State) (pa : Nat) : Bool := s.coh.closed && decide (regionOf pa = some .ddr)

end Sys2Proof.Machine
end

