-- ==== Sys2Proof/Machine/TierOps.lean ====
section
/-! DEFINITION. The tiered range: slots, victims, write groups and what an access to a tile does
(09_memory_tiers.md R257 to R282). -/

namespace Sys2Proof.Machine

/-- Slots of a compute die (09_memory_tiers.md R257). -/
def State.tierSlots (s : State) : Nat :=
  if s.striped then 589824 * s.item 7 2 0 else 589824 * s.item 7 2 0 - 106496

/-- The set of a group (09_memory_tiers.md R259). -/
def tierSet (g sets : Nat) : Nat := ((g ^^^ (g >>> 17)) * 0x9e3779b1) % 2 ^ 32 % sets

/-- Key of a way of a set of a die. -/
def slotKey (d set way : Nat) : Nat := (d * 2 ^ 24 + set) * 16 + way
/-- A slot. -/
def State.slot (s : State) (d set way : Nat) : Slot := Table.get Slot.empty s.tier.slots (slotKey d set way)
/-- Writes a slot. -/
def State.setSlot (s : State) (d set way : Nat) (x : Slot) : State :=
  s.modTier (fun z => { z with slots := Table.put Slot.empty z.slots (slotKey d set way) x })

/-- The way that holds a group. -/
def State.findSlot (s : State) (d set g : Nat) : Option Nat :=
  (List.range 16).find? (fun w => (s.slot d set w).used && decide ((s.slot d set w).group = g))

/-- The tiles of a group. -/
def groupTiles (g : Nat) : List Nat := [4 * g, 4 * g + 1, 4 * g + 2, 4 * g + 3]

/-- Whether a tile is held by a PIN_HBM or no-evict object (09_memory_tiers.md R269). -/
def State.tilePinned (s : State) (t : Nat) : Bool :=
  match s.objectOf t with
  | some (_, o) => decide (o.pin = 1) || o.noevict
  | none => false
/-- Whether a tile is under schedule protection (09_memory_tiers.md R279, R280). -/
def State.tileProtected (s : State) (t : Nat) : Bool := (s.tile t).protTill.isSome
/-- Whether a tile is valid in its slot. -/
def State.inSlot (s : State) (t : Nat) : Bool :=
  decide ((s.tile t).st = .r) || decide ((s.tile t).st = .d) || decide ((s.tile t).st = .p)
/-- Whether a slot is held by pins or no-evict tiles. -/
def State.slotPinned (s : State) (x : Slot) : Bool :=
  (groupTiles x.group).any (fun t => s.inSlot t && s.tilePinned t)
/-- Whether a slot may be a victim but for its not-recently-used bit (09_memory_tiers.md R269). The recall of a line
waits for its open transaction (12_coherence.md R339). -/
def State.slotEvictable (s : State) (x : Slot) : Bool :=
  (groupTiles x.group).all (fun t =>
    !(s.inSlot t && s.tilePinned t) && !(decide ((s.tile t).st = .p)) && !(s.inSlot t && s.tileProtected t) &&
    !(s.cohBusy (tileAddr t) 4096))

/-- Takes dirty host-cache lines of a tile home before its slot is freed (09_memory_tiers.md R266). -/
def State.recallTile (s : State) (t : Nat) : State :=
  (s.trackedIn (tileAddr t) 4096).foldl (fun s l => s.purge l true) s

/-- A MIGRATE's record that a tile has reached flash (09_memory_tiers.md R265). -/
def Cmd.reached (t : Nat) (c : Cmd) : Cmd := { c with migrating := c.migrating.erase t }

/-- Notes at every MIGRATE to flash that a tile has reached F or U (09_memory_tiers.md R265). -/
def State.noteFlash (s : State) (t : Nat) : State :=
  { s with quads := s.quads.map (fun (e : Nat × Quad) => (e.1, { e.2 with
      queues := e.2.queues.map (fun (y : Nat × Queue) => (y.1, { y.2 with cmds := y.2.cmds.map (Cmd.reached t) })) })) }

/-- Evicts one tile of a slot (09_memory_tiers.md Table TIR-6): its lines are recalled from the host caches first, and
dirty data then goes to the channel's write group; the extension looks up what is copied and holds nothing of a freed
slot (11_host_cores_and_cache.md R323). -/
def State.evictTile (s : State) (d t : Nat) : State :=
  let s := s.recallTile t
  let x := s.tile t
  if x.st = .r then
    (((s.extDropTile d t).setTile t { x with st := if x.inFlash then .f else .u, protTill := none }).modTierDie d
      (fun z => { z with evClean := z.evClean + 1 })).noteFlash t
  else if x.st = .d then
    ((((s.extLookup (tileAddr t) 4096 false).extDropTile d t).setTile t { x with st := .w, protTill := none }).enterGroup
      t).modTierDie d (fun z => { z with evDirty := z.evDirty + 1 })
  else s

/-- Evicts a slot: its tiles, then the slot is free (09_memory_tiers.md R269). -/
def State.evictSlot (s : State) (d set way : Nat) : State :=
  let g := (s.slot d set way).group
  ((groupTiles g).foldl (fun s t => s.evictTile d t) s).setSlot d set way Slot.empty

/-- The victim walk (09_memory_tiers.md R269): from the set's rotating pointer, clearing each
not-recently-used bit it passes; it passes every way at most twice. Answers the way, if any, and the
state with the bits cleared and the pointer moved past the victim. -/
def State.walkSet (s : State) (d set : Nat) : Nat → Nat → Option Nat × State
  | 0, _ => (none, s)
  | n + 1, w =>
    let x := s.slot d set w
    if !x.nru && s.slotEvictable x then
      (some w, s.modTier (fun z => { z with walk := Table.put 0 z.walk (d * 2 ^ 24 + set) ((w + 1) % 16) }))
    else (s.setSlot d set w { x with nru := false }).walkSet d set n ((w + 1) % 16)

/-- What a request for a slot answers. -/
inductive SlotRes where
  | got (s : State)
  | allPinned
  | waits (s : State)

/-- Takes a slot for a group: the one it has, a free way, a way released by the schedule, or a victim's
(09_memory_tiers.md R269, R270). -/
def State.takeSlot (s : State) (g : Nat) : SlotRes :=
  let d := s.tierHome g
  let sets := s.tierSlots / 16
  if sets = 0 then .allPinned
  else
    let set := tierSet g sets
    let fresh : Slot := ⟨true, g, true, false⟩
    match s.findSlot d set g with
    | some w => .got (s.setSlot d set w { s.slot d set w with nru := true })
    | none =>
      match (List.range 16).find? (fun w => !(s.slot d set w).used) with
      | some w => .got (s.setSlot d set w fresh)
      | none =>
        if (List.range 16).all (fun w => s.slotPinned (s.slot d set w)) then .allPinned
        else
          match (List.range 16).find? (fun w => (s.slot d set w).released && s.slotEvictable (s.slot d set w)) with
          | some w => .got ((s.evictSlot d set w).setSlot d set w fresh)
          | none =>
            match s.walkSet d set 32 (Table.get 0 s.tier.walk (d * 2 ^ 24 + set)) with
            | (some w, s) => .got ((s.evictSlot d set w).setSlot d set w fresh)
            | (none, s) => .waits s

/-- Whether reads of a tile are always bypass reads: its object is pinned in flash
(09_memory_tiers.md R270). -/
def State.pinFlash (s : State) (t : Nat) : Bool :=
  match s.objectOf t with
  | some (_, o) => decide (o.pin = 2)
  | none => false

/-- Whether an access waits for a STRIPED region's load (09_memory_tiers.md Table TIR-9). -/
def State.regionWaits (s : State) (t : Nat) : Bool := s.striped && decide (s.region (t / 2 ^ 20) = 1)
/-- Sets the recently-used bit of a tile's slot and counts a hit (09_memory_tiers.md R271, Table
TIR-13). -/
def State.touchSlot (s : State) (t : Nat) : State :=
  let g := t / 4
  let d := s.tierHome g
  let set := tierSet g (s.tierSlots / 16)
  let s := s.modTierDie d (fun z => { z with hits := z.hits + 1 })
  match s.findSlot d set g with
  | some w => s.setSlot d set w { s.slot d set w with nru := true }
  | none => s

/-- Counts a bypass (09_memory_tiers.md R270). -/
def State.countBypass (s : State) (t : Nat) : State :=
  s.modTierDie (s.tierHome (t / 4)) (fun z => { z with bypass := satAdd 0xFFFFFFFF z.bypass 1 })

/-! ### Reads of flash (09_memory_tiers.md R267, R270) -/

/-- The I/O die of a channel: X0 has channels 0 to 31 (09_memory_tiers.md R261). -/
def ioOf (ch : Nat) : Nat := ch / 32

/-- The channel of a tile. -/
def tileChannel (t : Nat) : Nat := channelOf (t / 4)

/-- The flash reads that an I/O die has under way: promotions and bypass reads, but for those that wait for one
(09_memory_tiers.md Table TIR-4). -/
def State.flashReads (s : State) (x : Nat) : Nat :=
  (s.tier.tiles.filter (fun e => (decide (e.2.st = .p) || decide (e.2.bypass = .asked)) &&
    decide (ioOf (tileChannel e.1) = x) && !(s.tier.readQ.any (fun r => decide (r.1 = e.1))))).length

/-- Raises a waiting read to a class that is served earlier: all requests for a tile share one read
(09_memory_tiers.md R267). -/
def State.urge (s : State) (t k : Nat) : State :=
  if s.tier.readQ.any (fun r => decide (r.1 = t) && decide (k < r.2)) then
    s.modTier (fun z => { z with readQ := z.readQ.map (fun r => if r.1 = t then (t, k) else r) })
  else s

/-- Asks for the flash read of a tile that is in P or awaits a bypass read: it starts, or waits in its class while its
I/O die has 8,192 under way (09_memory_tiers.md R267, Table TIR-4). -/
def State.askFlash (s : State) (t k : Nat) : State :=
  if s.tier.readQ.any (fun r => decide (r.1 = t)) then s.urge t k
  else if s.flashReads (ioOf (tileChannel t)) ≤ 8192 then s
  else s.modTier (fun z => { z with readQ := z.readQ ++ [(t, k)] })

/-- A tile whose flash read is no longer wanted. -/
def State.noRead (s : State) (t : Nat) : State :=
  s.modTier (fun z => { z with readQ := z.readQ.filter (fun r => decide (r.1 ≠ t)) })

/-- Puts a tile in P for the slot it has: its flash read is asked for. -/
def State.intoP (s : State) (t k : Nat) : State := (s.setTile t { s.tile t with st := .p, bypass := .none }).askFlash t k

/-- Asks for a tile's promotion, F to P, in a class: 0 demand, 1 schedule, 2 hint (09_memory_tiers.md R267). False where
no slot can be had now. -/
def State.promote (s : State) (t k : Nat) : Bool × State :=
  match s.takeSlot (t / 4) with
  | .got s => (true, s.intoP t k)
  | .allPinned => (false, s)
  | .waits s => (false, s)

/-- Asks for a bypass read of a tile (09_memory_tiers.md R270). -/
def State.askBypass (s : State) (t : Nat) : State :=
  if (s.tile t).bypass = .asked then s.urge t 0
  else (s.setTile t { s.tile t with bypass := .asked }).askFlash t 0

/-- Fills the slot of a tile with zeros, which the extension looks up as a write of the migration
(09_memory_tiers.md Table TIR-6, 11_host_cores_and_cache.md R323). -/
def State.zeroSlot (s : State) (t : Nat) (st : TileSt) : State :=
  ((s.fillZero t).setTile t { s.tile t with st := st }).extLookup (tileAddr t) 4096 true

/-- A whole-tile write's tile: it needs no flash read (09_memory_tiers.md Table TIR-6). -/
def State.freshSlot (s : State) (t : Nat) : State :=
  ((s.fillZero t).setTile t { s.tile t with st := .d, bypass := .none }).noRead t

/-- A bypass write's tile: it goes to the channel's write group with what `fill` gives it (09_memory_tiers.md R270). -/
def State.groupWrite (s : State) (t : Nat) : State :=
  (((s.countBypass t).setTile t { s.tile t with st := .w, bypass := .none }).noRead t).enterGroup t

/-- What an access to one tile can do now: proceed, or wait, with what it has set off meanwhile. -/
inductive TRes where
  | go (s : State)
  | wait (s : State)

/-- An access to a tile that holds nothing, U (09_memory_tiers.md Table TIR-6, R270). -/
def State.accessU (s : State) (k : TAcc) (t : Nat) : TRes :=
  match k with
  | .read =>
    if s.pinFlash t then .go (s.countBypass t)
    else
      match s.takeSlot (t / 4) with
      | .got s => .go (s.zeroSlot t .r)
      | .allPinned => .go (s.countBypass t)
      | .waits s => .wait s
  | .whole =>
    match s.takeSlot (t / 4) with
    | .got s => .go (s.freshSlot t)
    | .allPinned => .go ((s.fillZero t).groupWrite t)
    | .waits s => .wait s
  | .part =>
    match s.takeSlot (t / 4) with
    | .got s => .go (s.zeroSlot t .d)
    | .allPinned => .go ((s.fillZero t).groupWrite t)
    | .waits s => .wait s

/-- An access to a tile in flash, F (09_memory_tiers.md Table TIR-6, R270). -/
def State.accessF (s : State) (k : TAcc) (t : Nat) : TRes :=
  let ready := decide ((s.tile t).bypass = .buffered)
  match k with
  | .read =>
    if ready then .go ((s.setTile t { s.tile t with bypass := .none }).countBypass t)
    else if s.pinFlash t then .wait (s.askBypass t)
    else
      match s.takeSlot (t / 4) with
      | .got s => .wait (s.intoP t 0)
      | .allPinned => .wait (s.askBypass t)
      | .waits s => .wait s
  | .whole =>
    match s.takeSlot (t / 4) with
    | .got s => .go (s.freshSlot t)
    | .allPinned => .go ((s.fillZero t).groupWrite t)
    | .waits s => .wait s
  | .part =>
    match s.takeSlot (t / 4) with
    | .got s => .wait (s.intoP t 0)
    | .allPinned => if ready then .go ((s.fillFromFlash t).groupWrite t) else .wait (s.askBypass t)
    | .waits s => .wait s

/-- One access to one tile (09_memory_tiers.md Table TIR-6, R267, R270, R271). One that finds the tile in W waits until its
page is programmed; the first such says how the tile then goes on. -/
def State.accessTile (s : State) (k : TAcc) (t : Nat) : TRes :=
  let x := s.tile t
  if s.regionWaits t then .wait s
  else
    match s.tileSt t with
    | .r => .go ((if k = .read then s else s.setTile t { x with st := .d }).touchSlot t)
    | .d => .go (s.touchSlot t)
    | .p => .wait (s.urge t 0)
    | .w => .wait (s.setTile t { x with wanted := x.wanted <|> some k })
    | .u => s.accessU k t
    | .f => s.accessF k t

/-- Accesses of a list of tiles one after another: those that can go have gone; true when all have. -/
def State.accessTiles (s : State) (k : TAcc) : List Nat → Bool × State
  | [] => (true, s)
  | t :: ts =>
    match s.accessTile k t with
    | .go s => s.accessTiles k ts
    | .wait s => let (_, s) := s.accessTiles k ts; (false, s)

/-- Whether an access to a tile would go without waiting. -/
def State.tileReady (s : State) (k : TAcc) (t : Nat) : Bool :=
  match s.accessTile k t with
  | .go _ => true
  | .wait _ => false

/-- Requests what the tiles that would make an access wait need, and nothing else. -/
def State.requestTiles (s : State) (k : TAcc) (ts : List Nat) : State :=
  ts.foldl (fun s t => match s.accessTile k t with | .go _ => s | .wait s' => s') s

/-- The kind of access that a write of n bytes at an address makes to a tile: whole only when it covers
the tile (09_memory_tiers.md Table TIR-6). -/
def writeKind (pa n t : Nat) : TAcc :=
  if pa ≤ tileAddr t ∧ tileAddr t + 4096 ≤ pa + n then .whole else .part

end Sys2Proof.Machine
end

