-- ==== Sys2Proof/Machine/Translate.lean ====
section
/-! DEFINITION. Translation: segment lookup, the quads' copies, the checks of an extent and the fault
records (10_segments.md R284 to R300). -/

namespace Sys2Proof.Machine

/-- Length of a segment in bytes (10_segments.md Table SEG-1). -/
def Seg.len (g : Seg) : Nat := g.len2m * 2 ^ 21
/-- Whether a valid segment covers an address (10_segments.md R285). -/
def Seg.covers (g : Seg) (va : Nat) : Bool := g.valid && decide (g.vbase ≤ va) && decide (va < g.vbase + g.len)
/-- The tier field (10_segments.md Table SEG-1). -/
def Seg.tier (g : Seg) : Nat := bits g.attr.toNat 4 2
/-- The coherent field. -/
def Seg.coherent (g : Seg) : Bool := bit g.attr.toNat 3

/-- The unit of a context (10_segments.md R289). -/
def stuOf (ctx : Nat) : Nat := ctx / 2048

/-- The unit's search of a context's 16 slots (10_segments.md R290). Valid segments of a context do not
overlap (R287), so the first that covers is the only one. -/
def Stu.lookup (t : Stu) (ctx va : Nat) : Option (Nat × Seg) :=
  ((List.range 16).map (fun i => (i, t.seg ctx i))).find? (fun p => p.2.covers va)

/-- The entry of a copy that covers an address of a context (10_segments.md R290). -/
def copyFind (l : List SegCopy) (ctx va : Nat) : Option SegCopy :=
  l.find? (fun c => decide (c.ctx = ctx) && c.seg.covers va)

/-- A copy after one of its entries is used: the most recent stands first. -/
def copyUse (l : List SegCopy) (c : SegCopy) : List SegCopy := c :: l.filter (fun e => decide (e ≠ c))

/-- A copy of 64 after a slot's descriptor joins it: the least-recently used entry leaves (10_segments.md R290). -/
def copyAdd (l : List SegCopy) (ctx slot : Nat) (g : Seg) : List SegCopy :=
  (⟨ctx, slot, g⟩ :: l.filter (fun c => !(decide (c.ctx = ctx) && decide (c.slot = slot)))).take 64

/-- A copy after the invalidation of a slot (10_segments.md R301). -/
def copyDrop (l : List SegCopy) (ctx slot : Nat) : List SegCopy :=
  l.filter (fun c => !(decide (c.ctx = ctx) && decide (c.slot = slot)))

/-- Counts a lookup that a copy missed at a context's unit (10_segments.md Table SEG-7). -/
def State.countLookup (s : State) (ctx : Nat) : State :=
  s.modStu (stuOf ctx) (fun t => { t with lookups := satAdd 0xFFFFFFFF t.lookups 1 })

/-- Asks a context's unit for the segment that covers an address and copies the answer into the quad
(10_segments.md R290): least-recently used entries leave a copy of 64. -/
def State.segMiss (s : State) (q ctx va : Nat) : Option (Nat × Seg) × State :=
  let r := (s.stu (stuOf ctx)).lookup ctx va
  let s := s.countLookup ctx
  let s := s.modQuad q (fun x => { x with segMisses := satAdd 0xFFFF x.segMisses 1 })
  match r with
  | none => (none, s)
  | some (i, g) => (some (i, g), s.modQuad q (fun x => { x with segCopy := copyAdd x.segCopy ctx i g }))

/-- A quad's lookup of an address in a context (10_segments.md R290): its copy, else the unit. -/
def State.segLookup (s : State) (q ctx va : Nat) : Option (Nat × Seg) × State :=
  match copyFind (s.quad q).segCopy ctx va with
  | some c => (some (c.slot, c.seg), s.modQuad q (fun x => { x with segCopy := copyUse x.segCopy c }))
  | none => s.segMiss q ctx va

/-- Permission bits of Table SEG-1's attr: read 1, write 2, atomic 4, hint 64. -/
def needRead : Nat := 1
def needWrite : Nat := 2
def needAtomic : Nat := 4
def needHint : Nat := 64

/-- Whether an attribute byte grants every permission of a mask (10_segments.md Table SEG-4). -/
def grants (attr : Byte) (need : Nat) : Bool := decide (attr.toNat &&& need = need)

/-- What the check of an extent answers (10_segments.md R293). -/
inductive XRes where
  | ok (e : Extent)
  | fault
  | perm
  | limit (end_ : Nat)
deriving DecidableEq, Repr

/-- Whether the tiered range takes no writes (09_memory_tiers.md R272). -/
def State.tierReadOnly (s : State) : Bool := decide (s.item 7 1 0 = 1) || s.tier.readOnly

/-- The checks of an extent against the segment found for its first byte, in the order SEG_FAULT,
SEG_PERM, SEG_LIMIT (07_commands_and_queues.md R198, 10_segments.md R293; 09 R272 for writes). -/
def checkSeg (readOnly : Bool) (ctx need va len : Nat) : Option (Nat × Seg) → XRes
  | none => .fault
  | some (i, g) =>
    if !(grants g.attr need) || (readOnly && decide (g.tier = 2) && bit need 1) then .perm
    else if g.vbase + g.len < va + len then .limit (g.vbase + g.len)
    else .ok ⟨va, g.pbase + (va - g.vbase), len, g.coherent, g.tier, ctx, i, g.gen⟩

/-- A quad's check of an extent. -/
def State.checkExtent (s : State) (q ctx need va len : Nat) : XRes × State :=
  let (r, s) := s.segLookup q ctx va
  (checkSeg s.tierReadOnly ctx need va len r, s)

/-- The segment that an Ethernet port finds for an address: in its own copy, else at the unit (10_segments.md R292). -/
def State.ethSeg (s : State) (n ctx va : Nat) : Option (Nat × Seg) :=
  match copyFind (s.eth n).segCopy ctx va with
  | some c => some (c.slot, c.seg)
  | none => (s.stu (stuOf ctx)).lookup ctx va

/-- What a port's lookup changes: its copy as a quad's (log entry 185 for its size), and on a miss the unit's count. -/
def State.ethAsk (s : State) (n ctx va : Nat) : State :=
  match copyFind (s.eth n).segCopy ctx va with
  | some c => s.modEth n (fun t => { t with segCopy := copyUse t.segCopy c })
  | none =>
    let s := s.countLookup ctx
    match (s.stu (stuOf ctx)).lookup ctx va with
    | some (i, g) => s.modEth n (fun t => { t with segCopy := copyAdd t.segCopy ctx i g })
    | none => s

/-- An Ethernet port's check of an extent. -/
def State.checkEth (s : State) (n ctx need va len : Nat) : XRes :=
  checkSeg s.tierReadOnly ctx need va len (s.ethSeg n ctx va)

/-- A check by a unit that has no copy: windows at opening, and queues at their rings (08 R243, 07 R215). -/
def State.checkDirect (s : State) (ctx need va len : Nat) : XRes :=
  checkSeg s.tierReadOnly ctx need va len ((s.stu (stuOf ctx)).lookup ctx va)

/-- The valid fault record of a key (10_segments.md R296). -/
def Stu.findFault (t : Stu) (ctx va : Nat) : Option Nat :=
  (List.range 64).find? (fun r => (t.fault r).valid && decide ((t.fault r).ctx = ctx) &&
    decide ((t.fault r).va / 2 ^ 21 = va / 2 ^ 21))

/-- The lowest free record; which record a unit takes is log entry 15. -/
def Stu.freeFault (t : Stu) : Option Nat := (List.range 64).find? (fun r => !(t.fault r).valid)

/-- Reports a fault of a queue at an address (10_segments.md R296 to R298): the record joined or made,
or none when 64 records are held. -/
def State.reportFault (s : State) (pq ctx va : Nat) : Option Nat × State :=
  let u := stuOf ctx
  let t := s.stu u
  match t.findFault ctx va with
  | some r => (some r, s.modStu u (fun t => t.setFault r { t.fault r with waiters := (t.fault r).waiters + 1 }))
  | none =>
    match t.freeFault with
    | none => (none, s.modStu u (fun t => { t with overflow := satAdd 0xFFFF t.overflow 1 }))
    | some r =>
      let s := s.modStu u (fun t =>
        { t.setFault r ⟨true, 1, ctx, va, pq, BitVec.ofNat 32 s.drone⟩ with faultPending := true })
      (some r, s.raiseIrq (1024 + u))

/-- A suspended command ends some other way (10_segments.md R300). -/
def State.leaveFault (s : State) (u r : Nat) : State :=
  s.modStu u (fun t => t.setFault r { t.fault r with waiters := (t.fault r).waiters - 1 })

end Sys2Proof.Machine
end

