-- ==== Sys2Proof/Machine/Access.lean ====
section
/-! DEFINITION. Reads and writes of physical memory by agents without a cache: quad stations, ports and
uncached host accesses. One access sees the newest copy of a coherent line, a tile of the tiered range
through its state, poison, and the die-pool extension's lookups (08_memory_model.md R226, 09 R266, 11
R323, 12 R350). -/

namespace Sys2Proof.Machine

/-- Whether a read of a range can go now: no transaction open on its lines when coherent, and its tiles
ready (12_coherence.md R339, 09_memory_tiers.md R267). -/
def State.readReady (s : State) (coherent : Bool) (pa n : Nat) : Bool :=
  !(coherent && s.cohBusy pa n) && (!(isTiered pa) || (tilesOf pa n).all (s.tileReady .read))

/-- Whether a write of a range can go now. -/
def State.writeReady (s : State) (coherent : Bool) (pa n : Nat) : Bool :=
  !(coherent && s.cohBusy pa n) && (!(isTiered pa) || (tilesOf pa n).all (fun t => s.tileReady (writeKind pa n t) t))

/-- Sets off what a read that must wait needs: promotions and bypass reads (09 R267, R270). -/
def State.requestRead (s : State) (pa n : Nat) : State :=
  if isTiered pa then s.requestTiles .read (tilesOf pa n) else s

/-- Sets off what a write that must wait needs. -/
def State.requestWrite (s : State) (pa n : Nat) : State :=
  if isTiered pa then (tilesOf pa n).foldl (fun s t => s.requestTiles (writeKind pa n t) [t]) s else s

/-- The bytes a read of a range returns. -/
def State.readPhys (s : State) (coherent : Bool) (pa n : Nat) : List Byte :=
  if coherent then s.cohBytes pa n else s.baseBytes pa n

/-- Whether a read of a range returns poison (12_coherence.md R350, 09_memory_tiers.md R263). -/
def State.readPoison (s : State) (coherent : Bool) (pa n : Nat) : Bool :=
  if coherent then s.cohPoison pa n else (sectorsOf pa n).any s.basePoison

/-- What a read that goes changes: tile states and the extension's counters. -/
def State.didRead (s : State) (pa n : Nat) : State :=
  let s := if isTiered pa then (s.accessTiles .read (tilesOf pa n)).2 else s
  s.extLookup pa n false

/-- One write access to a tile that is about to be written. A tile that the same step has evicted since it
was ready is merged as a bypass write is: its bytes are brought into the write group (09_memory_tiers.md R267,
R270). -/
def State.touchTile (s : State) (k : TAcc) (t : Nat) : State :=
  match s.accessTile k t with
  | .go s => s
  | .wait _ => s.openTile t

/-- A write of a range. -/
def State.writePhys (s : State) (coherent : Bool) (pa : Nat) (bs : List Byte) : State :=
  let n := bs.length
  let s := if isTiered pa then (tilesOf pa n).foldl (fun s t => s.touchTile (writeKind pa n t) t) s else s
  let s := s.extLookup pa n true
  if coherent then s.cohWrite pa bs else s.writeMem pa bs

/-- Whether a write of a range is refused for poison: it covers a poisoned sector only in part
(12_coherence.md R350). -/
def State.writePoison (s : State) (coherent : Bool) (pa n : Nat) : Bool :=
  let bad := fun (sec : Nat) => if coherent then s.cohPoison (sec * 64) 1 else s.basePoison sec
  (decide (pa % 64 ≠ 0) && decide (0 < n) && bad (pa / 64)) ||
  (decide ((pa + n) % 64 ≠ 0) && decide (0 < n) && bad ((pa + n) / 64))

/-- Whether the write of a range with a stash target can go now. -/
def State.hintedReady (s : State) (t : Stash) (coherent : Bool) (pa n : Nat) : Bool :=
  s.writeReady coherent pa n && s.hintReady t coherent pa n

/-- A die's write of a range passes the detector of the port by which it enters each compute die
(11_host_cores_and_cache.md R324). -/
def State.passPorts (s : State) (from_ pa n : Nat) : State :=
  (sectorsOf pa n).foldl (fun s l =>
    match s.portDetector from_ (l * 64) with
    | some det => if pa ≤ l * 64 ∧ l * 64 + 64 ≤ pa + n then (s.streamWrite det l).2 else s.streamPart det l
    | none => s) s

/-- A die's write of a range with a stash target: every full line of a coherent write installs, every other hinted
sector drops its hint (11_host_cores_and_cache.md R324, R326 to R328). -/
def State.writeHinted (s : State) (from_ : Nat) (t : Stash) (coherent : Bool) (pa : Nat) (bs : List Byte) : State :=
  let s := (s.passPorts from_ pa bs.length).writePhys coherent pa bs
  if t = .none then s
  else (sectorsOf pa bs.length).foldl (fun s l =>
    if coherent ∧ pa ≤ l * 64 ∧ l * 64 + 64 ≤ pa + bs.length then
      s.sendInstall t l ((bs.drop (l * 64 - pa)).take 64)
    else s.dropStash t) s

end Sys2Proof.Machine
end

