-- ==== Sys2Proof/Machine/SyncOps.lean ====
section
/-! DEFINITION. Sync objects at their homes: operations, registered conditions and wakes
(08_memory_model.md R229 to R238). -/

namespace Sys2Proof.Machine

/-- The die that holds an object (08_memory_model.md R234). -/
def objDie (obj : Nat) : Nat := obj / 4096

/-- The value of an object. -/
def State.syncVal (s : State) (obj : Nat) : Dword := Table.get 0 s.sync obj

/-- Whether a value meets a condition (08_memory_model.md Table MEM-3). -/
def Cond.met (c : Cond) (v : Dword) : Bool :=
  if c.eq then decide (v = c.value) else decide (c.value.toNat ≤ v.toNat)

/-- Whether a scope, taken by an agent, contains a quad (08_memory_model.md R229, Table MEM-1). -/
def scopeHasQuad (sc : Scope) (a : Agent) (q : Nat) : Bool :=
  match sc, a with
  | .quad, .quad p => decide (p = q)
  | .die, .quad p => decide (p / 16 = q / 16)
  | .quad, _ => false
  | .die, _ => false
  | .package, _ => true
  | .system, _ => true

/-- The value an operation leaves (08_memory_model.md Table MEM-3). -/
def applySync (o : SyncOp) (v : Dword) : Dword := if o.isSet then o.value else v + o.value

/-- The registrations held by a die's home. -/
def State.regsOf (s : State) (d : Nat) : List Reg := Table.get [] s.regs d

/-- Sends a wake to a registered command's quad (08_memory_model.md R233). -/
def State.wake (s : State) (r : Reg) : State :=
  s.modQuad r.q (fun x => { x with wakes := x.wakes ++ [⟨r.j, r.idx, r.cond.obj⟩] })

/-- One operation at an object: the value moves, and every registered condition that it meets inside
the operation's scope is woken and withdrawn (08_memory_model.md R233, R236, R237). -/
def State.syncOne (s : State) (obj : Nat) (o : SyncOp) : State :=
  let v := applySync o (s.syncVal obj)
  let d := objDie obj
  let hit := fun (r : Reg) => decide (r.cond.obj = obj) && r.cond.met v && scopeHasQuad o.scope o.agent r.q
  let rs := s.regsOf d
  let s := { s with sync := Table.put 0 s.sync obj v,
                    regs := Table.put [] s.regs d (rs.filter (fun r => !hit r)) }
  (rs.filter hit).foldl State.wake s

/-- The die that an agent's operations come from (log entry 186 for the management ports and the step unit). -/
def syncFrom : Agent → Nat
  | .quad q => q / 16
  | .core c => 4 + c / 64
  | .mgmt => 6
  | .stepUnit => 6
  | .pcie p => 6 + p
  | .eth n => 6 + n / 2

/-- Whether an operation's way to its object is open: every bridge that it crosses passes traffic (01_package.md R25). -/
def State.syncWay (s : State) (obj : Nat) (o : SyncOp) : Bool := s.pathUp (syncFrom o.agent) (objDie obj) 0

/-- Holds an operation. -/
def State.holdSync (s : State) (obj : Nat) (o : SyncOp) : State :=
  s.modBoot (fun b => { b with heldSync := b.heldSync ++ [(obj, o)] })

/-- An operation that reaches an object's home: it waits while the home's die is in reset
(18_boot_and_reset.md R465). -/
def State.syncArrive (s : State) (obj : Nat) (o : SyncOp) : State :=
  if s.boot.diesInReset.contains (objDie obj) then s.holdSync obj o else s.syncOne obj o

/-- An operation sent to an object's home: a bridge on its way that retrains holds it (01_package.md R25). -/
def State.syncOp (s : State) (obj : Nat) (o : SyncOp) : State :=
  if s.syncWay obj o then s.syncArrive obj o else s.holdSync obj o

/-- Registers a command's condition at its home (08_memory_model.md R237). -/
def State.register (s : State) (r : Reg) : State :=
  let d := objDie r.cond.obj
  { s with regs := Table.put [] s.regs d (s.regsOf d ++ [r]) }

/-- Withdraws a command's registration (08_memory_model.md R237). -/
def State.unregister (s : State) (q j : Nat) (idx : Word) (obj : Nat) : State :=
  let d := objDie obj
  let keep := (s.regsOf d).filter (fun r => !(decide (r.q = q) && decide (r.j = j) && decide (r.idx = idx)))
  { s with regs := Table.put [] s.regs d keep }

/-- Drops the wakes on their way to a command. -/
def State.dropWakes (s : State) (q j : Nat) (idx : Word) : State :=
  s.modQuad q (fun x => { x with wakes := x.wakes.filter (fun w => !(decide (w.j = j) && decide (w.idx = idx))) })

/-- The conditions of a command: the header's, when wait_en is set, then a WAIT's entries
(07_commands_and_queues.md R210, Table CMD-10). -/
def condsOf (d : List Byte) : List Cond :=
  let hdr : List Cond :=
    if dWaitEn d then [⟨dWaitObj d, dWaitScope d, dWaitEq d, BitVec.ofNat 64 (dWaitValue d)⟩] else []
  if opcodeOf d = opWait then
    hdr ++ (List.range (bits (body d 0 1) 0 3)).map (fun i =>
      ⟨bits (body d (8 + 16 * i) 2) 0 14, scopeOf (bits (body d (8 + 16 * i) 2) 14 2),
       decide (body d (10 + 16 * i) 1 = 1), BitVec.ofNat 64 (body d (16 + 16 * i) 8)⟩)
  else hdr

/-- The signals of a command that ends OK: the header's, then a SIGNAL's entries, each by its quad
(07_commands_and_queues.md R193, R210). -/
def signalsOf (q : Nat) (d : List Byte) : List (Nat × SyncOp) :=
  let hdr : List (Nat × SyncOp) :=
    if dSigEn d then [(dSigObj d, ⟨.quad q, dSigScope d, dSigSet d, BitVec.ofNat 64 (dSigValue d)⟩)] else []
  if opcodeOf d = opSignal then
    hdr ++ (List.range (bits (body d 0 1) 0 3)).map (fun i =>
      (bits (body d (8 + 16 * i) 2) 0 14,
       ⟨.quad q, scopeOf (bits (body d (8 + 16 * i) 2) 14 2), decide (body d (10 + 16 * i) 1 = 1),
        BitVec.ofNat 64 (body d (16 + 16 * i) 8)⟩))
  else hdr

/-- Performs a list of signals in order. -/
def State.syncAll (s : State) (l : List (Nat × SyncOp)) : State :=
  l.foldl (fun s p => s.syncOp p.1 p.2) s

/-- Lets the held operations go whose way is open and whose home is not in reset, in the order of their holding. -/
def State.releaseSync (s : State) : State :=
  let free := fun (p : Nat × SyncOp) => s.syncWay p.1 p.2 && !(s.boot.diesInReset.contains (objDie p.1))
  (s.modBoot (fun b => { b with heldSync := b.heldSync.filter (fun p => !(free p)) })).syncAll (s.boot.heldSync.filter free)

end Sys2Proof.Machine
end

