-- ==== Sys2Proof/Machine/QueueOps.lean ====
section
/-! DEFINITION. How a command ends: its completion record, signal and interrupt, the queue's DONE and
error stop, and the claims of stations (07_commands_and_queues.md R193, R213 to R220;
02_stations_and_routes.md R60, R63). -/

namespace Sys2Proof.Machine

/-- Ring slots of a queue (07_commands_and_queues.md R213). -/
def Queue.size (x : Queue) : Nat := 2 ^ x.log2Size

/-- DONE after an index has ended: past every ended index (07_commands_and_queues.md R213). -/
def advanceDone : Nat → Word → List Word → Word × List Word
  | 0, d, l => (d, l)
  | n + 1, d, l => if l.contains d then advanceDone n (d + 1) (l.filter (· ≠ d)) else (d, l)

/-- Marks an index ended. -/
def Queue.finish (x : Queue) (idx : Word) : Queue :=
  let l := x.ended ++ [idx]
  let (d, l) := advanceDone l.length x.done l
  { x with done := d, ended := l }

/-- Whether every earlier command of the queue has completed (07_commands_and_queues.md R217). -/
def Queue.allBefore (x : Queue) (idx : Word) : Bool := decide (x.done = idx)

/-- The completion record of a command (07_commands_and_queues.md R218, Table CMD-12). -/
def recordBytes (d : List Byte) (status : Nat) (idx : Word) (size drone : Nat) (detail : Dword) (tiles : Nat) :
    List Byte :=
  leBytes 2 (dTag d) ++ leBytes 1 status ++ leBytes 1 (opcodeOf d) ++ leBytes 4 idx.toNat ++
  leBytes 8 drone ++ leBytes 8 detail.toNat ++ leBytes 4 tiles ++ [0, 0, 0] ++
  leBytes 1 ((idx.toNat / size + 1) % 2)

/-- The status of an extent check that did not pass. -/
def XRes.status : XRes → Nat
  | .ok _ => stOk
  | .fault => stSegFault
  | .perm => stSegPerm
  | .limit _ => stSegLimit

/-- Writes 32 bytes of a completion record into a queue's completion ring; answers the status of a
write that faults, or OK (07_commands_and_queues.md R215, R218). -/
def State.writeRecord (s : State) (q j : Nat) (idx : Word) (bs : List Byte) : Nat × State :=
  let x := s.queue q j
  let va := x.cpl.toNat + 32 * (idx.toNat % x.size)
  match s.checkDirect x.context needWrite va 32 with
  | .ok e =>
    if s.hostClosed e.pa then (stHostReset, s)
    else if s.writePoison e.coherent e.pa 32 then (stPoison, s)
    else (stOk, s.writePhys e.coherent e.pa bs)
  | r => (r.status, s)

/-- Withdraws what a waiting command holds: its registration and wakes, or its place on a fault record
(08_memory_model.md R237, 10_segments.md R300). -/
def State.releaseWait (s : State) (q j : Nat) (c : Cmd) : State :=
  match c.phase with
  | .waitCond => (s.unregister q j c.idx (c.conds.headD ⟨0, .quad, false, 0⟩).obj).dropWakes q j c.idx
  | .waitFault u r => s.leaveFault u r
  | _ => s

/-- Removes a command from its queue: from the wait slot or from the decoded commands. -/
def Queue.remove (x : Queue) (idx : Word) : Queue :=
  { x with slot := x.slot.bind (fun c => if c.idx = idx then none else some c),
           cmds := x.cmds.filter (fun c => decide (c.idx ≠ idx)) }

/-- The order stamps of everything a queue has fetched and not ended (07_commands_and_queues.md R210). -/
def Queue.stamps (x : Queue) : List Nat :=
  x.fetched.map Fetched.stamp ++ x.slot.toList.map Cmd.stamp ++ x.cmds.map Cmd.stamp

/-- Whether an ordered command or a FENCE may become ready: every earlier command of its queue has
completed, and with all_queues every command fetched earlier from a queue of the same context
(07_commands_and_queues.md R210, R217). Other commands are held by no order. -/
def State.orderMet (s : State) (q j : Nat) (c : Cmd) : Bool :=
  let x := s.queue q j
  (!(dOrdered c.desc || decide (opcodeOf c.desc = opFence)) || x.allBefore c.idx) &&
  (!(decide (opcodeOf c.desc = opFence) && bit (body c.desc 0 1) 0) ||
    (List.range 16).all (fun i => decide (i = j) || decide ((s.queue q i).context ≠ x.context) ||
      (s.queue q i).stamps.all (fun t => decide (c.stamp ≤ t))))

/-- Lets go of the wait slot of one queue when its command waits on order alone and the order is met. -/
def State.promoteOne (s : State) (q j : Nat) : State :=
  match (s.queue q j).slot with
  | some c =>
    if c.phase = .waitOrder ∧ s.orderMet q j c then
      s.modQueue q j (fun x => { x with slot := none, cmds := x.cmds ++ [{ c with phase := .ready }] })
    else s
  | none => s

/-- Makes ready every command of a quad that waited on order and waits no longer (R216, R217). -/
def State.promoteAll (s : State) (q : Nat) : State := (List.range 16).foldl (fun s j => s.promoteOne q j) s

/-- Ends one command with a status: record, then signal, then interrupt, as R193, R218 and R191 give.
Answers the status of a record write that faulted, or OK. -/
def State.finishCmd (s : State) (q j : Nat) (c : Cmd) (status : Nat) (detail : Dword) : Nat × State :=
  let good := decide (status = stOk) || decide (status = stOkLate)
  let s := s.modQuad q (fun x =>
    { x.modQueue j (fun y => (y.remove c.idx).finish c.idx) with
      reservation := if x.reservation = some (j, c.idx) then none else x.reservation })
  let needs := dCpl c.desc || !good
  let (f, s) := if needs then
      s.writeRecord q j c.idx (recordBytes c.desc status c.idx (s.queue q j).size s.drone detail c.tiles)
    else (stOk, s)
  let s := if good then s.syncAll (signalsOf q c.desc) else s
  let s := if needs && dIrq c.desc && decide (f = stOk) then s.raiseIrq (16 * q + j) else s
  (f, s.promoteAll q)

/-- Notes the first failure in LAST_ERR (07_commands_and_queues.md Table CMD-17). -/
def State.noteErr (s : State) (q j : Nat) (status opcode : Nat) (idx : Word) : State :=
  s.modQueue q j (fun x =>
    if x.lastErr = 0 then { x with lastErr := BitVec.ofNat 32 (status * 2 ^ 24 + opcode * 2 ^ 16 + idx.toNat % 2 ^ 16) }
    else x)

/-- A stopping queue with nothing left reaches STOPPED, or DISABLED where enable was cleared
(07_commands_and_queues.md R219, R220). -/
def Queue.settle (x : Queue) : Queue :=
  if x.state = .stopping ∧ x.cmds = [] ∧ x.slot = none then
    { x with state := if x.thenDisabled then .disabled else .stopped,
             error := if x.thenError then true else x.error, thenDisabled := false, thenError := false }
  else x

/-- A completion record that could not be written stops the queue with error set, and LAST_ERR holds the status
(07_commands_and_queues.md R215). -/
def State.recordFault (s : State) (q j : Nat) (c : Cmd) (f : Nat) : State :=
  if f < 0x10 then s
  else (s.noteErr q j f (opcodeOf c.desc) c.idx).modQueue q j (fun x =>
    if x.state = .stopping then { x with thenError := true } else x)

/-- Ends every command of a queue that has not started, ABORTED, each with its record
(07_commands_and_queues.md R218 to R220). -/
def State.endUnstarted (s : State) (q j : Nat) : State :=
  let x := s.queue q j
  let l := x.cmds.filter (fun c => decide (c.phase ≠ .running)) ++ x.slot.toList
  l.foldl (fun s c =>
    let (f, s) := (s.releaseWait q j c).finishCmd q j c stAborted 0
    s.recordFault q j c f) s

/-- The error stop (07_commands_and_queues.md R219). -/
def State.errorStop (s : State) (q j : Nat) : State :=
  let s := s.modQueue q j (fun x => { x with state := .stopping, thenError := true })
  (s.endUnstarted q j).modQueue q j Queue.settle

/-- Ends a command and gives the queue what follows: LAST_ERR and, with stop_on_error, the error stop; a
record write that faults stops the queue the same way (07_commands_and_queues.md R215, R219). -/
def State.endCmd (s : State) (q j : Nat) (c : Cmd) (status : Nat) (detail : Dword) : State :=
  let (f, s) := s.finishCmd q j c status detail
  let s := if status ≥ 0x10 ∧ status ≠ stAborted then s.noteErr q j status (opcodeOf c.desc) c.idx else s
  let s := s.recordFault q j c f
  let x := s.queue q j
  if x.state = .running ∧ ((status ≥ 0x10 ∧ x.stopOnError) ∨ f ≥ 0x10) then s.errorStop q j
  else s.modQueue q j Queue.settle

/-- The extent that a command holds for the word at a body offset (10_segments.md R291). -/
def Cmd.ext (c : Cmd) (off : Nat) : Option Extent := (c.exts.find? (fun e => decide (e.1 = off))).map Prod.snd

/-- A record of an error that concerns a command of a quad (15_resilience.md Table RES-5). -/
def State.cmdRec (s : State) (cls source code q j : Nat) (c : Cmd) (status : Nat) (addr : Option Nat) : ErrRec :=
  { errRec cls source code (q / 16) q with
    phys := (s.physOf q).getD 0xFF, flags := flag (s.quad q).suspect 0, context := (s.queue q j).context, queue := 16 * q + j,
    tag := dTag c.desc, status := status, opcode := opcodeOf c.desc,
    addr := match addr with | some a => BitVec.ofNat 64 (2 ^ 63 + a) | none => 0 }

/-- The command of an index among a queue's decoded commands. -/
def Queue.find (x : Queue) (idx : Word) : Option Cmd := x.cmds.find? (fun c => decide (c.idx = idx))

/-- Replaces a decoded command. -/
def Queue.setCmd (x : Queue) (c : Cmd) : Queue :=
  { x with cmds := x.cmds.map (fun d => if d.idx = c.idx then c else d) }

/-- Replaces a decoded command. -/
def State.setCmd (s : State) (q j : Nat) (c : Cmd) : State := s.modQueue q j (fun x => x.setCmd c)

/-! ### Claims -/

/-- The stations and lanes held by the running commands of a quad (02_stations_and_routes.md R60). -/
def Quad.claims (x : Quad) : List (Nat × Nat) :=
  x.queues.flatMap (fun e => e.2.cmds.flatMap (fun c => c.held))

/-- Lanes of a station: INTAKE 6, CROOK 2, BELL 2, others 1 (02_stations_and_routes.md Table STN-2). -/
def lanesOf (st : Nat) : Nat := if st = stIntake then 6 else if st = stCrook then 2 else if st = stBell then 2 else 1

/-- Lanes of a station that a list of claims takes. -/
def lanesIn (l : List (Nat × Nat)) (st : Nat) : Nat := ((l.filter (fun p => decide (p.1 = st))).map Prod.snd).sum

/-- Whether a set of claims fits beside others. -/
def fits (taken need : List (Nat × Nat)) : Bool :=
  need.all (fun p => decide (lanesIn taken p.1 + lanesIn need p.1 ≤ lanesOf p.1))

end Sys2Proof.Machine
end

