-- ==== Sys2Proof/Machine/Bodies.lean ====
section
/-! DEFINITION. The bodies of the descriptors and what decode checks in them before any extent: steps 1 to
4 of 07_commands_and_queues.md R198, the extents of step 6, and the stations a command claims
(02_stations_and_routes.md R55 to R60). -/

namespace Sys2Proof.Machine

/-! ### Routes (Table STN-4) -/

/-- Whether a route has a station. -/
def onRoute (d : List Byte) (st : Nat) : Bool := (routeOf (dRoute d)).contains st
/-- The sink of a route. -/
def sinkOf (d : List Byte) : Nat := (routeOf (dRoute d)).getLastD 0
/-- Whether the route ends in BELL. -/
def toBell (d : List Byte) : Bool := decide (sinkOf d = stBell)
/-- The array of a route: 0 or 1. -/
def arrayOf (d : List Byte) : Nat := if onRoute d stArray1 then 1 else 0

/-- An optional station and then the rest. -/
def opt (st : Nat) (l : List (List Nat)) : List (List Nat) := l ++ l.map (st :: ·)
/-- The sinks BELL and PORT. -/
def sinks : List (List Nat) := [[stBell], [stPort]]
/-- Either array, and then the rest. -/
def arrays (l : List (List Nat)) : List (List Nat) := l.map (stArray0 :: ·) ++ l.map (stArray1 :: ·)

/-- The route shapes of an opcode (Table STN-4). -/
def shapes (op : Nat) : List (List Nat) :=
  if op = opMove then (opt stCrook [[stBell]]).map (stIntake :: ·)
  else if op = opSend then (opt stCrook [[stPort]]).map (stIntake :: ·)
  else if op = opGemm ∨ op = opGemmT then (opt stCrook (arrays (opt stReed sinks))).map (stIntake :: ·)
  else if op = opNormBack ∨ op = opSoftmaxBack then
    (opt stCrook (arrays (sinks.map (stReed :: ·)))).map (stIntake :: ·)
  else if op = opGemv then ((opt stReed sinks).map (stChanter :: ·)).map (stIntake :: ·)
  else if op = opVecop then (sinks.map (stReed :: ·)).map (stIntake :: ·)
  else if op = opGather then (opt stReed sinks).map (stGather :: ·)
  else if op = opScatter then (opt stReed [[stGather]]).map (stIntake :: ·)
  else [[]]

/-- Whether a route is legal for its opcode (R57, R58): no non-zero slot after a zero one, and a shape of
Table STN-4, which leaves no reserved code and no station twice. -/
def routeOk (op r : Nat) : Bool :=
  decide (slots r = routeOf r ++ List.replicate (6 - (routeOf r).length) 0) && (shapes op).contains (routeOf r)

/-! ### Fields of the bodies -/

/-- A shape field: (size ÷ 64) − 1 (R195). -/
def dim64 (d : List Byte) (off n : Nat) : Nat := (body d off n + 1) * 64

/-- The mode of a GEMM_T (Table CMD-3). -/
def gMode (d : List Byte) : Nat := bits (body d 0x39 1) 1 2
/-- m, k and n of a product (Tables CMD-3 and CMD-5, Table BWD-1). -/
def gDims (d : List Byte) : Nat × Nat × Nat :=
  let x := dim64 d 0x30 2
  let y := dim64 d 0x32 2
  let z := dim64 d 0x34 2
  if opcodeOf d = opGemmT then (if gMode d = 0 then (x, z, y) else (y, x, z))
  else (x, y, z)
/-- m, k and n of a fused command (Table CMD-5). -/
def fDims (d : List Byte) : Nat × Nat × Nat :=
  (dim64 d 0x50 2, dim64 d 0x52 2, (bits (body d 0x5C 1) 0 4 + 1) * 64)

/-- The fields by which an opcode controls the Reed behind another station (Table CMD-4). -/
structure ReedCtl where
  fmt2 : Nat
  reduce : Bool
  mode : Nat
  nsteps : Nat
deriving DecidableEq, Repr

/-- reed_ctl at a body offset. -/
def reedCtl (d : List Byte) (off : Nat) : ReedCtl :=
  let v := body d off 2
  ⟨bits v 8 8, bit v 7, bits v 4 2, bits v 0 4⟩

/-- The body offset of reed_ctl, for the opcodes that have one. -/
def reedOff (op : Nat) : Option Nat :=
  if op = opGemm ∨ op = opGemmT ∨ op = opGather ∨ op = opScatter then some 0x3C
  else if op = opGemv then some 0x38 else none

/-- reed_ctl of a command with REED in its route. -/
def reedOf (d : List Byte) : Option ReedCtl :=
  match reedOff (opcodeOf d) with
  | some o => if onRoute d stReed then some (reedCtl d o) else none
  | none => none

/-- VECOP's control word (Table CMD-7). -/
structure Vctl where
  fn : Nat
  mode : Nat
  nsteps : Nat
  pass1 : Nat
  reduce : Nat
  stash : Bool
deriving DecidableEq, Repr

/-- vctl of a VECOP. -/
def vctlOf (d : List Byte) : Vctl :=
  let v := body d 0x3E 2
  ⟨bits v 0 3, bits v 3 2, bits v 5 4, bits v 9 4, bits v 13 2, bit v 15⟩
/-- The first n steps at a body offset. -/
def stepsAt (d : List Byte) (off n : Nat) : List Nat := (List.range n).map (fun i => body d (off + 2 * i) 2)
/-- A VECOP's steps. -/
def vSteps (d : List Byte) : List Nat := stepsAt d 0x40 (vctlOf d).nsteps
/-- Rows and columns of a VECOP. -/
def vDims (d : List Byte) : Nat × Nat := (dim64 d 0x38 2, dim64 d 0x3A 1)

/-- Fields of a GATHER_POOL or SCATTER_ADD (Table CMD-8). -/
structure GatherB where
  rows : Nat
  bags : Nat
  rowBytes : Nat
  feats : Nat
  pool : Nat
  fTable : Nat
  fIo : Nat
  mode : Nat
  count : Nat
  variable_ : Bool
deriving DecidableEq, Repr

/-- The body of a GATHER_POOL or SCATTER_ADD. -/
def gatherOf (d : List Byte) : GatherB :=
  { rows := body d 0x30 4, bags := body d 0x34 2 + 1, rowBytes := (bits (body d 0x36 1) 0 7 + 1) * 32,
    feats := bits (body d 0x37 1) 0 6 + 1, pool := body d 0x38 1 + 1, fTable := body d 0x39 1,
    fIo := body d 0x3A 1, mode := bits (body d 0x3B 1) 0 2, count := body d 0x40 4,
    variable_ := present d 0x10 }
/-- Elements of a table row. -/
def GatherB.width (g : GatherB) : Nat := g.rowBytes / elemB g.fTable
/-- Rows of the io matrix: bags rounded up to 64 (R205). -/
def GatherB.ioRows (g : GatherB) : Nat := ceilDiv g.bags 64 * 64
/-- Columns of the io matrix. -/
def GatherB.ioCols (g : GatherB) : Nat := g.feats * g.width

/-- NORM_BACK and SOFTMAX_BACK flags (Table CMD-5): kind, recompute, no_affine. -/
def nKind (d : List Byte) : Nat := bits (body d 0x5C 1) 4 2
/-- recompute. -/
def nRecompute (d : List Byte) : Bool := bit (body d 0x5C 1) 6
/-- no_affine. -/
def nNoAffine (d : List Byte) : Bool := bit (body d 0x5C 1) 7
/-- fmt_stat. -/
def nFmtStat (d : List Byte) : Nat := bits (body d 0x5D 1) 0 4
/-- The mid format's code, or 3 where none. -/
def nMid (d : List Byte) : Nat := bits (body d 0x5D 1) 4 2
/-- The mid format (Table CMD-5). -/
def midFmt (n : Nat) : Nat := if n = 0 then fFp32 else if n = 1 then fG16 else fE5m2

/-! ### Step 1: reserved opcodes and control encodings (BAD_OPCODE) -/

/-- Whether a command has any condition to wait on (R192). -/
def hasCond (d : List Byte) : Bool :=
  dWaitEn d || (decide (opcodeOf d = opWait) && decide (bits (body d 0 1) 0 3 ≠ 0))

/-- Whether a VECOP's control word or program is rejected (Table CMD-7, R164, R166, R168). The steps of a VECOP of
functions 2 to 4, which run no program, are not looked at: DESIGN CHOICE, log entry 178. -/
def vctlBad (d : List Byte) : Bool :=
  let v := vctlOf d
  let p := vSteps d
  decide (5 ≤ v.fn) || decide (8 < v.nsteps) || decide (v.reduce = 3) ||
  ((decide (v.fn = 2) || decide (v.fn = 3)) && decide (2 ≤ v.mode)) ||
  (decide (v.fn = 4) && decide (v.mode ≠ 0)) ||
  (decide (v.fn = 1) && decide (v.nsteps < v.pass1)) ||
  (v.stash && !(decide (v.fn = 2) || decide (v.fn = 3))) ||
  (decide (v.fn = 0) && !onePassOk p) ||
  (decide (v.fn = 1) && !twoPassOk (p.take v.pass1) (p.drop v.pass1)) ||
  (decide (v.reduce = 1) && decide (v.fn ≠ 1)) ||
  (decide (v.reduce = 2) && !((decide (v.fn = 0) || decide (v.fn = 1)) && p.any isColRed))

/-- Whether step 1 of R198 rejects. -/
def badOpcode (d : List Byte) : Bool :=
  let op := opcodeOf d
  decide (op = 0) || decide (16 < op) || (hasCond d && decide (48 ≤ dTimeout d)) ||
  (match reedOf d with
   | some r => decide (8 < r.nsteps) || (r.reduce && decide (r.nsteps = 0) && decide (op ≠ opGather) && decide (op ≠ opScatter)) ||
      ((decide (op = opGather) || decide (op = opScatter)) && decide (r.mode ≠ 0))
   | none => false) ||
  (decide (op = opGemmT) && decide (2 ≤ gMode d)) ||
  (decide (op = opNormBack) && (decide (nKind d = 0) || decide (nKind d = 3))) ||
  (decide (op = opVecop) && vctlBad d) ||
  (decide (op = opGather) && decide ((gatherOf d).mode = 3)) ||
  (decide (op = opScatter) && decide (2 ≤ (gatherOf d).mode)) ||
  ((decide (op = opSignal) || decide (op = opWait)) &&
    (List.range (min 4 (bits (body d 0 1) 0 3))).any (fun i => decide (2 ≤ body d (10 + 16 * i) 1))) ||
  (decide (op = opPrefetch) && (decide (body d 0x0C 1 ≠ 0) || decide (bits (body d 0x0D 1) 0 2 ≠ 0))) ||
  (decide (op = opMigrate) && (decide (2 ≤ body d 0x0C 1) || decide (bits (body d 0x0D 1) 0 2 = 3)))

/-! ### Step 2: the route (BAD_ROUTE) -/

/-- Whether step 2 of R198 rejects (R57, R58, R136). No flag of Table CMD-5 asks for a transposed stationary operand, so
05_backward_pass.md R138 rejects no fused command here: DEDUCED, log entry 177. -/
def badRoute (d : List Byte) : Bool :=
  let op := opcodeOf d
  !routeOk op (dRoute d) ||
  (decide (op = opGemmT) && (decide (gMode d = 0) != onRoute d stCrook))

/-! ### Step 3: formats, rounding and alignment (BAD_FORMAT) -/

/-- Whether a format code names element values. -/
def valueFmt (f : Nat) : Bool := decide (1 ≤ f) && decide (f ≤ 8)
/-- Whether stochastic rounding is available for a target (R85). -/
def srFmt (f : Nat) : Bool := [fE4m3, fE5m2, fBf16, fG16].contains f
/-- Whether the rounding mode suits a result format. -/
def srOk (d : List Byte) (f : Nat) : Bool := !dSr d || srFmt f
/-- Whether an MXFP4 operand or result has its record word (R95). -/
def mxOk (d : List Byte) (f recOff : Nat) : Bool := decide (f ≠ fMxfp4) || present d recOff
/-- Whether the word at an offset, where present, is aligned. -/
def aligned (d : List Byte) (off k : Nat) : Bool := !present d off || decide (addrOf d off % k = 0)
/-- Whether a product's formats fit (R105). -/
def classOk (fa fb fc : Nat) : Bool :=
  match clsOf fa with
  | some c => decide (clsOf fb = some c) && (clsResults c).contains fc
  | none => false
/-- Whether the second operand of a Reed behind another station fits (R167, R95). -/
def reedFmtOk (d : List Byte) : Bool :=
  match reedOf d with
  | some r => decide (r.mode = 0) ||
      (if r.mode = 1 then valueFmt r.fmt2 && mxOk d r.fmt2 0x48 else decide (r.fmt2 = fFp32))
  | none => true

/-- Whether step 3 of R198 rejects. MOVE and SEND round nothing, so they ignore the sr flag whatever their format, as
R192 lets an opcode do, also where 03_formats.md R85 names the format: DESIGN CHOICE, log entry 176. -/
def badFormat (d : List Byte) : Bool :=
  let op := opcodeOf d
  let fm := fun (o : Nat) => body d o 1
  let al := fun (l : List (Nat × Nat)) => l.all (fun p => aligned d p.1 p.2)
  if op = opGemm ∨ op = opGemmT then
    !(classOk (fm 0x36) (fm 0x37) (fm 0x38)) || !srOk d (fm 0x38) ||
    !mxOk d (fm 0x36) 0x08 || !mxOk d (fm 0x37) 0x18 || !mxOk d (fm 0x38) 0x28 || !reedFmtOk d ||
    (decide (op = opGemmT) &&
      (decide (clsOf (fm 0x36) ≠ some .fp8) && decide (clsOf (fm 0x36) ≠ some .half) ||
       !([fE5m2, fBf16, fG16, fFp32].contains (fm 0x38)))) ||
    !al [(0, 4096), (8, 64), (0x10, 4096), (0x18, 64)] || (toBell d && !al [(0x20, 4096)]) || !al [(0x28, 64)] ||
    (onRoute d stReed && !al [(0x40, 4096), (0x48, 64), (0x50, 32), (0x58, 4096)])
  else if op = opNormBack ∨ op = opSoftmaxBack then
    !(classOk (fm 0x54) (fm 0x55) (fm 0x56)) || !srOk d (fm 0x56) ||
    !mxOk d (fm 0x54) 0x08 || !mxOk d (fm 0x55) 0x18 || !mxOk d (fm 0x56) 0x28 ||
    !([fE4m3, fBf16, fFp32].contains (fm 0x57)) || decide (nMid d = 3) ||
    (decide (op = opNormBack) && !nRecompute d && !valueFmt (nFmtStat d)) ||
    !al [(0, 4096), (8, 64), (0x10, 4096), (0x18, 64), (0x28, 64), (0x30, 4096)] ||
    (toBell d && !al [(0x20, 4096)]) ||
    (decide (op = opNormBack) && (!al [(0x38, 4096)] || (!nRecompute d && !al [(0x40, 64)])))
  else if op = opGemv then
    !(classOk (fm 0x35) (fm 0x36) (fm 0x37)) || !srOk d (fm 0x37) ||
    !mxOk d (fm 0x35) 0x08 || !mxOk d (fm 0x36) 0x18 || !mxOk d (fm 0x37) 0x28 || !reedFmtOk d ||
    !al [(0, 4096), (8, 64), (0x10, 4096), (0x18, 64), (0x28, 64)] || (toBell d && !al [(0x20, 4096)]) ||
    (onRoute d stReed && !al [(0x40, 4096), (0x48, 64), (0x50, 32), (0x58, 4096)])
  else if op = opVecop then
    let v := vctlOf d
    !valueFmt (fm 0x3B) || !valueFmt (fm 0x3C) || !srOk d (fm 0x3C) ||
    !mxOk d (fm 0x3B) 0x08 || !mxOk d (fm 0x3C) 0x20 ||
    (if v.fn = 2 ∨ v.fn = 3 then decide (v.mode = 1) && decide (fm 0x3D ≠ fFp32)
     else if v.mode = 1 then !valueFmt (fm 0x3D) || decide (fm 0x3D = fMxfp4)
     else decide (v.mode ≠ 0) && decide (fm 0x3D ≠ fFp32)) ||
    (v.stash && !present d 0x20) ||
    !al [(0, 4096), (8, 64), (0x20, 64)] || (toBell d && !al [(0x18, 4096)]) ||
    (decide (v.mode ≠ 0) && !al [(0x10, 4096)]) || (decide (v.reduce ≠ 0) && !al [(0x28, 4096)])
  else if op = opGather ∨ op = opScatter then
    let g := gatherOf d
    (if op = opGather then
      !([fFp32, fBf16, fG16, fE4m3].contains g.fTable) || !srOk d g.fIo ||
      !((if onRoute d stReed then [fE4m3, fE5m2, fBf16, fG16, fFp32] else [fFp32, fBf16]).contains g.fIo)
     else !([fFp32, fBf16, fG16].contains g.fTable) || !([fFp32, fBf16, fG16, fE5m2].contains g.fIo)) ||
    !al [(0, 64), (8, 4096), (0x10, 4096), (0x20, 64)] ||
    ((decide (op = opScatter) || toBell d) && !al [(0x18, 4096)]) ||
    (onRoute d stReed && !al [(0x28, 32)])
  else if op = opMove ∨ op = opSend then
    let f := fm 0x24
    decide (8 < f) || (decide (f = fMxfp4) && !present d 8) ||
    (decide (op = opMove) && decide (f = fMxfp4) && !present d 0x18) ||
    (decide (f ≠ fRaw) && (!al [(0, 4096)] || (decide (op = opMove) && !al [(0x10, 4096)]))) ||
    !al [(8, 64)] || (decide (op = opMove) && !al [(0x18, 64)])
  else if op = opPrefetch ∨ op = opMigrate then !al [(0, 4096)]
  else false

/-! ### Step 4: lengths and counts (BAD_LENGTH, BAD_INLINE) -/

/-- Whether a width fits a format's tile width (R92). -/
def widthOk (f cols : Nat) : Bool := decide (f ≠ fMxfp4) || decide (cols % 128 = 0)

/-- Whether the words a Reed behind another station needs are absent, or its shapes do not fit
(R167, R194, R201). `red` says whether the body has a reduction word: where it has none, GATHER_POOL and SCATTER_ADD,
a set reduce bit ends the command BAD_LENGTH whatever its program, before 06 R166's BAD_OPCODE is asked: DESIGN CHOICE,
log entry 179. -/
def reedLenBad (d : List Byte) (cols progOff : Nat) (red : Bool) : Bool :=
  match reedOf d with
  | some r =>
    (decide (r.mode ≠ 0) && !present d 0x40) || (decide (r.nsteps ≠ 0) && !present d progOff) ||
    (r.reduce && !(red && present d 0x58)) || (decide (r.mode = 2) && decide (4096 < cols)) ||
    (decide (r.mode = 1) && !widthOk r.fmt2 cols)
  | none => false

/-- Whether step 4 of R198 rejects with BAD_LENGTH. -/
def badLength (d : List Byte) : Bool :=
  let op := opcodeOf d
  let fm := fun (o : Nat) => body d o 1
  let need := fun (l : List Nat) => l.all (present d)
  if op = opGemm ∨ op = opGemmT then
    let (_, k, n) := gDims d
    !need [0, 0x10] || (toBell d && !need [0x20]) ||
    (decide (fm 0x36 = fMxfp4) && (decide (k % 128 ≠ 0) || decide (n % 128 ≠ 0))) ||
    reedLenBad d n 0x50 true
  else if op = opNormBack ∨ op = opSoftmaxBack then
    let (_, k, n) := fDims d
    !need [0, 0x10, 0x30, 0x48] || (toBell d && !need [0x20]) ||
    (decide (op = opNormBack) && (!need [0x38] || (!nRecompute d && !need [0x40]))) ||
    (decide (fm 0x54 = fMxfp4) && (decide (k % 128 ≠ 0) || decide (n % 128 ≠ 0))) ||
    (decide (op = opNormBack) && !nRecompute d && !widthOk (nFmtStat d) n)
  else if op = opGemv then
    let k := dim64 d 0x30 2
    let n := dim64 d 0x32 2
    let b := fm 0x34
    decide (b = 0) || decide (16 < b) || decide (65536 < b * n) ||
    !need [0, 0x10] || (toBell d && !need [0x20]) ||
    (decide (fm 0x35 = fMxfp4) && (decide (k % 128 ≠ 0) || decide (n % 128 ≠ 0))) ||
    reedLenBad d n 0x50 true
  else if op = opVecop then
    let v := vctlOf d
    let (_, n) := vDims d
    !need [0] || (toBell d && !need [0x18]) || (decide (v.mode ≠ 0) && !need [0x10]) ||
    (decide (v.reduce ≠ 0) && !need [0x28]) || (decide (v.fn ≠ 0) && !need [0x30]) ||
    ((decide (v.fn = 2) || decide (v.fn = 3)) && decide (1024 < n)) ||
    (decide (v.fn < 2) && decide (v.mode = 2) && decide (4096 < n)) ||
    !widthOk (fm 0x3B) n || !widthOk (fm 0x3C) n
  else if op = opGather ∨ op = opScatter then
    let g := gatherOf d
    decide (g.rows = 0) || decide (g.count = 0) || decide (g.ioCols % 64 ≠ 0) ||
    (!g.variable_ && decide (g.count ≠ g.bags * g.feats * g.pool)) ||
    !need [0, 8] || ((decide (op = opScatter) || toBell d) && !need [0x18]) ||
    reedLenBad d g.ioCols 0x28 false
  else if op = opMove ∨ op = opSend then
    let f := fm 0x24
    let n := body d 0x20 4
    let r := dim64 d 0x26 2
    let c := dim64 d 0x28 2
    decide (n = 0) || !need [0] || (decide (op = opMove) && !need [0x10]) ||
    (decide (f ≠ fRaw) && decide (n % 4096 ≠ 0)) ||
    (decide (f ≠ fRaw) && onRoute d stCrook &&
      (decide (n ≠ (if f = fMxfp4 then r * c / 2 else r * c * elemB f)) || !widthOk f c))
  else if op = opSignal ∨ op = opWait then decide (4 < bits (body d 0 1) 0 3)
  else if op = opPrefetch ∨ op = opMigrate then !need [0] || decide (body d 8 4 = 0)
  else false

/-- Whether step 4 rejects an INLINE_SEND (R208). -/
def badInline (d : List Byte) : Bool := decide (opcodeOf d = opInline) && decide (96 < bits (dXarg d) 8 7)

/-- The first failing check of steps 1 to 4 of R198. -/
def staticCheck (d : List Byte) : Nat :=
  if badOpcode d then stBadOpcode
  else if badRoute d then stBadRoute
  else if badFormat d then stBadFormat
  else if badLength d then stBadLength
  else if badInline d then stBadInline
  else stOk

/-! ### Step 6: the extents in body order (R193 to R196, Table SEG-4) -/

/-- An extent to check: body offset, length, permissions, whether it must lie in own scratch (R150, R169,
R180), and the tiers allowed. -/
structure XSpec where
  off : Nat
  len : Nat
  need : Nat
  own : Bool
  tiers : List Nat
deriving DecidableEq, Repr

/-- An extent of any tier. -/
def xs (off len need : Nat) : XSpec := ⟨off, len, need, false, [0, 1, 2, 3]⟩
/-- A data extent of tiles. -/
def xTiles (off tiles need : Nat) : XSpec := xs off (tiles * 4096) need
/-- A record extent, where the word is present. -/
def xRec (d : List Byte) (off f tiles need : Nat) : List XSpec :=
  if present d off then [xs off (tiles * recStride f) need] else []

/-- The extents of a Reed behind another station: second operand, its records, program, reduction. -/
def xReed (d : List Byte) (same rows cols progOff : Nat) (red : Bool) : List XSpec :=
  match reedOf d with
  | some r =>
    (if r.mode = 0 then []
     else if r.mode = 1 then xTiles 0x40 same needRead :: xRec d 0x48 r.fmt2 same needRead
     else
       let n := vecTiles fFp32 (if r.mode = 2 then cols else rows)
       xTiles 0x40 n needRead :: xRec d 0x48 fFp32 n needRead) ++
    (if r.nsteps = 0 then [] else [xs progOff 32 needRead]) ++
    (if red && r.reduce then [xTiles 0x58 (vecTiles fFp32 cols) needWrite] else [])
  | none => []

/-- The extents of a command in body order. A workspace is as long as its kernel needs (05 R150, 06 R169): its word names
no length, so none is too short, and one that its segment cannot hold ends SEG_LIMIT: DEDUCED, log entry 180. -/
def xspecs (d : List Byte) : List XSpec :=
  let op := opcodeOf d
  let fm := fun (o : Nat) => body d o 1
  if op = opGemm ∨ op = opGemmT then
    let (m, k, n) := gDims d
    let ta := matTiles (fm 0x36) m k
    let tb := matTiles (fm 0x37) k n
    let tc := matTiles (fm 0x38) m n
    [xTiles 0 ta needRead] ++ xRec d 8 (fm 0x36) ta needRead ++ [xTiles 0x10 tb needRead] ++
    xRec d 0x18 (fm 0x37) tb needRead ++
    (if toBell d then xTiles 0x20 tc needWrite :: xRec d 0x28 (fm 0x38) tc needWrite else []) ++
    xReed d (matTiles (reedCtl d 0x3C).fmt2 m n) m n 0x50 true
  else if op = opNormBack ∨ op = opSoftmaxBack then
    let (m, k, n) := fDims d
    let ta := matTiles (fm 0x54) m k
    let tb := matTiles (fm 0x55) k n
    let tc := matTiles (fm 0x56) m n
    let norm := decide (op = opNormBack)
    [xTiles 0 ta needRead] ++ xRec d 8 (fm 0x54) ta needRead ++ [xTiles 0x10 tb needRead] ++
    xRec d 0x18 (fm 0x55) tb needRead ++
    (if toBell d then xTiles 0x20 tc needWrite :: xRec d 0x28 (fm 0x56) tc needWrite else []) ++
    [xTiles 0x30 (matTiles (fm 0x57) m n + (if norm && !nNoAffine d then 1 else 0)) needRead] ++
    (if norm then [xTiles 0x38 2 needWrite] else []) ++
    (if norm && !nRecompute d then [xs 0x40 (matTiles (nFmtStat d) m n * recStride (nFmtStat d)) needRead] else []) ++
    [⟨0x48, 2048 * n, needRead + needWrite, true, [0, 1, 2, 3]⟩]
  else if op = opGemv then
    let k := dim64 d 0x30 2
    let n := dim64 d 0x32 2
    let b := fm 0x34
    let tx := b * vecTiles (fm 0x35) k
    let tw := matTiles (fm 0x36) k n
    let ty := b * vecTiles (fm 0x37) n
    [xTiles 0 tx needRead] ++ xRec d 8 (fm 0x35) tx needRead ++ [xTiles 0x10 tw needRead] ++
    xRec d 0x18 (fm 0x36) tw needRead ++
    (if toBell d then xTiles 0x20 ty needWrite :: xRec d 0x28 (fm 0x37) ty needWrite else []) ++
    xReed d (b * vecTiles (reedCtl d 0x38).fmt2 n) b n 0x50 true
  else if op = opVecop then
    let v := vctlOf d
    let (m, n) := vDims d
    let tsrc := matTiles (fm 0x3B) m n
    let tdst := matTiles (fm 0x3C) m n
    [xTiles 0 tsrc needRead] ++ xRec d 8 (fm 0x3B) tsrc needRead ++
    (if v.mode = 0 then []
     else if v.fn = 2 ∨ v.fn = 3 then [xTiles 0x10 2 needRead]
     else if v.mode = 1 then [xTiles 0x10 (matTiles (fm 0x3D) m n) needRead]
     else [xTiles 0x10 (vecTiles fFp32 (if v.mode = 2 then n else m)) needRead]) ++
    (if toBell d then xTiles 0x18 tdst needWrite :: xRec d 0x20 (fm 0x3C) tdst needWrite else []) ++
    (if v.reduce = 0 then [] else [xTiles 0x28 (vecTiles fFp32 (if v.reduce = 1 then m else n)) needWrite]) ++
    (if v.fn = 0 then [] else [⟨0x30, 512 * n, needRead + needWrite, true, [0, 1, 2, 3]⟩])
  else if op = opGather ∨ op = opScatter then
    let g := gatherOf d
    let t := matTiles g.fIo g.ioRows g.ioCols
    let scatter := decide (op = opScatter)
    [if scatter then ⟨0, g.rows * g.rowBytes, needWrite + needAtomic, false, [1, 2]⟩
     else xs 0 (g.rows * g.rowBytes) needRead] ++
    [⟨8, vecTiles fInt32 g.count * 4096, needRead, true, [0, 1, 2, 3]⟩] ++
    (if g.variable_ then [⟨0x10, vecTiles fInt32 (g.bags * g.feats) * 4096, needRead, true, [0, 1, 2, 3]⟩] else []) ++
    (if scatter || toBell d then
      xTiles 0x18 t (if scatter then needRead else needWrite) ::
        xRec d 0x20 g.fIo t (if scatter then needRead else needWrite) else []) ++
    xReed d 0 0 0 0x28 false
  else if op = opMove ∨ op = opSend then
    let n := body d 0x20 4
    let t := ceilDiv n 4096
    let f := fm 0x24
    [xs 0 n needRead] ++ xRec d 8 f t needRead ++
    (if op = opMove then xs 0x10 n needWrite :: xRec d 0x18 f t needWrite else [])
  else if op = opPrefetch ∨ op = opMigrate then
    [⟨0, body d 8 4 * 4096, needRead + (if bits (body d 0x0D 1) 0 2 = 0 then 0 else needHint), false, [2]⟩]
  else []

/-! ### Claims (R60) -/

/-- The stations and lanes a command claims: its route's, an INTAKE lane for each side input, and a CROOK
lane for a transposed stationary operand (02_stations_and_routes.md R43, R56, R60). -/
def claimsOf (d : List Byte) : List (Nat × Nat) :=
  let op := opcodeOf d
  let r := routeOf (dRoute d)
  let product := decide (op = opGemm) || decide (op = opGemmT) || decide (op = opNormBack) || decide (op = opSoftmaxBack)
  let second := decide (op = opNormBack) || decide (op = opSoftmaxBack) ||
    (decide (op = opVecop) && decide ((vctlOf d).mode ≠ 0)) || (reedOf d).any (fun c => decide (c.mode ≠ 0))
  let side := (decide (op = opGemm) && bit (body d 0x39 1) 0) || (decide (op = opGemmT) && decide (gMode d = 1))
  let lanes := fun (st : Nat) =>
    if st = stIntake then 1 + (if product then 1 else 0) + (if second then 1 else 0)
    else if st = stCrook then 1 + (if side then 1 else 0)
    else 1
  if op = opInline then [(stPort, 1)]
  else r.map (fun st => (st, lanes st)) ++ (if side && !(r.contains stCrook) then [(stCrook, 1)] else [])

end Sys2Proof.Machine
end

