-- ==== Sys2Proof/Machine/LinkOps.lean ====
section
/-! DEFINITION. The link layer of an axis link: packets as bytes, flits, the replay buffer, sending and fault
injection (13_axis_links_and_drone.md R357, R358, R363, R365, R372). -/

namespace Sys2Proof.Machine

/-! ### Packets as bytes (R365, Table AXL-5) -/

/-- Whether a packet is a response. -/
def isResponse (p : Packet) : Bool := decide (p.kind = .ack) || decide (p.kind = .nack)

/-- The type code of a packet. -/
def kindCode : PacketKind → Nat
  | .data => 1
  | .inline => 2
  | .ack => 3
  | .nack => 4

/-- The stage code of a packet. -/
def stageCode : Stage → Nat
  | .n => 0
  | .d0 => 1
  | .d12 => 2
  | .d3 => 3
  | .t => 4

/-- A packet's header, data and record bytes. -/
def packetBytes (p : Packet) : List Byte :=
  let rl := if p.rcd.length = 64 then 1 else if p.rcd.length = 320 then 2 else 0
  leBytes 1 (kindCode p.kind + 16 * stageCode p.stage) ++ leBytes 1 (rl + flag p.pastDateline 2 + flag p.sideMinus 3) ++
  leBytes 2 p.tag ++ leBytes 4 (coordsVal p.dest) ++ leBytes 4 (coordsVal p.src) ++ leBytes 1 p.dquad ++
  leBytes 1 p.window ++ leBytes 2 p.epoch.toNat ++ leBytes 6 p.offset ++ leBytes 2 p.data.length ++
  leBytes 1 p.squad ++ [p.status] ++ leBytes 6 0 ++ p.data ++ p.rcd

/-- The kind of a type code. -/
def kindOf (n : Nat) : Option PacketKind :=
  if n = 1 then some .data else if n = 2 then some .inline else if n = 3 then some .ack
  else if n = 4 then some .nack else none

/-- The stage of a stage code. -/
def stageOf (n : Nat) : Stage :=
  if n = 1 then .d0 else if n = 2 then .d12 else if n = 3 then .d3 else if n = 4 then .t else .n

/-- The first packet of a channel's bytes and what follows it: none while it is not whole, or where the bytes
start no packet. -/
def parsePacket (bs : List Byte) : Option (Packet × List Byte) :=
  match kindOf (bits (field bs 0 1) 0 4) with
  | none => none
  | some k =>
    let rl := bits (field bs 1 1) 0 2
    let rec_ := if rl = 1 then 64 else if rl = 2 then 320 else 0
    let len := field bs 0x16 2
    if bs.length < 32 + len + rec_ then none
    else
      some ({ kind := k, stage := stageOf (bits (field bs 0 1) 4 4), pastDateline := bit (field bs 1 1) 2,
              sideMinus := bit (field bs 1 1) 3, tag := field bs 2 2, dest := coordsOf (field bs 4 4),
              src := coordsOf (field bs 8 4), dquad := field bs 0xC 1, window := field bs 0xD 1,
              epoch := BitVec.ofNat 16 (field bs 0xE 2), offset := field bs 0x10 6, squad := field bs 0x18 1,
              status := BitVec.ofNat 8 (field bs 0x19 1), data := (bs.drop 32).take len,
              rcd := (bs.drop (32 + len)).take rec_ }, bs.drop (32 + len + rec_))

/-- The virtual channel of a packet (R363, Table AXL-3). -/
def vcOf (p : Packet) : Nat :=
  let past := if p.pastDateline then 1 else 0
  (match p.stage with
   | .n => past
   | .d0 => 2
   | .d12 => 3 + past
   | .d3 => 5
   | .t => 6 + past) + (if isResponse p then 8 else 0)

/-! ### Flits (R357, Table AXL-1) -/

/-- A flit's header as a number. -/
def flitHeader (f : Flit) : Nat :=
  f.type % 16 + f.vc % 16 * 2 ^ 4 + f.seq % 4096 * 2 ^ 8 + f.ack % 4096 * 2 ^ 20 + f.credit % 256 * 2 ^ 32 +
  f.creditVc % 16 * 2 ^ 40

/-- The CRC of a flit (R357). -/
def flitCrc (f : Flit) : Word := crc32c (leBytes 7 (flitHeader f) ++ f.payload)

/-- Payload bytes of a flit. -/
def flitBytes : Nat := 245

/-- Flits of the replay buffer (R358). -/
def replayMax : Nat := 512

/-- A data flit of a link with the next sequence number. -/
def Link.flit (l : Link) (vc : Nat) (payload : List Byte) : Flit :=
  let f : Flit := { type := 1, vc := vc, seq := l.txSeq % 4096, ack := (l.rxSeq + 4095) % 4096, creditVc := 0,
                    credit := 0, payload := payload, crc := 0 }
  { f with crc := flitCrc f }

/-! ### Fault injection (R372, Table AXL-9) -/

/-- Whether a link injects: enabled, permitted by the image, of a kind other than none. -/
def State.injects (s : State) (n : Nat) : Bool :=
  let l := s.link n
  l.fiEnable && bit (s.item 9 1 0) n && decide (bits l.fiCtrl.toNat 24 2 ≠ 0)

/-- Whether an event falls on the next flit of a channel: exactly one or a burst per 2^k flits, or one on
average, for which the generator is not printed and a free number is drawn. -/
def State.faultHere (s : State) (n vc : Nat) : Bool × State :=
  let l := s.link n
  let c := l.fiCtrl.toNat
  let k := 2 ^ bits c 17 5
  if !(s.injects n) || decide (8 ≤ vc) || !(bit c vc) then (false, s)
  else if bits c 22 2 = 0 then let (x, s) := s.drawNat k; (decide (x = 0), s)
  else if bits c 22 2 = 1 then (decide (l.fiSeen % k = 0), s)
  else (decide (l.fiSeen % k < bits c 13 4 + 1), s)

/-- A flit with one of its bits inverted: bits 0 to 43 stand in the header's fields, 44 to 2,003 in the payload and the
rest in the CRC. -/
def flipFlit (f : Flit) (i : Nat) : Flit :=
  if i < 4 then { f with type := f.type ^^^ 2 ^ i }
  else if i < 8 then { f with vc := f.vc ^^^ 2 ^ (i - 4) }
  else if i < 20 then { f with seq := f.seq ^^^ 2 ^ (i - 8) }
  else if i < 32 then { f with ack := f.ack ^^^ 2 ^ (i - 20) }
  else if i < 40 then { f with credit := f.credit ^^^ 2 ^ (i - 32) }
  else if i < 44 then { f with creditVc := f.creditVc ^^^ 2 ^ (i - 40) }
  else if i < 2004 then
    { f with payload := f.payload.modify ((i - 44) / 8) (fun b => b ^^^ BitVec.ofNat 8 (2 ^ ((i - 44) % 8))) }
  else { f with crc := f.crc ^^^ BitVec.ofNat 32 (2 ^ (i - 2004)) }

/-- Inverts a number of different bits of a flit, each at a free place (log entry 188). -/
def State.flipBits (s : State) : Nat → List Nat → Flit → Flit × State
  | 0, _, f => (f, s)
  | k + 1, places, f =>
    let (x, s) := s.drawNat places.length
    s.flipBits k (places.eraseIdx x) (flipFlit f (places.getD x 0))

/-- A flit with 1 to 8 of its bits inverted. -/
def State.corrupt (s : State) (n : Nat) (f : Flit) : Flit × State :=
  s.flipBits (bits (s.link n).fiCtrl.toNat 8 5 % 8 + 1) (List.range 2036) f

/-- Puts a flit on a link, which counts it as sent, and behind it one that injection has kept back. -/
def State.putFlit (s : State) (n : Nat) (f : Flit) : State :=
  let s := (s.modLink n (fun l => { l with flits := l.flits + 1 })).emit (.flit n f)
  match (s.link n).swap with
  | some g => (s.modLink n (fun l => { l with flits := l.flits + 1, swap := none })).emit (.flit n g)
  | none => s

/-- Puts flits on a link, with what injection does to them: a drop leaves one out, a corruption changes one, a
reorder sends one behind the next. -/
def State.putFlits (s : State) (n : Nat) : List Flit → State
  | [] => s
  | f :: t =>
    let (hit, s) := s.faultHere n f.vc
    let s := s.modLink n (fun l => { l with fiSeen := (l.fiSeen + 1) % 2 ^ 30 })
    if !hit then (s.putFlit n f).putFlits n t
    else
      let s := s.modLink n (fun l => { l with fiCount := satAdd 0xFFFFFFFF l.fiCount 1 })
      let kind := bits (s.link n).fiCtrl.toNat 24 2
      if kind = 1 then s.putFlits n t
      else if kind = 2 then
        let (f, s) := s.corrupt n f
        (s.putFlit n f).putFlits n t
      else if (s.link n).swap.isSome then (s.putFlit n f).putFlits n t
      else (s.modLink n (fun l => { l with swap := some f })).putFlits n t

/-! ### Sending -/

/-- The I/O die of a link (01_package.md Table PKG-1). -/
def linkDie (n : Nat) : Nat := if n < 3 then 6 else 7

/-- Whether a packet's way inside the package to its next link is open: from the link that it came by, or from the quad
that sends or answers it (01_package.md R25). -/
def State.linkWay (s : State) (n arr : Nat) (p : Packet) : Bool :=
  s.pathUp (if arr < 6 then linkDie arr else p.squad / 16 % 4) (linkDie n) 0

/-- Whether a channel may send a flit: it has a place of its 4, or of the 1,024 that all share (R363). -/
def Link.credit (l : Link) (v : Nat) : Bool :=
  decide (Table.get 0 l.used v < 4) || decide ((l.used.map (fun e => e.2 - 4)).sum < 1024)

/-- The channel of the next flit: the first in the rotation that has a credit and whose first packet may go (R363). -/
def Link.nextVc (way : TxPkt → Bool) (l : Link) : Option Nat :=
  ((List.range 16).map (fun i => (l.rr + i) % 16)).find? (fun v =>
    l.credit v && (l.txWait.find? (fun p => decide (vcOf p.out = v))).any way)

/-- The bytes that a flit of a channel takes: its packets' bytes one after the other, up to a number (R365). -/
def takeVc (way : TxPkt → Bool) (v : Nat) : Nat → List TxPkt → List Byte × List TxPkt
  | _, [] => ([], [])
  | n, p :: t =>
    if vcOf p.out ≠ v then
      let (bs, t) := takeVc way v n t
      (bs, p :: t)
    else if n = 0 ∨ way p = false then ([], p :: t)
    else if p.rest.length ≤ n then
      let (bs, t) := takeVc way v (n - p.rest.length) t
      (p.rest ++ bs, t)
    else (p.rest.take n, { p with rest := p.rest.drop n, begun := true } :: t)

/-- The next flit of a link, entered into its replay buffer in sequence: what the packets leave is filled with zeros, and
a type nibble of 0 starts no packet (R358, R363, R365; log entry 72). None where none may go. -/
def Link.sendFlit (now : Nat) (way : TxPkt → Bool) (l : Link) : Option (Flit × Link) :=
  if replayMax ≤ l.replayBuf.length then none
  else
    (l.nextVc way).map (fun v =>
      let (bs, w) := takeVc way v flitBytes l.txWait
      let f := l.flit v (bs ++ List.replicate (flitBytes - bs.length) 0)
      (f, { l with txSeq := (l.txSeq + 1) % 4096, replayBuf := l.replayBuf ++ [(f, now)], txWait := w,
                   used := Table.put 0 l.used v (Table.get 0 l.used v + 1), rr := (v + 1) % 16 }))

/-- The flits that may go now, at most a number. -/
def Link.sendFlits (now : Nat) (way : TxPkt → Bool) : Nat → Link → List Flit × Link
  | 0, l => ([], l)
  | k + 1, l =>
    match l.sendFlit now way with
    | none => ([], l)
    | some (f, l) => let (fs, l) := Link.sendFlits now way k l; (f :: fs, l)

/-- Sends what waits at a link while its replay buffer has room and its channels have credits; during a retrain the flits
wait in the buffer (R358, R359, R363), and a bridge that retrains holds the packets behind it (01_package.md R25). -/
def State.drainLink (s : State) (n : Nat) : State :=
  let l := s.link n
  if l.st = .up ∨ l.st = .retraining then
    let (fs, l') := l.sendFlits s.drone (fun p => s.linkWay n p.arr p.pk)
      (l.txWait.map (fun p => ceilDiv p.rest.length flitBytes)).sum
    let s := s.modLink n (fun _ => l')
    if l.st = .up then s.putFlits n fs else s
  else s

/-- Hands a packet to a link, behind those that wait. -/
def State.sendOn (s : State) (n arr : Nat) (p p' : Packet) : State :=
  (s.modLink n (fun l => { l with txWait := l.txWait ++ [⟨arr, p, p', packetBytes p', false⟩] })).drainLink n

end Sys2Proof.Machine
end

