-- ==== Sys2Proof/Machine/Routes.lean ====
section
/-! DEFINITION. Packets on the torus: the route of a packet and its detours, and a quad's sending of its
commands' packets (13_axis_links_and_drone.md R361 to R371). -/

namespace Sys2Proof.Machine

/-- A coordinate by axis: 0 X, 1 Y, 2 Z. -/
def onAxis (c : Coords) (a : Nat) : Nat := if a = 0 then c.x else if a = 1 then c.y else c.z
/-- Ring length of an axis (13 R361). -/
def State.ringLen (s : State) (a : Nat) : Nat := bits (s.item 4 2 0) (10 * a) 10 + 1
/-- The package's own coordinates (13 Table AXL-6). -/
def State.self (s : State) : Coords := coordsOf (s.item 4 1 0)
/-- Loopback (13 R361). -/
def State.loopback (s : State) : Bool := bit (s.item 4 2 0) 31
/-- Whether coordinates are below their ring lengths (13 R361). -/
def State.inRings (s : State) (c : Coords) : Bool :=
  (List.range 3).all (fun a => decide (onAxis c a < s.ringLen a))

/-- Whether a destination entry is valid for a context (07 R209, 13 R361). -/
def State.destOk (s : State) (e : DestEntry) (ctx : Nat) : Bool :=
  e.valid && decide (e.context = ctx) && s.inRings e.coords && (s.loopback || decide (e.coords ≠ s.self))

/-- Whether the image leaves a link unused: its mask, or an axis of length 1 (13 R360, R361). -/
def State.linkUnused (s : State) (n : Nat) : Bool := bit (s.item 4 3 0) n || decide (s.ringLen (n / 2) = 1)
/-- Whether routing treats a link as up: up or retraining (13 R359). -/
def State.linkUsable (s : State) (n : Nat) : Bool :=
  !s.linkUnused n && (decide ((s.link n).st = .up) || decide ((s.link n).st = .retraining))

/-- The link of an axis and direction, in the order X+, X−, Y+, Y−, Z+, Z−. -/
def linkAt (a : Nat) (minus : Bool) : Nat := 2 * a + (if minus then 1 else 0)
/-- Whether the shorter way round a ring is the − way; + when equal (13 R362). -/
def minusWay (len me to_ : Nat) : Bool := decide ((me + len - to_) % len < (to_ + len - me) % len)
/-- Whether a hop from a coordinate crosses the dateline (13 R362). -/
def crosses (len me : Nat) (minus : Bool) : Bool := if minus then decide (me = 0) else decide (me + 1 = len)

/-- The coordinates of the neighbour over a link: X+, X−, Y+, Y−, Z+, Z− are links 0 to 5 (R356, R360). -/
def State.neighbour (s : State) (n : Nat) : Coords :=
  let a := n / 2
  let len := s.ringLen a
  let v := if n % 2 = 0 then (onAxis s.self a + 1) % len else (onAxis s.self a + len - 1) % len
  let c := s.self
  if a = 0 then { c with x := v } else if a = 1 then { c with y := v } else { c with z := v }

/-- Where a packet goes next. -/
inductive Hop where
  | here
  | link (n : Nat) (p : Packet) (detouredOff : Option Nat)
  | blocked (n : Nat)

/-- The first axis on which a packet is not at its destination. -/
def nextAxis (me dest : Coords) : Option Nat := (List.range 3).find? (fun a => decide (onAxis me a ≠ onAxis dest a))

/-- A hop along an axis in a stage. `arr` is the link the packet came by, 6 where it starts here: on a ring
it is already travelling it keeps its dateline mark. -/
def State.ringHop (s : State) (arr : Nat) (p : Packet) (stage : Stage) (a : Nat) (minus : Bool) : Hop :=
  let n := linkAt a minus
  let len := s.ringLen a
  let past := (decide (arr / 2 = a) && decide (p.stage = stage) && p.pastDateline) || crosses len (onAxis s.self a) minus
  if s.linkUsable n then .link n { p with stage := stage, pastDateline := past } none else .blocked n

/-- The way of an axis by R362. -/
def State.wayTo (s : State) (p : Packet) (a : Nat) : Bool := minusWay (s.ringLen a) (onAxis s.self a) (onAxis p.dest a)

/-- The side step of a detour off a link (13 R364). -/
def State.sideStep (s : State) (p : Packet) (off : Nat) : Hop :=
  let b := (off / 2 + 1) % 3
  let m := s.wayTo p b
  let go := fun (m : Bool) => Hop.link (linkAt b m) { p with stage := .d0, sideMinus := m, pastDateline := false } (some off)
  if s.linkUsable (linkAt b m) then go m
  else if s.linkUsable (linkAt b (!m)) then go (!m)
  else .blocked off

/-- The tail of a route: the remaining axes in order (13 R364). -/
def State.tailHop (s : State) (arr : Nat) (p : Packet) : Hop :=
  match nextAxis s.self p.dest with
  | none => .here
  | some a => s.ringHop arr p .t a (s.wayTo p a)

/-- The next hop of a packet (13 R362 to R364). -/
def State.nextHop (s : State) (arr : Nat) (p : Packet) : Hop :=
  match nextAxis s.self p.dest with
  | none => .here
  | some a =>
    match p.stage with
    | .n =>
      match s.ringHop arr p .n a (s.wayTo p a) with
      | .blocked n => s.sideStep p n
      | h => h
    | .d0 =>
      -- the side step ran along the axis of arrival; the blocked axis is the one before it
      let a := (arr / 2 + 2) % 3
      s.ringHop arr p .d12 a (s.wayTo p a)
    | .d12 =>
      let a := arr / 2
      if onAxis s.self a ≠ onAxis p.dest a then s.ringHop arr p .d12 a (s.wayTo p a)
      else if a = 2 then s.ringHop arr { p with pastDateline := false } .d3 0 (!p.sideMinus)
      else s.tailHop 6 p
    | .d3 => s.tailHop 6 p
    | .t => s.tailHop arr p

/-- The response to a packet (13 R365, R368): the header's ends exchanged, the tag echoed. -/
def respond (p : Packet) (me : Coords) (kind : PacketKind) (status : Nat) : Packet :=
  { kind := kind, stage := .n, pastDateline := false, sideMinus := false, tag := p.tag, dest := p.src,
    src := me, dquad := p.squad, window := 0, epoch := 0, offset := 0, squad := p.dquad,
    status := BitVec.ofNat 8 status, data := [], rcd := [] }

/-- Puts a packet on its next link, or hands it to this package: link 6 of what is sent stands for delivery
within the package. A request that can go nowhere is answered LINK_LOST from here; a response is dropped
(13 R364, R368, Table AXL-9). -/
def State.routeWith (s : State) (onBlocked : State → State) (arr : Nat) (p : Packet) : State :=
  match s.nextHop arr p with
  | .here => s.emit (.packet 6 p)
  | .link n p' off =>
    let s := match off with
      | some o => s.modLink o (fun l => { l with detour := satAdd 0xFFFFFFFF l.detour 1 })
      | none => s
    s.sendOn n arr p p'
  | .blocked n =>
    if isResponse p then s
    else onBlocked (s.modLink n (fun l => { l with lost := satAdd 0xFFFFFFFF l.lost 1 }))

/-- Routes a packet. -/
def State.route (s : State) (arr : Nat) (p : Packet) : State :=
  s.routeWith (fun s => s.routeWith id 6 (respond p s.self .nack stLinkLost)) arr p

/-- The deadline of a packet after it has left, in Drone ticks (13 R369). -/
def packetTime : Nat := 2 ^ 20

/-- The lowest tag from a start that no outstanding packet has: 256 packets cannot take 257 tags. -/
def freeTag (used : List Nat) : Nat → Nat → Nat
  | 0, t => t
  | n + 1, t => if used.contains t then freeTag used n ((t + 1) % 65536) else t

/-- Sends packets of a command while fewer than 256 of the quad's await a response (13 R369); the cycles that the
link refused each are free (02 Table STN-7; log entry 24). -/
def State.sendSome (s : State) (q j : Nat) (c : Cmd) : Nat → List Packet → List Packet × State
  | 0, l => (l, s)
  | _, [] => ([], s)
  | n + 1, p :: t =>
    let x := s.quad q
    if 256 ≤ x.outstanding.length then (p :: t, s)
    else
      let tag := freeTag (x.outstanding.map OutPkt.tag) 257 x.nextTag
      let (w, s) := s.drawNat (2 ^ 32)
      let s := s.modQuad q (fun x =>
        { x with nextTag := (tag + 1) % 65536,
                 outstanding := x.outstanding ++ [⟨tag, j, c.idx, p.data.length, s.drone + packetTime⟩],
                 tilesOut := Table.put 0 x.tilesOut stPort
                   (Table.get 0 x.tilesOut stPort + (if p.kind = .data then 1 else 0)),
                 stall := Table.put 0 x.stall stPort (satAdd 0xFFFFFFFF (Table.get 0 x.stall stPort) w) })
      (s.route 6 { p with tag := tag }).sendSome q j c n t

/-- What packets that left add to the tiles field: one each, or an INLINE_SEND's bytes (07 Table CMD-12). -/
def leftTiles (l : List Packet) : Nat := (l.map (fun p => if p.kind = .inline then p.data.length else 1)).sum

/-- Sends what every command of a quad still has to send (13 R369). -/
def State.pump (s : State) (q : Nat) : State :=
  (List.range 16).foldl (fun s j =>
    ((s.queue q j).cmds.filter (fun c => !c.unsent.isEmpty)).foldl (fun s c =>
      let (l, s) := s.sendSome q j c c.unsent.length c.unsent
      let n := leftTiles (c.unsent.take (c.unsent.length - l.length))
      s.setCmd q j { c with unsent := l, tiles := c.tiles + n }) s) s

end Sys2Proof.Machine
end

