-- ==== Sys2Proof/Machine/Intake.lean ====
section
/-! DEFINITION. What the station rows share: running a started command to its sink, INTAKE's reads and
record checks, and BELL's writes (02_stations_and_routes.md R43, R52, R53, R64; 03_formats.md R94 to R100;
15_resilience.md R399).

A station row moves all of a command's tiles in one step, when every extent it needs can be read and
written (01 R25, 09 R267, 12 R339); until then it asks for what is missing and the command runs on. -/

namespace Sys2Proof.Machine

/-! ### Runs -/

/-- What a run of a command's stations comes to: done with a value; waiting for memory; broken off with a status and
its detail, some of its tiles written; or stopped with a status, its detail and its tiles at a point where the
destination holds just what the state shows. -/
inductive Run (α : Type) where
  | ok (a : α) (s : State)
  | wait (s : State)
  | fail (s : State) (status : Nat) (detail : Dword)
  | stop (s : State) (status : Nat) (detail : Dword) (tiles : Nat)

/-- Goes on with a run that is done. -/
def Run.andThen {α β : Type} (r : Run α) (f : α → State → Run β) : Run β :=
  match r with
  | .ok a s => f a s
  | .wait s => .wait s
  | .fail s st d => .fail s st d
  | .stop s st d n => .stop s st d n

/-- Runs a step on each element of a list, gathering the values. -/
def runAll {α β : Type} (f : α → State → Run β) : List α → State → Run (List β)
  | [], s => .ok [] s
  | a :: t, s => (f a s).andThen (fun b s => (runAll f t s).andThen (fun bs s => .ok (b :: bs) s))

/-- The quad, queue and command of a run. A run with a limit is one that breaks off: no check ends it, at most so
many of its tiles leave, and the rest of what it would have written is free bytes (02 R65, 07 R222). -/
structure RunIn where
  q : Nat
  j : Nat
  c : Cmd
  limit : Option Nat

/-- The descriptor of a run. -/
def RunIn.d (r : RunIn) : List Byte := r.c.desc

/-- Asks that an extent can be read: the host homes accept, the dies are reached, no transaction is open
and every tile is ready (12_coherence.md R339, R353; 01 R25; 09 R267). -/
def RunIn.askRead (r : RunIn) (e : Extent) (s : State) : Run Unit :=
  if r.limit.isSome then .ok () s
  else if s.hostClosed e.pa then .fail s stHostReset 0
  else if !s.reachesAll r.q e.pa e.len then .wait s
  else if s.readReady e.coherent e.pa e.len then .ok () s
  else .wait (s.requestRead e.pa e.len)

/-- Asks that an extent can be written. -/
def RunIn.askWrite (r : RunIn) (e : Extent) (s : State) : Run Unit :=
  if r.limit.isSome then .ok () s
  else if s.hostClosed e.pa then .fail s stHostReset 0
  else if !s.reachesAll r.q e.pa e.len then .wait s
  else if s.hintedReady (stashOf r.c.stash) e.coherent e.pa e.len then .ok () s
  else .wait (s.requestWrite e.pa e.len)

/-- Asks for a list of extents, those the command does not have left out. -/
def RunIn.askAll (r : RunIn) (ask : RunIn → Extent → State → Run Unit) (offs : List Nat) (s : State) : Run (List Unit) :=
  runAll (fun e s => ask r e s) (offs.filterMap r.c.ext) s

/-- Reads an extent, or ends POISON (12_coherence.md R350). -/
def RunIn.readExt (r : RunIn) (e : Extent) (s : State) : Run (List Byte) :=
  if r.limit.isSome then .ok (s.readPhys e.coherent e.pa e.len) s
  else if s.readPoison e.coherent e.pa e.len then .fail (s.didRead e.pa e.len) stPoison 0
  else .ok (s.readPhys e.coherent e.pa e.len) (s.didRead e.pa e.len)

/-- Reads the extent at a body offset; nothing where the word is not present. -/
def RunIn.read (r : RunIn) (off : Nat) (s : State) : Run (List Byte) :=
  match r.c.ext off with
  | some e => r.readExt e s
  | none => .ok [] s

/-! ### Operands with their records -/

/-- A tile that a lane delivers: its record, data, and MXFP4 scales. -/
structure Tile0 where
  rcd : List Byte
  data : List Byte
  scales : List Byte

/-- Counts a tile that failed its check on both reads and logs it (03_formats.md R98, R100): what memory holds does
not match. -/
def RunIn.checkFailed (r : RunIn) (addr : Nat) (s : State) : Run Unit :=
  let s := s.modQuad r.q (fun x => { x with checkFail := satAdd 0xFFFF x.checkFail 1 })
  .fail (s.logErr (s.cmdRec 2 0x05 0x0020 r.q r.j r.c stPoison (some addr))) stPoison 0

/-- A check that passes may have taken a second read, where a read went wrong on its way (03_formats.md R98, R100):
whether it did is free. It then counts in check_retry and logs a CE record. Log entry 51. -/
def RunIn.checkPassed (r : RunIn) (addr : Nat) (s : State) : State :=
  let (k, s) := s.drawNat 2
  let s := s.modQuad r.q (fun x => { x with checkRetry := satAdd 0xFFFF x.checkRetry k })
  { s with log := if k = 0 then s.log else (s.logErr (s.cmdRec 0 0x05 0x0002 r.q r.j r.c 0 (some addr))).log }

/-- Checks one tile as INTAKE does: its record where it came from memory, then its data when verified
(03_formats.md R98, R100). -/
def RunIn.checkTile (r : RunIn) (named : Option Nat) (fromMem : Bool) (dataAt recAt : Nat) (t : Tile0) (s : State) :
    Run Tile0 :=
  if r.limit.isSome then .ok t s
  else if fromMem && !recCrcOk t.rcd then (r.checkFailed recAt s).andThen (fun _ s => .ok t s)
  else
    let s := if fromMem then r.checkPassed recAt s else s
    if fromMem && !recFieldsOk named t.rcd then .fail s stBadFormat 0
    else if dVerify r.d && !dataCrcOk t.rcd (t.data.take (field t.rcd 4 2)) t.scales then
      (r.checkFailed dataAt s).andThen (fun _ s => .ok t s)
    else .ok t (if dVerify r.d && bit (field t.rcd 1 1) 0 then r.checkPassed dataAt s else s)

/-- The tiles of n bytes of data in a format, the last one short for RAW. -/
def cutTiles (data : List Byte) : List (List Byte) := chunks 4096 (ceilDiv data.length 4096) data

/-- Reads the tiles of the operand at a data and a record offset, checked in order; records it lacks are
made (03_formats.md R95, R96). -/
def RunIn.tiles (r : RunIn) (f : Nat) (named : Option Nat) (dOff rOff : Nat) (s : State) : Run (List Tile0) :=
  match r.c.ext dOff with
  | none => .ok [] s
  | some e =>
    (r.readExt e s).andThen (fun data s =>
      let ds := cutTiles data
      match r.c.ext rOff with
      | none =>
        .ok (ds.zipIdx.map (fun (p : List Byte × Nat) => Tile0.mk (synthRec f p.1.length p.2) p.1 [])) s
      | some re =>
        (r.readExt re s).andThen (fun recs s =>
          let rs := chunks (recStride f) ds.length recs
          runAll (fun (p : (List Byte × List Byte) × Nat) s =>
            r.checkTile named true (e.pa + 4096 * p.2) (re.pa + recStride f * p.2)
              ⟨p.1.2.take 64, p.1.1, p.1.2.drop 64⟩ s) (List.zip ds rs).zipIdx s))

/-- The elements of each tile of an operand. -/
def tilesVals (f : Nat) (ts : List Tile0) : List (List Fp) := ts.map (fun t => tileElems f t.data t.scales)

/-- A matrix operand (03_formats.md R92). -/
def RunIn.matrix (r : RunIn) (f rows cols dOff rOff : Nat) (s : State) : Run (List (List Fp)) :=
  (r.tiles f (some f) dOff rOff s).andThen (fun ts s => .ok (matrixOf f rows cols (tilesVals f ts)) s)

/-- Whether a format passes a CROOK lane (02 R45, 05 R143, 03 R70). -/
def crookFmt (f : Nat) : Bool := decide (f ≠ fRaw) && decide (f ≠ fMxfp4) && decide (f ≤ 8)

/-- A matrix operand through a CROOK lane: its transpose; a format that may not pass stops the command BAD_FORMAT
with no tile emitted (02 R45). `rows` and `cols` are the stored matrix's. -/
def RunIn.crook (r : RunIn) (f rows cols dOff rOff : Nat) (s : State) : Run (List (List Fp)) :=
  if crookFmt f then (r.matrix f rows cols dOff rOff s).andThen (fun m s => .ok (transpose cols m) s)
  else .stop s stBadFormat 0 0

/-- A list of vectors, each in its own tiles (06_reed_chanter_gather.md R159, R160). -/
def RunIn.vectors (r : RunIn) (f count len dOff rOff : Nat) (s : State) : Run (List (List Fp)) :=
  (r.tiles f (some f) dOff rOff s).andThen (fun ts s =>
    .ok ((chunks (vecTiles f len) count (tilesVals f ts)).map (vectorOf len)) s)

/-! ### Counters -/

/-- What a run has done of an amount: all of it, or some part where it breaks off (log entry 59). -/
def RunIn.part (r : RunIn) (n : Nat) (s : State) : Nat × State :=
  match r.limit with
  | none => (n, s)
  | some _ => s.drawNat (n + 1)

/-- Adds tiles to a station's tiles_out (Table STN-6), and to its stall_cycles the cycles that they stood still, a
free number (Table STN-7; log entry 24). A station that moved no tile stood idle. -/
def State.countTiles (s : State) (q st n : Nat) : State :=
  if n = 0 then s
  else
    let (w, s) := s.drawNat (2 ^ 32)
    s.modQuad q (fun x =>
      { x with tilesOut := Table.put 0 x.tilesOut st (Table.get 0 x.tilesOut st + BitVec.ofNat 32 n),
               stall := Table.put 0 x.stall st (satAdd 0xFFFFFFFF (Table.get 0 x.stall st) w) })

/-- Adds lane-cycles to QD_REED_STEP (06_reed_chanter_gather.md R172). -/
def State.countReed (s : State) (q n : Nat) : State :=
  s.modQuad q (fun x => { x with reedStep := x.reedStep + BitVec.ofNat 64 n })

/-- Adds MACs to an array's counters: computed, muted, and its format of the last claim
(04_matrix_array.md R127, Table ARR-6). -/
def State.countArray (s : State) (q a mac muted : Nat) : State :=
  s.modQuad q (fun x => x.modArray a (fun y =>
    { y with mac := y.mac + BitVec.ofNat 64 mac, muted := y.muted + BitVec.ofNat 64 muted }))

/-- Adds MACs to QD_CHT_MAC. -/
def State.countChanter (s : State) (q n : Nat) : State :=
  s.modQuad q (fun x => { x with chtMac := x.chtMac + BitVec.ofNat 64 n })

/-- Adds what written tiles hold to the quad's saturation and underflow counts of all formats, where the
quad has them: the gradient registers (05_backward_pass.md R145, Tables BWD-7 to BWD-9). -/
def State.countGrads (s : State) (q : Nat) (ts : List OutTile) : State :=
  let sat := (ts.map OutTile.sat).sum
  let nan := (ts.map OutTile.nan).sum
  let uf := (ts.map OutTile.uflow).sum
  s.modQuad q (fun x =>
    { x with gradSat := x.gradSat || decide (sat ≠ 0), gradNan := x.gradNan || decide (nan ≠ 0),
             gradUflow := x.gradUflow || decide (uf ≠ 0),
             satCount := satAdd 0xFFFFFFFF x.satCount (sat + nan),
             uflowCount := satAdd 0xFFFFFFFF x.uflowCount uf })

/-! ### BELL and PORT -/

/-- Writes an extent with the command's stash target, or ends POISON where the write is refused
(12_coherence.md R350, 11 R326). -/
def RunIn.writeExt (r : RunIn) (e : Extent) (bs : List Byte) (s : State) : Run Unit :=
  if r.limit.isNone && s.writePoison e.coherent e.pa bs.length then .fail s stPoison 0
  else .ok () (s.writeHinted (r.q / 16) (stashOf r.c.stash) e.coherent e.pa bs)

/-- Writes to the extent at a body offset; nothing where the word is not present. -/
def RunIn.write (r : RunIn) (off : Nat) (bs : List Byte) (s : State) : Run Unit :=
  match r.c.ext off with
  | some e => r.writeExt e (bs.take e.len) s
  | none => .ok () s

/-- Writes to the extent at a body offset what follows the tiles; a run that breaks off leaves free bytes there. -/
def RunIn.side (r : RunIn) (off : Nat) (bs : List Byte) (s : State) : Run Unit :=
  match r.limit with
  | none => r.write off bs s
  | some _ => let (f, s) := s.drawBytes bs.length; r.write off f s

/-- Pieces of a destination, of which those named stay and the others are free bytes. -/
def keepFirst (kept : List Nat) : Nat → List (List Byte) → State → List (List Byte) × State
  | _, [], s => ([], s)
  | i, p :: t, s =>
    let (b, s) := if kept.contains i then (p, s) else s.drawBytes p.length
    let (bs, s) := keepFirst kept (i + 1) t s
    (b :: bs, s)

/-- The tiles of a destination that a run leaves behind, when they leave in an order: all of them, or the first few
and free bytes for the rest. -/
def RunIn.leave (r : RunIn) (order : List Nat) (ps : List (List Byte)) (s : State) : List (List Byte) × State :=
  match r.limit with
  | none => (ps, s)
  | some k => keepFirst (order.take k) 0 ps s

/-- The tiles that leave a run. -/
def RunIn.gone {α : Type} (r : RunIn) (order : List Nat) (ts : List α) : List α :=
  match r.limit with
  | none => ts
  | some k => (order.take k).filterMap (fun i => ts[i]?)

/-- How many of n tiles leave a run. -/
def RunIn.left (r : RunIn) (n : Nat) : Nat :=
  match r.limit with
  | none => n
  | some k => min k n

/-- One packet of a sent tile: its data and record (13_axis_links_and_drone.md R366). The tag is drawn when
it leaves. -/
def tilePacket (s : State) (q : Nat) (e : DestEntry) (offset : Nat) (data rcd : List Byte) : Packet :=
  { kind := .data, stage := .n, pastDateline := false, sideMinus := false, tag := 0, dest := e.coords,
    src := coordsOf (s.item 4 1 0), dquad := e.quad, window := e.window, epoch := e.epoch,
    offset := offset % 2 ^ 48, squad := q, status := 0, data := data, rcd := rcd }

/-- The rounding of a command's results (03_formats.md R84 to R87, 07 R192). -/
def RunIn.rounding (r : RunIn) (s : State) : Rounding :=
  ⟨dSr r.d, (s.queue r.q r.j).context, BitVec.ofNat 32 (dXarg r.d)⟩

/-- The packed tiles of a result with their records, in tile order. `extra` counts a tile's elements whose row
sum overflowed, which the record's sat_count adds (04 R120, 06 R174); `st` gives its statistics. -/
def outTiles (f : Nat) (rd : Rounding) (q : Nat) (extra : Nat → Nat) (st : Nat → Stats) (tiles : List (List Fp)) :
    List (OutTile × List Byte) :=
  tiles.zipIdx.map (fun (p : List Fp × Nat) =>
    let t := writeTile f rd p.2 p.1
    (t, resultRec f rd.sr (st p.2) p.2 q { t with sat := t.sat + extra p.2 }))

/-- Where the destination entry of a compute route that ends in PORT comes from, the spec does not say: no
body of an array, Chanter, Reed or Gather opcode names one. The entry and offset are free (log entry 20). -/
def State.freePort (s : State) : (DestEntry × Nat) × State :=
  let (a, s) := s.drawNat (2 ^ 32)
  let (b, s) := s.drawNat (2 ^ 32)
  let (o, s) := s.drawNat (2 ^ 48)
  ((⟨BitVec.ofNat 32 a, BitVec.ofNat 32 b, 0x80000000⟩, o), s)

/-- Sends result tiles to the route's sink in the order they leave: BELL writes them and their records, PORT packs
them to be sent. Answers the packets. -/
def RunIn.sink (r : RunIn) (order : List Nat) (cOff cRec : Nat) (ts : List (OutTile × List Byte)) (s : State) :
    Run (List Packet) :=
  if toBell r.d then
    let (ds, s) := r.leave order (ts.map (fun p => p.1.data)) s
    let (rs, s) := r.leave order (ts.map Prod.snd) s
    (r.write cOff ds.flatten s).andThen (fun _ s =>
      (r.write cRec rs.flatten s).andThen (fun _ s => .ok [] s))
  else
    let (p, s) := s.freePort
    .ok ((order.take (r.left ts.length)).filterMap (fun i => (ts[i]?).map (fun t =>
      tilePacket s r.q p.1 (p.2 + 4096 * i) t.1.data t.2))) s

/-- Writes a reduction vector (06_reed_chanter_gather.md R166): FP32 tiles that count nowhere. -/
def RunIn.reduction (r : RunIn) (off : Nat) (v : List Fp) (s : State) : Run Unit :=
  r.side off ((tilesOfVector fFp32 v).flatMap (fun t => (writeTile fFp32 ⟨false, 0, 0⟩ 0 t).data)) s

/-! ### The frame of every station row -/

/-- What a finished run leaves in its command: its status, tiles at the sink, packets to send, and the
stations' tiles_out. -/
structure RunOut where
  tiles : Nat
  unsent : List Packet
  counts : List (Nat × Nat)

/-- The status of a command that ends well (08_memory_model.md R238). -/
def okStatus (c : Cmd) : Nat := if c.late then stOkLate else stOk

/-- Marks a command's work done. -/
def State.doneCmd (s : State) (q j : Nat) (c : Cmd) (o : RunOut) : State :=
  let s := o.counts.foldl (fun s p => s.countTiles q p.1 p.2) s
  s.setCmd q j { c with ran := true, status := okStatus c, tiles := o.tiles, unsent := o.unsent }

/-- Breaks a command's run off with a status: some first tiles of it have been written and stay, and the rest of its
destination is undefined (02 R65, 03 R98, 07 R222). How many is free, as timing has it (log entries 2, 39); the
stations' counts are some part of the whole run's (log entry 59). An abort discards packets that have not left. -/
def State.breakRun (s : State) (q j : Nat) (c : Cmd) (f : RunIn → State → Run RunOut) (status : Nat) (detail : Dword) :
    State :=
  let (k, s) := s.drawNat (2 ^ 32)
  match f ⟨q, j, c, some k⟩ s with
  | .ok o s =>
    let s := o.counts.foldl (fun s p => let (n, s) := s.drawNat (p.2 + 1); s.countTiles q p.1 n) s
    s.setCmd q j { c with ran := true, status := status, detail := detail, tiles := o.tiles,
                          unsent := if status = stAborted then [] else o.unsent }
  | _ => s.setCmd q j { c with ran := true, status := status, detail := detail, tiles := 0, unsent := [] }

/-- Runs the stations of a started command, once: the row's opcode must be the command's, and its quad must
run. What a run did before it had to wait stays done. -/
def State.runCmd (s : State) (q j : Nat) (idx : Word) (op : Nat) (f : RunIn → State → Run RunOut) : State :=
  match (s.queue q j).find idx with
  | none => s
  | some c =>
    if s.quadRuns q && decide (c.phase = .running) && !c.ran && decide (opcodeOf c.desc = op) then
      match f ⟨q, j, c, none⟩ s with
      | .ok o s => (s.doneCmd q j c o).pump q
      | .wait s => s
      | .fail s st det => s.breakRun q j c f st det
      | .stop s st det n => s.setCmd q j { c with ran := true, status := st, detail := det, tiles := n, unsent := [] }
    else s

end Sys2Proof.Machine
end

