-- ==== Sys2Proof/Machine/Products.lean ====
section
/-! DEFINITION. What the array, Chanter and Reed rows share: an array product with its counters, the Reed
behind another station, second operands, and results with and without it (04_matrix_array.md R118 to R127,
05_backward_pass.md R135 to R145, 06_reed_chanter_gather.md R167, R174). -/

namespace Sys2Proof.Machine

/-- A signed 8-bit scale exponent at a body offset (05 R144). -/
def scaleExp (d : List Byte) (off : Nat) : Int := signed (body d off 1) 8

/-- Whether the image selects CHECKED mode (15_resilience.md R401). -/
def State.checked (s : State) : Bool := decide (s.item 2 2 0 = 0)

/-- A product's stationary rows and stream columns. -/
structure Factors where
  a : List (List Fp)
  cols : List (List Fp)

/-- The operands of an array product: the stationary one, transposed through a CROOK lane where asked, and
the stream, which CROOK in the route transposes (05 R135, R138, R140). -/
def RunIn.factors (r : RunIn) (fa fb m k n : Nat) (side : Bool) (s : State) : Run Factors :=
  (if side then r.crook fa k m 0 8 s else r.matrix fa m k 0 8 s).andThen (fun a s =>
    let a := a.map (List.map (stationary fa))
    if onRoute r.d stCrook then
      if crookFmt fb then (r.matrix fb n k 0x10 0x18 s).andThen (fun c s => .ok ⟨a, c⟩ s)
      else .stop s stBadFormat 0 0
    else (r.matrix fb k n 0x10 0x18 s).andThen (fun b s => .ok ⟨a, transpose n b⟩ s))

/-- Counts a product's MACs (04 R127). -/
def RunIn.countProduct (r : RunIn) (x : Factors) (s : State) : State :=
  let (n, s) := r.part (macCount s.checked (computedMacs x.a x.cols)) s
  let (z, s) := r.part (countZeros x.a * x.cols.length) s
  s.countArray r.q (arrayOf r.d) n z

/-- Reads a second operand that has no records of its own: tiles of a format (07 Tables CMD-5, CMD-7). -/
def RunIn.plainTiles (r : RunIn) (f off : Nat) (s : State) : Run (List (List Fp)) :=
  r.tiles f none off 0x1000 s |>.andThen (fun ts s => .ok (tilesVals f ts) s)

/-- Steps of a program block (07 R201). -/
def progSteps (n : Nat) (bs : List Byte) : List Nat := (List.range n).map (fun i => field bs (2 * i) 2)
/-- The four constants at an offset of bytes. -/
def fourConsts (off : Nat) (bs : List Byte) : List Fp := (List.range 4).map (fun i => fp32.decode (field bs (off + 4 * i) 4))

/-- The second operand of a Reed behind another station, in the result's shape (06 R167, 07 R201). `vecs`
says that the result is a list of vectors. -/
def RunIn.secondOperand (r : RunIn) (c : ReedCtl) (rows cols : Nat) (vecs : Bool) (s : State) : Run (List (List Fp)) :=
  if c.mode = 0 then .ok (spreadOp2 0 rows cols [] []) s
  else if c.mode = 1 then
    (if vecs then r.vectors c.fmt2 rows cols 0x40 0x48 s else r.matrix c.fmt2 rows cols 0x40 0x48 s).andThen (fun m s =>
      .ok (toFp32 m) s)
  else
    (r.vectors fFp32 1 (if c.mode = 2 then cols else rows) 0x40 0x48 s).andThen (fun v s =>
      .ok (spreadOp2 c.mode rows cols [] (v.headD [])) s)

/-- Tiles of that second operand. -/
def op2Tiles (c : ReedCtl) (rows cols : Nat) (vecs : Bool) : Nat :=
  if c.mode = 0 then 0
  else if c.mode = 1 then (if vecs then rows * vecTiles c.fmt2 cols else matTiles c.fmt2 rows cols)
  else vecTiles fFp32 (if c.mode = 2 then cols else rows)

/-- Runs the Reed behind another station on a matrix (06 R174): its one-pass program and its lane-cycles. -/
def RunIn.reedBehind (r : RunIn) (c : ReedCtl) (rows cols : Nat) (vecs : Bool) (x : List (List Fp)) (s : State) :
    Run ReedOut :=
  (r.secondOperand c rows cols vecs s).andThen (fun y s =>
    let p := progSteps c.nsteps r.c.prog
    let (n, s) := r.part (progCost p * rows * cols) s
    .ok (reedOnePass (fourConsts 16 r.c.prog) p cols (toFp32 x) y) (s.countReed r.q n))

/-- Elements with a flag in each tile of a matrix. -/
def flagsIn (tiles : List (List Bool)) (i : Nat) : Nat := (tiles.getD i []).countP id

/-- The tiles of a matrix result in a format, from values and overflow flags. -/
def RunIn.packMatrix (r : RunIn) (f rows cols : Nat) (vals : List (List Fp)) (ovf : List (List Bool)) (s : State) :
    List (OutTile × List Byte) :=
  outTiles f (r.rounding s) r.q (flagsIn (tilesOfMatrix f rows cols ovf)) (fun _ => Stats.none) (tilesOfMatrix f rows cols vals)

/-- The tiles of a list of vectors (06 R159, R176). -/
def RunIn.packVectors (r : RunIn) (f : Nat) (vals : List (List Fp)) (ovf : List (List Bool)) (s : State) :
    List (OutTile × List Byte) :=
  outTiles f (r.rounding s) r.q
    (flagsIn (ovf.flatMap (fun v => chunks (tileE f) (vecTiles f v.length) v)))
    (fun _ => Stats.none) (vals.flatMap (tilesOfVector f))

/-- Tiles at the sink: those that BELL wrote. PORT counts as it sends. -/
def RunIn.atSink (r : RunIn) (n : Nat) : Nat := if toBell r.d then r.left n else 0
/-- BELL's tiles_out. -/
def bellCount (d : List Byte) (n : Nat) : List (Nat × Nat) := if toBell d then [(stBell, n)] else []

/-- The values of a result and, where the Reed's program sums columns for it, the reduction vector. -/
def RunIn.throughReed (r : RunIn) (fc rows cols : Nat) (vecs : Bool) (vals : List (List Fp)) (s : State) :
    Run (List (List Fp) × Option (List Fp)) :=
  match reedOf r.d with
  | some c =>
    (r.reedBehind c rows cols vecs (roundVia fc vals) s).andThen (fun o s =>
      .ok (o.out, if c.reduce then some o.colRes else none) s)
  | none => .ok (vals, none) s

/-- The result of an array or Chanter command: rounded by the output stage, through the Reed where the route
has it, to the sink; then the reduction vector (04 R113, R123, 05 R144, 06 R166, R174). -/
def RunIn.finish (r : RunIn) (fc rows cols : Nat) (vecs grads : Bool) (e : Int) (prod : List (List (Fp × Bool)))
    (cOff cRec : Nat) (counts : List (Nat × Nat)) (s : State) : Run RunOut :=
  let ovf := prod.map (List.map Prod.snd)
  (r.throughReed fc rows cols vecs (prod.map (List.map (fun x => x.1.scale e))) s).andThen (fun o s =>
    let ts := if vecs then r.packVectors fc o.1 ovf s else r.packMatrix fc rows cols o.1 ovf s
    let n := ts.length
    let order := if vecs then List.range n else arrayOrder fc rows cols
    let s := if grads then s.countGrads r.q ((r.gone order ts).map Prod.fst) else s
    (r.sink order cOff cRec ts s).andThen (fun ps s =>
      (match o.2 with
       | some v => r.reduction 0x58 v s
       | none => .ok () s).andThen (fun _ s =>
        .ok ⟨r.atSink n, ps, counts ++ (match reedOf r.d with | some _ => [(stReed, n)] | none => []) ++ bellCount r.d n⟩ s)))

/-- Asks for every extent a command reads and writes. -/
def RunIn.askBoth (r : RunIn) (reads writes : List Nat) (s : State) : Run (List Unit) :=
  (r.askAll RunIn.askRead reads s).andThen (fun _ s => r.askAll RunIn.askWrite writes s)

/-- Undefined workspace contents after a kernel's use (05 R150, 06 R169). -/
def RunIn.scrambleAt (r : RunIn) (off : Nat) (s : State) : State :=
  match r.c.ext off with
  | some e => let (bs, s) := s.drawBytes e.len; s.writePhys e.coherent e.pa bs
  | none => s

end Sys2Proof.Machine
end

