-- ==== Sys2Proof/Machine/Arrays.lean ====
section
/-! DEFINITION. GEMM, GEMM_T and GEMV (07_commands_and_queues.md R200, R203; 04_matrix_array.md R103 to R127;
05_backward_pass.md R135 to R145; 06_reed_chanter_gather.md R175, R176). -/

namespace Sys2Proof.Machine

/-- Tiles of the second operand that a Reed behind another station reads. -/
def reedTiles (d : List Byte) (rows cols : Nat) (vecs : Bool) : Nat :=
  match reedOf d with
  | some c => op2Tiles c rows cols vecs
  | none => 0

/-- The extents a GEMM or GEMM_T reads, and those it writes. -/
def gemmReads : List Nat := [0, 8, 0x10, 0x18, 0x40, 0x48]
def gemmWrites : List Nat := [0x20, 0x28, 0x58]

/-- The stations of a product command with the body of Table CMD-3: whether the stationary operand is
transposed, whether the results count as gradients, and the scale exponent. -/
def RunIn.runProduct (r : RunIn) (side grads : Bool) (e : Int) (s : State) : Run RunOut :=
  let (m, k, n) := gDims r.d
  let fa := body r.d 0x36 1
  let fb := body r.d 0x37 1
  let fc := body r.d 0x38 1
  (r.askBoth gemmReads gemmWrites s).andThen (fun _ s =>
    (r.factors fa fb m k n side s).andThen (fun x s =>
      let c := (clsOf fa).getD .fp8
      let prod := relued (dRelu r.d) (productOf c x.a x.cols)
      let s := r.countProduct x s
      let ta := matTiles fa m k
      let tb := matTiles fb k n
      let tc := matTiles fc m n
      let crooked := (if side then ta else 0) + (if onRoute r.d stCrook then tb else 0)
      r.finish fc m n false grads e prod 0x20 0x28
        [(stIntake, ta + tb + reedTiles r.d m n false), (stCrook, crooked), (stArray0 + arrayOf r.d, tc)] s))

/-- The stations of a GEMM (07 R200, 04 R118 to R123, 05 R138). -/
def RunIn.runGemm (r : RunIn) (s : State) : Run RunOut := r.runProduct (bit (body r.d 0x39 1) 0) false 0 s

/-- GEMM (07 R200). -/
def execGemm (q j : Nat) (idx : Word) (s : State) : Host.Outcome State Fault Refusal :=
  .next (s.runCmd q j idx opGemm RunIn.runGemm)

/-- The stations of a GEMM_T (05 R135, R144, R145). -/
def RunIn.runGemmT (r : RunIn) (s : State) : Run RunOut :=
  r.runProduct (decide (gMode r.d = 1)) true (scaleExp r.d 0x3A) s

/-- GEMM_T (05 R135). -/
def execGemmT (q j : Nat) (idx : Word) (s : State) : Host.Outcome State Fault Refusal :=
  .next (s.runCmd q j idx opGemmT RunIn.runGemmT)

/-- The stations of a GEMV: the vectors over INTAKE, the weights over the Chanter's own port (06 R175 to
R177). -/
def RunIn.runGemv (r : RunIn) (s : State) : Run RunOut :=
  let k := dim64 r.d 0x30 2
  let n := dim64 r.d 0x32 2
  let b := body r.d 0x34 1
  let fx := body r.d 0x35 1
  let fw := body r.d 0x36 1
  let fy := body r.d 0x37 1
  (r.askBoth gemmReads gemmWrites s).andThen (fun _ s =>
    (r.vectors fx b k 0 8 s).andThen (fun x s =>
      (r.matrix fw k n 0x10 0x18 s).andThen (fun w s =>
        let c := (clsOf fx).getD .fp8
        let prod := relued (dRelu r.d) (productOf c (x.map (List.map (stationary fx))) (transpose n w))
        let (z, s) := r.part (b * k * n) s
        let s := s.countChanter r.q z
        let ty := b * vecTiles fy n
        r.finish fy b n true false 0 prod 0x20 0x28
          [(stIntake, b * vecTiles fx k + reedTiles r.d b n true), (stChanter, ty)] s)))

/-- GEMV (06 R175). -/
def execGemv (q j : Nat) (idx : Word) (s : State) : Host.Outcome State Fault Refusal :=
  .next (s.runCmd q j idx opGemv RunIn.runGemv)

end Sys2Proof.Machine
end

