-- ==== Sys2Proof/Machine/Ports.lean ====
section
/-! DEFINITION. Who may do what: the authority of a port of arrival
(17_configuration_and_security.md R454, Table CFG-8; 18_boot_and_reset.md R468; 14 R394). -/

namespace Sys2Proof.Machine

/-- Whether boot has left the management ports free to answer every message: boot is done, or has
halted outside recovery (18_boot_and_reset.md R468, R470). -/
def State.mgmtOpen (s : State) : Bool :=
  !s.boot.held && !s.boot.recovery && (s.boot.done || decide (s.boot.failedStage ≠ 0))

/-- Whether a port holds MGMT_SEM (17_configuration_and_security.md R453). -/
def State.holdsSem (s : State) : Port → Bool
  | .mgmtA => decide (s.cfg.holder = 1)
  | .mgmtB => decide (s.cfg.holder = 2)
  | .core _ => false
  | .pcie _ => false

/-- Whether a port may write the registers that Table CFG-8 opens to host cores: QD_, DIE_, PKG_, STU_,
HC_, COH_, AXLn_, ETH_, ERR_ and PWR_. -/
def State.mayWrite (s : State) : Port → Bool
  | .core _ => s.hostRuns
  | .mgmtA => s.mgmtOpen && s.holdsSem .mgmtA
  | .mgmtB => s.mgmtOpen && s.holdsSem .mgmtB
  | .pcie _ => false

/-- Whether a port may write the registers that Table CFG-8 keeps for MGMT_SEM: the AXLn_FI_ registers,
PKG_RST_CTRL, PKG_RST_CAUSE, and every CFG_ and MGMT_ register. -/
def State.mayManage (s : State) (p : Port) : Bool := s.mgmtOpen && s.holdsSem p

/-- Whether a port may write the AXLn_FI_ registers: the holder, before the cycle in which its lease ends. A write in that
cycle is judged after the end (13_axis_links_and_drone.md R373). -/
def State.mayInject (s : State) (p : Port) : Bool := s.mayManage p && decide (s.drone < s.cfg.leaseEnd)

/-- Whether a port may read configuration space: host cores when they run, the management ports from
stage 0x3 on or after a halt (17 Table CFG-8; 18 R468, R470). -/
def State.mayRead (s : State) : Port → Bool
  | .core _ => s.hostRuns
  | .mgmtA => s.mgmtOpen || (!s.boot.held && !s.boot.recovery && decide (3 ≤ s.boot.stage))
  | .mgmtB => s.mgmtOpen || (!s.boot.held && !s.boot.recovery && decide (3 ≤ s.boot.stage))
  | .pcie _ => false

/-- Whether the block of a logical quad takes accesses: the quad is present and its die is not in reset
(01_package.md R35; log entry 16). -/
def State.quadOpen (s : State) (q : Nat) : Bool :=
  s.present q && !(s.boot.diesInReset.contains (q / 16))

/-- Whether the image grants a PCIe port a queue's doorbell (14_network_and_pcie.md Table NET-3; item
0x08.11 of 17 Table CFG-4). -/
def State.dbGranted (s : State) (port pq : Nat) : Bool :=
  (List.range 64).any (fun k =>
    let v := s.item 8 0x11 (port * 64 + k)
    bit v 31 && decide (v % 1024 = pq))

/-- Whether the image grants a PCIe port a sync object (14 Table NET-3; item 0x08.12). -/
def State.syncGranted (s : State) (port obj : Nat) : Bool :=
  (List.range 256).any (fun k =>
    let v := s.item 8 0x12 (port * 256 + k)
    bit v 31 && decide (v % 16384 = obj))

/-- Counts a refused PCIe access and logs it (14_network_and_pcie.md R394; 15 Table RES-8). -/
def State.pcieDeny (s : State) (port : Nat) : State :=
  (s.modPcie port (fun x => { x with denied := satAdd 0xFFFFFFFF x.denied 1 })).logErr
    (errRec 0 0x0F 0x0005 (6 + port) port)

end Sys2Proof.Machine
end

