-- ==== Sys2Proof/Machine/Links.lean ====
section
/-! DEFINITION. The axis links: packets on their way, responses and deadlines, flits and replay, lanes,
training, and the fault-injection register (13_axis_links_and_drone.md R358 to R373). -/

namespace Sys2Proof.Machine

/-! ### Packets and their responses -/

/-- PACKET_FORWARD (R362 to R364, R368): a packet that came by a link, or starts here as link 6, goes on. -/
def execPacketForward (arr : Nat) (pk : Packet) (s : State) : Host.Outcome State Fault Refusal :=
  .next (if s.boot.held then s else s.route arr pk)

/-- The packet of a tag that awaits its response. -/
def Quad.waitingTag (x : Quad) (tag : Nat) : Option OutPkt := x.outstanding.find? (fun o => decide (o.tag = tag))

/-- Counts a response that came too late (R369). -/
def State.lateResponse (s : State) (q : Nat) : State :=
  s.modQuad q (fun x => { x with portLate := satAdd 0xFFFF x.portLate 1 })

/-- Lets go of a packet that was answered or has failed. -/
def State.forgetTag (s : State) (q tag : Nat) : State :=
  s.modQuad q (fun x => { x with outstanding := x.outstanding.filter (fun o => decide (o.tag ≠ tag)) })

/-- A command's first failing packet ends its sending with a status; of two that fail in one cycle LINK_LOST stands
(R370). -/
def Cmd.failSend (c : Cmd) (now status : Nat) : Cmd :=
  if c.status < 0x10 then { c with unsent := [], status := status, failedAt := some now }
  else if status = stLinkLost ∧ c.status = stEpochStale ∧ c.failedAt = some now then { c with status := status }
  else c

/-- A packet of a quad fails with a status; what other commands still have to send goes on (R369, R370). -/
def State.failPacket (s : State) (q : Nat) (o : OutPkt) (status : Nat) : State :=
  let s := s.forgetTag q o.tag
  let s := match (s.queue q o.j).find o.idx with
    | some c => s.setCmd q o.j (c.failSend s.drone status)
    | none => s
  s.pump q

/-- A response to a packet of a quad: `f` is what it does when it comes in time; in the deadline's deciding cycle it
still wins (R369). -/
def State.respondTo (s : State) (q tag : Nat) (f : OutPkt → State) : State :=
  match (s.quad q).waitingTag tag with
  | some o => if s.inTime o.deadline then f o else s.lateResponse q
  | none => s.lateResponse q

/-- ACK_RECEIVE (R369, R370). -/
def execAckReceive (q tag : Nat) (s : State) : Host.Outcome State Fault Refusal :=
  .next (if s.quadRuns q then s.respondTo q tag (fun o => (s.forgetTag q o.tag).pump q) else s)

/-- NACK_RECEIVE (R370): LINK_LOST or EPOCH_STALE. -/
def execNackReceive (q tag : Nat) (st : Byte) (s : State) : Host.Outcome State Fault Refusal :=
  .next (if s.quadRuns q && (decide (st.toNat = stLinkLost) || decide (st.toNat = stEpochStale)) then
      s.respondTo q tag (fun o => s.failPacket q o st.toNat)
    else s)

/-- PACKET_DEADLINE (R369): once the deciding cycle is over, in which a response still wins (log entry 189). -/
def execPacketDeadline (q tag : Nat) (s : State) : Host.Outcome State Fault Refusal :=
  .next (
    match (s.quad q).waitingTag tag with
    | some o => if s.quadRuns q && !(s.inTime o.deadline) then s.failPacket q o stLinkLost else s
    | none => s)

/-! ### Flits and replay -/

/-- Whether a flit fails its check: a wrong CRC, a payload of another length or a reserved type (R357). -/
def badFlit (f : Flit) : Bool :=
  decide (flitCrc f ≠ f.crc) || decide (f.payload.length ≠ 245) || decide (2 < f.type)

/-- Takes the credits that a flit returns on a channel (Table AXL-1). -/
def Link.takeCredit (l : Link) (f : Flit) : Link :=
  { l with used := Table.put 0 l.used f.creditVc (Table.get 0 l.used f.creditVc - f.credit) }

/-- Takes an acknowledgement: what the partner has received in order leaves the replay buffer (R357, R358). -/
def Link.takeAck (l : Link) (ack : Nat) : Link :=
  match l.replayBuf with
  | [] => l
  | (f, _) :: _ =>
    let k := (ack + 4096 - f.seq) % 4096
    if k < l.replayBuf.length then { l with replayBuf := l.replayBuf.drop (k + 1), inRow := 0 } else l

/-- The whole packets at the front of a channel's bytes and what follows them. What starts no packet is a flit's
fill and is dropped. -/
def parsePackets : Nat → List Byte → List Packet × List Byte
  | 0, bs => ([], bs)
  | n + 1, bs =>
    match parsePacket bs with
    | some (p, rest) => let (ps, r) := parsePackets n rest; (p :: ps, r)
    | none => ([], if (kindOf (bits (field bs 0 1) 0 4)).isSome then bs else [])

/-- Takes a data flit's payload: every packet that is whole has come by this link (R365). -/
def State.takePayload (s : State) (n vc : Nat) (payload : List Byte) : State :=
  let all := Table.get [] (s.link n).rx vc ++ payload
  let (ps, rest) := parsePackets (all.length / 32 + 1) all
  let s := s.modLink n (fun l => { l with rx := Table.put [] l.rx vc rest })
  ps.foldl (fun s p => s.emit (.packet (8 + n) p)) s

/-- An in-order flit (R357, R358). -/
def State.acceptFlit (s : State) (n : Nat) (f : Flit) : State :=
  let s := s.modLink n (fun l => { (l.takeAck f.ack).takeCredit f with rxSeq := (l.rxSeq + 1) % 4096 })
  let s := if f.type = 1 then s.takePayload n f.vc f.payload else s
  s.drainLink n

/-- What the FEC below the flits counted meanwhile: at most one codeword of 643 bytes ends with a flit of 256, and
whether it was corrected or uncorrectable the flit does not say (Table AXL-9; log entry 25). The corrected count is
kept in codewords, of which the register shows 256ths. -/
def State.countFec (s : State) (n : Nat) : State :=
  let (k, s) := s.drawNat 3
  s.modLink n (fun l =>
    if k = 1 then { l with fecCorrected := satAdd 0xFFFFFFFF l.fecCorrected 1 }
    else if k = 2 then { l with fecUncorr := satAdd 0xFF l.fecUncorr 1 }
    else l)

/-- FLIT_RECEIVE (R357, R358): taken in order, else discarded with a replay request. -/
def execFlitReceive (n : Nat) (f : Flit) (s : State) : Host.Outcome State Fault Refusal :=
  .next (if s.boot.held || decide ((s.link n).st ≠ .up) then s
    else
      let s := s.countFec n
      if badFlit f then
      (s.modLink n (fun l => { l with crc := satAdd 0xFFFF l.crc 1 })).emit (.replayRequest n)
    else if f.seq ≠ (s.link n).rxSeq then s.emit (.replayRequest n)
    else s.acceptFlit n f)

/-- Sends again everything in a link's replay buffer, its waiting times begun anew (R358). -/
def State.resend (s : State) (n : Nat) : State :=
  let l := s.link n
  (s.modLink n (fun l => { l with replayBuf := l.replayBuf.map (fun e => (e.1, s.drone)) })).putFlits n
    (l.replayBuf.map Prod.fst)

/-- A replay from the oldest unacknowledged flit; after eight in a row without an advance the link retrains
(R358). -/
def State.replay (s : State) (n : Nat) : State :=
  if (s.link n).inRow = 8 then s.modLink n (fun l => { l with st := .retraining, since := s.drone, inRow := 0 })
  else
    (s.modLink n (fun l => { l with replays := satAdd 0xFFFF l.replays 1, inRow := l.inRow + 1 })).resend n

/-- REPLAY_REQUEST (R358). -/
def execReplayRequest (n : Nat) (s : State) : Host.Outcome State Fault Refusal :=
  .next (if !s.boot.held && decide ((s.link n).st = .up) && !((s.link n).replayBuf.isEmpty) then s.replay n else s)

/-- Whether a link's oldest unacknowledged flit has waited 2 µs; in the timer's deciding cycle an acknowledgement may
still come, and wins (R358; log entry 189). -/
def State.overdue (s : State) (l : Link) : Bool :=
  match l.replayBuf with
  | [] => false
  | (_, t) :: _ => !(s.inTime (t + 2000))

/-- REPLAY_TIMEOUT (R358). -/
def execReplayTimeout (n : Nat) (s : State) : Host.Outcome State Fault Refusal :=
  .next (if !s.boot.held && decide ((s.link n).st = .up) && s.overdue (s.link n) then s.replay n else s)

/-! ### Lanes and training -/

/-- Takes a link down: its replay buffer is discarded, and packets of which nothing has been sent are routed again (R359, R364). -/
def State.linkDown (s : State) (n : Nat) : State :=
  let w := (s.link n).txWait
  let s := s.modLink n (fun l =>
    { l with st := .down, replayBuf := [], txWait := [], used := [], swap := none, inRow := 0, rx := [],
             since := s.drone })
  (w.filter (fun p => !p.begun)).foldl (fun s p => s.route p.arr p.pk) s

/-- The failed data lanes of a direction that no spare replaces: lane 16 is the spare, and it takes the place of
the first lane that fails (R359). -/
def unrepaired (failed : List Nat) : List Nat :=
  let data := failed.filter (fun i => decide (i < 16))
  if failed.contains 16 then data else data.drop 1

/-- The 8-lane half of a direction that holds no unrepaired lane: true for lanes 8 to 15, none where both halves
hold one (R359). -/
def goodHalf (l : List Nat) : Option Bool :=
  if l.all (fun i => decide (8 ≤ i)) then some false
  else if l.all (fun i => decide (i < 8)) then some true
  else none

/-- Notes a failed lane. -/
def Link.failLane (l : Link) (dir : LinkDir) (lane : Nat) : Link :=
  match dir with
  | .tx => { l with failedTx := l.failedTx ++ [lane] }
  | .rx => { l with failedRx := l.failedRx ++ [lane] }

/-- The spare flags and width that the failed lanes leave (Table AXL-9). -/
def Link.settleLanes (l : Link) (half : Bool) : Link :=
  { l with spareTx := l.spareTx || (l.failedTx.any (· < 16) && !(l.failedTx.contains 16)),
           spareRx := l.spareRx || (l.failedRx.any (· < 16) && !(l.failedRx.contains 16)),
           width8 := l.width8 || !(unrepaired l.failedTx).isEmpty || !(unrepaired l.failedRx).isEmpty, half := half }

/-- A record about a link: links 0 to 2 stand on X0, 3 to 5 on X1 (R356; 15 Table RES-7). -/
def linkRec (cls code n : Nat) : ErrRec := errRec cls 0x0D code (6 + n / 3) n

/-- A lane of a link fails (R359): the spare, then half width, then no link. -/
def State.laneFails (s : State) (n : Nat) (dir : LinkDir) (lane : Nat) : State :=
  let old := s.link n
  let l := old.failLane dir lane
  match goodHalf (unrepaired l.failedTx), goodHalf (unrepaired l.failedRx) with
  | some h, some _ =>
    let l' := l.settleLanes h
    let s := s.modLink n (fun _ => l')
    let s := if l'.spareTx ≠ old.spareTx ∨ l'.spareRx ≠ old.spareRx then s.logErr { linkRec 0 0x0003 n with aux0 := 1 } else s
    if l'.width8 ≠ old.width8 then s.logErr (linkRec 1 0x0012 n) else s
  | _, _ => (s.modLink n (fun _ => l)).linkDown n

/-- LINK_LANE_FAIL (R359). -/
def execLinkLaneFail (n : Nat) (dir : LinkDir) (lane : Nat) (s : State) : Host.Outcome State Fault Refusal :=
  .next (
    let l := s.link n
    if s.boot.held || decide (l.st = .down) || (match dir with | .tx => l.failedTx | .rx => l.failedRx).contains lane
    then s else s.laneFails n dir lane)

/-- LINK_RETRAIN_TIMEOUT (R359): 1 ms. -/
def execLinkRetrainTimeout (n : Nat) (s : State) : Host.Outcome State Fault Refusal :=
  .next (
    let l := s.link n
    if !s.boot.held && decide (l.st = .retraining) && decide (l.since + 1000000 ≤ s.drone) then s.linkDown n else s)

/-- Begins training from down: lanes that failed before are tried again (R359). -/
def State.startTraining (s : State) (n : Nat) : State :=
  s.modLink n (fun l =>
    { l with st := .training, since := s.drone, failedTx := [], failedRx := [], spareTx := false, spareRx := false,
             width8 := false, half := false, replayBuf := [], used := [], swap := none, inRow := 0, rx := [], txSeq := 0, rxSeq := 0 })

/-- LINK_TRAIN_RETRY (R359): a used link that is down, or whose partner has not answered, tries again after
100 ms. -/
def execLinkTrainRetry (n : Nat) (s : State) : Host.Outcome State Fault Refusal :=
  .next (
    let l := s.link n
    if !s.boot.held && !s.linkUnused n && (decide (l.st = .down) || decide (l.st = .training)) &&
        decide (l.since + 100000000 ≤ s.drone) then s.startTraining n
    else s)

/-- Whether a partner is the one that the roles and ring lengths predict (R360). -/
def State.wired (s : State) (n : Nat) (partner : Coords) (partnerLink : Nat) : Bool :=
  decide (partner = s.neighbour n) && decide (partnerLink = n / 2 * 2 + (1 - n % 2))

/-- LINK_TRAINED (R359, R360): up, with what the replay buffer holds sent again after a retrain; or down and
miswired. -/
def execLinkTrained (n : Nat) (partner : Coords) (partnerLink : Nat) (s : State) : Host.Outcome State Fault Refusal :=
  .next (
    let l := s.link n
    if s.boot.held || s.linkUnused n || (decide (l.st ≠ .training) && decide (l.st ≠ .retraining)) then s
    else if s.wired n partner partnerLink then
      let s := s.modLink n (fun l => { l with st := .up, miswired := false, since := s.drone })
      let s := s.resend n
      s.drainLink n
    else (s.modLink n (fun l => { l with miswired := true })).linkDown n)

/-! ### Fault injection -/

/-- A write of AXLn_FI_CTRL from the holder (R373, Table AXL-9): reserved encodings keep the field. -/
def Link.writeFi (l : Link) (v : Word) : Link :=
  let n := v.toNat
  let o := l.fiCtrl.toNat
  let keep := fun (bad : Bool) (lo w : Nat) => if bad then bits o lo w else bits n lo w
  let rate := bits n 17 5
  let f := bits n 24 2 * 2 ^ 24 + keep (decide (bits n 22 2 = 3)) 22 2 * 2 ^ 22 +
    keep (decide (rate < 4) || decide (30 < rate)) 17 5 * 2 ^ 17 + bits n 13 4 * 2 ^ 13 +
    keep (decide (7 < bits n 8 5)) 8 5 * 2 ^ 8 + bits n 0 8
  { l with fiEnable := bit n 31, fiDenied := w1c l.fiDenied v 30, fiCtrl := BitVec.ofNat 32 f }

/-- AXL_FI_CTRL_WRITE (R373): the holder of MGMT_SEM writes; any other write is ignored and sets denied. -/
def execAxlFiCtrlWrite (p : Port) (n : Nat) (v : Word) (s : State) : Host.Outcome State Fault Refusal :=
  .next (
    match p with
    | .pcie k => s.pcieDeny k
    | .core _ => if s.hostRuns then s.modLink n (fun l => { l with fiDenied := true }) else s
    | _ =>
      if s.mayInject p then s.modLink n (·.writeFi v)
      else if s.mgmtOpen then s.modLink n (fun l => { l with fiDenied := true }) else s)

end Sys2Proof.Machine
end

