-- ==== Sys2Proof/Machine/Drone.lean ====
section
/-! DEFINITION. The torus time: exchanges, the load and its shift of deadlines, election, free running, and
the queue of step boundaries (13_axis_links_and_drone.md R374 to R379). -/

namespace Sys2Proof.Machine

/-! ### Exchanges -/

/-- The offset to a parent: half of (t2 − t1) − (t4 − t3), towards zero (R376). -/
def droneOffset (t1 t2 t3 t4 : Dword) : Int :=
  (((t2.toNat : Int) - t1.toNat) - ((t4.toNat : Int) - t3.toNat)).tdiv 2

/-- Whether an offset is within the bound of 2 ns and 0.5 ns a hop (R376). -/
def Time.within (t : Time) (offset : Int) : Bool := decide (2 * offset.natAbs ≤ 4 + t.hops)

/-- Whether a package has a parent over a link that passes traffic (R375, R376). -/
def State.hasParent (s : State) : Bool := decide (s.time.parent < 6) && s.linkUsable s.time.parent

/-- DRONE_SYNC_EXCHANGE (R376, R377): the offset is measured anew; the Drone then moves towards it by the
slewing of its ticks (log entry 1). -/
def execDroneSyncExchange (t1 t2 t3 t4 : Dword) (s : State) : Host.Outcome State Fault Refusal :=
  .next (if !s.boot.held && s.time.loaded && s.hasParent && decide (s.time.lastExchange + 1024 ≤ s.drone) then
      s.modTime (fun t =>
        let o := droneOffset t1 t2 t3 t4
        { t with offset := o, lastExchange := t.drone, synced := t.within o, freeRun := t.freeRun && !t.within o })
    else s)

/-! ### The load -/

/-- Moves a time by an offset. -/
def shiftTime (o : Int) (t : Nat) : Nat := ((t : Int) + o).toNat

/-- Changes every value of a table, keeping its form. -/
def Table.mapVals {α : Type} [DecidableEq α] (d : α) (f : α → α) (t : Table α) : Table α :=
  (t.map (fun (e : Nat × α) => (e.1, f e.2))).filter (fun e => decide (e.2 ≠ d))

/-- A command's deadline moved. -/
def Cmd.shift (o : Int) (c : Cmd) : Cmd := { c with deadline := c.deadline.map (shiftTime o) }

/-- A queue's deadlines moved. -/
def Queue.shift (o : Int) (x : Queue) : Queue :=
  { x with slot := x.slot.map (Cmd.shift o), cmds := x.cmds.map (Cmd.shift o) }

/-- A quad's deadlines moved: waits and packets. -/
def Quad.shift (o : Int) (x : Quad) : Quad :=
  { x with queues := Table.mapVals Queue.reset (Queue.shift o) x.queues,
           outstanding := x.outstanding.map (fun p => { p with deadline := shiftTime o p.deadline }) }

/-- A transaction's snoop deadlines moved. -/
def Txn.shift (o : Int) (t : Txn) : Txn := { t with waits := t.waits.map (fun w => (w.1, w.2.1, shiftTime o w.2.2)) }

/-- A link's timers moved. -/
def Link.shift (o : Int) (l : Link) : Link :=
  { l with replayBuf := l.replayBuf.map (fun e => (e.1, shiftTime o e.2)), since := shiftTime o l.since }

/-- A die's timers moved. -/
def DiePower.shift (o : Int) (d : DiePower) : DiePower :=
  { d with lastStretch := shiftTime o d.lastStretch, deferredAt := d.deferredAt.map (shiftTime o),
           nextRamp := shiftTime o d.nextRamp }

/-- Moves every pending deadline of the package, so that each keeps its remaining duration (R378). mtimecmp and
stimecmp do not move. -/
def State.shiftDeadlines (s : State) (o : Int) : State :=
  { s with
    quads := Table.mapVals Quad.reset (Quad.shift o) s.quads,
    coh := { s.coh with txns := Table.mapVals none (fun t => t.map (Txn.shift o)) s.coh.txns },
    links := Table.mapVals Link.reset (Link.shift o) s.links,
    cfg := { s.cfg with leaseEnd := shiftTime o s.cfg.leaseEnd, txnDeadline := s.cfg.txnDeadline.map (shiftTime o),
                        applyAt := s.cfg.applyAt.map (shiftTime o) },
    tier := { s.tier with
      tiles := Table.mapVals Tile.fresh (fun t => { t with protAt := shiftTime o t.protAt }) s.tier.tiles,
      channels := Table.mapVals Channel.reset (fun c => { c with firstAt := shiftTime o c.firstAt }) s.tier.channels },
    extWays := Table.mapVals ExtWay.reset (fun w => { w with opened := shiftTime o w.opened }) s.extWays,
    fabric := { s.fabric with downAt := Table.mapVals 0 (shiftTime o) s.fabric.downAt },
    power := { s.power with
      alertAt := shiftTime o s.power.alertAt, lastCal := shiftTime o s.power.lastCal,
      cleanSince := shiftTime o s.power.cleanSince,
      dies := Table.mapVals DiePower.reset (DiePower.shift o) s.power.dies } }

/-- Loads the torus time (R378): the Drone and every deadline move, queued boundaries are discarded. -/
def State.loadDrone (s : State) (o : Int) : State :=
  (s.shiftDeadlines o).modTime (fun t =>
    { t with drone := shiftTime o t.drone % 2 ^ 64, prev := shiftTime o t.prev, synced := true, freeRun := false, loaded := true, offset := 0,
             lastSlew := shiftTime o t.drone, lastExchange := shiftTime o t.drone, bounds := [],
             bndErr := t.bndErr || !t.bounds.isEmpty })

/-- DRONE_LOAD (R378): once, when an unsynchronised package finds a synchronised parent. -/
def execDroneLoad (t1 t2 t3 t4 : Dword) (s : State) : Host.Outcome State Fault Refusal :=
  .next (if !s.boot.held && !s.time.loaded && s.hasParent then s.loadDrone (droneOffset t1 t2 t3 t4) else s)

/-! ### Election -/

/-- Whether a candidate is better than another: higher priority, then the lower coordinate value (R375). -/
def beats (a b : Candidate) : Bool :=
  decide (b.priority < a.priority) ||
  (decide (a.priority = b.priority) && decide (coordsVal a.at_ < coordsVal b.at_))

/-- The best of a list of candidates. -/
def bestOf : List Candidate → Option Candidate
  | [] => none
  | c :: t =>
    match bestOf t with
    | none => some c
    | some d => if beats c d then some c else some d

/-- The root of the candidates (R375, R378): priority 0 never serves, and while any candidate is synchronised only
those are eligible. -/
def rootOf (l : List Candidate) : Option Candidate :=
  bestOf (l.filter (fun c => decide (0 < c.priority) && (c.synced || !(l.any (·.synced)))))

/-- This package as a candidate. -/
def State.selfCandidate (s : State) : Candidate :=
  { at_ := s.self, priority := s.item 4 4 0, synced := s.time.loaded, hops := s.time.hops }

/-- The axis of the ring on which a package takes time from a root (R375): Z off the root's plane, Y off its
column, else X. -/
def timeAxis (me root : Coords) : Nat := if me.z ≠ root.z then 2 else if me.y ≠ root.y then 1 else 0

/-- Links round a ring, the shorter way. -/
def ringDist (len a b : Nat) : Nat := min ((a + len - b) % len) ((b + len - a) % len)

/-- The tree hops of a place under a root: the sum of its ring distances (R375). -/
def State.treeHops (s : State) (c root : Coords) : Nat :=
  ((List.range 3).map (fun a => ringDist (s.ringLen a) (onAxis c a) (onAxis root a))).sum

/-- The tree hops over a link: one more than the neighbour reports, or than its place gives. -/
def State.hopsOver (s : State) (l : List Candidate) (root : Coords) (n : Nat) : Nat :=
  match l.find? (fun c => decide (c.at_ = s.neighbour n)) with
  | some c => if c.at_ = root then 1 else c.hops + 1
  | none => s.treeHops (s.neighbour n) root + 1

/-- The link with the fewest tree hops to a synchronised neighbour. -/
def State.bestNeighbour (s : State) (l : List Candidate) (root : Coords) : Option Nat :=
  let ok := (List.range 6).filter (fun n => s.linkUsable n && l.any (fun c => c.synced && decide (c.at_ = s.neighbour n)))
  ok.find? (fun n => ok.all (fun m => decide (s.hopsOver l root n ≤ s.hopsOver l root m)))

/-- The parent under a root (R375): the shorter way of the ring, the other way, or the nearest synchronised
neighbour. -/
def State.parentFor (s : State) (l : List Candidate) (root : Coords) : Option Nat :=
  let a := timeAxis s.self root
  let m := minusWay (s.ringLen a) (onAxis s.self a) (onAxis root a)
  if s.linkUsable (linkAt a m) then some (linkAt a m)
  else if s.linkUsable (linkAt a (!m)) then some (linkAt a (!m))
  else s.bestNeighbour l root

/-- Begins to run free (R375, R377): once with a CE record. -/
def State.freeRunning (s : State) : State :=
  let s := if s.time.freeRun then s else s.logErr (errRec 0 0x17 0x0004 6 0xFF)
  s.modTime (fun t => { t with freeRun := true, synced := false, isRoot := false, parent := 7, rootAt := 0, hops := 0 })

/-- The outcome of an election among the packages that this one reaches (R375, R378). -/
def State.elect (s : State) (cands : List Candidate) : State :=
  let l := s.selfCandidate :: cands.filter (fun c => decide (c.at_ ≠ s.self))
  match rootOf l with
  | none => s.freeRunning
  | some r =>
    let at_ : BitVec 30 := BitVec.ofNat 30 (coordsVal r.at_)
    if r.at_ = s.self then
      s.modTime (fun t => { t with freeRun := false, synced := true, isRoot := true, loaded := true, parent := 7,
                                   rootAt := at_, hops := 0, offset := 0 })
    else
      match s.parentFor l r.at_ with
      | none => s.freeRunning
      | some n => s.modTime (fun t => { t with isRoot := false, parent := n, rootAt := at_, hops := s.hopsOver l r.at_ n })

/-- ROOT_ELECTION (R375). -/
def execRootElection (cands : List Candidate) (s : State) : Host.Outcome State Fault Refusal :=
  .next (if s.boot.held then s else s.elect cands)

/-- DRONE_FREE_RUN (R377): a package that is no root has lost every synchronised neighbour. -/
def execDroneFreeRun (s : State) : Host.Outcome State Fault Refusal :=
  .next (if s.boot.held || s.time.isRoot then s else s.freeRunning)

/-! ### Step boundaries -/

/-- A push onto the queue of 4 boundaries (R379). -/
def Time.push (t : Time) (v : Nat) : Time :=
  if t.bounds.length < 4 ∧ t.drone ≤ v ∧ t.bounds.all (· < v) then { t with bounds := t.bounds ++ [v] }
  else { t with bndErr := true }

/-- STEP_BOUNDARY_PUSH (R379): a write of PKG_STEP_BND_LO. -/
def execStepBoundaryPush (p : Port) (v : Word) (s : State) : Host.Outcome State Fault Refusal :=
  .next (if s.mayWrite p then s.modTime (fun t => t.push (t.bndHigh.toNat * 2 ^ 32 + v.toNat)) else s)

end Sys2Proof.Machine
end

