-- ==== Sys2Proof/Machine/Power.lean ====
section
/-! DEFINITION. Power: modes and their changes, stretches, regulator alerts, the energy model with the cap, heat, and
recalibration at step boundaries (16_power_clocks_thermal.md R421 to R435). -/

namespace Sys2Proof.Machine

/-- A record of the power unit, which no one alert raised (R425, R427). -/
def powerRec : ErrRec := errRec 0 0x15 0x0004 6 0xFF

/-! ### Stretches -/

/-- Notes that the recalibration window is broken now (R433). -/
def State.unclean (s : State) : State := s.modPower (fun p => { p with cleanSince := s.drone })

/-- Notes the end of a stretch on a die (R427). -/
def State.endStretch (s : State) (d : Nat) : State := s.modDiePower d (fun x => { x with lastStretch := s.drone })

/-! ### Changes of mode -/

/-- A die's rail in a mode: its fused voltage in Table PWR-1's range. -/
def fusedMv (d mode : Nat) : Nat :=
  match mode with
  | 0 => 720 + Config.fusedRail d 0 % 81
  | 1 => 660 + Config.fusedRail d 1 % 81
  | _ => 580 + Config.fusedRail d 2 % 61

/-- The divider of a mode (Table PWR-1; 17_configuration_and_security.md Table CFG-4). -/
def State.modeDivider (s : State) (mode : Nat) : Nat := s.item 5 1 mode

/-- A die's threshold above its fused margin in a mode: fitted, or the guardband of 20 mV (R433). -/
def Power.thresholdIn (p : Power) (d mode : Nat) : Nat :=
  if p.calModes.contains mode then Table.get 0 p.calDrop (d * 4 + mode) + 5 else 20

/-- Starts a mode change: every compute die has its own steps to make (R426). -/
def State.startMode (s : State) (mode : Nat) : State :=
  let s := s.unclean.modPower (fun p => { p with target := mode, transition := true })
  (List.range 4).foldl (fun s d => s.modDiePower d (fun x =>
    { x with stepDone := false, deferredAt := none, nextRamp := s.drone + 1000 })) s

/-- A request for a mode: now, or when the running change has ended (R426). -/
def State.requestMode (s : State) (mode : Nat) : State :=
  if s.power.transition then s.modPower (fun p => { p with queuedReq := some mode })
  else if mode = s.power.cur then s
  else s.startMode mode

/-- Ends a mode change in a mode; the last request that came meanwhile takes effect (R426). -/
def State.endMode (s : State) (mode : Nat) : State :=
  let s := s.unclean.modPower (fun p => { p with cur := mode, target := mode, transition := false, queuedReq := none })
  let s := (List.range 4).foldl (fun s d => s.modDiePower d (fun x =>
    { x with stepDone := true, deferredAt := none, threshold := s.power.thresholdIn d mode })) s
  s

/-- Ends a change and starts the next where one was asked for. -/
def State.finishMode (s : State) (mode : Nat) : State :=
  match s.power.queuedReq with
  | some m => (s.endMode mode).requestMode m
  | none => s.endMode mode

/-- A write of PWR_MODE (Table PWR-8): the W1C bits, then the request unless it is reserved (00_scope.md R14). -/
def State.writePwrMode (s : State) (v : Word) : State :=
  let m := bits v.toNat 30 2
  let s := s.modPower (fun p =>
    { p with throttled := w1c p.throttled v 3, overCap := w1c p.overCap v 2, abandoned := w1c p.abandoned v 1 })
  if m = 3 then s else (s.modPower (fun p => { p with req := m })).requestMode m

/-- PWR_MODE_WRITE (R421, R426). -/
def execPwrModeWrite (p : Port) (v : Word) (s : State) : Host.Outcome State Fault Refusal :=
  .next (if s.mayWrite p then s.writePwrMode v else s)

/-- Ticks of 16 cycles of the slower of two dividers, each root period 1/6 ns (R427). -/
def waitTicks (a b : Nat) : Nat := ceilDiv (16 * max a b) 6

/-- What a die does next towards a mode. -/
inductive ModeMove where
  | ramp (mv : Nat)
  | divide (n : Nat)
  | done
deriving DecidableEq, Repr

/-- The next move of a die: the rail first when the frequency rises, the divider first when it falls, the divider one
value at a time, the rail 5 mV in each µs (R426). -/
def State.nextMove (s : State) (d : Nat) : ModeMove :=
  let x := s.diePower d
  let goal := s.modeDivider s.power.target
  let mv := fusedMv d s.power.target
  let ramp := if x.railMv < mv then min mv (x.railMv + 5) else max mv (x.railMv - 5)
  if goal < x.divider then (if x.railMv ≠ mv then .ramp ramp else .divide (x.divider - 1))
  else if x.divider < goal then .divide (x.divider + 1)
  else if x.railMv ≠ mv then .ramp ramp
  else .done

/-- Whether a move may be made now: no droop or FLOOR stretch is active, nor was in the last 16 cycles (R427). -/
def State.moveFree (s : State) (d : Nat) (next : Nat) : Bool :=
  let x := s.diePower d
  !(s.stretched d) && (decide (x.lastStretch = 0) || decide (x.lastStretch + waitTicks x.divider next ≤ s.drone))

/-- A move that waits for a stretch: from now on it is deferred (R427). -/
def State.deferMove (s : State) (d : Nat) : State :=
  s.modDiePower d (fun x => { x with deferredAt := some (x.deferredAt.getD s.drone) })

/-- Makes a die's move, and ends the change when every die has finished (R426). -/
def State.makeMove (s : State) (d : Nat) : State :=
  let s := match s.nextMove d with
    | .ramp mv => s.modDiePower d (fun x => { x with railMv := mv, deferredAt := none, nextRamp := s.drone + 1000 })
    | .divide n => s.modDiePower d (fun x => { x with divider := n, deferredAt := none })
    | .done => s
  let s := if s.nextMove d = .done then s.modDiePower d (fun x => { x with stepDone := true, deferredAt := none }) else s
  if (List.range 4).all (fun d => (s.diePower d).stepDone) then s.finishMode s.power.target else s

/-- A voltage write to a die's regulator: one that is not acknowledged is repeated, and the ramp waits as deferred
(19_signals_and_mechanical.md R478). Whether the regulator acknowledges is free (log entry 115). -/
def State.rampWrite (s : State) (d : Nat) : State :=
  let (a, s) := s.drawNat 2
  if a = 0 then s.makeMove d else s.deferMove d

/-- MODE_STEP (R426, R427): one move of a compute die. -/
def execModeStep (d : Nat) (s : State) : Host.Outcome State Fault Refusal :=
  .next (
    let x := s.diePower d
    if s.boot.held || !s.power.transition || x.stepDone || decide (4 ≤ d) then s
    else
      match s.nextMove d with
      | .ramp _ =>
        if !s.moveFree d x.divider then s.deferMove d else if s.drone < x.nextRamp then s else s.rampWrite d
      | .divide n => if s.moveFree d n then s.makeMove d else s.deferMove d
      | .done => s.makeMove d)

/-- Every die returns to the divider and rail of the mode being left (R427). -/
def State.abandonMode (s : State) : State :=
  let m := s.power.cur
  let s := (List.range 4).foldl (fun s d => s.modDiePower d (fun x =>
    { x with divider := s.modeDivider m, railMv := fusedMv d m })) s
  let s := (s.modPower (fun p => { p with abandoned := true })).logErr powerRec
  s.finishMode m

/-- MODE_CHANGE_ABANDON (R427): a die's move has been deferred for more than 2 µs. -/
def execModeChangeAbandon (s : State) : Host.Outcome State Fault Refusal :=
  .next (if !s.boot.held && s.power.transition &&
      (List.range 4).any (fun d => (s.diePower d).deferredAt.any (fun t => decide (t + 2000 < s.drone)))
    then s.abandonMode else s)

/-! ### Droop -/

/-- DROOP_TRIP (R428, R424). -/
def execDroopTrip (d : Nat) (s : State) : Host.Outcome State Fault Refusal :=
  .next (if s.boot.held || decide (8 ≤ d) || (s.diePower d).droop then s
    else s.modDiePower d (fun x => { x with droop := true, trips := satAdd 0xFFFFFFFF x.trips 1 }))

/-- DROOP_RELEASE (R424, R433): a threshold that waited for the release is taken. -/
def execDroopRelease (d : Nat) (s : State) : Host.Outcome State Fault Refusal :=
  .next (if s.boot.held || !(s.diePower d).droop then s
    else (s.endStretch d).modDiePower d (fun x =>
      { x with droop := false, threshold := x.pendingThreshold.getD x.threshold, pendingThreshold := none }))

/-! ### Alerts -/

/-- VR_ALERT (R429): an honoured bit's qualifying assertion. -/
def execVrAlert (b : Nat) (s : State) : Host.Outcome State Fault Refusal :=
  .next (if s.boot.held || decide (8 ≤ b) || !(bit (s.item 6 3 0) b) then s
    else
      let one : Byte := BitVec.ofNat 8 (2 ^ b)
      (s.unclean.modPower (fun p =>
        { p with floorAlert := true, seen := p.seen ||| one, level := p.level ||| one,
                 events := satAdd 0xFF p.events 1, alertAt := s.drone })).logErr { powerRec with unit := b })

/-- FLOOR_EXIT (R429): every bit has read high for 100 µs; an assertion in the cycle in which they expire still wins (log
entry 189). -/
def execFloorExit (s : State) : Host.Outcome State Fault Refusal :=
  .next (if !s.boot.held && s.power.floorAlert && !(s.inTime (s.power.alertAt + 100000)) then
      let s := s.unclean.modPower (fun p => { p with floorAlert := false, level := 0 })
      (List.range 8).foldl State.endStretch s
    else s)

/-! ### The energy model -/

/-- The factor g of a die: 1.06, or the fitted ratio of the mode in force (R433). -/
def State.gFactor (s : State) (d : Nat) : Nat × Nat :=
  if s.power.calModes.contains s.power.cur then Table.get (0, 0) s.power.calG (d * 4 + s.power.cur) else (106, 100)

/-- Whether an event's energy follows the logic rail and g (Table PWR-5). -/
def followsRail : EnergyEvent → Bool
  | .macFp8 => true
  | .macInt8 => true
  | .mac16 => true
  | .macMx => true
  | .muted => true
  | .gated => true
  | .reedCycle => true
  | .chanterMac => true
  | .poolByte => true
  | .hop => true
  | .bridgeFlit => true
  | .hbmLine => false
  | .hbmRow => false
  | .ddrLine => false
  | .flashRead => false
  | .flashProgram => false
  | .flashErase => false
  | .linkFlit => false
  | .ethByte => false

/-- The energy of the events of a report that follow the rail, or of those that do not, by the die's coefficients: the
sums of e_logic and e_other (R430), in fJ. -/
def eventSum (die : Nat) (rail : Bool) (e : CtxEnergy) : Nat :=
  ((e.counts.filter (fun p => decide (followsRail p.1 = rail))).map (fun p => p.2 * Config.energyCoef die p.1)).sum

/-- Compensated energy: at the mean rail voltage and with g, in fJ (R430). -/
def compensated (g : Nat × Nat) (mv e : Nat) : Nat := e * mv ^ 2 * g.1 / (750 ^ 2 * g.2)

/-- The dynamic energy of one entry of a die's report. -/
def dynamicOf (g : Nat × Nat) (die mv : Nat) (e : CtxEnergy) : Nat :=
  compensated g mv (eventSum die true e) + eventSum die false e

/-- 2^(k/20) in billionths, rounded down, for k below 20. -/
def twentieths : List Nat :=
  [1000000000, 1035264923, 1071773462, 1109569472, 1148698354, 1189207115, 1231144413, 1274560627, 1319507910, 1366040256] ++
  [1414213562, 1464085695, 1515716566, 1569168195, 1624504792, 1681792830, 1741101126, 1802500925, 1866065983, 1931872657]

/-- 2^((t − 85)/20) in billionths: t + 15 twentieths above 2^−5 (R430). -/
def heatFactor (t : Nat) : Nat := 2 ^ ((t + 15) / 20) * twentieths.getD ((t + 15) % 20) 0 / 32

/-- The static energy of a die in an interval of 10 µs, in fJ and without g (R430): 1 mW in 10 µs is 10^7 fJ. -/
def staticFj (die mv t : Nat) : Nat := Config.staticMw die * 10000000 * mv ^ 3 * heatFactor t / (750 ^ 3 * 1000000000)

/-- Charges energy in fJ to a context, or to none (R431). -/
def Power.charge (p : Power) (ctx : Option Nat) (fj : Nat) : Power :=
  match ctx with
  | some c => { p with ctxEnergy := Table.put 0 p.ctxEnergy c (Table.get 0 p.ctxEnergy c + fj) }
  | none => { p with unattr := p.unattr + fj }

/-- Charges one die's interval (R430, R431): dynamic energy to its contexts, a compute die's static energy in
proportion to it, everything else unattributed. -/
def Power.chargeDie (p : Power) (g : Nat × Nat) (a : DieActivity) : Power :=
  let dyn := dynamicOf g a.die a.mv
  let own := (a.events.map (fun e => if e.ctx.isSome then dyn e else 0)).sum
  let static := staticFj a.die a.mv a.temp * g.1 / g.2
  let p := a.events.foldl (fun p e => p.charge e.ctx (dyn e)) p
  if 4 ≤ a.die ∨ own = 0 then p.charge none static
  else
    let share := fun (e : CtxEnergy) => if e.ctx.isSome then static * dyn e / own else 0
    let p := a.events.foldl (fun p e => p.charge e.ctx (share e)) p
    p.charge none (static - (a.events.map share).sum)

/-- Whole nJ of what has been charged so far: every counter by itself, so that remainders carry (R431). -/
def Power.charged (p : Power) : Nat := p.unattr / 1000000 + (p.ctxEnergy.map (fun e => e.2 / 1000000)).sum

/-- The package's mean power over the last 100 intervals in W (R425): 10^6 nJ in 1 ms is 1 W. -/
def Power.watts (p : Power) : Nat := p.history.sum / 1000000

/-- The cap of the mode in force, in W. -/
def State.cap (s : State) : Nat := s.item 6 2 s.power.cur

/-- The level that the cap controller sets after an interval (R425); during FLOOR it keeps its value (R429). -/
def capLevel (floor : Bool) (mode l cap sum last : Nat) : Nat :=
  if mode ≠ 0 then 0
  else if floor then l
  else if 125 * cap * 10000 < 100 * last then min 16 (l + 4)
  else if cap * 1000000 < sum then min 16 (l + 1)
  else if 100 * sum < 98 * cap * 1000000 then l - 1
  else l

/-- Intervals that the level has stood at 16, up to 100, which is 1 ms; 101 once the cap has been passed there (R425). -/
def capStood (l was : Nat) (above : Bool) : Nat :=
  if l ≠ 16 then 0 else if was < 99 then was + 1 else if above || decide (was = 101) then 101 else 100

/-- The cap controller's evaluation of an interval (R425). -/
def State.evaluateCap (s : State) (last : Nat) : State :=
  let sum := s.power.history.sum
  let above := decide (s.cap * 1000000 < sum)
  let l := capLevel s.anyFloor s.power.cur s.power.capL s.cap sum last
  let was := s.power.capSat
  let sat := capStood l was above
  let s := s.modPower (fun p => { p with capL := l, capSat := sat })
  if above && (decide (s.power.cur ≠ 0) || (decide (sat = 101) && decide (was ≠ 101))) then
    (s.modPower (fun p => { p with overCap := true })).logErr powerRec
  else s

/-- What a die reports of its interval (Table PWR-10). -/
def DiePower.monitor (x : DiePower) (a : DieActivity) : DiePower := { x with mv := a.mv, amps := a.amps, effMhz := a.mhz }

/-- ENERGY_INTERVAL (R430, R431, R425). -/
def execEnergyInterval (e : List DieActivity) (s : State) : Host.Outcome State Fault Refusal :=
  .next (if s.boot.held then s
    else
      let before := s.power.charged
      let s := e.foldl (fun s a =>
        (s.modPower (fun p => p.chargeDie (s.gFactor a.die) a)).modDiePower a.die (fun x => x.monitor a)) s
      let last := s.power.charged - before
      let s := s.modPower (fun p =>
        { p with energy := p.energy + last, history := (last :: p.history).take 100 })
      s.evaluateCap last)

/-! ### Heat -/

/-- A die's thermal level after a sample, with its FLOOR (Table PWR-6). -/
def DiePower.heat (x : DiePower) (sensor t : Nat) : DiePower :=
  let l := if 100 ≤ t then min 16 (x.thermL + 2) else if t ≤ 97 then x.thermL - 1 else x.thermL
  let sat := if x.thermL = 16 ∧ l = 16 then min 100 (x.thermSat + 1) else 0
  { x with sensor := sensor, hottest := t, thermL := l, thermSat := sat,
           floorTherm := (x.floorTherm || (decide (sat = 100) && decide (100 ≤ t))) && decide (90 < t) }

/-- A sample of one die. -/
def State.heatDie (s : State) (d sensor t : Nat) : State :=
  let was := (s.diePower d).floorTherm
  let s := s.modDiePower d (fun x => x.heat sensor t)
  let x := s.diePower d
  let s := if was && !x.floorTherm then s.endStretch d else s
  let s := if x.floorTherm || was then s.unclean else s
  if 0 < x.thermL then s.unclean.modPower (fun p => { p with throttled := true }) else s

/-- A sample of one HBM stack: from 100 °C its activation rate halves until 95 °C (Table PWR-6). -/
def Power.heatStack (p : Power) (k t : Nat) : Power :=
  let slow := (Table.get false p.hbmSlow k || decide (100 ≤ t)) && decide (95 < t)
  { p with hbm := Table.put 0 p.hbm k t, hbmSlow := Table.put false p.hbmSlow k slow }

/-- Whether a stack's refresh rate is doubled (Table PWR-6). -/
def Power.refreshDoubled (p : Power) (k : Nat) : Bool := decide (95 ≤ Table.get 0 p.hbm k)

/-- A sample of one flash module: from 90 °C programs and erases stop until 80 °C (Table PWR-6). -/
def Power.heatModule (p : Power) (k t : Nat) : Power :=
  let held := (Table.get false p.flashSuspended k || decide (90 ≤ t)) && decide (80 < t)
  { p with flashSuspended := Table.put false p.flashSuspended k held }

/-- The greatest of a list of readings, 0 of none. -/
def greatest (l : List Nat) : Nat := l.foldl max 0

/-- THERMAL_SAMPLE (R434). -/
def execThermalSample (r : ThermalReadings) (s : State) : Host.Outcome State Fault Refusal :=
  .next (if s.boot.held then s
    else
      let ts := r.dies.map Prod.snd
      let s := (r.dies.zipIdx.take 8).foldl (fun s p => s.heatDie p.2 p.1.1 p.1.2) s
      let s := (r.hbm.zipIdx.take 16).foldl (fun s p => s.modPower (fun x => x.heatStack p.2 p.1)) s
      let s := (r.flash.zipIdx.take 8).foldl (fun s p => s.modPower (fun x => x.heatModule p.2 p.1)) s
      s.modPower (fun p =>
        { p with hbmMax := greatest r.hbm, dieMax := greatest ts, hotDie := (ts.findIdx? (· = greatest ts)).getD 0 }))

/-- The trip limit of a sensor in °C: an HBM stack's readout counts on from a compute die's 36 sensors (R434,
Table PWR-6). -/
def tripLimit (d sensor : Nat) : Nat := if d < 4 ∧ 36 ≤ sensor then 110 else 115

/-- THERMAL_TRIP (R435, R417). -/
def execThermalTrip (d sensor reading : Nat) (s : State) : Host.Outcome State Fault Refusal :=
  .next (if s.boot.held || decide (reading < tripLimit d sensor) then s
    else
      let s := (s.unclean.modPower (fun p => { p with trip := true })).modBoot (fun b => { b with thermtrip := true })
      s.logErr { errRec 3 0x16 0x0033 d sensor with aux0 := reading })

/-! ### Recalibration -/

/-- Whether a boundary recalibrates (R433): 10 s after the end of boot, the previous recalibration and whatever broke
the window, with nothing of the kind under way. -/
def State.calDue (s : State) : Bool :=
  s.boot.done && !s.anyFloor && !s.power.transition && (List.range 8).all (fun d => decide ((s.diePower d).thermL = 0)) &&
  decide (max s.power.lastCal s.power.cleanSince + 10000000000 ≤ s.drone)

/-- Whether a fit of g lies in 0.85 to 1.15 (R433). -/
def fitGood (f : CalFit) : Bool :=
  decide (0 < f.model) && decide (85 * f.model ≤ 100 * f.telemetry) && decide (100 * f.telemetry ≤ 115 * f.model)

/-- Takes one die's fit for the mode in force: a die in a droop stretch takes its threshold at the release (R433). -/
def State.takeFit (s : State) (f : CalFit) : State :=
  let k := f.die * 4 + s.power.cur
  let s := s.modPower (fun p => { p with calG := Table.put (0, 0) p.calG k (f.telemetry, f.model),
                                         calDrop := Table.put 0 p.calDrop k f.drop })
  s.modDiePower f.die (fun x =>
    if x.droop then { x with pendingThreshold := some (f.drop + 5) } else { x with threshold := f.drop + 5 })

/-- A recalibration with the fits of every die; one fit outside the bounds rejects it (R433). -/
def State.recalibrate (s : State) (fits : List CalFit) : State :=
  if fits.all fitGood then
    let s := fits.foldl State.takeFit s
    s.modPower (fun p => { p with calModes := p.calModes.insert p.cur, calCount := satAdd 0xFFFF p.calCount 1,
                                  calStep := s.time.step, lastCal := s.drone })
  else (s.modPower (fun p => { p with calReject := true })).logErr powerRec

/-- Recalibrates where the boundary is one for it and every die has a fit. -/
def State.calibrate (s : State) (fits : List CalFit) : State :=
  if s.calDue && (List.range 8).all (fun d => fits.any (fun f => decide (f.die = d))) then
    s.recalibrate (fits.filter (fun f => decide (f.die < 8)))
  else s

end Sys2Proof.Machine
end

