-- ==== Sys2Proof/Machine/Objects.lean ====
section
/-! DEFINITION. Placement objects: the pinned limit and the query that decode makes for a pin or unpin
(09_memory_tiers.md R273 to R276). -/

namespace Sys2Proof.Machine

/-- Quarters of 2 MiB that a pinned or no-evict object takes on a die (09_memory_tiers.md R276). -/
def TObj.pinnedOn (o : TObj) (d : Nat) : Nat :=
  if o.valid && (decide (o.pin = 1) || o.noevict) then
    (if o.home = d then 4 * o.size else if o.home < 4 then 0 else o.size)
  else 0

/-- Whether a table of objects keeps the pinned limit on every compute die for a slot capacity: three
quarters of its 16 KiB slots (09_memory_tiers.md R276). -/
def pinsFit (slots : Nat) (objs : Table TObj) : Bool :=
  (List.range 4).all (fun d => decide (((objs.map (fun e => e.2.pinnedOn d)).sum) * 2 ^ 21 ≤ 3 * slots * 16384))

/-- The valid object that holds a whole range, in bytes from the base of the tiered range. -/
def State.objectAround (s : State) (pa n : Nat) : Option (Nat × TObj) :=
  let lo := pa - tierBase
  s.tier.objects.find? (fun e => e.2.valid && decide (e.2.base * 2 ^ 21 ≤ lo) &&
    decide (lo + n ≤ (e.2.base + e.2.size) * 2 ^ 21))

/-- The pin code of a MIGRATE's target (09_memory_tiers.md R275): HBM pins as 1, flash as 2. -/
def pinCode (target : Nat) : Nat := if target = 0 then 1 else 2

/-- The pin that an admitted MIGRATE has still to set: the object's index and its pin (09_memory_tiers.md R275). -/
def State.pinClaim (s : State) (c : Cmd) : Option (Nat × Nat) :=
  if opcodeOf c.desc = opMigrate ∧ bit (body c.desc 0x0D 1) 0 ∧ c.passes.isEmpty then
    (c.ext 0).bind (fun e => (s.objectAround e.pa e.len).map (fun p => (p.1, pinCode (body c.desc 0x0C 1))))
  else none

/-- The object table with the pins that admitted commands will set: queries are answered in arrival order, and what one
has taken counts for the next (09_memory_tiers.md R275, R276). -/
def State.claimed (s : State) : Table TObj :=
  let cs := s.quads.flatMap (fun e => e.2.queues.flatMap (fun y => y.2.slot.toList ++ y.2.cmds))
  (cs.filterMap s.pinClaim).foldl (fun t k =>
    Table.put TObj.reset t k.1 { Table.get TObj.reset t k.1 with pin := k.2, userHint := true }) s.tier.objects

/-- Whether the object table allows a pin or unpin of a range by a context (09_memory_tiers.md R275). -/
def State.pinAllowed (s : State) (ctx pa n target : Nat) (pin unpin : Bool) : Bool :=
  if !(pin || unpin) then true
  else
    match s.objectAround pa n with
    | none => false
    | some (k, _) =>
      let objs := s.claimed
      let o := Table.get TObj.reset objs k
      decide (o.context = ctx) && (!unpin || o.userHint) &&
      (!pin || ((o.userHint ||
          decide ((objs.filter (fun e => e.2.valid && e.2.userHint && decide (e.2.context = ctx))).length < 64)) &&
        (decide (target ≠ 0) || pinsFit s.tierSlots (Table.put TObj.reset objs k { o with pin := 1 }))))

end Sys2Proof.Machine
end

