-- ==== Sys2Proof/Machine/Gather.lean ====
section
/-! DEFINITION. GATHER_POOL, SCATTER_ADD and the sector add of an HBM controller
(06_reed_chanter_gather.md R180 to R188; 07_commands_and_queues.md R205, R206). -/

namespace Sys2Proof.Machine

/-! ### The walk of the index list -/

/-- Padding of an index list (06 R183). -/
def padIndex : Nat := 0xFFFFFFFF

/-- What a pool takes from the list: the rows it names, what is left of the list, the position reached, and
the failure that ended it, if any. -/
structure PoolWalk where
  rows : List Nat
  rest : List Nat
  pos : Nat
  fail : Option Nat

/-- Walks one pool of a length (06 R183, 07 R206): an index past the list ends BAD_LENGTH, an index at or above
the table's rows SEG_LIMIT. -/
def walkPool (rows : Nat) : Nat → List Nat → Nat → PoolWalk
  | 0, l, p => ⟨[], l, p, none⟩
  | _ + 1, [], p => ⟨[], [], p, some stBadLength⟩
  | n + 1, i :: t, p =>
    if i = padIndex then walkPool rows n t (p + 1)
    else if rows ≤ i then ⟨[], t, p, some stSegLimit⟩
    else
      let w := walkPool rows n t (p + 1)
      { w with rows := i :: w.rows }

/-- A pool that was reached: how many of its entries are not padding, the rows it names, and whether all of them
issued. -/
structure PoolRows where
  count : Nat
  rows : List Nat
  whole : Bool

/-- Walks the pools in list order: the pools reached, and the status and position of a failure (07 R206). -/
def walkPools (rows : Nat) : List Nat → List Nat → Nat → List PoolRows × Option (Nat × Nat)
  | [], _, _ => ([], none)
  | n :: t, l, p =>
    if 4096 < n then ([], some (stBadLength, 0))
    else
      let w := walkPool rows n l p
      let x : PoolRows := ⟨(l.take n).countP (fun i => decide (i ≠ padIndex)), w.rows, w.fail.isNone⟩
      match w.fail with
      | some st => ([x], some (st, w.pos))
      | none => let (ps, f) := walkPools rows t w.rest w.pos; (x :: ps, f)

/-- n unsigned words of a list's bytes: an INT32 vector read as unsigned (06 R180). -/
def wordsOf (n : Nat) (bs : List Byte) : List Nat := (List.range n).map (fun i => field bs (4 * i) 4)

/-- The pool lengths of a command: the lengths list, or the fixed size (06 R180). -/
def RunIn.poolLengths (r : RunIn) (g : GatherB) (s : State) : Run (List Nat) :=
  if g.variable_ then (r.read 0x10 s).andThen (fun bs s => .ok (wordsOf (g.bags * g.feats) bs) s)
  else .ok (List.replicate (g.bags * g.feats) g.pool) s

/-- Entries of the list that the pools reach: none past the sum of their lengths, or past a length that ends the
command (07 R206). -/
def entriesOf (count : Nat) (ls : List Nat) : Nat := min count (ls.takeWhile (fun n => decide (n ≤ 4096))).sum

/-- The walk of a command's list. -/
def RunIn.walk (r : RunIn) (g : GatherB) (s : State) : Run (List PoolRows × Option (Nat × Nat)) :=
  (r.poolLengths g s).andThen (fun ls s =>
    match r.c.ext 8 with
    | some e =>
      (r.readExt { e with len := 4 * entriesOf g.count ls } s).andThen (fun bs s =>
        .ok (walkPools g.rows ls (wordsOf (entriesOf g.count ls) bs) 0) s)
    | none => .ok (walkPools g.rows ls [] 0) s)

/-- The extent of a table row. -/
def rowExt (e : Extent) (rowBytes i : Nat) : Extent := { e with va := e.va + i * rowBytes, pa := e.pa + i * rowBytes, len := rowBytes }

/-- Counts rows fetched or added (06 Table VEC-7). -/
def State.countRows (s : State) (q n : Nat) : State := s.modQuad q (fun x => { x with gthRows := satAdd 0xFFFFFFFF x.gthRows n })

/-- A failure in the walk: QD_GTH_BAD_INDEX takes the position of an index out of range, which is in detail
too (06 R183, 07 Table CMD-12). -/
def RunIn.walkFail (r : RunIn) {α : Type} (f : Nat × Nat) (s : State) : Run α :=
  if f.1 = stSegLimit then
    .fail (s.modQuad r.q (fun x => { x with badIndex := BitVec.ofNat 32 f.2 })) stSegLimit (BitVec.ofNat 64 f.2)
  else .fail s f.1 0

/-! ### GATHER_POOL -/

/-- Reads a row: its elements in FP32 (06 R182). -/
def RunIn.readRow (r : RunIn) (g : GatherB) (e : Extent) (s : State) : Run (List Fp) :=
  (r.readExt e s).andThen (fun bs s => .ok ((elemsOf g.fTable (elemB g.fTable) g.width bs).map Fp.r32) s)

/-- Adds or takes the maximum, element by element, in list order (06 R182). -/
def poolAcc (mode : Nat) (acc : List Fp) (rows : List (List Fp)) : List Fp :=
  rows.foldl (fun a x => List.zipWith (if mode = 2 then Fp.max else Fp.add) a x) acc

/-- The pool of a list of rows (06 R182). -/
def poolOf (width mode : Nat) : List (List Fp) → List Fp
  | [] => List.replicate width Fp.zero
  | x :: t =>
    let acc := poolAcc mode x t
    if mode = 1 then acc.map (fun a => a.div (Fp.ofNat (t.length + 1))) else acc

/-- A matrix of the io shape from the pools: bag by bag, feature by feature (06 R181). Rows past the last bag
are +0, and so is, in a run that breaks off, what no pool gives. -/
def poolMatrix (g : GatherB) (pools : List (List Fp)) : List (List Fp) :=
  (chunks g.feats g.bags (pools ++ List.replicate (g.bags * g.feats - pools.length) (List.replicate g.width Fp.zero))).map
    List.flatten ++
  List.replicate (g.ioRows - g.bags) (List.replicate g.ioCols Fp.zero)

/-- The Reed behind GATHER: the bag rows pass its program, the rows past them are +0 in the output (06
R174, R181). -/
def RunIn.gatherReed (r : RunIn) (g : GatherB) (m : List (List Fp)) (s : State) : Run (List (List Fp)) :=
  match reedOf r.d with
  | none => .ok m s
  | some c =>
    (r.reedBehind c g.ioRows g.ioCols false m s).andThen (fun o s =>
      .ok (o.out.take g.bags ++ m.drop g.bags) s)

/-- The output tiles that may have left before a walk fails (06 R183): the leading ones whose rows are all of bags
whose pools had issued, or of no bag. -/
def leadTiles (g : GatherB) (w : List PoolRows) : Nat :=
  let done := (w.takeWhile PoolRows.whole).length / g.feats
  let h := tileH g.fIo
  let per := g.ioCols / tileW g.fIo * (64 / h)
  ((List.range (matTiles g.fIo g.ioRows g.ioCols)).takeWhile (fun i =>
    let r0 := i / per * 64 + i % (64 / h) * h
    (List.range h).all (fun k => decide (r0 + k < done) || decide (g.bags ≤ r0 + k)))).length

/-- A run with a limit that is no more than a number. -/
def RunIn.atMost (r : RunIn) (n : Nat) : RunIn := { r with limit := r.limit.map (min n) }

/-- The stations of a GATHER_POOL (06 R180 to R184). -/
def RunIn.runGather (r : RunIn) (s : State) : Run RunOut :=
  let g := gatherOf r.d
  match r.c.ext 0 with
  | none => .wait s
  | some e =>
    (r.askBoth [8, 0x10] [0x18, 0x20] s).andThen (fun _ s =>
      (r.walk g s).andThen (fun w s =>
        let rows := w.1.flatMap PoolRows.rows
        (runAll (fun i s => r.askRead (rowExt e g.rowBytes i) s) rows s).andThen (fun _ s =>
          match r.limit, w.2 with
          | none, some f => r.walkFail f (s.countRows r.q rows.length)
          | _, _ =>
            let (k, s) := r.part (if w.2.isSome then 0 else rows.length) s
            let s := s.countRows r.q k
            let r := if w.2.isSome then r.atMost (leadTiles g w.1) else r
            (runAll (fun (p : PoolRows) s => runAll (fun i s => r.readRow g (rowExt e g.rowBytes i) s) p.rows s) w.1 s).andThen (fun ps s =>
              let m := poolMatrix g (ps.map (poolOf g.width g.mode))
              (r.gatherReed g m s).andThen (fun m s =>
                let ts := outTiles g.fIo (r.rounding s) r.q (fun _ => 0) (fun _ => Stats.none)
                  (tilesOfMatrix g.fIo g.ioRows g.ioCols m)
                let n := ts.length
                (r.sink (List.range n) 0x18 0x20 ts s).andThen (fun ps s =>
                  .ok ⟨r.atSink n, ps,
                    (match reedOf r.d with
                     | some _ => [(stGather, matTiles fFp32 g.ioRows g.ioCols), (stReed, n)]
                     | none => [(stGather, n)]) ++ bellCount r.d n⟩ s))))))

/-- GATHER_POOL (06 R180). -/
def execGatherPool (q j : Nat) (idx : Word) (s : State) : Host.Outcome State Fault Refusal :=
  .next (s.runCmd q j idx opGather RunIn.runGather)

/-! ### Adds -/

/-- One element of an add: the exact sum, rounded once by RNE in the table's format (06 R186). -/
def addElem (f old : Nat) (inc : Fp) : Nat := (convElem f none ((elemVal f old).addX inc)).code

/-- The bytes of a row after its increments are added. -/
def addRow (f : Nat) (old : List Byte) (incs : List Fp) : List Byte :=
  (List.zipWith (fun (o : List Byte) (x : Fp) => leBytes (elemB f) (addElem f (ofLe o) x))
    (chunks (elemB f) incs.length old) incs).flatten

/-- Applies the adds of one row; a poisoned sector takes none (06 R186, 12_coherence.md R350). -/
def applyRow (g : GatherB) (e : Extent) (incs : List Fp) (s : State) : Run Unit :=
  if s.readPoison e.coherent e.pa e.len then .fail s stPoison 0
  else .ok () (s.writePhys e.coherent e.pa (addRow g.fTable (s.readPhys e.coherent e.pa e.len) incs))

/-- The increments of a pool of c rows (06 R185). -/
def increments (mode c : Nat) (grad : List Fp) : List Fp :=
  if mode = 1 then grad.map (fun x => x.div (Fp.ofNat c)) else grad

/-- The gradient rows of the pools: features of a bag side by side (06 R181, R185). -/
def poolGrads (g : GatherB) (m : List (List Fp)) : List (List Fp) :=
  (m.take g.bags).flatMap (chunks g.width g.feats)

/-- The parts of an extent that lie in one sector each. -/
def sectorParts (e : Extent) : List Extent :=
  (sectorsOf e.pa e.len).map (fun l =>
    let a := max e.pa (64 * l)
    { e with va := e.va + (a - e.pa), pa := a, len := min (e.pa + e.len) (64 * l + 64) - a })

/-- Makes the rows that a broken-off SCATTER_ADD names undefined (02 R65, 10 R302); a poisoned sector takes no add. -/
def freeRows (g : GatherB) (e : Extent) (rows : List Nat) (s : State) : State :=
  (rows.flatMap (fun i => sectorParts (rowExt e g.rowBytes i))).foldl (fun s x =>
    if s.readPoison x.coherent x.pa x.len then s
    else
      let (bs, s) := s.drawBytes x.len
      s.writePhys x.coherent x.pa bs) s

/-- Ends a SCATTER_ADD whose walk failed: every add before the failing index stands (06 R183, 07 R206). How many
gradient tiles GATHER had taken by then is free (log entry 2). -/
def RunIn.walkStop (r : RunIn) {α : Type} (f : Nat × Nat) (n : Nat) (s : State) : Run α :=
  let (k, s) := s.drawNat (n + 1)
  match (r.walkFail f s : Run α) with
  | .fail s st det => .stop s st det k
  | x => x

/-- The stations of a SCATTER_ADD (06 R185 to R188). -/
def RunIn.runScatter (r : RunIn) (s : State) : Run RunOut :=
  let g := gatherOf r.d
  match r.c.ext 0 with
  | none => .wait s
  | some e =>
    (r.askBoth [8, 0x10, 0x18, 0x20] [] s).andThen (fun _ s =>
      (r.walk g s).andThen (fun w s =>
        let rows := w.1.flatMap PoolRows.rows
        (runAll (fun i s => r.askWrite (rowExt e g.rowBytes i) s) rows s).andThen (fun _ s =>
          (r.matrix g.fIo g.ioRows g.ioCols 0x18 0x20 s).andThen (fun m s =>
            let x := m.map (List.map Fp.r32)
            (match reedOf r.d with
             | none => Run.ok x s
             | some c => (r.reedBehind c g.ioRows g.ioCols false x s).andThen (fun o s => .ok o.out s)).andThen (fun x s =>
              let tin := matTiles g.fIo g.ioRows g.ioCols
              let t32 := matTiles fFp32 g.ioRows g.ioCols
              let (mid, n) := match reedOf r.d with
                | some _ => ([(stReed, t32)], t32)
                | none => ([], tin)
              let (k, s) := r.part rows.length s
              let s := s.countRows r.q k
              if r.limit.isSome then
                .ok ⟨r.left n, [], [(stIntake, tin)] ++ mid ++ [(stGather, n)]⟩ (freeRows g e rows s)
              else
                (runAll (fun (p : PoolRows × List Fp) s =>
                  runAll (fun i s => applyRow g (rowExt e g.rowBytes i) (increments g.mode p.1.count p.2) s) p.1.rows s)
                  (List.zip w.1 (poolGrads g x)) s).andThen (fun _ s =>
                  match w.2 with
                  | some f => r.walkStop f n s
                  | none => .ok ⟨n, [], [(stIntake, tin)] ++ mid ++ [(stGather, n)]⟩ s))))))

/-- SCATTER_ADD (06 R185). -/
def execScatterAdd (q j : Nat) (idx : Word) (s : State) : Host.Outcome State Fault Refusal :=
  .next (s.runCmd q j idx opScatter RunIn.runScatter)

/-- A whole sector after an add under an element mask (06 R186): elements outside it keep their bytes. -/
def addSector (f : Nat) (mask : Dword) (old : List Byte) (incs : List Word) : List Byte :=
  let b := elemB f
  (chunks b (64 / b) old).zipIdx.flatMap (fun (o : List Byte × Nat) =>
    if mask.getLsbD (o.2 * b) then leBytes b (addElem f (ofLe o.1) (fp32.decode (incs.getD o.2 0).toNat)) else o.1)

end Sys2Proof.Machine
end

