-- ==== Sys2Proof/Machine/Kernels.lean ====
section
/-! DEFINITION. VECOP, NORM_BACK and SOFTMAX_BACK (06_reed_chanter_gather.md R161 to R172;
05_backward_pass.md R147 to R155). -/

namespace Sys2Proof.Machine

/-- The first n elements of one FP32 tile: the placement of γ and β (05 R148). -/
def tileVec (n : Nat) (bs : List Byte) : List Fp := (tileElems fFp32 bs []).take n

/-! ### VECOP -/

/-- The second operand of a one-pass or two-pass VECOP in the main input's shape (06 R167). -/
def RunIn.vecOperand (r : RunIn) (v : Vctl) (m n : Nat) (s : State) : Run (List (List Fp)) :=
  let f := body r.d 0x3D 1
  (r.plainTiles (if v.mode = 1 then f else fFp32) 0x10 s).andThen (fun ts s =>
    .ok (spreadOp2 v.mode m n (toFp32 (matrixOf f m n ts)) (vectorOf (if v.mode = 2 then n else m) ts)) s)

/-- The affine pair of functions 2 and 3 (06 R170). -/
def RunIn.affine (r : RunIn) (v : Vctl) (n : Nat) (s : State) : Run (List Fp × List Fp) :=
  if v.mode = 1 then
    (r.read 0x10 s).andThen (fun bs s => .ok (tileVec n bs, tileVec n (bs.drop 4096)) s)
  else .ok (List.replicate n Fp.one, List.replicate n Fp.zero) s

/-- A VECOP's results: elements, row and column results, and each row's statistics. -/
structure VecOut where
  o : ReedOut
  stats : List (Word × Word)

/-- The kernel of a VECOP's function (06 R168). -/
def RunIn.vecKernel (r : RunIn) (v : Vctl) (m n : Nat) (x : List (List Fp)) (s : State) : Run VecOut :=
  let k := fourConsts (32 + 0x50) r.d
  let p := vSteps r.d
  if v.fn = 2 ∨ v.fn = 3 then
    (r.affine v n s).andThen (fun gb s =>
      let rows := x.map (normRow (decide (v.fn = 3)) (k.headD .nan) gb.1 gb.2)
      let w := fun (a : Fp) => BitVec.ofNat 32 (fp32.conv none a).code
      .ok ⟨⟨rows.map (fun t => t.2.2), [], []⟩, rows.map (fun t => (w t.1, w t.2.1))⟩ s)
  else if v.fn = 4 then .ok ⟨⟨x.map (softmaxRow (k.headD .nan)), [], []⟩, []⟩ s
  else
    (r.vecOperand v m n s).andThen (fun y s =>
      .ok ⟨if v.fn = 1 then reedTwoPass k (p.take v.pass1) (p.drop v.pass1) n x y else reedOnePass k p n x y, []⟩ s)

/-- The statistics a stashing command puts into output tile i (03 R101, 06 R170): the tile in column block
j of its band holds rows 4j to 4j + 3 of the band, none where those lie below its rows (log entry 48). -/
def stashStats (f n kind : Nat) (rows : List (Word × Word)) (i : Nat) : Stats :=
  let per := 64 / tileH f
  let blk := i / per
  let j := blk % (n / tileW f)
  let band := blk / (n / tileW f) * 64 + i % per * tileH f
  ⟨4 * j, kind, (rows.drop (band + 4 * j)).take (min 4 (tileH f - 4 * j))⟩

/-- Tiles of a VECOP's second operand. -/
def vecOp2Tiles (d : List Byte) (v : Vctl) (m n : Nat) : Nat :=
  if v.mode = 0 then 0
  else if v.fn = 2 ∨ v.fn = 3 then 2
  else if v.mode = 1 then matTiles (body d 0x3D 1) m n
  else vecTiles fFp32 (if v.mode = 2 then n else m)

/-- The stations of a VECOP (06 R161 to R172, 07 R204). -/
def RunIn.runVecop (r : RunIn) (s : State) : Run RunOut :=
  let v := vctlOf r.d
  let (m, n) := vDims r.d
  let fs := body r.d 0x3B 1
  let fd := body r.d 0x3C 1
  (r.askBoth [0, 8, 0x10] [0x18, 0x20, 0x28, 0x30] s).andThen (fun _ s =>
    (r.matrix fs m n 0 8 s).andThen (fun x s =>
      (r.vecKernel v m n (toFp32 x) s).andThen (fun o s =>
        let st := fun i => if v.stash then stashStats fd n (v.fn - 1) o.stats i else Stats.none
        let ts := outTiles fd (r.rounding s) r.q (fun _ => 0) st (tilesOfMatrix fd m n o.o.out)
        let (k, s) := r.part ((if v.fn < 2 then progCost (vSteps r.d) else kernelCost v.fn) * m * n) s
        let s := s.countReed r.q k
        let s := if v.fn = 0 then s else r.scrambleAt 0x30 s
        (r.sink (List.range ts.length) 0x18 0x20 ts s).andThen (fun ps s =>
          (if v.reduce = 0 then .ok () s
           else r.reduction 0x28 (if v.reduce = 1 then o.o.rowRes else o.o.colRes) s).andThen (fun _ s =>
            .ok ⟨r.atSink ts.length, ps,
              [(stIntake, matTiles fs m n + vecOp2Tiles r.d v m n), (stReed, ts.length)] ++ bellCount r.d ts.length⟩ s)))))

/-- VECOP (06 R168). -/
def execVecop (q j : Nat) (idx : Word) (s : State) : Host.Outcome State Fault Refusal :=
  .next (s.runCmd q j idx opVecop RunIn.runVecop)

/-! ### The fused kernels -/

/-- The array's part of a fused command: the product in the mid format, with its overflow flags (05 R147,
R151). -/
structure FusedIn where
  dy : List (List Fp)
  ovf : List (List Bool)

/-- Runs the product of a fused command; the Reed takes the mid-format values in FP32 (05 R153). The ReLU flag is no part of what its bits depend on (05 R156). -/
def RunIn.fusedProduct (r : RunIn) (s : State) : Run FusedIn :=
  let (m, k, n) := fDims r.d
  let fa := body r.d 0x54 1
  (r.factors fa (body r.d 0x55 1) m k n false s).andThen (fun x s =>
    let prod := productOf ((clsOf fa).getD .fp8) x.a x.cols
    let s := r.countProduct x s
    .ok ⟨toFp32 (roundVia (midFmt (nMid r.d)) (prod.map (List.map Prod.fst))), prod.map (List.map Prod.snd)⟩ s)

/-- Checks a record of the statistics extent (03 R98; 05 R149). A stat_kind of 0, none, is a mismatch as any other. -/
def RunIn.statRec (r : RunIn) (f kind : Nat) (recAt : Nat) (rcd : List Byte) (s : State) : Run (List Byte) :=
  if r.limit.isSome then .ok rcd s
  else if !recCrcOk rcd then (r.checkFailed recAt s).andThen (fun _ s => .ok rcd s)
  else
    let s := r.checkPassed recAt s
    if !recFieldsOk (some f) rcd || decide (bits (field rcd 7 1) 4 4 ≠ kind) then .fail s stBadFormat 0
    else .ok rcd s

/-- The statistics of a row from a band's records, if one holds them (03 R101). -/
def findStat (row : Nat) : List (List Byte) → Option RowStat
  | [] => none
  | x :: t =>
    let lo := field x 6 1
    if lo ≤ row ∧ row < lo + bits (field x 7 1) 0 4 then
      some ⟨fp32.decode (field x (16 + 8 * (row - lo)) 4), fp32.decode (field x (20 + 8 * (row - lo)) 4)⟩
    else findStat row t

/-- The records of the band of row i of a matrix in a format, of n columns. -/
def bandRecs (f n i : Nat) (recs : List (List Byte)) : List (List Byte) :=
  let per := 64 / tileH f
  let w := n / tileW f
  (List.range w).filterMap (fun j => recs[((i / 64) * w + j) * per + i % 64 / tileH f]?)

/-- The statistics of every row in stash mode (05 R149): a row without any ends the command BAD_FORMAT. -/
def RunIn.rowStats (r : RunIn) (m n : Nat) (s : State) : Run (List RowStat) :=
  let f := nFmtStat r.d
  match r.c.ext 0x40 with
  | none => .fail s stBadFormat 0
  | some e =>
    (r.readExt e s).andThen (fun bs s =>
      let cut := chunks (recStride f) (matTiles f m n) bs
      (runAll (fun (p : List Byte × Nat) s => r.statRec f (nKind r.d) (e.pa + recStride f * p.2) (p.1.take 64) s)
        cut.zipIdx s).andThen (fun recs s =>
          let l := (List.range m).filterMap (fun i => findStat (i % tileH f) (bandRecs f n i recs))
          if l.length = m then .ok l s
          else if r.limit.isSome then .ok (List.replicate m ⟨.nan, .nan⟩) s
          else .fail s stBadFormat 0))

/-- The second operand of a fused command: γ, 1.0 where there is no affine tile, and X or Y. Each of its tiles is
read twice, once for each pass (05 R148). -/
def RunIn.fusedOperand (r : RunIn) (norm : Bool) (m n : Nat) (s : State) : Run (List Fp × List (List Fp)) :=
  let f := body r.d 0x57 1
  let aff := norm && !nNoAffine r.d
  (r.read 0x30 s).andThen (fun _ s => (r.read 0x30 s).andThen (fun bs s =>
    let g := if aff then tileVec n bs else List.replicate n Fp.one
    let rest := if aff then bs.drop 4096 else bs
    .ok (g, matrixOf f m n ((cutTiles rest).map (fun t => tileElems f t []))) s))

/-- Writes dX, and the counts and packets of a fused command (05 R144, R145). `params` are the tiles of the
parameter extent. -/
def RunIn.fusedOut (r : RunIn) (ovf : List (List Bool)) (dx : List (List Fp)) (params : List OutTile) (s : State) :
    Run RunOut :=
  let (m, k, n) := fDims r.d
  let fc := body r.d 0x56 1
  let ts := r.packMatrix fc m n (dx.map (List.map (fun v => v.scale (scaleExp r.d 0x5E)))) ovf s
  let norm := decide (opcodeOf r.d = opNormBack)
  let x2 := matTiles (body r.d 0x57 1) m n + (if norm && !nNoAffine r.d then 1 else 0)
  let ta := matTiles (body r.d 0x54 1) m k
  let tb := matTiles (body r.d 0x55 1) k n
  let tmid := matTiles (midFmt (nMid r.d)) m n
  let s := s.countGrads r.q ((r.gone (List.range ts.length) ts).map Prod.fst ++ (if r.limit.isNone then params else []))
  let (c, s) := r.part ((if norm then 8 else 2) * m * n) s
  let s := s.countReed r.q c
  let s := r.scrambleAt 0x48 s
  (r.sink (List.range ts.length) 0x20 0x28 ts s).andThen (fun ps s =>
    (r.side 0x38 (params.flatMap OutTile.data) s).andThen (fun _ s =>
      let out := ts.length + params.length
      .ok ⟨r.atSink (if r.limit.isNone then out else ts.length), ps,
        [(stIntake, ta + tb + x2), (stCrook, if onRoute r.d stCrook then tb else 0), (stArray0 + arrayOf r.d, tmid),
         (stReed, out)] ++ bellCount r.d out⟩ s))

/-- The extents that a fused command reads, and those it writes. -/
def fusedReads : List Nat := [0, 8, 0x10, 0x18, 0x30, 0x40]
def fusedWrites : List Nat := [0x20, 0x28, 0x38, 0x48]

/-- The two parameter tiles: dγ and dβ under the second scale exponent (05 R153). -/
def paramTiles (e2 : Int) (dg db : List Fp) : List OutTile :=
  [dg, db].map (fun v =>
    let xs := v.map (fun x => x.scale e2)
    writeTile fFp32 ⟨false, 0, 0⟩ 0 (xs ++ List.replicate (1024 - xs.length) Fp.zero))

/-- The stations of a NORM_BACK (05 R153). -/
def RunIn.runNormBack (r : RunIn) (s : State) : Run RunOut :=
  let (m, _, n) := fDims r.d
  (r.askBoth fusedReads fusedWrites s).andThen (fun _ s =>
    (r.fusedProduct s).andThen (fun y s =>
      (r.fusedOperand true m n s).andThen (fun gx s =>
        (if nRecompute r.d then .ok (List.replicate m none) s
         else (r.rowStats m n s).andThen (fun l s => .ok (l.map some) s)).andThen (fun st s =>
          let eps := fp32.decode (body r.d 0x58 4)
          let rows := (List.zip st (List.zip y.dy gx.2)).map (fun (t : Option RowStat × List Fp × List Fp) =>
            normBackRow (decide (nKind r.d = 2)) t.1 eps gx.1 t.2.1 t.2.2)
          let ps := paramTiles (scaleExp r.d 0x5F) (colSum n (rows.map (fun t => t.2.1))) (colSum n (rows.map (fun t => t.2.2)))
          r.fusedOut y.ovf (rows.map Prod.fst) ps s))))

/-- NORM_BACK (05 R153). -/
def execNormBack (q j : Nat) (idx : Word) (s : State) : Host.Outcome State Fault Refusal :=
  .next (s.runCmd q j idx opNormBack RunIn.runNormBack)

/-- The stations of a SOFTMAX_BACK (05 R154). -/
def RunIn.runSoftmaxBack (r : RunIn) (s : State) : Run RunOut :=
  let (m, _, n) := fDims r.d
  (r.askBoth fusedReads fusedWrites s).andThen (fun _ s =>
    (r.fusedProduct s).andThen (fun y s =>
      (r.fusedOperand false m n s).andThen (fun gx s =>
        r.fusedOut y.ovf (List.zipWith softmaxBackRow y.dy gx.2) [] s)))

/-- SOFTMAX_BACK (05 R154). -/
def execSoftmaxBack (q j : Nat) (idx : Word) (s : State) : Host.Outcome State Fault Refusal :=
  .next (s.runCmd q j idx opSoftmaxBack RunIn.runSoftmaxBack)

end Sys2Proof.Machine
end

