-- ==== Sys2Proof/Machine/Moves.lean ====
section
/-! DEFINITION. MOVE, SEND and INLINE_SEND (07_commands_and_queues.md R207, R208; 02_stations_and_routes.md
R45, R53, R54; 05_backward_pass.md R140, R143; 13_axis_links_and_drone.md R366). -/

namespace Sys2Proof.Machine

/-- The format of a MOVE or SEND. -/
def mFmt (d : List Byte) : Nat := body d 0x24 1

/-- The valid bytes of a tile: what its record counts (02 R53). -/
def Tile0.valid (t : Tile0) : List Byte := t.data.take (field t.rcd 4 2)

/-- A tile's data and its record with the scale extension behind it. -/
def Tile0.pair (t : Tile0) : List Byte × List Byte := (t.valid, t.rcd ++ t.scales)

/-- The source tile of output tile i of a transposed matrix: blocks (I, J) come from blocks (J, I), tiles of
a block in order (05 R140). `rows` and `cols` are the stored matrix's. -/
def crookSource (f rows cols i : Nat) : Nat :=
  let per := 64 / tileH f
  let blk := i / per
  ((blk % (rows / 64)) * (cols / 64) + blk / (rows / 64)) * per + i % per

/-- The tiles of a matrix through a CROOK lane: elements moved, records made anew (05 R140). -/
def crookTiles (f rows cols : Nat) (ts : List Tile0) : List (List Byte × List Byte) :=
  let b := elemB f
  let m := matrixOf f rows cols (ts.map (fun t => chunks b (tileE f) t.data))
  ((tilesOfMatrix f cols rows (transpose cols m)).map List.flatten).zipIdx.map (fun (p : List Byte × Nat) =>
    (p.1, crookRec ((ts.map Tile0.rcd).getD (crookSource f rows cols p.2) []) p.1 p.2))

/-- Source tiles of a MOVE or SEND as they leave INTAKE, or CROOK where the route has it. An MXFP4 tile stops the
command before CROOK emits one (02 R45); another that may not pass ends it (03 R70). -/
def RunIn.moved (r : RunIn) (s : State) : Run (List (List Byte × List Byte)) :=
  let f := mFmt r.d
  if onRoute r.d stCrook && !crookFmt f then .stop s stBadFormat 0 0
  else
    (r.tiles f none 0 8 s).andThen (fun ts s =>
      if onRoute r.d stCrook then
        if ts.any (fun t => decide (field t.rcd 0 1 = fMxfp4)) then .stop s stBadFormat 0 0
        else if ts.any (fun t => !crookFmt (field t.rcd 0 1)) then .fail s stBadFormat 0
        else .ok (crookTiles f (dim64 r.d 0x26 2) (dim64 r.d 0x28 2) ts) s
      else .ok (ts.map Tile0.pair) s)

/-- Writes the valid bytes of each tile at its place in an extent; whole tiles in one write. -/
def RunIn.writeTiles (r : RunIn) (off : Nat) (ts : List (List Byte)) (s : State) : Run Unit :=
  let (ts, s) := r.leave (List.range ts.length) ts s
  if (ts.dropLast).all (fun t => decide (t.length = 4096)) then r.write off ts.flatten s
  else
    match r.c.ext off with
    | some e =>
      (runAll (fun (p : List Byte × Nat) s => r.writeExt { e with pa := e.pa + 4096 * p.2, len := p.1.length } p.1 s)
        ts.zipIdx s).andThen (fun _ s => .ok () s)
    | none => .ok () s

/-- The counts of the stations ahead of the sink. -/
def moveCounts (d : List Byte) (n : Nat) : List (Nat × Nat) :=
  [(stIntake, n)] ++ (if onRoute d stCrook then [(stCrook, n)] else [])

/-- The stations of a MOVE (07 R207). -/
def RunIn.runMove (r : RunIn) (s : State) : Run RunOut :=
  (r.askBoth [0, 8] [0x10, 0x18] s).andThen (fun _ s =>
    (r.moved s).andThen (fun ts s =>
      (r.writeTiles 0x10 (ts.map Prod.fst) s).andThen (fun _ s =>
        let (rs, s) := r.leave (List.range ts.length) (ts.map Prod.snd) s
        (r.write 0x18 rs.flatten s).andThen (fun _ s =>
          .ok ⟨r.left ts.length, [], moveCounts r.d ts.length ++ [(stBell, ts.length)]⟩ s))))

/-- MOVE (07 R207). -/
def execMove (q j : Nat) (idx : Word) (s : State) : Host.Outcome State Fault Refusal :=
  .next (s.runCmd q j idx opMove RunIn.runMove)

/-- The stations of a SEND: one packet for each tile, with its record where the source has records (13
R366). -/
def RunIn.runSend (r : RunIn) (s : State) : Run RunOut :=
  (r.askBoth [0, 8] [] s).andThen (fun _ s =>
    (r.moved s).andThen (fun ts s =>
      let ps := (r.gone (List.range ts.length) ts.zipIdx).map (fun (p : (List Byte × List Byte) × Nat) =>
        tilePacket s r.q r.c.dest (body r.d 0x30 6 + 4096 * p.2) p.1.1 (if present r.d 8 then p.1.2 else []))
      .ok ⟨0, ps, moveCounts r.d ts.length⟩ s))

/-- SEND (13 R366, 07 R207). -/
def execSend (q j : Nat) (idx : Word) (s : State) : Host.Outcome State Fault Refusal :=
  .next (s.runCmd q j idx opSend RunIn.runSend)

/-- The packet of an INLINE_SEND: its payload lies in the descriptor (07 R208). -/
def RunIn.runInline (r : RunIn) (s : State) : Run RunOut :=
  let p := tilePacket s r.q r.c.dest (dXarg2 r.d) ((r.d.drop 32).take (bits (dXarg r.d) 8 7)) []
  .ok ⟨0, [{ p with kind := .inline }], []⟩ s

/-- INLINE_SEND (07 R208). -/
def execInlineSend (q j : Nat) (idx : Word) (s : State) : Host.Outcome State Fault Refusal :=
  .next (s.runCmd q j idx opInline RunIn.runInline)

end Sys2Proof.Machine
end

