-- ==== Sys2Proof/Machine/Breaks.lean ====
section
/-! DEFINITION. Running commands that end early: aborts, replay exhausted, withdrawn translations
(02_stations_and_routes.md R65; 07_commands_and_queues.md R220, R222; 10_segments.md R302). -/

namespace Sys2Proof.Machine

/-- The stations of an opcode. -/
def stationRun (op : Nat) (r : RunIn) (s : State) : Run RunOut :=
  if op = opMove then r.runMove s
  else if op = opSend then r.runSend s
  else if op = opInline then r.runInline s
  else if op = opGemm then r.runGemm s
  else if op = opGemmT then r.runGemmT s
  else if op = opGemv then r.runGemv s
  else if op = opVecop then r.runVecop s
  else if op = opNormBack then r.runNormBack s
  else if op = opSoftmaxBack then r.runSoftmaxBack s
  else if op = opGather then r.runGather s
  else if op = opScatter then r.runScatter s
  else .ok ⟨0, [], []⟩ s

/-- Ends a running command's work early with a status: it moves nothing more. What it had not written is undefined
(02_stations_and_routes.md R65, 07 R222). Its stations release as they empty. -/
def State.breakCmd (s : State) (q j : Nat) (c : Cmd) (status : Nat) (detail : Dword) : State :=
  if c.ran then s.setCmd q j { c with status := status, detail := detail, unsent := [] }
  else s.breakRun q j c (stationRun (opcodeOf c.desc)) status detail

/-- Aborts the running commands of a queue (07_commands_and_queues.md R220, 02 R65). -/
def State.abortRunning (s : State) (q j : Nat) : State :=
  ((s.queue q j).cmds.filter (fun c => decide (c.phase = .running))).foldl
    (fun s c => s.breakCmd q j c stAborted 0) s

/-- An abort of a queue (07_commands_and_queues.md R220): nothing more is fetched, unstarted commands
end ABORTED, running ones end under R65, then the queue is STOPPED, or DISABLED for a cleared enable. -/
def State.abortQueue (s : State) (q j : Nat) (disable : Bool) : State :=
  let s := s.modQueue q j (fun x => { x with state := .stopping, thenDisabled := x.thenDisabled || disable })
  ((s.endUnstarted q j).abortRunning q j).modQueue q j Queue.settle

end Sys2Proof.Machine
end

