-- ==== Sys2Proof/Machine/Home.lean ====
section
/-! DEFINITION. Home agents: requests, open transactions, snoops and their answers, writebacks, the directory and its
pinning, poison and timeouts (12_coherence.md R330 to R352). -/

namespace Sys2Proof.Machine

/-! ### The pieces -/

/-- Ticks from a snoop to its deadline (R348). -/
def snoopTime : Nat := 2 ^ 20

/-- The open transaction of a line. -/
def State.txn (s : State) (line : Nat) : Option Txn := Table.get none s.coh.txns line
/-- Writes the transaction of a line. -/
def State.setTxn (s : State) (line : Nat) (t : Option Txn) : State :=
  s.modCoh (fun c => { c with txns := Table.put none c.txns line t })
/-- Changes the open transaction of a line. -/
def State.modTxn (s : State) (line : Nat) (f : Txn → Txn) : State := s.setTxn line ((s.txn line).map f)
/-- Transaction slots that a home has taken: by open transactions, and by retried requests (R339, R345). -/
def State.openAt (s : State) (h : Nat) : Nat :=
  (s.coh.txns.filter (fun e => e.2.isSome && decide (s.homeOf e.1 = h))).length +
  (s.coh.retryQ.filter (fun e => decide (s.homeOf e.2.1 = h))).length +
  (s.coh.reserved.filter (fun e => decide (s.homeOf e.2 = h))).length
/-- Whether an agent is dead (R349). -/
def State.isDead (s : State) (a : Nat) : Bool := s.coh.dead.contains a
/-- Whether an entry names an owner. -/
def DirEntry.owned (e : DirEntry) : Bool := decide (e.st = .dx) || decide (e.st = .do_)
/-- The owner of an entry, pointer 0 of DX and DO (R341). -/
def DirEntry.owner (e : DirEntry) : Option Nat := if e.owned then e.ptrs.head? else Option.none
/-- Every agent that an invalidation goes to: all 130 while bcast is set (R343). -/
def DirEntry.holders (e : DirEntry) : List Nat := if e.bcast then List.range 130 else e.ptrs
/-- Adds a sharer; a fifth sets bcast (R343). -/
def DirEntry.add (e : DirEntry) (a : Nat) : DirEntry :=
  if e.ptrs.contains a then e
  else if e.ptrs.length < 4 then { e with ptrs := e.ptrs ++ [a] } else { e with bcast := true }
/-- Takes an agent out of an entry; without its owner DO is DS (Table COH-5). -/
def DirEntry.remove (e : DirEntry) (a : Nat) : DirEntry :=
  let e' := { e with ptrs := e.ptrs.filter (fun b => decide (b ≠ a)) }
  if e.owner = some a then { e' with st := if e.st = .dx then .di else .ds } else e'

/-! ### What a home does for a request (Table COH-5) -/

/-- Whether a request leaves its requester with the line, whose own copy then gets no snoop: "the others" of Table COH-5
are the holders but for it. -/
def Req.keeps : Req → Bool
  | .rdShared => true
  | .rdOwn => true
  | .upgrade => true
  | _ => false

/-- The snoops of a request. An invalidation "to all" reaches a requester that the entry names too; while bcast is set
one that it does not name gets none (R343, log entry 172). -/
def snoopsFor (e : DirEntry) (who : Requester) (req : Req) : List (Nat × Snp) :=
  let spared := fun (a : Nat) => decide (Requester.agent a = who) && (req.keeps || (e.bcast && !(e.ptrs.contains a)))
  let all := (e.holders.filter (fun a => !spared a)).map (fun a => (a, Snp.inv))
  let one := fun (k : Snp) => (e.owner.toList.filter (fun a => !spared a)).map (fun a => (a, k))
  match req with
  | .rdShared => one .shr
  | .rdOwn => all.map (fun p => if e.owner = some p.1 then (p.1, Snp.own) else p)
  | .upgrade => all
  | .rdOnce => one .once
  | .wrFull _ _ => all
  | .wrPart _ _ => all
  | .atomic _ => all
  | .cmo .clean => one .cln
  | .cmo _ => all

/-- Sends the snoops of a transaction; dead agents get none (R348, R349). -/
def State.snoop (s : State) (line : Nat) (who : Requester) (l : List (Nat × Snp)) : State :=
  let l := l.filter (fun p => !s.isDead p.1)
  let s := l.foldl (fun s p => s.post (.snp p.2 p.1 line who)) s
  s.modTxn line (fun t => { t with waits := t.waits ++ l.map (fun p => (p.1, p.2, s.drone + snoopTime)) })

/-- What opening a transaction does about dead agents that the line's entry names (R349). -/
def State.dropDead (s : State) (line : Nat) : State :=
  let e := s.dirEntry line
  let gone := e.ptrs.filter s.isDead
  if gone.isEmpty then s
  else
    let s := match e.owner with
      | some o => if s.isDead o then ((s.poisonLine line 4 o).setLine o line Line.none).dropL1 o line else s
      | none => s
    s.setDir line (gone.foldl DirEntry.remove e)

/-- The bytes of a number of a width. -/
def amoWidth (wide : Bool) : Nat := if wide then 8 else 4

/-- An integer atomic on a value of a width in bits (08_memory_model.md Table MEM-8). -/
def applyAmo (op : AmoOp) (w a b : Nat) : Nat :=
  match op with
  | .add => (a + b) % 2 ^ w
  | .swap => b
  | .minU => min a b
  | .maxU => max a b
  | .minS => if signed a w ≤ signed b w then a else b
  | .maxS => if signed a w ≤ signed b w then b else a
  | .and => a &&& b
  | .or => a ||| b
  | .xor => a ^^^ b

/-- A line's bytes with some replaced. -/
def patch (d : List Byte) (off : Nat) (bs : List Byte) : List Byte := d.take off ++ bs ++ d.drop (off + bs.length)

/-- An atomic on a line's bytes: what it leaves and the value it answers (R346). -/
def applyAtomic (op : LineAtomic) (d : List Byte) : List Byte × Dword :=
  match op with
  | .amo off wide op v =>
    let n := amoWidth wide
    let old := field d off n
    (patch d off (leBytes n (applyAmo op (8 * n) old (v.toNat % 2 ^ (8 * n)))), BitVec.ofNat 64 old)
  | .cas off wide expect new =>
    let n := amoWidth wide
    let old := field d off n
    (if old = expect.toNat % 2 ^ (8 * n) then patch d off (leBytes n new.toNat) else d, BitVec.ofNat 64 old)
  | .floatAdd fmt mask incs => (addSector fmt mask d incs, 0)

/-- Bytes merged under a mask. -/
def mergeBytes (mask : Dword) (old new : List Byte) : List Byte :=
  old.zipIdx.map (fun (p : Byte × Nat) => if mask.getLsbD p.2 then new.getD p.2 0 else p.1)

/-- Sends a transaction's completion, with its result. -/
def State.sendCmp (s : State) (who : Requester) (line : Nat) (poison : Bool) (r : Dword) : State :=
  s.post (.cmp who line poison r)

/-- What a cache-block operation does to the extension in front of a line's memory: clean writes it through, flush and a
discard remove it; what memory holds behind a discarded dirty copy is free (11_host_cores_and_cache.md R314, R323). -/
def State.extCmo (s : State) (k : CmoKind) (line : Nat) : State :=
  match s.hbmDie (line * 64) with
  | none => s
  | some d =>
    match k with
    | .clean => s.extSet d line false
    | .flush => s.extDrop d line
    | .inval => (if s.extIsDirty d line then s.scramble (line * 64) 64 else s).extDrop d line

/-- The copies of a line are gone for a write or an invalidation: its entry is freed, a copy of the requester that
no pointer named goes too, and other cores lose their reservations (R341, R343; 11 R313). -/
def State.emptied (s : State) (line : Nat) (who : Requester) : State :=
  let s := match who with
    | .agent a => if (s.dirEntry line).bcast then s.dropCopy a line else s
    | .cacheless _ => s
  (s.setDir line DirEntry.none).dropReservations line who

/-- Serves a request whose snoops are answered: what each requester is sent and what the line's entry and memory
become (Table COH-5, R350). True where the transaction ends here and false where it awaits a CMP_ACK (R339). -/
def State.serve (s : State) (line : Nat) (t : Txn) : Bool × State :=
  let e := s.dirEntry line
  let (d, dp) := t.data.getD (s.baseLine line, s.basePoison line)
  let p := dp || t.poison
  let back := fun (s : State) => match t.data with | some (d, q) => s.lineWrite line d q | none => s
  let done := fun (s : State) (p : Bool) (r : Dword) => (true, s.sendCmp t.who line p r)
  match t.req, t.who with
  | .rdShared, .agent a =>
    if t.fromSnoop then (false, s)
    else
      let s := back s
      let grant : LState := if e = DirEntry.none then .e else .s
      let s := if e = DirEntry.none then s.ownedBy line a else s.setDir line (e.add a)
      (false, s.post (.datHome t.who line grant d p))
  | .rdOwn, .agent a =>
    let s := (s.ownedBy line a).dropReservations line t.who
    (false, if t.fromSnoop then s else s.post (.datHome t.who line .m d p))
  | .upgrade, .agent a => (false, ((s.ownedBy line a).dropReservations line t.who).sendCmp t.who line p 0)
  | .rdOnce, _ =>
    let s := if e.owned then s else back s
    (true, s.post (.datHome t.who line .s d p))
  | .wrFull new hint, _ =>
    let s := s.emptied line t.who
    if t.poison then done s true 0
    else done ((s.writePhys false (line * 64) new).sendInstall hint line new) false 0
  | .wrPart mask new, _ =>
    let s := (back s).emptied line t.who
    if p then done s true 0
    else done (s.writePhys false (line * 64) (mergeBytes mask d new)) false 0
  | .atomic op, _ =>
    let s := ((back s).emptied line t.who).extLookup (line * 64) 64 false
    if p then done s true 0
    else
      let (d', r) := applyAtomic op d
      done (s.writePhys false (line * 64) d') false r
  | .cmo .clean, _ =>
    let s := (back s).extCmo .clean line
    done (s.setDir line (if e.st = .do_ then { e with st := .ds } else e)) p 0
  | .cmo .flush, _ => done (((back s).emptied line t.who).extCmo .flush line) p 0
  | .cmo .inval, _ => done ((s.emptied line t.who).extCmo .inval line) p 0
  | _, .cacheless _ => (true, s)

/-! ### Opening, finishing and closing -/

/-- Whether data of a snoop is on its way to a line's home. -/
def State.datComing (s : State) (line : Nat) : Bool :=
  s.coh.msgs.any (fun m => match m with | .datSnp a l _ _ => decide (l = line) && !s.isDead a | _ => false)

/-- Whether a line's memory can be reached now: its tile is in reach of the home (09_memory_tiers.md R267). -/
def State.lineReady (s : State) (line : Nat) (req : Req) : Bool :=
  let whole := match req with | .wrFull _ _ => true | _ => false
  if whole then s.writeReady false (line * 64) 64
  else match req with
    | .wrPart _ _ => s.writeReady false (line * 64) 64
    | .atomic _ => s.writeReady false (line * 64) 64
    | _ => s.readReady false (line * 64) 64

/-- Sets off what a line's memory needs before it can be reached. -/
def State.lineAsk (s : State) (line : Nat) (req : Req) : State :=
  match req with
  | .wrFull _ _ => s.requestWrite (line * 64) 64
  | .wrPart _ _ => s.requestWrite (line * 64) 64
  | .atomic _ => s.requestWrite (line * 64) 64
  | _ => s.requestRead (line * 64) 64

/-- Reserves a way for the head of a home's retry queue, where one has unpinned, and sends it GRANT (R345). -/
def State.grantNext (s : State) (h : Nat) : State :=
  match s.coh.retryQ.find? (fun e => decide (s.homeOf e.2.1 = h)) with
  | some e =>
    match s.dirRoom e.2.1 with
    | some s =>
      (s.modCoh (fun c => { c with retryQ := c.retryQ.erase e, reserved := c.reserved ++ [(e.1, e.2.1)] })).post
        (.grant e.1 e.2.1)
    | none => s
  | none => s

/-- Closes a line's transaction; a way that unpins serves the retry queue (R339, R345). -/
def State.closeTxn (s : State) (line : Nat) : State := (s.setTxn line none).grantNext (s.homeOf line)

/-- Finishes a transaction whose answers have all come: one that awaits no CMP_ACK, or has it, closes (R339). -/
def State.finish (s : State) (line : Nat) : State :=
  match s.txn line with
  | none => s
  | some t =>
    if t.waits.isEmpty && t.awaitWb.isEmpty && !t.answered && !s.datComing line then
      match s.serve line t with
      | (ended, s) =>
        if ended || t.acked then s.closeTxn line else s.modTxn line (fun t => { t with answered := true })
    else s

/-- Whether a request reads the line's memory where no owner has it. -/
def Req.reads : Req → Bool
  | .rdShared => true
  | .rdOwn => true
  | .rdOnce => true
  | _ => false

/-- Whether a requester holds a way that a GRANT has reserved for it (R345). -/
def State.granted (s : State) (line : Nat) (who : Requester) : Bool :=
  s.coh.reserved.any (fun e => decide (Requester.agent e.1 = who) && decide (e.2 = line))

/-- Opens a transaction: dead agents, then snoops, then the answer where none is awaited (R339, R341). An UPGRADE from
a requester that the entry no longer lists is served as RD_OWN. -/
def State.openTxn (s : State) (line : Nat) (who : Requester) (req : Req) : State :=
  let s := s.modCoh (fun c =>
    { c with reserved := c.reserved.filter (fun e => !(decide (Requester.agent e.1 = who) && decide (e.2 = line))) })
  let s := s.dropDead line
  let e := s.dirEntry line
  let listed := e.bcast || e.ptrs.any (fun a => decide (Requester.agent a = who))
  let req := if req = .upgrade ∧ ¬ listed then Req.rdOwn else req
  let s := s.setTxn line (some (Txn.fresh who req))
  let l := snoopsFor e who req
  let s := if l.any (fun p => decide (p.2 = .inv)) then s.countBcast line else s
  let s := if req.reads && !e.owned then s.didRead (line * 64) 64 else s
  (s.snoop line who l).finish line

/-- A request that a home may open now: a slot of 512 is free, the memory is in reach, and a way of the directory is
free or can be recalled; where every way is pinned, RETRY (R339, R344, R345). None where it waits. -/
def State.accept (s : State) (line : Nat) (who : Requester) (req : Req) : Option State :=
  let h := s.homeOf line
  if (s.txn line).isSome || (decide (512 ≤ s.openAt h) && !s.granted line who) || !s.lineReady line req then none
  else if req.allocates then
    match s.dirRoom line, who with
    | some s, _ => some (s.openTxn line who req)
    | none, .agent a =>
      some (((s.modCoh (fun c => { c with retryQ := c.retryQ ++ [(a, line, req)] })).modHome h
        (fun x => { x with retry := true, retryCount := satAdd 0xFFFFFFFF x.retryCount 1 })).post (.retry a line))
    | none, .cacheless _ => none
  else some (s.openTxn line who req)

/-- Opens waiting requests in their order, at most one for each line that has none open (R339). -/
def State.serveWaiting (s : State) : List (Nat × Requester × Req) → List Nat → State
  | [], _ => s
  | w :: t, seen =>
    if seen.contains w.1 then s.serveWaiting t seen
    else
      match s.accept w.1 w.2.1 w.2.2 with
      | some s => (s.modCoh (fun c => { c with waiting := c.waiting.erase w })).serveWaiting t (w.1 :: seen)
      | none => s.serveWaiting t (w.1 :: seen)

/-- Passes over what waits, each of which may end transactions at once. -/
def State.servePasses : Nat → State → State
  | 0, s => s
  | n + 1, s => State.servePasses n (s.serveWaiting s.coh.waiting [])

/-- Serves what waits at the homes. -/
def State.wakeHomes (s : State) : State := State.servePasses s.coh.waiting.length s

/-- Whether a line lies in coherent memory that is populated (R332, 01_package.md R33). -/
def State.coherentLine (s : State) (line : Nat) : Bool :=
  match s.backed (line * 64) 64 with
  | some .ddr => true
  | some (.hbm _) => true
  | some .tiered => true
  | _ => false

/-- Whether homes take requests for a line: the package runs and the line's home is not closed (R353,
15_resilience.md R417). -/
def State.homeTakes (s : State) (line : Nat) : Bool :=
  s.running && s.coherentLine line && !s.hostClosed (line * 64) && !(s.boot.diesInReset.contains (s.homeOf line / 4))

/-- Whether a requester's message reaches a line's home now, and the home takes it (01_package.md R25). -/
def State.asks (s : State) (r : Requester) (line : Nat) : Bool :=
  s.homeTakes line && s.wayUp (requesterDie r) (s.homeOf line / 4) (line * 64)

/-- A request at its home: a dead agent is answered with poison; else it opens, or waits behind what came before
(R339, R349). -/
def State.request (s : State) (line : Nat) (who : Requester) (req : Req) : State :=
  let dead := match who with | .agent a => s.isDead a | .cacheless _ => false
  if dead then
    if req.keeps && decide (req ≠ .upgrade) then s.post (.datHome who line .s (s.baseLine line) true)
    else s.sendCmp who line true 0
  else
    let queue := fun (s : State) => s.modCoh (fun c => { c with waiting := c.waiting ++ [(line, who, req)] })
    if s.coh.waiting.any (fun w => decide (w.1 = line)) then (queue s).wakeHomes
    else
      match s.accept line who req with
      | some s => s
      | none => queue (if (s.txn line).isSome then s else s.lineAsk line req)

/-! ### Answers -/

/-- An agent's answer to a snoop of a line it holds or does not hold (Table COH-3, R334). -/
def State.answerSnoop (s : State) (k : Snp) (a line : Nat) (who : Requester) : State :=
  let x := s.line a line
  let rsp := fun (s : State) (st : LState) (fwd : Bool) => s.post (.rspState st a line fwd)
  let fwd := fun (s : State) (g : LState) =>
    match who with | .agent b => s.post (.datFwd a b line g x.data x.poison) | .cacheless _ => s
  let put := fun (s : State) (st : LState) =>
    if st = .i then (s.setLine a line x.gone).dropL1 a line else s.setLine a line { x with st := st }
  let s := if a ≥ 128 ∧ x.st ≠ .i then s.scHit (a - 128) line else s
  if x.tr = .miWb ∨ x.tr = .oiWb then s.post (.rspInwb a line)
  else
    match k with
    | .shr =>
      match x.st with
      | .m => rsp (fwd (put s .o) .s) .o true
      | .o => rsp (fwd s .s) .o true
      | .e => rsp (fwd (put s .s) .s) .s true
      | .s => rsp (fwd s .s) .s true
      | .i => rsp s .i false
    | .own =>
      match x.st with
      | .m => rsp (fwd (put s .i) .m) .i true
      | .o => rsp (fwd (put s .i) .m) .i true
      | .e => rsp (fwd (put s .i) .m) .i true
      | .s => rsp (put s .i) .i false
      | .i => rsp s .i false
    | .inv =>
      match x.st with
      | .m => rsp ((put s .i).post (.datSnp a line x.data x.poison)) .i false
      | .o => rsp ((put s .i).post (.datSnp a line x.data x.poison)) .i false
      | .e => rsp (put s .i) .i false
      | .s => rsp (put s .i) .i false
      | .i => rsp s .i false
    | .once =>
      match x.st with
      | .i => rsp s .i false
      | _ => s.post (.datSnp a line x.data x.poison)
    | .cln =>
      match x.st with
      | .i => rsp s .i false
      | .m => (put s .e).post (.datSnp a line x.data x.poison)
      | .o => (put s .s).post (.datSnp a line x.data x.poison)
      | _ => s.post (.datSnp a line x.data x.poison)

/-- The snoop that a transaction has out to an agent, and whether an answer is in time: the answer wins in the deciding
cycle (R348). -/
def State.awaited (s : State) (a line : Nat) : Option (Snp × Bool) :=
  match s.txn line with
  | none => none
  | some t => (t.waits.find? (fun w => decide (w.1 = a))).map (fun w => (w.2.1, s.inTime w.2.2))

/-- A holder has answered. -/
def State.answered (s : State) (a line : Nat) : State :=
  s.modTxn line (fun t => { t with waits := t.waits.filter (fun w => decide (w.1 ≠ a)) })

/-- The agent that a transaction ends with as the line's owner, where it is one for ownership. -/
def Txn.heir (t : Txn) : Option Nat :=
  match t.who, t.req with
  | .agent b, .rdOwn => some b
  | .agent b, .upgrade => some b
  | _, _ => none

/-- Takes a holder out of a line's entry. The entry of a transaction that ends in ownership is not freed with its
last holder: it passes to the requester, and keeps its place in the order of allocation (R344). -/
def State.dropHolder (s : State) (line a : Nat) : State :=
  let e := s.dirEntry line
  let e' := e.remove a
  match (s.txn line).bind Txn.heir with
  | some b =>
    if e'.ptrs.isEmpty && !e'.bcast && decide (e ≠ DirEntry.none) then
      s.setDir line { e with st := .dx, ptrs := [b], bcast := false }
    else s.setDir line e'
  | none => s.setDir line e'

/-- A response that names the state a holder now has: the entry follows it, and what a holder forwarded is noted
(Table COH-5). -/
def State.takeRsp (s : State) (st : LState) (a line : Nat) (fwd : Bool) (k : Snp) : State :=
  let s := s.answered a line
  let e := s.dirEntry line
  let req := match (s.txn line).map (·.who) with | some (.agent b) => some b | _ => none
  let s :=
    if k = .shr ∧ fwd then
      s.setDir line (match req with
        | some b => { (e.add b) with st := if st = .o then .do_ else .ds }
        | none => e)
    else if st = .i then s.dropHolder line a
    else s
  (s.modTxn line (fun t => { t with fromSnoop := t.fromSnoop || fwd })).finish line

/-- Data that a snoop returned to the home: of SNP_ONCE and SNP_CLN it is the answer (Table COH-5). -/
def State.takeDat (s : State) (a line : Nat) (d : List Byte) (p : Bool) : State :=
  let s := match s.awaited a line with
    | some (.once, _) => s.answered a line
    | some (.cln, _) => s.answered a line
    | _ => s
  (s.modTxn line (fun t => { t with data := some (d, p) })).finish line

/-- Whether a home awaits an agent's CMP_ACK for a line. -/
def State.awaits (s : State) (a line : Nat) : Bool := (s.txn line).any (fun t => decide (t.who = .agent a))

/-- A line arrives at a requesting agent, which installs it in the place it had kept and acknowledges (R334, R338, R339).
One whose home has ended the transaction, dead or behind a long retrain, uses the line and keeps nothing (R349,
R352). -/
def State.recvLine (s : State) (a line : Nat) (grant : LState) (d : List Byte) (p : Bool) : State :=
  (s.setLine a line (if s.awaits a line then ⟨grant, .stable, d, p⟩ else Line.none)).post (.cmpAck a line)

/-! ### Writebacks -/

/-- Whether a writeback of an agent's line is in flight, dirty or as a move. -/
def isWb (a line : Nat) : Msg → Bool
  | .wbDirty b l _ _ => decide (b = a) && decide (l = line)
  | .wbMove b l _ _ _ => decide (b = a) && decide (l = line)
  | _ => false

/-- Whether a line's open transaction has a snoop out to an agent or awaits its writeback. -/
def State.snoops (s : State) (a line : Nat) : Bool :=
  match s.txn line with
  | some t => t.awaitWb.contains a || t.waits.any (fun w => decide (w.1 = a))
  | none => false

/-- An eviction of a system cache leaves its line in the extension of its compute-die home (11 R323). -/
def State.leaveInExt (s : State) (a line : Nat) (dirty : Bool) : State :=
  if a < 128 then s
  else
    match s.hbmDie (line * 64) with
    | some d => s.extFill d line dirty
    | none => s

/-- A transaction no longer waits for an agent's writeback. -/
def State.hadWb (s : State) (a line : Nat) : State := s.modTxn line (fun t => { t with awaitWb := t.awaitWb.erase a })

/-- A writeback passes the detector of the port by which it enters its home's compute die: whether it is marked
no-allocate (11 R324). -/
def State.passHome (s : State) (a line : Nat) : Bool × State :=
  match s.portDetector (agentDie a) (line * 64) with
  | some det => s.streamWrite det line
  | none => (false, s)

/-- A dirty writeback at its home: it answers a transaction that snooped the writer, or goes to memory (R337,
R351); one marked no-allocate leaves no line in the extension (11 R324). -/
def State.absorbDirty (s : State) (a line : Nat) (d : List Byte) (p : Bool) : State :=
  let e := s.dirEntry line
  let (around, s) := s.passHome a line
  let s := s.post (.wbAck a line)
  if s.snoops a line then
    (((s.dropHolder line a).hadWb a line).modTxn line (fun t => { t with data := some (d, p) })).finish line
  else if e.bcast || e.ptrs.contains a then
    let s := (s.lineWrite line d p).setDir line (e.remove a)
    if around then s else s.leaveInExt a line true
  else s

/-- A clean notice at its home: ignored while bcast is set (R343, R351). -/
def State.absorbClean (s : State) (a line : Nat) : State :=
  let e := s.dirEntry line
  let s := (s.post (.wbAck a line)).leaveInExt a line false
  let s := if e.bcast && decide (e.owner ≠ some a) then s else s.dropHolder line a
  (s.hadWb a line).finish line

/-- Sends the snoop that a moved line's new holder owes a transaction, unless one is out (R351). -/
def State.snoopMoved (s : State) (t line : Nat) : State :=
  match s.txn line with
  | some x =>
    let l := (snoopsFor (s.dirEntry line) x.who x.req).filter (fun p =>
      decide (p.1 = t) && !(x.waits.any (fun w => decide (w.1 = t))))
    (s.snoop line x.who l).finish line
  | none => s

/-- What a system cache holds of a line that an L2 hands to it: where it held a shared copy, the owner's state and data
stand (R335). -/
def Line.merged (y : Line) (st : LState) (d : List Byte) (p : Bool) : Line :=
  if y.st = .o then y else if y.st = .s ∧ st = .e then y else ⟨st, .stable, d, p⟩

/-- An entry whose pointer moves from an agent to a system cache; an owner's pointer stays first (R335). -/
def DirEntry.moved (e : DirEntry) (a t : Nat) : DirEntry :=
  let rest := e.ptrs.filter (fun b => decide (b ≠ a) && decide (b ≠ t))
  if e.owner = some a ∨ e.owner = some t then { e with ptrs := t :: rest }
  else if e.ptrs.contains a ∨ e.ptrs.contains t then { e with ptrs := rest ++ [t] }
  else e

/-- A handover to the die's system cache at its home: the pointer moves with state and data (R335), and a transaction
that has snooped the core snoops the new holder (R351). Where the cache has no place, the line is written back
instead. -/
def State.absorbMove (s : State) (a line : Nat) (st : LState) (d : List Byte) (p : Bool) : State :=
  let t := 128 + a / 64
  let e := s.dirEntry line
  let back := fun (s : State) => if st = .m ∨ st = .o then s.absorbDirty a line d p else s.absorbClean a line
  if !(e.bcast || e.ptrs.contains a) then s.post (.wbAck a line)
  else if (s.line t line).tr ≠ .stable ∨ s.isDead t then back s
  else
    match s.cacheRoom t line false with
    | none => back s
    | some s =>
      let snooped := (s.txn line).any (fun x => x.waits.any (fun w => decide (w.1 = a)))
      let awaited := (s.txn line).any (fun x => x.awaitWb.contains a)
      let s := (s.setLine t line ((s.line t line).merged st d p)).post (.wbAck a line)
      let s := s.setDir line (e.moved a t)
      if awaited then (s.hadWb a line).snoopMoved t line
      else if snooped then s.modTxn line (fun x => { x with moved := x.moved ++ [a] })
      else s

/-! ### Poison by timeouts and bridges -/

/-- A record of a home's poisoning (15_resilience.md Tables RES-7, RES-8). -/
def State.homeRec (s : State) (line agent : Nat) : State :=
  s.logErr { errRec 2 0x12 0x0023 (s.homeOf line / 4) (s.homeOf line % 4) with
    addr := BitVec.ofNat 64 (2 ^ 63 + line * 64), aux0 := agent }

/-- The completion of a line's transaction that is on its way carries poison (R350). -/
def Msg.poisoned (line : Nat) : Msg → Msg
  | .datHome w l g d p => .datHome w l g d (p || decide (l = line))
  | .datFwd h a l g d p => .datFwd h a l g d (p || decide (l = line))
  | .cmp w l p r => .cmp w l (p || decide (l = line)) r
  | m => m

/-- An open transaction goes on without its line's data: poisoned (R348, R350). -/
def State.poisonTxn (s : State) (line : Nat) : State :=
  (s.modCoh (fun c => { c with msgs := c.msgs.map (Msg.poisoned line) })).modTxn line (fun t => { t with poison := true })

/-- A snoop deadline passes: the line is poisoned, the agent is dead, and the transaction goes on without it
(R348, R349). -/
def State.snoopDies (s : State) (a line : Nat) : State :=
  let s := (s.poisonLine line 1 a).modHome (s.homeOf line) (fun h => { h with timeout := true })
  let s := (s.homeRec line a).modCoh (fun c => { c with dead := c.dead.insert a })
  let s := ((s.setLine a line Line.none).dropL1 a line).dropHolder line a
  ((s.answered a line).poisonTxn line).finish line

end Sys2Proof.Machine
end

