-- ==== Sys2Proof/Machine/Fabric.lean ====
section
/-! DEFINITION. The bridges of the fabric and the clocks: lanes, retrains, loss, and what a long retrain does to
coherence (01_package.md R24 to R29; 12_coherence.md R352). -/

namespace Sys2Proof.Machine

/-! ### Lanes -/

/-- The compute die of a bridge that comes first in Table PKG-2: it reports the bridge's records. -/
def bridgeDie (b : Nat) : Nat := [0, 2, 0, 1, 0, 2, 1, 3, 0, 1, 2, 3].getD b 0

/-- A record about a bridge (15_resilience.md Table RES-7). -/
def bridgeRec (cls code b : Nat) : ErrRec := errRec cls 0x0C code (bridgeDie b) b

/-- BRIDGE_LANE_FAIL (R24): repaired from a redundant lane, or at 32 lanes and degraded until package reset. -/
def execBridgeLaneFail (b : Nat) (repaired : Bool) (s : State) : Host.Outcome State Fault Refusal :=
  .next (if s.boot.held then s
    else if repaired then s.logErr { bridgeRec 0 0x0003 b with aux0 := 1 }
    else (s.modFabric (fun f => { f with degraded := f.degraded ||| BitVec.ofNat 12 (2 ^ b) })).logErr
      (bridgeRec 1 0x0012 b))

/-! ### Retrains -/

/-- A bit of a bridge. -/
def bridgeBit (b : Nat) : BitVec 12 := BitVec.ofNat 12 (2 ^ b)

/-- BRIDGE_RETRAIN_START (R25): the bridge holds its traffic. -/
def execBridgeRetrainStart (b : Nat) (s : State) : Host.Outcome State Fault Refusal :=
  .next (if !s.boot.held && s.fabric.up.getLsbD b then
      s.modFabric (fun f => { f with up := f.up &&& ~~~bridgeBit b, downAt := Table.put 0 f.downAt b s.drone,
                                     passedLong := f.passedLong &&& ~~~bridgeBit b })
    else s)

/-- What bridges held goes on: operations of sync objects, and packets on their way to a link. -/
def State.bridgePasses (s : State) : State :=
  (List.range 6).foldl (fun s n => s.drainLink n) s.releaseSync

/-- BRIDGE_RETRAIN_DONE (R25, R26). -/
def execBridgeRetrainDone (b : Nat) (s : State) : Host.Outcome State Fault Refusal :=
  .next (if !s.boot.held && decide (b < 12) && !(s.fabric.up.getLsbD b) then
      (s.modFabric (fun f => { f with up := f.up ||| bridgeBit b, retrainSeen := f.retrainSeen ||| bridgeBit b,
                                      downAt := Table.put 0 f.downAt b 0 })).bridgePasses
    else s)

/-- Whether a bridge has retrained for some time. -/
def State.downFor (s : State) (b ticks : Nat) : Bool :=
  decide (b < 12) && !(s.fabric.up.getLsbD b) && decide (Table.get 0 s.fabric.downAt b + ticks ≤ s.drone)

/-! ### A long retrain (12_coherence.md R352) -/

/-- Whether messages between a line's home and an agent cross a bridge, in either direction (01_package.md R22). -/
def State.agentBeyond (s : State) (b line a : Nat) : Bool :=
  let h := s.homeOf line / 4
  let d := agentDie a
  (bridgesOf (fabricPath h d (bit (line * 64) 12)) ++ bridgesOf (fabricPath d h (bit (line * 64) 12))).contains b

/-- Whether a message brings a requester the end of its transaction. -/
def Msg.completes : Msg → Bool
  | .cmp _ _ _ _ => true
  | .datHome _ _ _ _ _ => true
  | .datFwd _ _ _ _ _ _ => true
  | _ => false

/-- Whether a message is of a line and crosses a bridge. -/
def State.msgBeyond (s : State) (b line : Nat) (m : Msg) : Bool :=
  decide (m.line = line) && (s.msgBridges m).contains b

/-- Whether a line's open transaction has something outstanding across a bridge. -/
def State.txnBeyond (s : State) (b line : Nat) (t : Txn) : Bool :=
  t.waits.any (fun w => s.agentBeyond b line w.1) || t.awaitWb.any (s.agentBeyond b line) ||
  s.coh.msgs.any (s.msgBeyond b line)

/-- The line's messages across a bridge are to be discarded when they arrive; what brings the requester the end of the
transaction carries poison (R352; 12 R350). -/
def State.strand (s : State) (b line : Nat) : State :=
  let lost := fun (m : Msg) => s.msgBeyond b line m && !m.completes
  s.modCoh (fun c =>
    { c with msgs := (c.msgs.filter (fun m => !(lost m))).map (Msg.poisoned line), stale := c.stale ++ c.msgs.filter lost })

/-- Ends a line's transaction with poison; it stays open only for the CMP_ACK of a requester that is not beyond the
bridge. -/
def State.endPoisoned (s : State) (b line : Nat) : State :=
  let s := s.modTxn line (fun t => { t with waits := [], awaitWb := [], moved := [], data := none, poison := true })
  match s.txn line with
  | none => s
  | some t =>
    let (ended, s) := if t.answered then (false, s) else s.serve line t
    let away := match t.who with | .agent a => s.agentBeyond b line a | .cacheless _ => true
    if ended || t.acked || away then s.closeTxn line else s.modTxn line (fun t => { t with answered := true })

/-- The agents beyond a bridge that a line's entry names are sent SNP_INV, and the entry names them no more. -/
def State.clearBeyond (s : State) (line : Nat) (l : List Nat) : State :=
  let s := l.foldl (fun s a => s.post (.snp .inv a line (.agent a))) s
  s.setDir line (l.foldl DirEntry.remove (s.dirEntry line))

/-- What a long retrain does to a line whose open transaction it holds: the line is poisoned, its messages across the
bridge are stranded, the transaction ends with poison, and the agents beyond are cleared, its requester among them
(R352). -/
def State.breakTxn (s : State) (b line : Nat) : State :=
  let before := (s.dirEntry line).holders
  let s := (((s.poisonLine line 2 0xFF).homeRec line 0xFF).strand b line).endPoisoned b line
  s.clearBeyond line ((before ++ (s.dirEntry line).holders).dedup.filter (s.agentBeyond b line))

/-- BRIDGE_RETRAIN_LONG (R25, R26; 12 R352): 50 µs have passed; in the deciding cycle a completion still wins. -/
def execBridgeRetrainLong (b : Nat) (s : State) : Host.Outcome State Fault Refusal :=
  .next (if !s.boot.held && s.downFor b 50000 && !(s.inTime (Table.get 0 s.fabric.downAt b + 50000)) &&
        !(s.fabric.passedLong.getLsbD b) then
      let s := s.modFabric (fun f => { f with retrainLong := f.retrainLong ||| bridgeBit b,
                                              passedLong := f.passedLong ||| bridgeBit b })
      let hit := s.coh.txns.filter (fun e => e.2.any (fun t => s.txnBeyond b e.1 t))
      ((hit.map Prod.fst).foldl (fun s l => s.breakTxn b l) s).wakeHomes
    else s)

/-- BRIDGE_LOST (R25): 10 ms after it went down. -/
def execBridgeLost (b : Nat) (s : State) : Host.Outcome State Fault Refusal :=
  .next (if !s.boot.held && s.downFor b 10000000 && !(s.fabric.lost.getLsbD b) then
      (s.modFabric (fun f => { f with lost := f.lost ||| bridgeBit b })).fatal 0x0C 0x0031 (bridgeDie b) b
    else s)

/-! ### Clocks -/

/-- CLOCK_FAULT (R29, Table PKG-8). -/
def execClockFault (k : ClockFaultKind) (s : State) : Host.Outcome State Fault Refusal :=
  .next (if s.boot.held then s
    else
      match k with
      | .refLost => (s.modFabric (fun f => { f with refPresent := false })).fatal 0x14 0x0030 6 0xFF
      | .rootUnlocked d =>
        (s.modFabric (fun f => { f with rootLocked := f.rootLocked &&& ~~~BitVec.ofNat 8 (2 ^ d) })).fatal 0x14 0x0030 d 0xFF
      | .crossingFifo d => s.fatal 0x14 0x0030 d 0xFF)

end Sys2Proof.Machine
end

