-- ==== Sys2Proof/Machine/CacheErrors.lean ====
section
/-! DEFINITION. Errors in the caches of the host dies and in the extensions, as a scrub or a lookup finds them
(11_host_cores_and_cache.md R319, R325, Tables HST-4 and HST-5). -/

namespace Sys2Proof.Machine

/-- A record of a memory error at an address. -/
def memRec (cls source code die unit pa : Nat) : ErrRec :=
  { errRec cls source code die unit with addr := BitVec.ofNat 64 (2 ^ 63 + pa / 64 * 64) }

/-- Counts an error of a host die's system cache and its place (Table HST-6). -/
def State.scError (s : State) (h line : Nat) (found : EccFinding) : State :=
  let way := ((List.range 16).find? (fun w => decide (s.scWay h line w = line + 1))).getD 0
  s.modHostDie h (fun x =>
    { x with corrected := if found = .corrected then satAdd 0xFFFF x.corrected 1 else x.corrected,
             uncorr := if found = .uncorrectable then satAdd 0xFF x.uncorr 1 else x.uncorr,
             tagBoth := if found = .tags then satAdd 0xFF x.tagBoth 1 else x.tagBoth,
             errLoc := BitVec.ofNat 32 (Config.scSlice line % 32 * 2 ^ 27 + way * 2 ^ 23 + Config.scSet line % 3072) })

/-- An agent invalidates a clean copy that is in error; its home hears of it at once (R325; 12_coherence.md R343). -/
def State.loseCopy (s : State) (a line : Nat) : State :=
  let e := s.dirEntry line
  let s := s.dropCopy a line
  if e.bcast && decide (e.owner ≠ some a) then s else s.setDir line (e.remove a)

/-- An error in a line that a cache holds and no transaction touches (Tables HST-4, HST-5): agents 128 and 129 are
the system caches, the others L2s, whose tags have one copy. -/
def State.scrubCache (s : State) (a line : Nat) (x : Line) (found : EccFinding) : State :=
  let sys := decide (128 ≤ a)
  let die := if sys then a - 124 else 4 + a / 64
  let src := if sys then 0x11 else 0x10
  let unit := if sys then Config.scSlice line % 32 else a
  if found = .clean then s
  else
    let s := if sys then s.scError (a - 128) line found else s
    if found = .corrected then s.logErr (memRec 0 src 0x0001 die unit (line * 64))
    else if x.st ≠ .m ∧ x.st ≠ .o then (s.loseCopy a line).logErr (memRec 1 src 0x0011 die unit (line * 64))
    else if found = .tags && sys then (s.setLine a line Line.none).fatal src 0x0032 die unit
    else (s.setLine a line { x with poison := true }).logErr (memRec 2 src 0x0020 die unit (line * 64))

/-- A way of an extension disables itself: what it holds goes home, and it takes no fill (R325). -/
def State.disableWay (s : State) (d w : Nat) : State :=
  let s := { s with ext := s.ext.filter (fun e => !(decide (e.1 % 16 = w) && decide (e.1 / 16 / 2 ^ 24 = d))),
                    extSelfDis := Table.put 0 s.extSelfDis d (Table.get 0 s.extSelfDis d ||| 2 ^ w) }
  s.logErr (errRec 1 0x11 0x0012 d (0x80 + w))

/-- 2^24 quad cycles of a die in Drone ticks, rounded up: 11.2 ms at 1.5 GHz (R325). -/
def State.extWindow (s : State) (d : Nat) : Nat := ceilDiv (2 ^ 20 * s.groupRoots d) 6

/-- Counts an error of a way in its window of 2^24 quad cycles; the fourth disables the way (R325). -/
def State.wayError (s : State) (d w : Nat) : State :=
  let k := d * 16 + w
  let x := Table.get ExtWay.reset s.extWays k
  let x' : ExtWay := if 0 < x.errors ∧ s.drone < x.opened + s.extWindow d then { x with errors := x.errors + 1 }
                     else { errors := 1, opened := s.drone }
  let s := { s with extWays := Table.put ExtWay.reset s.extWays k x' }
  if 4 ≤ x'.errors then s.disableWay d w else s

/-- Counts an error of a die's extension (Table HST-9). -/
def State.extError (s : State) (d : Nat) (found : EccFinding) : State :=
  let (c, u, b) := Table.get (0, 0, 0) s.extErr d
  let v := match found with
    | .clean => (c, u, b)
    | .corrected => (satAdd 0xFFFF c 1, u, b)
    | .uncorrectable => (c, satAdd 0xFF u 1, b)
    | .tags => (c, u, satAdd 0xFF b 1)
    | .control => (c, u, b)
    | .report => (c, u, b)
  { s with extErr := Table.put (0, 0, 0) s.extErr d v }

/-- An error in a line of a die's extension (Table HST-5). -/
def State.scrubExt (s : State) (d line w : Nat) (found : EccFinding) : State :=
  let k := s.extKey d line w
  let u := 0x80 + w
  let dirty := decide (Table.get 0 s.ext k = extMark line true)
  if found = .clean then s
  else
    let s := s.extError d found
    let s :=
      if found = .corrected then s.logErr (memRec 0 0x11 0x0001 d u (line * 64))
      else if !dirty then { s with ext := Table.put 0 s.ext k 0 }.logErr (memRec 1 0x11 0x0011 d u (line * 64))
      else if found = .tags then { s with ext := Table.put 0 s.ext k 0 }.fatal 0x11 0x0032 d u
      else (s.setPoison line true).logErr (memRec 2 0x11 0x0020 d u (line * 64))
    s.wayError d w

/-- An error in a line that a core's L1D holds: its data stand with the L2's line here (Table HST-4). -/
def State.l1dError (s : State) (c line : Nat) (found : EccFinding) : State :=
  let x := s.line c line
  let die := 4 + c / 64
  if found = .corrected then s.logErr (memRec 0 0x10 0x0001 die c (line * 64))
  else if x.st ≠ .m ∧ x.st ≠ .o then
    (s.modCore c (fun k => { k with l1d := k.l1d.erase line })).logErr (memRec 1 0x10 0x0011 die c (line * 64))
  else (s.setLine c line { x with poison := true }).logErr (memRec 2 0x10 0x0020 die c (line * 64))

/-- A parity error in a line of a core's L1I: it is invalidated, and fetched again (Table HST-4; log entry 181). -/
def State.l1iError (s : State) (c line : Nat) : State :=
  (s.modCore c (fun k => { k with l1i := Table.put [] k.l1i line [] })).logErr
    (memRec 0 0x10 0x0002 (4 + c / 64) c (line * 64))

/-- An error in a cache that holds a line idle. -/
def State.heldError (s : State) (a line : Nat) (found : EccFinding) : State :=
  let x := s.line a line
  if x.st ≠ .i ∧ x.tr = .stable ∧ s.pinned line = false then s.scrubCache a line x found else s

/-- An error in the extension's copy of a line. -/
def State.extMeets (s : State) (line : Nat) (found : EccFinding) : State :=
  match s.hbmDie (line * 64) with
  | some d =>
    match s.extFind d line with
    | some w => if s.extOn d then s.scrubExt d line w found else s
    | none => s
  | none => s

/-- An uncorrectable error in a control table of a line's home, its directory among them, is FATAL (15_resilience.md
R399, Table RES-8). -/
def State.controlError (s : State) (line : Nat) : State :=
  s.fatal 0x12 0x0034 (s.homeOf line / 4) (s.homeOf line % 4)

/-- What a lookup of a core meets in a cache that holds the line (R319, R325), or at the line's home. -/
def State.meets (s : State) (c line : Nat) : Option (CacheLevel × EccFinding) → State
  | none => s
  | some (_, .clean) => s
  | some (_, .report) => s
  | some (_, .control) => s.controlError line
  | some (.l1i, _) => if Table.get [] (s.core c).l1i line = [] then s else s.l1iError c line
  | some (.l1d, f) => if (s.core c).l1d.contains line then s.l1dError c line f else s
  | some (.l2, f) => s.heldError c line f
  | some (.system, f) => s.heldError (128 + c / 64) line f
  | some (.extension, f) => s.extMeets line f

end Sys2Proof.Machine
end

