-- ==== Sys2Proof/Machine/Coherence.lean ====
section
/-! DEFINITION. The coherence commands: requests at their homes, snoops at their holders, and every message that
arrives (12_coherence.md R330 to R351).

A request's row is its sending and its arrival at the home. A message that a home or an agent answers with is in
flight until its own row takes it. -/

namespace Sys2Proof.Machine

/-! ### Requests -/

/-- Whether an agent may send a request for a line: its cache runs and holds the line in no transient state. -/
def State.agentFree (s : State) (a line : Nat) : Bool :=
  s.hostRuns && decide (a < 130) && decide ((s.line a line).tr = .stable)

/-- A request for a line that an agent does not hold: it keeps a place for the line, then asks (R334, R338). -/
def State.askFor (s : State) (a line : Nat) (tr : Transient) (req : Req) : State :=
  if s.asks (.agent a) line && s.agentFree a line && decide ((s.line a line).st = .i) then
    match s.cacheRoom a line false with
    | some s => (s.setLine a line { Line.none with tr := tr }).request line (.agent a) req
    | none => s
  else s

/-- RD_SHARED (R341): sent from I. -/
def execRdShared (a line : Nat) (s : State) : Host.Outcome State Fault Refusal := .next (s.askFor a line .isD .rdShared)

/-- RD_OWN (R341): sent from I. -/
def execRdOwn (a line : Nat) (s : State) : Host.Outcome State Fault Refusal := .next (s.askFor a line .imD .rdOwn)

/-- UPGRADE (R341): sent from S or O. -/
def execUpgrade (a line : Nat) (s : State) : Host.Outcome State Fault Refusal :=
  .next (
    let x := s.line a line
    if s.asks (.agent a) line && s.agentFree a line && (decide (x.st = .s) || decide (x.st = .o)) then
      (s.setLine a line { x with tr := if x.st = .s then .smA else .omA }).request line (.agent a) .upgrade
    else s)

/-- Whether a requester may send requests: a caching agent only while the host complex runs. -/
def State.mayAsk (s : State) : Requester → Bool
  | .agent a => s.hostRuns && decide (a < 130)
  | .cacheless _ => true

/-- A request of a requester that keeps nothing of it in flight, at its home. -/
def State.ask (s : State) (r : Requester) (line : Nat) (req : Req) : State :=
  if s.asks r line && s.mayAsk r then (s.request line r req).wakeHomes else s

/-- RD_ONCE (R341, R332). -/
def execRdOnce (r : Requester) (line : Nat) (s : State) : Host.Outcome State Fault Refusal :=
  .next (s.ask r line .rdOnce)

/-- Whether stores to a line's memory are taken at all (09_memory_tiers.md R272). -/
def State.lineWritable (s : State) (line : Nat) : Bool := !(isTiered (line * 64) && s.tierReadOnly)

/-- A write request passes the detector of the port by which it enters its home's compute die, where it will be sent:
a full line extends a run, and so does one with a target, which is never marked; a part ends runs
(11_host_cores_and_cache.md R324). -/
def State.passStream (s : State) (r : Requester) (line : Nat) (full : Bool) : State :=
  match s.portDetector (requesterDie r) (line * 64) with
  | some det =>
    if s.asks r line && s.mayAsk r then (if full then (s.streamWrite det line).2 else s.streamPart det line) else s
  | none => s

/-- WR_FULL (R341; 11 R324, R326 to R328). -/
def execWrFull (r : Requester) (line : Nat) (data : List Byte) (stash : Stash) (s : State) :
    Host.Outcome State Fault Refusal :=
  .next (if s.lineWritable line then (s.passStream r line true).ask r line (.wrFull data stash) else s)

/-- WR_PART (R341, R324). -/
def execWrPart (r : Requester) (line : Nat) (mask : Dword) (data : List Byte) (s : State) :
    Host.Outcome State Fault Refusal :=
  .next (if s.lineWritable line then (s.passStream r line false).ask r line (.wrPart mask data) else s)

/-- ATOMIC (R346). -/
def execAtomic (r : Requester) (line : Nat) (op : LineAtomic) (s : State) : Host.Outcome State Fault Refusal :=
  .next (if s.lineWritable line then s.ask r line (.atomic op) else s)

/-- CMO (R341). -/
def execCmo (r : Requester) (line : Nat) (k : CmoKind) (s : State) : Host.Outcome State Fault Refusal :=
  .next (s.ask r line (.cmo k))

/-- A message arrives: one of a live transaction is taken, and one that a long retrain has left behind is discarded
(R352). -/
def State.arrives (s : State) (f : Msg → Bool) (g : Msg → State → State) : State :=
  match s.takeMsg f with
  | some (m, s) => g m s
  | none => s.orStale f

/-! ### Snoops -/

/-- A snoop of a kind in flight to an agent for a line. -/
def isSnp (k : Snp) (a line : Nat) : Msg → Bool
  | .snp k' b l _ => decide (k' = k) && decide (b = a) && decide (l = line)
  | _ => false

/-- A stash install in flight to an agent for a line. -/
def isInstall (a line : Nat) : Msg → Bool
  | .datInstall t l _ => decide (t = a) && decide (l = line)
  | _ => false

/-- Takes a stash install that is still in flight to an agent before a snoop of its line is answered. -/
def State.settleInstall (s : State) (t line : Nat) : State :=
  match s.takeMsg (isInstall t line) with
  | some (.datInstall _ _ d, s) => ((s.cacheRoom t line true).getD s).setLine t line ⟨.m, .stable, d, false⟩
  | _ => s

/-- A reservation on a line is lost where another agent gains permission to write (11 R313). -/
def State.dropReservation (s : State) (a line : Nat) : State :=
  if a < 128 ∧ (s.core a).reservation = some line then s.modCore a (fun c => { c with reservation := none }) else s

/-- A snoop that takes a line away from its holder is answered. -/
def State.takeAway (s : State) (k : Snp) (a line : Nat) (who : Requester) : State :=
  (s.answerSnoop k a line who).dropReservation a line

/-- A snoop arrives at an agent. `f` answers it. -/
def State.snooped (s : State) (k : Snp) (a line : Nat) (f : State → Requester → State) : State :=
  s.arrives (isSnp k a line) (fun m s =>
    match m with
    | .snp _ _ _ who => f (s.settleInstall a line) who
    | _ => s)

/-- A snoop that takes a line away: a core with a reservation on it delays its answer (R347). -/
def State.snoopedAway (s : State) (k : Snp) (a line : Nat) : State :=
  s.snooped k a line (fun s who =>
    if a < 128 ∧ (s.core a).reservation = some line ∧ (s.core a).snoopHeld = none then
      s.modCore a (fun c => { c with snoopHeld := some (k, who, line) })
    else s.takeAway k a line who)

/-- SNP_SHR (R341, R334). -/
def execSnpShr (a line : Nat) (s : State) : Host.Outcome State Fault Refusal :=
  .next (s.snooped .shr a line (fun s who => s.answerSnoop .shr a line who))

/-- SNP_OWN (R341, R334, R347). -/
def execSnpOwn (a line : Nat) (s : State) : Host.Outcome State Fault Refusal := .next (s.snoopedAway .own a line)

/-- SNP_INV (R341, R334, R335, R347). -/
def execSnpInv (a line : Nat) (s : State) : Host.Outcome State Fault Refusal := .next (s.snoopedAway .inv a line)

/-- SNP_ONCE (R341, R334). -/
def execSnpOnce (a line : Nat) (s : State) : Host.Outcome State Fault Refusal :=
  .next (s.snooped .once a line (fun s who => s.answerSnoop .once a line who))

/-- SNP_CLN (R341, R334). -/
def execSnpCln (a line : Nat) (s : State) : Host.Outcome State Fault Refusal :=
  .next (s.snooped .cln a line (fun s who => s.answerSnoop .cln a line who))

/-- LR_SNOOP_DELAY_END (R347): the delayed answer is given and the reservation is lost. -/
def execLrSnoopDelayEnd (c : Nat) (s : State) : Host.Outcome State Fault Refusal :=
  .next (
    match (s.core c).snoopHeld with
    | some (k, who, line) =>
      (s.modCore c (fun x => { x with snoopHeld := none, reservation := none })).answerSnoop k c line who
    | none => s)

/-! ### Answers at the home -/

/-- A response of an agent for a line that names its state. -/
def isRsp (a line : Nat) : Msg → Bool
  | .rspState _ b l _ => decide (b = a) && decide (l = line)
  | _ => false

/-- RSP_STATE (R341, R348): an answer past its deadline, or to nothing, is discarded and counted. -/
def execRspState (a line : Nat) (s : State) : Host.Outcome State Fault Refusal :=
  .next (s.arrives (isRsp a line) (fun m s =>
    match m, s.awaited a line with
    | .rspState st _ _ fwd, some (k, true) => (s.takeRsp st a line fwd k).wakeHomes
    | _, _ => s.lateMsg line))

/-- A response of an agent for a line whose writeback is in flight. -/
def isRspInwb (a line : Nat) : Msg → Bool
  | .rspInwb b l => decide (b = a) && decide (l = line)
  | _ => false

/-- A holder answers that its writeback is in flight: the home waits for that too; where a move has come first, the new
holder is snooped (R351). -/
def State.takeInwb (s : State) (a line : Nat) : State :=
  let s := s.answered a line
  if s.coh.msgs.any (isWb a line) then s.modTxn line (fun t => { t with awaitWb := t.awaitWb ++ [a] })
  else if (s.txn line).any (fun t => t.moved.contains a) then
    ((s.modTxn line (fun t => { t with moved := t.moved.erase a })).snoopMoved (128 + a / 64) line).wakeHomes
  else (s.finish line).wakeHomes

/-- RSP_INWB (R351, R348). -/
def execRspInwb (a line : Nat) (s : State) : Host.Outcome State Fault Refusal :=
  .next (s.arrives (isRspInwb a line) (fun _ s =>
    match s.awaited a line with
    | some (_, true) => s.takeInwb a line
    | _ => s.lateMsg line))

/-- Data of an agent's line that a snoop returns. -/
def isDatSnp (a line : Nat) : Msg → Bool
  | .datSnp b l _ _ => decide (b = a) && decide (l = line)
  | _ => false

/-- DAT_SNP (R338, R341, R348): data that is, or belongs to, an answer past its deadline is discarded and counted. -/
def execDatSnp (a line : Nat) (s : State) : Host.Outcome State Fault Refusal :=
  .next (s.arrives (isDatSnp a line) (fun m s =>
    match m with
    | .datSnp _ _ d p =>
      if s.isDead a || (s.txn line).isNone || (s.awaited a line).any (fun w => !w.2) then s.lateMsg line
      else (s.takeDat a line d p).wakeHomes
    | _ => s))

/-- An acknowledgement of an agent for a line. -/
def isCmpAck (a line : Nat) : Msg → Bool
  | .cmpAck b l => decide (b = a) && decide (l = line)
  | _ => false

/-- A requester's acknowledgement at the home: it closes the transaction, at once or when every answer is in (R336,
R338, R339). -/
def State.takeAck (s : State) (a line : Nat) : State :=
  match s.txn line with
  | some t =>
    if t.who ≠ .agent a then s
    else if t.answered then (s.closeTxn line).wakeHomes
    else s.modTxn line (fun t => { t with acked := true })
  | none => s

/-- CMP_ACK (R339). -/
def execCmpAck (a line : Nat) (s : State) : Host.Outcome State Fault Refusal :=
  .next (s.arrives (isCmpAck a line) (fun _ s => s.takeAck a line))

/-- SNOOP_TIMEOUT (R348, R349): no answer has come by the deciding cycle, in which an answer still wins. -/
def execSnoopTimeout (a line : Nat) (s : State) : Host.Outcome State Fault Refusal :=
  .next (
    match s.txn line with
    | some t =>
      if s.running && t.waits.any (fun w => decide (w.1 = a) && !(s.inTime w.2.2)) then
        (s.snoopDies a line).wakeHomes
      else s
    | none => s)

/-! ### What requesters receive -/

/-- The key under which a requester's results stand. -/
def resultKey : Requester → Nat
  | .agent a => a
  | .cacheless n => 256 + n

/-- Notes what a requester got. -/
def State.putResult (s : State) (r : Requester) (bs : List Byte) : State :=
  s.modCoh (fun c => { c with results := Table.put [] c.results (resultKey r) bs })

/-- A completion to a requester for a line. -/
def isCmp (r : Requester) (line : Nat) : Msg → Bool
  | .cmp w l _ _ => decide (w = r) && decide (l = line)
  | _ => false

/-- CMP at an agent that waits for ownership: it has the line in M and acknowledges; one whose home has ended the
transaction keeps nothing (R339, R349, R352). -/
def State.recvOwn (s : State) (a line : Nat) (p : Bool) : State :=
  let x := s.line a line
  (s.setLine a line (if s.awaits a line then { x with st := .m, tr := .stable, poison := x.poison || p } else Line.none)).post
    (.cmpAck a line)

/-- CMP (R339): a requester of ownership without data acknowledges; any other has its result. -/
def execCmp (r : Requester) (line : Nat) (s : State) : Host.Outcome State Fault Refusal :=
  .next (s.arrives (isCmp r line) (fun m s =>
    match m, r with
    | .cmp _ _ p v, .agent a =>
      if (s.line a line).tr = .smA ∨ (s.line a line).tr = .omA then s.recvOwn a line p
      else s.putResult r (leBytes 8 v.toNat ++ [if p then 1 else 0])
    | .cmp _ _ p v, .cacheless _ => s.putResult r (leBytes 8 v.toNat ++ [if p then 1 else 0])
    | _, _ => s))

/-- The home's data to a requester for a line. -/
def isDatHome (r : Requester) (line : Nat) : Msg → Bool
  | .datHome w l _ _ _ => decide (w = r) && decide (l = line)
  | _ => false

/-- DAT_HOME (R341, R334): an agent installs the line and acknowledges; a cache-less requester has its copy. -/
def execDatHome (r : Requester) (line : Nat) (s : State) : Host.Outcome State Fault Refusal :=
  .next (s.arrives (isDatHome r line) (fun m s =>
    match m, r with
    | .datHome _ _ g d p, .agent a => s.recvLine a line g d p
    | .datHome _ _ _ d p, .cacheless _ => s.putResult r (d ++ [if p then 1 else 0])
    | _, _ => s))

/-- A holder's data to an agent for a line. -/
def isDatFwd (a line : Nat) : Msg → Bool
  | .datFwd _ b l _ _ _ => decide (b = a) && decide (l = line)
  | _ => false

/-- DAT_FWD (R338). -/
def execDatFwd (a line : Nat) (s : State) : Host.Outcome State Fault Refusal :=
  .next (s.arrives (isDatFwd a line) (fun m s =>
    match m with
    | .datFwd _ _ _ g d p => s.recvLine a line g d p
    | _ => s))

/-- A RETRY to an agent for a line. -/
def isRetry (a line : Nat) : Msg → Bool
  | .retry b l => decide (b = a) && decide (l = line)
  | _ => false

/-- RETRY (R345): the requester, which stands in the home's retry queue, waits for its GRANT. -/
def execRetry (a line : Nat) (s : State) : Host.Outcome State Fault Refusal :=
  .next (s.arrives (isRetry a line) (fun _ s => s))

/-- The request that an agent's transient state stands for (R334). -/
def reqOf (x : Line) : Req :=
  if x.tr = .isD then .rdShared else if x.tr = .imD then .rdOwn else .upgrade

/-- A GRANT to an agent for a line. -/
def isGrant (a line : Nat) : Msg → Bool
  | .grant b l => decide (b = a) && decide (l = line)
  | _ => false

/-- A request is sent again: the home accepts it at once into the reserved way; while the line itself has a transaction
open it is the next to be served (R339, R345). -/
def State.sendAgain (s : State) (a line : Nat) : State :=
  let req := reqOf (s.line a line)
  match s.accept line (.agent a) req with
  | some s => s
  | none => s.modCoh (fun c => { c with waiting := (line, .agent a, req) :: c.waiting })

/-- GRANT (R345). -/
def execGrant (a line : Nat) (s : State) : Host.Outcome State Fault Refusal :=
  .next (s.arrives (isGrant a line) (fun _ s => s.sendAgain a line))

/-- A WB_ACK to an agent for a line. -/
def isWbAck (a line : Nat) : Msg → Bool
  | .wbAck b l => decide (b = a) && decide (l = line)
  | _ => false

/-- WB_ACK (R337): the writer leaves its writeback state, and its credit is free. -/
def execWbAck (a line : Nat) (s : State) : Host.Outcome State Fault Refusal :=
  .next (s.arrives (isWbAck a line) (fun _ s => if (s.line a line).inWb then s.setLine a line Line.none else s))

/-- The place that a stash install takes: its target takes the line, dirty, and a core counts it (11 R327). -/
def State.install (s : State) (t line : Nat) (d : List Byte) : State :=
  let s := s.setLine t line ⟨.m, .stable, d, false⟩
  if t < 128 then s.countEvent t 0x0009 1 else s

/-- DAT_INSTALL (11 R327): an install whose target has no place for it now stays in flight (log entry 173); a dead
target takes none (R349). -/
def execDatInstall (t line : Nat) (s : State) : Host.Outcome State Fault Refusal :=
  .next (
    match s.takeMsg (isInstall t line) with
    | some (.datInstall _ _ d, s') =>
      if s.isDead t then s'
      else
        match s'.cacheRoom t line true with
        | some s' => s'.install t line d
        | none => s
    | _ => s.orStale (isInstall t line))

/-! ### Writebacks -/

/-- A dirty writeback of an agent's line. -/
def isWbDirty (a line : Nat) : Msg → Bool
  | .wbDirty b l _ _ => decide (b = a) && decide (l = line)
  | _ => false

/-- WB_DIRTY (R337, R351): a writeback in flight reaches its home; where none is, an agent in M or O evicts its
line, and the writeback is in flight. -/
def execWbDirty (a line : Nat) (s : State) : Host.Outcome State Fault Refusal :=
  .next (
    if (s.line a line).st = .m ∨ (s.line a line).st = .o then s.evictLine a line
    else s.arrives (isWbDirty a line) (fun m s =>
      match m with
      | .wbDirty _ _ d p => (s.absorbDirty a line d p).wakeHomes
      | _ => s))

/-- A clean notice of an agent's line. -/
def isWbClean (a line : Nat) : Msg → Bool
  | .wbClean b l => decide (b = a) && decide (l = line)
  | _ => false

/-- WB_CLEAN (R337, R351): a notice in flight reaches its home; where none is, an agent in E or S evicts. -/
def execWbClean (a line : Nat) (s : State) : Host.Outcome State Fault Refusal :=
  .next (
    if (s.line a line).st = .e ∨ (s.line a line).st = .s then s.evictLine a line
    else s.arrives (isWbClean a line) (fun _ s => (s.absorbClean a line).wakeHomes))

/-- A handover of an agent's line. -/
def isWbMove (a line : Nat) : Msg → Bool
  | .wbMove b l _ _ _ => decide (b = a) && decide (l = line)
  | _ => false

/-- WB_MOVE (R335, R351): a handover in flight reaches the home; where none is, a core's L2 sends it. -/
def execWbMove (a line : Nat) (s : State) : Host.Outcome State Fault Refusal :=
  .next (
    if a < 128 ∧ (s.line a line).st ≠ .i then s.sendMove a line
    else s.arrives (isWbMove a line) (fun m s =>
      match m with
      | .wbMove _ _ st d p => (s.absorbMove a line st d p).wakeHomes
      | _ => s))

/-- STREAM_RUN_TIMEOUT (11 R324): a run of a detector ends. -/
def execStreamRunTimeout (det run : Nat) (s : State) : Host.Outcome State Fault Refusal :=
  .next { s with streams := Table.put [] s.streams det ((Table.get [] s.streams det).eraseIdx run) }

end Sys2Proof.Machine
end

