-- ==== Sys2Proof/Machine/Harts.lean ====
section
/-! DEFINITION. The registers of a hart that the spec names: its PMP entries, interrupt files, timers, counters,
triggers and control registers, with the numbers and layouts of the RISC-V privileged specification that
11_host_cores_and_cache.md R309 names (R309 to R311, R315, R317, R318; log entry 162). -/

namespace Sys2Proof.Machine

/-! ### Physical memory protection (R311) -/

/-- What an access asks of a PMP entry. -/
inductive PmpUse where
  | read
  | write
  | execute
  /-- An atomic: it reads and writes. -/
  | both
deriving DecidableEq, Repr

/-- Whether a PMP configuration byte gives a use: bits R, W and X. -/
def pmpGives (cfg : Byte) : PmpUse → Bool
  | .read => cfg.getLsbD 0
  | .write => cfg.getLsbD 1
  | .execute => cfg.getLsbD 2
  | .both => cfg.getLsbD 0 && cfg.getLsbD 1

/-- The ones at the low end of a number, up to a count. -/
def trailingOnes : Nat → Nat → Nat
  | 0, _ => 0
  | k + 1, x => if x % 2 = 1 then 1 + trailingOnes k (x / 2) else 0

/-- The range of a PMP entry in bytes: none when it is off; top of range, or a naturally aligned power of two; the
granularity is 4 KiB, so that the low ten bits of a top, and the low nine of a power of two, do not count. -/
def Core.pmpRange (x : Core) (i : Nat) : Option (Nat × Nat) :=
  let at_ := fun (k : Nat) => (Table.get 0 x.pmpAddr k).toNat % 2 ^ 54
  match (Table.get 0 x.pmpCfg i).toNat / 8 % 4 with
  | 1 => some ((if i = 0 then 0 else at_ (i - 1) / 2 ^ 10 * 2 ^ 12), at_ i / 2 ^ 10 * 2 ^ 12)
  | 3 =>
    let a := at_ i / 2 ^ 9 * 2 ^ 9 + (2 ^ 9 - 1)
    let k := trailingOnes 54 a
    let lo := (a - (2 ^ k - 1)) * 4
    some (lo, lo + 2 ^ (k + 3))
  | _ => none

/-- The lowest entry of 16 that matches any byte of a range. -/
def Core.pmpMatch (x : Core) (pa n : Nat) : Option (Nat × Nat × Nat) :=
  if x.pmpCfg.isEmpty then none
  else (List.range 16).findSome? (fun i =>
    (x.pmpRange i).bind (fun r => if r.1 < pa + n ∧ pa < r.2 ∧ r.1 < r.2 then some (i, r) else none))

/-- Whether the PMP lets a hart use a range: the entry must hold all of it and give the use, M-mode being bound by
locked entries alone; where no entry matches, M-mode may and other modes may not. -/
def Core.pmpOk (x : Core) (pa n : Nat) (use : PmpUse) : Bool :=
  match x.pmpMatch pa n with
  | none => decide (x.priv = .m)
  | some (i, lo, hi) =>
    let cfg := Table.get 0 x.pmpCfg i
    if decide (x.priv = .m) && !(cfg.getLsbD 7) then decide (lo ≤ pa) && decide (pa + n ≤ hi)
    else decide (lo ≤ pa) && decide (pa + n ≤ hi) && pmpGives cfg use

/-- Whether entry i is locked: by its own L bit, its address also by a locked top-of-range entry above it. -/
def Core.pmpLocked (x : Core) (i : Nat) : Bool := (Table.get 0 x.pmpCfg i).getLsbD 7

/-- A configuration byte that may stand: W without R is reserved, and NA4 cannot be chosen at 4 KiB. -/
def pmpLegal (old new : Byte) : Byte :=
  let v := new &&& 0x9F
  if (v.getLsbD 1 && !(v.getLsbD 0)) || decide (v.toNat / 8 % 4 = 2) then old else v

/-- Writes of the eight entries of pmpcfg0 or pmpcfg2. -/
def Core.writePmpCfg (x : Core) (base : Nat) (v : Dword) : Core :=
  (List.range 8).foldl (fun x k =>
    let old := Table.get 0 x.pmpCfg (base + k)
    if x.pmpLocked (base + k) then x
    else { x with pmpCfg := Table.put 0 x.pmpCfg (base + k) (pmpLegal old (BitVec.ofNat 8 (v.toNat / 2 ^ (8 * k)))) }) x

/-- A write of pmpaddr. -/
def Core.writePmpAddr (x : Core) (i : Nat) (v : Dword) : Core :=
  let above := Table.get 0 x.pmpCfg (i + 1)
  if x.pmpLocked i || (decide (i < 15) && above.getLsbD 7 && decide (above.toNat / 8 % 4 = 1)) then x
  else { x with pmpAddr := Table.put 0 x.pmpAddr i (v &&& BitVec.ofNat 64 (2 ^ 54 - 1)) }

/-! ### Interrupt files (R315) -/

/-- The identities of a list that stand in word k of an eip or eie array. -/
def idWord (l : List Nat) (k : Nat) : Nat := ((l.filter (fun i => decide (i / 64 = k))).map (fun i => 2 ^ (i % 64))).sum

/-- A list of identities with those of word k written; identity 0 does not exist. -/
def putIdWord (l : List Nat) (k v : Nat) : List Nat :=
  l.filter (fun i => decide (i / 64 ≠ k)) ++ ((List.range 64).map (64 * k + ·)).filter (fun i => decide (0 < i) && bit v (i % 64))

/-- The identity that a file offers: the lowest that is pending and enabled, below the threshold where that is not
zero. -/
def topIdentity (pending : List Nat) (f : IntFile) : Nat :=
  match pending.filter (fun i => f.enabled.contains i && (decide (f.threshold = 0) || decide (i < f.threshold))) with
  | [] => 0
  | i :: t => t.foldl min i

/-- A register of an interrupt file by its select number: eidelivery 0x70, eithreshold 0x72, eip 0x80 and eie 0xC0 by
even numbers. -/
def fileReg (pending : List Nat) (f : IntFile) (sel : Nat) : Nat :=
  if sel = 0x70 then flag f.deliver 0
  else if sel = 0x72 then f.threshold
  else if 0x80 ≤ sel ∧ sel < 0xC0 ∧ sel % 2 = 0 then idWord pending ((sel - 0x80) / 2)
  else if 0xC0 ≤ sel ∧ sel < 0x100 ∧ sel % 2 = 0 then idWord f.enabled ((sel - 0xC0) / 2)
  else 0

/-- A write of a register of an interrupt file. -/
def putFileReg (pending : List Nat) (f : IntFile) (sel v : Nat) : List Nat × IntFile :=
  if sel = 0x70 then (pending, { f with deliver := bit v 0 })
  else if sel = 0x72 then (pending, { f with threshold := v % 2048 })
  else if 0x80 ≤ sel ∧ sel < 0xC0 ∧ sel % 2 = 0 then (putIdWord pending ((sel - 0x80) / 2) v, f)
  else if 0xC0 ≤ sel ∧ sel < 0x100 ∧ sel % 2 = 0 then (pending, { f with enabled := putIdWord f.enabled ((sel - 0xC0) / 2) v })
  else (pending, f)

/-- mtopei or stopei: the offered identity in both halves. -/
def topei (i : Nat) : Nat := i * 2 ^ 16 + i

/-- The interrupts pending in mip: STIP, MTIP, SEIP, MEIP and LCOFIP. -/
def Core.mip (x : Core) : Nat :=
  flag x.stip 5 + flag x.mtip 7 +
  flag (x.fileS.deliver && decide (topIdentity x.irqS x.fileS ≠ 0)) 9 +
  flag (x.fileM.deliver && decide (topIdentity x.irqM x.fileM ≠ 0)) 11 + flag x.lcof 13

/-! ### Control and status registers -/

/-- misa: MXL 2 with A, B, C, D, F, I, M, S, U and V; H reads 0 (R309). -/
def misaValue : Nat := 2 ^ 63 + 2 ^ 0 + 2 ^ 1 + 2 ^ 2 + 2 ^ 3 + 2 ^ 5 + 2 ^ 8 + 2 ^ 12 + 2 ^ 18 + 2 ^ 20 + 2 ^ 21

/-- The number of a privilege mode. -/
def Priv.code : Priv → Nat
  | .u => 0
  | .s => 1
  | .m => 3

/-- Whether a satp mode stands: Bare, Sv39 and Sv48 (R309, Table HST-1). -/
def satpMode (v : Dword) : Bool := v.toNat / 2 ^ 60 = 0 || v.toNat / 2 ^ 60 = 8 || v.toNat / 2 ^ 60 = 9

/-- The CBIE in force for a hart's mode (R314): menvcfg binds S-mode, menvcfg and senvcfg bind U-mode, of which an
illegal one comes first and then a flush; M-mode discards (log entry 95). -/
def Core.cbie (x : Core) : Nat :=
  let m := bits x.menvcfg.toNat 4 2
  let u := bits x.senvcfg.toNat 4 2
  match x.priv with
  | .m => 3
  | .s => m
  | .u => if m % 2 = 0 ∨ u % 2 = 0 then 0 else min m u

/-- A trigger of a hart. -/
def Core.trigger (x : Core) : Dword × Dword × Dword := Table.get (0, 0, 0) x.triggers x.tselect

/-- A CSR whose value State holds, or none. -/
def State.csr (s : State) (c n : Nat) : Option Nat :=
  let x := s.core c
  if n = 0x301 then some misaValue
  else if n = 0xF14 then some c
  else if n = 0xC22 then some 32
  else if n = 0xC01 then some s.drone
  else if n = 0x180 then some x.satp.toNat
  else if n = 0x30A then some x.menvcfg.toNat
  else if n = 0x10A then some x.senvcfg.toNat
  else if 0x30C ≤ n ∧ n < 0x310 then some (Table.get 0 x.stateen (n - 0x30C)).toNat
  else if 0x10C ≤ n ∧ n < 0x110 then some (Table.get 0 x.stateen (4 + (n - 0x10C))).toNat
  else if n = 0x3A0 ∨ n = 0x3A2 then
    some (((List.range 8).map (fun k => (Table.get 0 x.pmpCfg (8 * ((n - 0x3A0) / 2) + k)).toNat * 2 ^ (8 * k))).sum)
  else if 0x3B0 ≤ n ∧ n < 0x3C0 then some (Table.get 0 x.pmpAddr (n - 0x3B0)).toNat
  else if n = 0x344 then some x.mip
  else if n = 0x14D then some x.stimecmp.toNat
  else if n = 0x350 then some x.iselM
  else if n = 0x351 then some (fileReg x.irqM x.fileM x.iselM)
  else if n = 0x35C then some (topei (topIdentity x.irqM x.fileM))
  else if n = 0x150 then some x.iselS
  else if n = 0x151 then some (fileReg x.irqS x.fileS x.iselS)
  else if n = 0x15C then some (topei (topIdentity x.irqS x.fileS))
  else if 0x323 ≤ n ∧ n < 0x340 then some (Table.get 0 x.hpmEvent (n - 0x320)).toNat
  else if n = 0x7A0 then some x.tselect
  else if n = 0x7A1 then some x.trigger.1.toNat
  else if n = 0x7A2 then some x.trigger.2.1.toNat
  else if n = 0x7A3 then some x.trigger.2.2.toNat
  else if n = 0x7B0 then some x.priv.code
  else if n = 0x7B1 then some x.pc.toNat
  else none

/-- The counter behind a CSR number: 0 cycle, 2 instret, 3 to 31 hpmcounters. -/
def counterOf (n : Nat) : Option Nat :=
  if (0xB00 ≤ n ∧ n < 0xB20 ∧ n ≠ 0xB01) then some (n - 0xB00)
  else if (0xC00 ≤ n ∧ n < 0xC20 ∧ n ≠ 0xC01) then some (n - 0xC00)
  else none

/-- The value of a counter. -/
def Core.counter (x : Core) (k : Nat) : Dword :=
  if k = 0 then x.cycle else if k = 2 then x.instret else Table.get 0 x.hpm k

/-- Writes a counter. -/
def Core.putCounter (x : Core) (k : Nat) (v : Dword) : Core :=
  if k = 0 then { x with cycle := v } else if k = 2 then { x with instret := v } else { x with hpm := Table.put 0 x.hpm k v }

/-- Whether a counter advances by more than the commands of this machine show: cycles and instructions always, and
the events of misses in the TLBs, branches, waiting cycles and vector instructions (Table HST-3; log entry 182). -/
def Core.runsFree (x : Core) (k : Nat) : Bool :=
  decide (k < 3) || [5, 6, 7, 8, 10].contains ((Table.get 0 x.hpmEvent k).toNat % 2 ^ 16)

/-- A read of a counter: one that runs free has advanced by a free amount since it was last read or written. -/
def State.readCounter (s : State) (c k : Nat) : Dword × State :=
  if (s.core c).runsFree k then
    let (v, s) := s.drawNat (2 ^ 48)
    let s := s.modCore c (fun x => x.putCounter k (x.counter k + BitVec.ofNat 64 v))
    ((s.core c).counter k, s)
  else ((s.core c).counter k, s)

/-- A write of a CSR; one that is read-only, or holds a value that cannot stand, is left as it is. -/
def Core.writeCsr (x : Core) (n : Nat) (v : Dword) : Core :=
  if n = 0x180 then (if satpMode v then { x with satp := v } else x)
  else if n = 0x30A then { x with menvcfg := v }
  else if n = 0x10A then { x with senvcfg := v }
  else if 0x30C ≤ n ∧ n < 0x310 then { x with stateen := Table.put 0 x.stateen (n - 0x30C) v }
  else if 0x10C ≤ n ∧ n < 0x110 then { x with stateen := Table.put 0 x.stateen (4 + (n - 0x10C)) v }
  else if n = 0x3A0 ∨ n = 0x3A2 then x.writePmpCfg (8 * ((n - 0x3A0) / 2)) v
  else if 0x3B0 ≤ n ∧ n < 0x3C0 then x.writePmpAddr (n - 0x3B0) v
  else if n = 0x344 then { x with lcof := v.getLsbD 13 }
  else if n = 0x14D then { x with stimecmp := v }
  else if n = 0x350 then { x with iselM := v.toNat % 4096 }
  else if n = 0x351 then
    let p := putFileReg x.irqM x.fileM x.iselM v.toNat
    { x with irqM := p.1, fileM := p.2 }
  else if n = 0x35C then { x with irqM := x.irqM.erase (topIdentity x.irqM x.fileM) }
  else if n = 0x150 then { x with iselS := v.toNat % 4096 }
  else if n = 0x151 then
    let p := putFileReg x.irqS x.fileS x.iselS v.toNat
    { x with irqS := p.1, fileS := p.2 }
  else if n = 0x15C then { x with irqS := x.irqS.erase (topIdentity x.irqS x.fileS) }
  else if 0x323 ≤ n ∧ n < 0x340 then { x with hpmEvent := Table.put 0 x.hpmEvent (n - 0x320) v }
  else if n = 0x7A0 then (if v.toNat < 4 then { x with tselect := v.toNat } else x)
  else if n = 0x7A1 then { x with triggers := Table.put (0, 0, 0) x.triggers x.tselect (v, x.trigger.2) }
  else if n = 0x7A2 then { x with triggers := Table.put (0, 0, 0) x.triggers x.tselect (x.trigger.1, v, x.trigger.2.2) }
  else if n = 0x7A3 then { x with triggers := Table.put (0, 0, 0) x.triggers x.tselect (x.trigger.1, x.trigger.2.1, v) }
  else if n = 0x7B0 then
    { x with priv := if v.toNat % 4 = 0 then .u else if v.toNat % 4 = 1 then .s else if v.toNat % 4 = 3 then .m else x.priv }
  else if n = 0x7B1 then { x with pc := v }
  else if 0xB00 ≤ n ∧ n < 0xB20 ∧ n ≠ 0xB01 then x.putCounter (n - 0xB00) v
  else x

/-! ### Accesses of a debug module -/

/-- What an integer register holds when hart c starts: a0 its hart ID (18_boot_and_reset.md R469). -/
def startReg (c r : Nat) : Dword := if r = 10 then BitVec.ofNat 64 c else 0

/-- The value of an integer register of hart c; x0 is zero. -/
def Core.xreg (x : Core) (c r : Nat) : Dword := if r = 0 then 0 else Table.get (startReg c r) x.xregs r

/-- Writes an integer register of hart c; a write of x0 is lost. -/
def Core.putXreg (x : Core) (c r : Nat) (v : Dword) : Core :=
  if r = 0 then x else { x with xregs := Table.put (startReg c r) x.xregs r v }

/-- The bytes of a vector register (R310). -/
def Core.vreg (x : Core) (r : Nat) : List Byte := Table.get (List.replicate 32 0) x.vregs r

/-- Writes a vector register. -/
def Core.putVreg (x : Core) (r : Nat) (bs : List Byte) : Core :=
  { x with vregs := Table.put (List.replicate 32 0) x.vregs r bs }

/-- Bytes into a group of vector registers from vd on; the rest of the last one stays. -/
def Core.putGroup (x : Core) : Nat → Nat → List Byte → Core
  | 0, _, _ => x
  | k + 1, r, bs =>
    if bs.isEmpty then x
    else (x.putVreg r (bs.take 32 ++ (x.vreg r).drop (bs.take 32).length)).putGroup k (r + 1) (bs.drop 32)

/-- The first n bytes of a group of vector registers. -/
def Core.group (x : Core) (r n : Nat) : List Byte := ((List.range 8).flatMap (fun k => x.vreg (r + k))).take n

/-- An access of a hart's registers: what it answers. One that State has no register for answers a free value (log
entry 29); a write of mtime is ignored (R317). -/
def State.hartAccess (s : State) (c : Nat) : HartAccess → List Word × State
  | .csrRead n =>
    match s.csr c n, counterOf n with
    | some v, _ => ([loWord v, hiWord v], s)
    | none, some k =>
      let (v, s) := s.readCounter c k
      ([loWord v.toNat, hiWord v.toNat], s)
    | none, none =>
      let (v, s) := s.drawDword
      ([loWord v.toNat, hiWord v.toNat], s)
  | .csrWrite n v => ([], s.modCore c (fun x => x.writeCsr n v))
  | .gprRead r => ([loWord ((s.core c).xreg c r).toNat, hiWord ((s.core c).xreg c r).toNat], s)
  | .gprWrite r v => ([], s.modCore c (fun x => x.putXreg c r v))
  | .vecRead r => (((List.range 8).map (fun k => BitVec.ofNat 32 (ofLe (((s.core c).vreg r).drop (4 * k) |>.take 4)))), s)
  | .vecWrite r bs => ([], s.modCore c (fun x => x.putVreg r bs))
  | .timecmpRead => ([loWord (s.core c).mtimecmp.toNat, hiWord (s.core c).mtimecmp.toNat], s)
  | .timecmpWrite v => ([], s.modCore c (fun x => { x with mtimecmp := v }))
  | .timeRead => ([loWord s.drone, hiWord s.drone], s)
  | .timeWrite _ => ([], s)
  | .module req =>
    let (v, s) := s.drawDword
    ([loWord v.toNat, hiWord v.toNat], s.modCfg (fun k => { k with debug := k.debug ++ [(c, req)] }))

end Sys2Proof.Machine
end

