-- ==== Sys2Proof/Machine/HostCores.lean ====
section
/-! DEFINITION. What host-core instructions do to memory, as one step each: fills of the L2, atomics, LR and SC,
cache-block operations and prefetches; timers and the extension's error windows (11_host_cores_and_cache.md R312 to
R325; 12_coherence.md R346, R349).

An access whose line has a transaction open, or whose memory is out of reach, waits: its result says so and the
core sends it again. -/

namespace Sys2Proof.Machine

/-! ### Attributes (Table HST-2) -/

/-- Whether a region is cacheable for host cores. -/
def Region.cacheable : Region → Bool
  | .ddr => true
  | .hbm _ => true
  | .tiered => true
  | .scratch _ => false
  | .pool _ => false
  | .config => false

/-- Whether a region takes AMO, LR and SC. -/
def Region.amoOk : Region → Bool
  | .ddr => true
  | .hbm _ => true
  | _ => false

/-- Whether an access goes through the caches (Table HST-2, R312). -/
def Region.cached (r : Region) (pbmt : Pbmt) : Bool := r.cacheable && decide (pbmt = .pma)

/-- Notes what an access of a core came to. -/
def State.report (s : State) (c : Nat) (r : HostResult) : State := s.modCore c (fun x => { x with result := r })

/-! ### Fills -/

/-- Delivers the writebacks of a line that are in flight. -/
def State.settleWbs : Nat → Nat → State → State
  | 0, _, s => s
  | n + 1, line, s =>
    match s.takeMsg (fun m => match m with
        | .wbDirty _ l _ _ => decide (l = line)
        | .wbClean _ l => decide (l = line)
        | .wbMove _ l _ _ _ => decide (l = line)
        | _ => false) with
    | some (.wbDirty a l d p, s) => (s.absorbDirty a l d p).settleWbs n line
    | some (.wbClean a l, s) => (s.absorbClean a l).settleWbs n line
    | some (.wbMove a l st d p, s) => (s.absorbMove a l st d p).settleWbs n line
    | _ => s

/-- The agents to which an install of a line is in flight. -/
def State.installsOf (s : State) (line : Nat) : List Nat :=
  s.coh.msgs.filterMap (fun m => match m with | .datInstall t l _ => if l = line then some t else none | _ => none)

/-- Delivers what is in flight of a line that a request finds without a transaction: writebacks and installs. -/
def State.settle (s : State) (line : Nat) : State :=
  let s := s.settleWbs s.coh.msgs.length line
  (s.installsOf line).foldl (fun s t => s.settleInstall t line) s

/-- Whether a core's L2 can read a line it holds, or write it. -/
def Line.serves (x : Line) (own : Bool) : Bool :=
  decide (x.tr = .stable) && (if own then decide (x.st = .m) || decide (x.st = .e) else decide (x.st ≠ .i))

/-- Whether a line can be asked for in one step: no transaction is open or waits, the core's own copy is in no
transient state, the home takes requests, and every bridge on the way to it and to the copies passes traffic. -/
def State.lineOpen (s : State) (c line : Nat) : Bool :=
  (s.txn line).isNone && !(s.coh.waiting.any (fun w => decide (w.1 = line))) &&
  decide ((s.line c line).tr = .stable) && s.homeTakes line &&
  s.wayUp (4 + c / 64) (s.homeOf line / 4) (line * 64) && s.holdersUp line

/-- A line that an L2 has got in S also fills its die's system cache, which is one more sharer of the entry (R320; log
entry 89). -/
def State.shareSc (s : State) (c line : Nat) : State :=
  let t := 128 + c / 64
  if s.line t line ≠ Line.none ∨ s.isDead t then s
  else
    match s.scFill (c / 64) line false with
    | none => s
    | some s' => (s'.setLine t line (s.line c line)).setDir line ((s.dirEntry line).add t)

/-- The fill of a shared copy: the owner forwards and keeps O or S; a copy in the die's system cache serves, or memory
(12 Table COH-5; R320, R322). -/
def State.fillShared (s : State) (c line : Nat) : State :=
  let e := s.dirEntry line
  match e.owner with
  | some o =>
    let y := s.line o line
    let st : LState := if y.st = .m ∨ y.st = .o then .o else .s
    let s := (s.setLine o line { y with st := st }).setLine c line ⟨.s, .stable, y.data, y.poison⟩
    let s := if o ≥ 128 then s.scHit (o - 128) line else s
    (s.setDir line { e.add c with st := if st = .o then .do_ else .ds }).shareSc c line
  | none =>
    let d := s.baseLine line
    let p := s.basePoison line
    if e = DirEntry.none then ((s.didRead (line * 64) 64).setLine c line ⟨.e, .stable, d, p⟩).ownedBy line c
    else
      let s := if (s.line (128 + c / 64) line).st = .s then s.scHit (c / 64) line else s.didRead (line * 64) 64
      ((s.setLine c line ⟨.s, .stable, d, p⟩).setDir line (e.add c)).shareSc c line

/-- The fill of an owned copy: every other copy goes, and its newest data comes with the line; an entry that stands
keeps its place in the order of allocation (12 Table COH-5, R344). -/
def State.fillOwned (s : State) (c line : Nat) : State :=
  let e := s.dirEntry line
  let (d, p) := s.newest line
  let s := if e.owned then s else s.didRead (line * 64) 64
  let s := ((s.purge line false).dropReservations line (.agent c)).setLine c line ⟨.m, .stable, d, p⟩
  if e = DirEntry.none then s.ownedBy line c else s.setDir line { e with st := .dx, ptrs := [c], bcast := false }

/-- What a request of a core for a line comes to: the line is there, the access waits, or the core's L2 is dead and the
home answers with poison (12 R349). -/
inductive Fill where
  | here
  | waits
  | dead
deriving DecidableEq, Repr

/-- The misses of a line that a core's L2 does not hold (Table HST-3). -/
def State.countMiss (s : State) (c line : Nat) : State :=
  let s := s.countEvent c 0x0003 1
  if (s.line (128 + c / 64) line).st = .i then s.countEvent c 0x0004 1 else s

/-- Brings a line into a core's L2, to read or to write. -/
def State.hostFill (s : State) (c line : Nat) (own : Bool) : Fill × State :=
  if (s.line c line).serves own then (.here, s)
  else if !s.lineOpen c line then (.waits, s)
  else if s.isDead c then (.dead, s)
  else if !s.lineReady line .rdShared then (.waits, s.lineAsk line .rdShared)
  else
    match ((s.settle line).dropDead line).cacheRoom c line false with
    | none => (.waits, s)
    | some s' =>
      match s'.dirRoom line with
      | none => (.waits, s')
      | some s' =>
        let s' := if (s'.line c line).st = .i then s'.countMiss c line else s'
        (.here, if own then s'.fillOwned c line else s'.fillShared c line)

/-- Fills of several lines: all are there, or the first that is not decides. -/
def State.hostFills (s : State) (c : Nat) (own : Bool) : List Nat → Fill × State
  | [] => (.here, s)
  | l :: t =>
    match s.hostFill c l own with
    | (.here, s) => s.hostFills c own t
    | r => r

/-- The bytes of a range in a core's L2. -/
def State.l2Bytes (s : State) (c pa n : Nat) : List Byte :=
  (((sectorsOf pa n).flatMap (fun l => (s.line c l).data)).drop (pa % 64)).take n

/-- Whether a core's copy of any line of a range is poisoned. -/
def State.l2Poison (s : State) (c pa n : Nat) : Bool := (sectorsOf pa n).any (fun l => (s.line c l).poison)

/-- Writes bytes into a core's L2, whose lines go to M; a poisoned line stays poisoned (12 R350). -/
def State.l2Write (s : State) (c pa : Nat) (bs : List Byte) : State :=
  (sectorsOf pa bs.length).foldl (fun s l =>
    let x := s.line c l
    let lo := max pa (l * 64)
    let hi := min (pa + bs.length) (l * 64 + 64)
    s.setLine c l { x with st := .m, data := patch x.data (lo - l * 64) ((bs.drop (lo - pa)).take (hi - lo)) }) s

/-! ### L1 caches (R319, Table HST-4) -/

/-- A line in a core's L1D, 128 sets of 8 ways; which line of a full set leaves is a free choice. A line that was not
there is a miss (Table HST-3). -/
def State.touchL1d (s : State) (c line : Nat) : State :=
  let x := s.core c
  if x.l1d.contains line then s
  else
    let set := x.l1d.filter (fun l => decide (Config.l1dSet l % 128 = Config.l1dSet line % 128))
    let (i, s) := if set.length < 8 then (set.length, s) else s.drawNat set.length
    (s.modCore c (fun x => { x with l1d := (match set[i]? with | some v => x.l1d.erase v | none => x.l1d) ++ [line] })).countEvent
      c 0x0002 1

/-- Lines in a core's L1D. -/
def State.touchL1ds (s : State) (c : Nat) (ls : List Nat) : State := ls.foldl (fun s l => s.touchL1d c l) s

/-- A line that was fetched comes into the core's L1I, 256 sets of 4 ways, with the bytes it has now. -/
def State.fillL1i (s : State) (c line : Nat) : State :=
  let set := ((s.core c).l1i.filter (fun e => decide (Config.l1iSet e.1 % 256 = Config.l1iSet line % 256))).map Prod.fst
  let (i, s) := if set.length < 4 then (set.length, s) else s.drawNat set.length
  let d := (s.line c line).data
  (s.modCore c (fun x =>
    { x with l1i := Table.put [] (match set[i]? with | some v => Table.put [] x.l1i v [] | none => x.l1i) line d })).countEvent
    c 0x0001 1

/-! ### Atomics -/

/-- Whether a core may use a range (R311). -/
def State.mayUse (s : State) (c pa n : Nat) (use : PmpUse) : Bool := (s.core c).pmpOk pa n use

/-- Counts an uncached access of a core (Table HST-3). -/
def State.countUncached (s : State) (c : Nat) : State := s.countEvent c 0x000C 1

/-- An atomic instruction of a core, at the line's home or at memory (R313; 12 R346). Misaligned atomics stay within
an aligned 16 bytes, as the profile requires. -/
def State.hostAtomic (s : State) (c pa n : Nat) (pbmt : Pbmt) (op : LineAtomic) : State :=
  let line := pa / 64
  match s.backed pa n with
  | none => s.report c .accessFault
  | some r =>
    if !r.amoOk || decide (pa / 16 ≠ (pa + n - 1) / 16) || !s.mayUse c pa n .both then s.report c .accessFault
    else if !s.lineOpen c line then s.report c .waits
    else if s.isDead c then s.report c .hwError
    else
      let s := if pbmt = .pma then s else s.countUncached c
      let s := (((s.settle line).dropDead line).purge line true).dropReservations line (.agent c)
      let s := s.didRead (line * 64) 64
      if s.sectorPoison line then s.report c .hwError
      else
        let (d, old) := applyAtomic op (s.bytes (line * 64) 64)
        (s.writePhys false (line * 64) d).report c (.data (leBytes n old.toNat))

/-- AMO (R313, R312). -/
def execAmo (c : Nat) (a : CoreAt) (wide : Bool) (op : AmoOp) (v : Dword) (s : State) :
    Host.Outcome State Fault Refusal :=
  .next (if s.hostRuns then s.hostAtomic c a.pa (amoWidth wide) a.pbmt (.amo (a.pa % 64) wide op v) else s)

/-- AMOCAS (R313, Table HST-1): amocas.q is illegal. -/
def execAmocas (c : Nat) (a : CoreAt) (size : Nat) (expect new : Dword) (s : State) : Host.Outcome State Fault Refusal :=
  .next (if !s.hostRuns then s
    else if size = 16 then s.report c .illegal
    else s.hostAtomic c a.pa size a.pbmt (.cas (a.pa % 64) (decide (size = 8)) expect new))

/-- Places a core's reservation on a line. -/
def State.reserve (s : State) (c line : Nat) : State := s.modCore c (fun x => { x with reservation := some line })

/-- LR through the caches (R313; 12 R346): the line is held in E or M and reserved. -/
def State.cachedReserve (s : State) (c pa n : Nat) : State :=
  match s.hostFill c (pa / 64) true with
  | (.waits, s) => s.report c .waits
  | (.dead, s) => s.report c .hwError
  | (.here, s) =>
    let s := s.touchL1d c (pa / 64)
    if s.l2Poison c pa n then s.report c .hwError
    else (s.reserve c (pa / 64)).report c (.data (s.l2Bytes c pa n))

/-- Whether an uncached access of a core reaches a range now (01 R25, 18 R465). -/
def State.coreReaches (s : State) (c pa n : Nat) : Bool := s.dieReachesAll (4 + c / 64) pa n

/-- LR in a page that is accessed uncached (R312): the line is read at its home and reserved. -/
def State.uncachedReserve (s : State) (c pa n : Nat) : State :=
  if !s.coreReaches c pa n || !s.readReady true pa n then s.report c .waits
  else
    let s := s.countUncached c
    if s.readPoison true pa n then (s.didRead pa n).report c .hwError
    else ((s.didRead pa n).reserve c (pa / 64)).report c (.data (s.readPhys true pa n))

/-- LR: aligned, in a region that takes it, under the PMP. -/
def State.loadReserved (s : State) (c pa n : Nat) (pbmt : Pbmt) : State :=
  match s.backed pa n with
  | none => s.report c .accessFault
  | some r =>
    if !r.amoOk || decide (pa % n ≠ 0) || !s.mayUse c pa n .read then s.report c .accessFault
    else if pbmt = .pma then s.cachedReserve c pa n
    else s.uncachedReserve c pa n

/-- LR (R313). -/
def execLr (c : Nat) (a : CoreAt) (wide : Bool) (s : State) : Host.Outcome State Fault Refusal :=
  .next (if s.hostRuns then s.loadReserved c a.pa (amoWidth wide) a.pbmt else s)

/-- An SC that fails: it writes nothing (R313). -/
def State.failSc (s : State) (c : Nat) : State := (s.countEvent c 0x000D 1).report c .scFail

/-- An SC whose reservation stood, in a page accessed uncached: a cache-less write at the home; one that meets poison
is not applied (12 R350). -/
def State.uncachedSc (s : State) (c pa : Nat) (bs : List Byte) : State :=
  let s := s.countUncached c
  (if s.writePoison true pa bs.length then s else s.writePhys true pa bs).report c .stored

/-- SC (R313): it writes only where the reservation still holds; either way the reservation is gone. -/
def State.storeConditional (s : State) (c pa n : Nat) (v : Dword) (pbmt : Pbmt) : State :=
  match s.backed pa n with
  | none => s.report c .accessFault
  | some r =>
    if !r.amoOk || decide (pa % n ≠ 0) || !s.mayUse c pa n .write then s.report c .accessFault
    else
      let held := decide ((s.core c).reservation = some (pa / 64))
      if pbmt = .pma then
        let ok := held && (s.line c (pa / 64)).serves true
        let s := s.modCore c (fun x => { x with reservation := none })
        if ok then (s.l2Write c pa (leBytes n v.toNat)).report c .stored else s.failSc c
      else if held && (!s.coreReaches c pa n || !s.writeReady true pa n) then s.report c .waits
      else
        let s := s.modCore c (fun x => { x with reservation := none })
        if held then s.uncachedSc c pa (leBytes n v.toNat) else s.failSc c

/-- SC (R313). -/
def execSc (c : Nat) (a : CoreAt) (wide : Bool) (v : Dword) (s : State) : Host.Outcome State Fault Refusal :=
  .next (if s.hostRuns then s.storeConditional c a.pa (amoWidth wide) v a.pbmt else s)

/-- LR_RESERVATION_EXPIRE (R313): 4,096 cycles of the core have passed. -/
def execLrReservationExpire (c : Nat) (s : State) : Host.Outcome State Fault Refusal :=
  .next (s.modCore c (fun x => { x with reservation := none }))

/-! ### Cache-block operations -/

/-- Writes a line's dirty copy to memory; its owner keeps it clean (12 Table COH-5). -/
def State.cleanLine (s : State) (line : Nat) : State :=
  let e := s.dirEntry line
  match e.owner with
  | some o =>
    let x := s.line o line
    if x.st = .m ∨ x.st = .o then
      let s := (s.lineWrite line x.data x.poison).setLine o line { x with st := if x.st = .m then .e else .s }
      s.setDir line (if e.st = .do_ then { e with st := .ds } else e)
    else s
  | none => s

/-- What a cache-block operation does to a line, through every cache level and the extension (R314; 12 Table COH-5). -/
def State.blockOp (s : State) (c line : Nat) : CmoKind → State
  | .clean => (s.cleanLine line).extCmo .clean line
  | .flush => ((s.purge line true).dropReservations line (.agent c)).extCmo .flush line
  | .inval => ((s.purge line false).dropReservations line (.agent c)).extCmo .inval line

/-- A cache-block operation on a line, once it can be asked for. A dead L2's completes with poison and does nothing
(12 R349). -/
def State.openOp (s : State) (c line : Nat) (k : CmoKind) : State :=
  if !s.lineOpen c line then s.report c .waits
  else if s.isDead c then s.report c .stored
  else (((s.settle line).dropDead line).blockOp c line k).report c .stored

/-- A cache-block operation (R314): without effect in an uncached region; else on the line, whose lookup may meet an
error in a cache (R319, R325). -/
def State.cacheOp (s : State) (c pa : Nat) (k : CmoKind) (err : Option (CacheLevel × EccFinding)) : State :=
  let line := pa / 64
  match s.backed pa 1 with
  | none => s.report c .accessFault
  | some r =>
    if !(s.mayUse c (line * 64) 64 .read || s.mayUse c (line * 64) 64 .write) then s.report c .accessFault
    else if !r.cacheable then s.report c .stored
    else (s.meets c line err).openOp c line k

/-- CBO_CLEAN (R314). -/
def execCboClean (c pa : Nat) (_ : Pbmt) (s : State) : Host.Outcome State Fault Refusal :=
  .next (if s.hostRuns then s.cacheOp c pa .clean none else s)

/-- CBO_FLUSH (R314). -/
def execCboFlush (c pa : Nat) (_ : Pbmt) (s : State) : Host.Outcome State Fault Refusal :=
  .next (if s.hostRuns then s.cacheOp c pa .flush none else s)

/-- CBO_INVAL (R314): flush where the CBIE in force for the hart's mode is 0b01, discard under 0b11, illegal
otherwise. -/
def execCboInval (c pa : Nat) (_ : Pbmt) (err : Option (CacheLevel × EccFinding)) (s : State) :
    Host.Outcome State Fault Refusal :=
  .next (if !s.hostRuns then s
    else if (s.core c).cbie = 1 then s.cacheOp c pa .flush err
    else if (s.core c).cbie = 3 then s.cacheOp c pa .inval err
    else s.report c .illegal)

/-- cbo.zero of a line: one full-line write, which passes the detectors of the core and of the port into the line's
compute die (R314, R324). -/
def State.zeroLine (s : State) (c line : Nat) : State :=
  if s.lineReady line (.wrFull [] .none) then
    let s := ((s.streamWrite c line).2.passPorts (4 + c / 64) (line * 64) 64).settle line
    let s := ((s.dropDead line).purge line false).dropReservations line (.agent c)
    (s.writePhys false (line * 64) (List.replicate 64 0)).report c .stored
  else (s.lineAsk line (.wrFull [] .none)).report c .waits

/-- CBO_ZERO (R314; 09_memory_tiers.md R272). -/
def execCboZero (c pa : Nat) (_ : Pbmt) (s : State) : Host.Outcome State Fault Refusal :=
  .next (if !s.hostRuns then s
    else
      match s.backed (pa / 64 * 64) 64 with
      | none => s.report c .accessFault
      | some r =>
        if !s.mayUse c (pa / 64 * 64) 64 .write then s.report c .accessFault
        else if !r.cacheable then s.report c .stored
        else if !s.lineWritable (pa / 64) then s.report c .accessFault
        else if !s.lineOpen c (pa / 64) then s.report c .waits
        else if s.isDead c then s.report c .stored
        else s.zeroLine c (pa / 64))

/-- A prefetch into a core's L2; one that cannot go now is dropped (R314). -/
def State.prefetch (s : State) (c pa : Nat) (pbmt : Pbmt) (own : Bool) : State :=
  match s.backed pa 1, pbmt with
  | some r, .pma =>
    if s.hostRuns && r.cacheable && s.mayUse c pa 1 (if own then .write else .read) then (s.hostFill c (pa / 64) own).2 else s
  | _, _ => s

/-- PREFETCH_R (R314). -/
def execPrefetchR (c pa : Nat) (pbmt : Pbmt) (s : State) : Host.Outcome State Fault Refusal :=
  .next (s.prefetch c pa pbmt false)

/-- PREFETCH_W (R314). -/
def execPrefetchW (c pa : Nat) (pbmt : Pbmt) (s : State) : Host.Outcome State Fault Refusal :=
  .next (if s.lineWritable (pa / 64) then s.prefetch c pa pbmt true else s)

/-! ### Timers and windows -/

/-- TIMER_COMPARE (R317): each timer interrupt is pending while time is at or past its compare value. -/
def execTimerCompare (c : Nat) (s : State) : Host.Outcome State Fault Refusal :=
  .next (s.modCore c (fun x =>
    { x with mtip := decide (x.mtimecmp.toNat ≤ s.drone), stip := decide (x.stimecmp.toNat ≤ s.drone) }))

/-- EXT_ERROR_WINDOW_EXPIRE (R325): a window that closes with fewer than four errors clears the way's count. -/
def execExtErrorWindowExpire (d way : Nat) (s : State) : Host.Outcome State Fault Refusal :=
  .next (
    let k := d * 16 + way
    let x := Table.get ExtWay.reset s.extWays k
    if 0 < x.errors ∧ x.errors < 4 ∧ x.opened + s.extWindow d ≤ s.drone then
      { s with extWays := Table.put ExtWay.reset s.extWays k ExtWay.reset }
    else s)

end Sys2Proof.Machine
end

