-- ==== Sys2Proof/Machine/Tier.lean ====
section
/-! DEFINITION. The tier's commands: promotions, write groups, the flash layer, hints and migrations, objects, the
prefetch schedule and STRIPED regions (09_memory_tiers.md R254 to R283). -/

namespace Sys2Proof.Machine

/-! ### The flash layer (R261 to R265) -/

/-- A record about a channel's flash (15_resilience.md Table RES-7). -/
def flashRec (cls code ch flags : Nat) : ErrRec := { errRec cls 0x0B code (6 + ioOf ch) ch with flags := flags }

/-- A record about a tile in flash. -/
def tileRec (cls code t flags : Nat) : ErrRec :=
  { flashRec cls code (tileChannel t) flags with addr := BitVec.ofNat 64 (2 ^ 63 + tileAddr t) }

/-- The block in which a tile is placed, less its channel (R262). -/
def blockOf (place : Nat) : Nat := (place - 1) / 4096

/-- The tiles placed in a block of a channel (R262). -/
def State.tilesIn (s : State) (ch b : Nat) : List Nat :=
  (s.tier.placed.filter (fun e => decide (blockOf e.2 = b) && decide (tileChannel e.1 = ch))).map Prod.fst

/-- The free block that a channel writes next: the lowest-numbered. -/
def Channel.nextBlock (c : Channel) : Nat :=
  ((List.range 8192).find? (fun b => !(c.used.contains b) && !(c.retired.contains b))).getD 0

/-- A channel opens its next block: in read-only state one of those held for the tiles that were dirty (R272). -/
def Channel.openBlock (c : Channel) (readOnly : Bool) : Channel :=
  let c := if readOnly then { c with held := c.held - 1 } else { c with free := c.free - 1 }
  { c with cur := some (c.nextBlock, 0), used := c.nextBlock :: c.used }

/-- The block and page of the next program: a block holds 1,024 pages (Table TIR-3). -/
def Channel.page (c : Channel) (readOnly : Bool) : Nat × Nat × Channel :=
  let c := if c.cur.any (fun p => decide (p.2 < 1024)) then c else c.openBlock readOnly
  match c.cur with
  | some (b, p) => (b, p, { c with cur := some (b, p + 1) })
  | none => (0, 0, c)

/-- Programs one page with up to four tiles: the map names their block, page and position, and the block's count of
reads starts anew (R262, Table TIR-14). -/
def State.programPage (s : State) (ch : Nat) (ts : List Nat) : State :=
  let (b, p, c) := (s.tier.channel ch).page s.tier.readOnly
  let s := s.modChannel ch (fun _ => { c with blockReads := Table.put 0 c.blockReads b 0 })
  let s := s.modFlashDie (ioOf ch) (fun f => { f with programs := satAdd 0xFFFFFFFF f.programs 1 })
  ts.zipIdx.foldl (fun s e => s.modTier (fun z => { z with placed := Table.put 0 z.placed e.1 ((b * 1024 + p) * 4 + e.2 + 1) })) s

/-- Programs pages with a list of tiles, four to a page. -/
def State.programPages (ch : Nat) : Nat → List Nat → State → State
  | 0, _, s => s
  | n + 1, ts, s => if ts.isEmpty then s else State.programPages ch n (ts.drop 4) (s.programPage ch (ts.take 4))

/-- Rewrites a block's valid tiles elsewhere; the block being written is left for another first (R262). -/
def State.moveBlock (s : State) (ch b : Nat) : State :=
  let ts := s.tilesIn ch b
  let s := s.modChannel ch (fun c => { c with cur := if c.cur.any (fun p => decide (p.1 = b)) then none else c.cur })
  State.programPages ch (ts.length + 1) ts s

/-- Counts an erase of a block. -/
def Channel.erased (c : Channel) (b : Nat) : Channel :=
  { c with blockErases := Table.put 0 c.blockErases b (Table.get 0 c.blockErases b + 1),
           blockReads := Table.put 0 c.blockReads b 0 }

/-- Erases a block, which is free again. -/
def State.eraseBlock (s : State) (ch b : Nat) : State :=
  s.modChannel ch (fun c => { c.erased b with used := c.used.filter (fun x => decide (x ≠ b)), free := c.free + 1 })

/-- Counts a retired block, with its record (R262, Table TIR-14). -/
def State.countRetired (s : State) (ch : Nat) (r : ErrRec) : State :=
  (s.logErr r).modFlashDie (ioOf ch) (fun f => { f with retired := satAdd 0xFFFF f.retired 1 })

/-- Retires a block whose tiles stand elsewhere: a spare replaces it, with the records that spares running low or out
bring (R262). -/
def State.retireBlock (s : State) (ch b retries : Nat) : State :=
  let s := (s.modChannel ch (fun c =>
    { c with retired := b :: c.retired, used := c.used.filter (fun x => decide (x ≠ b)), spare := c.spare - 1,
             free := if c.spare = 0 then c.free else c.free + 1 })).countRetired ch
      { flashRec 0 0x0003 ch 0 with aux0 := retries }
  let n := (s.tier.channel ch).spare
  let s := if n = 32 then s.logErr (flashRec 0 0x0004 ch 2) else s
  if n = 0 ∧ s.tier.readOnly = false then
    (s.logErr (flashRec 2 0x0024 ch 0)).modTier (fun z => { z with readOnly := true })
  else s

/-- Where STRIPED mode places a group: its plane, block and region, the block from the bad-block table of its die; the
page is (g / 256) mod 1,024 (R261). -/
def State.stripedPlace (s : State) (g : Nat) : Nat × Nat × Nat :=
  let p := g / 64
  let plane := p % 4
  let region := p / 4096
  let v := Table.get 0 (s.tier.channel (channelOf g)).remap (plane * 2048 + region)
  (plane, if v = 0 then region else v - 1, region)

/-- The block that holds a tile in flash, numbered plane × 2,048 + block. -/
def State.flashBlock (s : State) (t : Nat) : Nat :=
  if s.striped then
    let (plane, b, _) := s.stripedPlace (t / 4)
    plane * 2048 + b
  else blockOf (Table.get 0 s.tier.placed t)

/-- What 200,000 reads of a block since its last program bring: its tiles are rewritten, or in STRIPED mode a refresh
is advised that names the region (R262, R264). -/
def State.refresh (s : State) (t b : Nat) : State :=
  let ch := tileChannel t
  let s := s.modFlashDie (ioOf ch) (fun f => { f with refresh := satAdd 0xFFFFFFFF f.refresh 1 })
  if s.striped then
    s.logErr { flashRec 0 0x0004 ch 4 with addr := BitVec.ofNat 64 (2 ^ 63 + tierBase + t / 2 ^ 20 * 2 ^ 32) }
  else s.moveBlock ch b

/-- A read of a tile from flash that needed some retries, more than 8 for one that stays uncorrectable: it counts; the
tile of an uncorrectable one is poisoned; a block with more than 4 retries is retired in MANAGED mode (R262 to
R264, Table TIR-14). -/
def State.flashRead (s : State) (t retries : Nat) : State :=
  let ch := tileChannel t
  let b := s.flashBlock t
  let n := Table.get 0 (s.tier.channel ch).blockReads b + 1
  let s := s.modFlashDie (ioOf ch) (fun f => { f with reads := f.reads + 1 })
  let s := s.modChannel ch (fun c => { c with blockReads := Table.put 0 c.blockReads b n })
  let s := if n = 200000 then s.refresh t b else s
  let s := if 8 < retries then
      { s with flashPoison := Table.put false s.flashPoison t true }.modFlashDie (ioOf ch)
        (fun f => { f with uncorr := satAdd 0xFFFFFFFF f.uncorr 1 }) |>.logErr (tileRec 2 0x0020 t 0)
    else s
  if 4 < retries ∧ s.striped = false ∧ (s.tier.channel ch).used.contains b then
    (s.moveBlock ch b).retireBlock ch b (min retries 8)
  else s

/-! ### Promotions -/

/-- Asks for a tile as a read does: promotion, zero fill, or promotion once its page is programmed (Table TIR-6). True
where it is resident or on its way. -/
def State.wantTile (s : State) (t k : Nat) : Bool × State :=
  match s.tileSt t with
  | .f => s.promote t k
  | .u =>
    match s.takeSlot (t / 4) with
    | .got s => (true, s.zeroSlot t .r)
    | .allPinned => (false, s)
    | .waits s => (false, s)
  | .w => (false, s)
  | .p => (true, s.urge t k)
  | _ => (true, s)

/-- The waiting flash read of an I/O die that is served next: demand, then schedule, then hints (R267). -/
def State.nextRead (s : State) (x : Nat) : Option (Nat × Nat) :=
  let l := s.tier.readQ.filter (fun r => decide (ioOf (tileChannel r.1) = x))
  [0, 1, 2].findSome? (fun k => l.find? (fun r => decide (r.2 = k)))

/-- Starts the next waiting read of an I/O die that has one to spare (Table TIR-4). -/
def State.startRead (s : State) (x : Nat) : State :=
  if s.flashReads x < 8192 then
    match s.nextRead x with
    | some r => s.modTier (fun z => { z with readQ := z.readQ.erase r })
    | none => s
  else s

/-- Serves a hint: a tile in flash is promoted, one whose page is being programmed waits, and so does one that no slot
can be had for now; any other needs nothing (R270, R277). -/
def State.serveHint (s : State) (t : Nat) : State :=
  let gone := fun (s : State) => s.modTier (fun z => { z with hintQ := z.hintQ.erase t })
  match s.tileSt t with
  | .f =>
    match s.takeSlot (t / 4) with
    | .got s => gone (s.intoP t 2)
    | .allPinned => gone s
    | .waits s => s
  | .w => s
  | _ => gone s

/-- Serves hint requests in order while their I/O dies have reads to spare (R267, R277). -/
def State.serveHints (s : State) : List Nat → State
  | [] => s
  | t :: ts =>
    let x := ioOf (tileChannel t)
    (if s.flashReads x < 8192 ∧ (s.nextRead x).isNone then s.serveHint t else s).serveHints ts

/-- Whether a tile may be evicted now: it is resident and no transaction holds its lines. -/
def State.canEvictTile (s : State) (t : Nat) : Bool :=
  (decide ((s.tile t).st = .r) || decide ((s.tile t).st = .d)) && !(s.cohBusy (tileAddr t) 4096)

/-- Frees a die's slot of a group once none of its tiles stands in it. -/
def State.freeSlot (s : State) (d g : Nat) : State :=
  let set := tierSet g (s.tierSlots / 16)
  match s.findSlot d set g with
  | some w => if (groupTiles g).any s.inSlot then s else s.setSlot d set w Slot.empty
  | none => s

/-- Evicts a tile from its home's slot (R266). -/
def State.evictNow (s : State) (t : Nat) : State :=
  if s.canEvictTile t then (s.evictTile (s.tierHome (t / 4)) t).freeSlot (s.tierHome (t / 4)) (t / 4) else s

/-- The pin of a tile's object. -/
def State.pinOf (s : State) (t : Nat) : Nat := ((s.objectOf t).map (fun p => p.2.pin)).getD 0

/-- Carries out what a pin owes one tile, where the pin still stands: its promotion, in the background, or its eviction;
what cannot go now stays owed (R274). -/
def State.payTile (s : State) (e : Nat × Bool) : State :=
  let gone := fun (s : State) => s.modTier (fun z => { z with owed := z.owed.erase e })
  if s.pinOf e.1 ≠ (if e.2 then 2 else 1) then gone s
  else if e.2 then
    (if s.canEvictTile e.1 then gone (s.evictNow e.1) else if s.inSlot e.1 then s else gone s)
  else if s.tileSt e.1 = .f ∨ s.tileSt e.1 = .w then
    match s.wantTile e.1 2 with
    | (true, s) => gone s
    | (false, s) => s
  else gone s

/-- Carries out what pins owe. -/
def State.payOwed (s : State) : State := s.tier.owed.foldl State.payTile s

/-! ### The schedule's promotions (R279) -/

/-- Counts a late or skipped schedule tile at its home (R279, R280). -/
def State.countLate (s : State) (t : Nat) : State :=
  s.modTierDie (s.tierHome (t / 4)) (fun z => { z with late := satAdd 0xFFFFFFFF z.late 1 })

/-- Whether every way of a tile's set is held by pins, no-evict tiles or protected tiles (R279). -/
def State.setHeld (s : State) (t : Nat) : Bool :=
  let g := t / 4
  let d := s.tierHome g
  let set := tierSet g (s.tierSlots / 16)
  (s.findSlot d set g).isNone &&
  (List.range 16).all (fun w =>
    let x := s.slot d set w
    x.used && (groupTiles x.group).any (fun u => s.inSlot u && (s.tilePinned u || s.tileProtected u)))

/-- Protects a tile until a step starts; one whose step has started protects nothing (R279). -/
def State.protect (s : State) (till : Nat) (t : Nat) : State :=
  if till ≤ s.time.step then s else s.setTile t { s.tile t with protTill := some till, protAt := s.drone }

/-- Promotes a tile of a PROMOTE entry and protects it; one whose set is held is skipped and counted. True where the
tile is still to land; one that no slot can be had for now, or whose page is being programmed, is tried again. -/
def State.schedTile (s : State) (till t : Nat) : Bool × State :=
  match s.tileSt t with
  | .r => (false, s.protect till t)
  | .d => (false, s.protect till t)
  | .p => (true, (s.urge t 1).protect till t)
  | .w => (true, s)
  | st =>
    if s.setHeld t then (false, s.countLate t)
    else
      match s.wantTile t 1 with
      | (true, s) => (decide (st = .f), s.protect till t)
      | (false, s) => (true, s)

/-- Promotes the tiles of a PROMOTE entry in order: those still to land. -/
def State.schedTiles (till : Nat) : List Nat → State → List Nat × State
  | [], s => ([], s)
  | t :: ts, s =>
    let (w, s) := s.schedTile till t
    let (l, s) := State.schedTiles till ts s
    (if w then t :: l else l, s)

/-- The step at whose start an entry's protection ends (R279). -/
def Sched.till (e : Sched) : Nat := e.deadline + e.hold + 1

/-- Goes on with one active entry: those of its tiles that are not on their way. -/
def State.goOn (s : State) (e : Sched) : State :=
  let (l, s) := State.schedTiles e.till (e.tiles.filter (fun t => decide (s.tileSt t ≠ .p))) s
  s.modTier (fun z => { z with active := z.active.map (fun x =>
    if x = e then { e with tiles := e.tiles.filter (fun t => l.contains t || decide (s.tileSt t = .p)) } else x) })

/-- Goes on with the active entries; one with nothing left has been carried out. -/
def State.serveSched (s : State) : State :=
  (s.tier.active.foldl State.goOn s).modTier (fun z => { z with active := z.active.filter (fun e => !e.tiles.isEmpty) })

/-- Goes on with what waits for a slot, a page or a flash read: reads by their class, the schedule, pins and hints
(R267). -/
def State.serveTier (s : State) : State :=
  let s := ((s.startRead 0).startRead 1).serveSched.payOwed
  s.serveHints s.tier.hintQ

/-! ### Promotions -/

/-- Takes a landed tile off the active schedule entries (R279). -/
def State.landed (s : State) (t : Nat) : State :=
  s.modTier (fun z => { z with active := z.active.map (fun (e : Sched) => { e with tiles := e.tiles.erase t }) })

/-- Whether the flash read of a tile has been started. -/
def State.reading (s : State) (t : Nat) : Bool := !(s.tier.readQ.any (fun r => decide (r.1 = t)))

/-- A promotion lands (R266, R280): P goes to R with the flash copy's bytes, which the extension looks up as a write of
the migration (11_host_cores_and_cache.md R323). -/
def State.land (s : State) (t retries : Nat) : State :=
  let x := s.tile t
  let s := (s.flashRead t retries).fillFromFlash t
  let s := s.setTile t { x with st := .r, inFlash := true, protAt := if x.protTill.isSome then s.drone else x.protAt }
  let s := s.modTierDie (s.tierHome (t / 4)) (fun z => { z with promoted := satAdd 0xFFFFFFFF z.promoted 1 })
  ((s.extLookup (tileAddr t) 4096 true).landed t).serveTier

/-- PROMOTION_LANDS (R266, R262, R263): the read needed some retries, more than 8 where it stayed uncorrectable. -/
def execPromotionLands (r : FlashRead) (s : State) : Host.Outcome State Fault Refusal :=
  .next (if s.running && decide ((s.tile r.tile).st = .p) && s.reading r.tile then (s.land r.tile r.retries).wakeHomes
    else s)

/-- BYPASS_READ_DONE (R270, R262, R263): the tile stands in the I/O die's read buffer for the access that waits. -/
def execBypassReadDone (r : FlashRead) (s : State) : Host.Outcome State Fault Refusal :=
  .next (
    let t := r.tile
    if s.running && decide ((s.tile t).bypass = .asked) && decide (s.tileSt t = .f) && s.reading t then
      let s := s.flashRead t r.retries
      (s.setTile t { s.tile t with bypass := .buffered }).serveTier.wakeHomes
    else s)

/-! ### Write groups -/

/-- WRITE_GROUP_TIMEOUT (R268): 100 µs after its first tile entered. -/
def execWriteGroupTimeout (ch : Nat) (s : State) : Host.Outcome State Fault Refusal :=
  .next (
    let c := s.tier.channel ch
    if !s.boot.held && !c.open_.isEmpty && decide (c.firstAt + 100000 ≤ s.drone) then
      s.modChannel ch (fun c => { c with open_ := [], programming := c.programming ++ [c.open_] })
    else s)

/-- A tile of a programmed page: its bytes and poison stand in flash and leave memory (R263, R266); an access that
waits for it goes on as from F. -/
def State.tileToFlash (s : State) (t : Nat) : State :=
  let x := s.tile t
  let bs := s.bytes (tileAddr t) 4096
  let bad := s.anyPoison (tileAddr t) 4096
  let s := { s with flash := Table.splice memDefault s.flash (tileAddr t) bs,
                    flashPoison := Table.put false s.flashPoison t bad }
  let s := ((s.fillZero t).setTile t { x with st := .f, inFlash := true, wanted := none }).noteFlash t
  match x.wanted with
  | some k => s.requestTiles k [t]
  | none => s

/-- Whether heat holds programs and erases of a channel's module (16_power_clocks_thermal.md Table PWR-6). -/
def State.flashHeld (s : State) (ch : Nat) : Bool := Table.get false s.power.flashSuspended (ch / 8)

/-- PAGE_PROGRAMMED (R266): the tiles of the oldest group go from W to F. -/
def execPageProgrammed (ch : Nat) (s : State) : Host.Outcome State Fault Refusal :=
  .next (
    match (s.tier.channel ch).programming with
    | [] => s
    | g :: rest =>
      if s.boot.held || s.flashHeld ch then s
      else
        let s := (s.modChannel ch (fun c => { c with programming := rest })).programPage ch g
        let s := s.modTier (fun z =>
          { z with checkpoints := Table.put 0 z.checkpoints (ioOf ch) (Table.get 0 z.checkpoints (ioOf ch) + g.length) })
        (g.foldl State.tileToFlash s).serveTier.wakeHomes)

/-- PROGRAM_FAILURE (R266, R262): the block is retired, its tiles are rewritten, and the group waits for another
page. -/
def execProgramFailure (ch : Nat) (s : State) : Host.Outcome State Fault Refusal :=
  .next (
    let c := s.tier.channel ch
    if s.boot.held || c.programming.isEmpty then s
    else
      let (b, _, c) := c.page s.tier.readOnly
      ((s.modChannel ch (fun _ => c)).moveBlock ch b).retireBlock ch b 0)

/-- Blocks in use of a channel that may be collected: not the one being written. -/
def Channel.closed (c : Channel) : List Nat := c.used.filter (fun b => !(c.cur.any (fun p => decide (p.1 = b))))

/-- The member of a list with the least measure. -/
def leastBy (f : Nat → Nat) : List Nat → Option Nat
  | [] => none
  | a :: t =>
    match leastBy f t with
    | none => some a
    | some b => if f a ≤ f b then some a else some b

/-- Collects a block: its valid tiles are rewritten and it is erased, or retired where the erase fails. -/
def State.collect (s : State) (ch b : Nat) (ok : Bool) : State :=
  let s := s.moveBlock ch b
  if ok then s.eraseBlock ch b else s.retireBlock ch b 0

/-- Wear levelling: while the spread of a die's erase counts exceeds 256, a least-worn block's tiles move (R262). -/
def State.levelWear (s : State) (ch : Nat) (ok : Bool) : State :=
  let c := s.tier.channel ch
  let worn := fun (b : Nat) => Table.get 0 c.blockErases b
  let top := (c.blockErases.map Prod.snd).foldl max 0
  match leastBy worn c.closed with
  | some b => if worn b + 256 < top then s.collect ch b ok else s
  | none => s

/-- GARBAGE_COLLECTION (R262): below 64 free blocks, the block with the fewest valid tiles is collected; one whose
erase fails is retired. -/
def execGarbageCollection (g : Collection) (s : State) : Host.Outcome State Fault Refusal :=
  .next (
    let ch := g.ch
    let c := s.tier.channel ch
    if s.boot.held || s.striped || s.flashHeld ch then s
    else
      let s := if c.free < 64 then
          match leastBy (fun b => (s.tilesIn ch b).length) c.closed with
          | some b => s.collect ch b g.ok
          | none => s
        else s
      s.levelWear ch g.ok)

/-- MAP_CHECKPOINT (R265): after 1 GiB, 262,144 tiles, of write-backs of an I/O die. -/
def execMapCheckpoint (x : Nat) (s : State) : Host.Outcome State Fault Refusal :=
  .next (if !s.boot.held && !s.striped && decide (262144 ≤ Table.get 0 s.tier.checkpoints x) then
      s.modTier (fun z => { z with checkpoints := Table.put 0 z.checkpoints x (Table.get 0 z.checkpoints x - 262144) })
    else s)

/-! ### Hints and migrations -/

/-- The tiles of a command's range. -/
def Cmd.tileRange (c : Cmd) : List Nat :=
  match c.ext 0 with
  | some e => (List.range (e.len / 4096)).map (tileOf e.pa + ·)
  | none => []

/-- Writes an object. -/
def State.setObject (s : State) (k : Nat) (o : TObj) : State :=
  s.modTier (fun z => { z with objects := Table.put TObj.reset z.objects k o })

/-- The listed tiles of an object, or all of them in STRIPED mode, where a tile of a READY region stands in flash
unlisted. -/
def State.objectTiles (s : State) (o : TObj) : List Nat :=
  if s.striped then (List.range (o.size * 512)).map (o.base * 512 + ·)
  else (s.tier.tiles.map Prod.fst).filter (fun t => decide (o.base * 512 ≤ t) && decide (t < (o.base + o.size) * 512))

/-- What a pin that is newly set does (R274): promotion of the object in the background, or eviction of its resident
tiles. -/
def State.pinEffect (s : State) (was : Nat) (o : TObj) : State :=
  if o.pin = was ∨ (o.pin ≠ 1 ∧ o.pin ≠ 2) then s
  else (s.modTier (fun z => { z with owed := z.owed ++ (s.objectTiles o).map (fun t => (t, decide (o.pin = 2))) })).payOwed

/-- Sets the pin of the object that holds a command's range, with what that brings (R274, R275). -/
def State.pinCmd (s : State) (c : Cmd) : State :=
  let d := c.desc
  match c.ext 0 with
  | none => s
  | some e =>
    match s.objectAround e.pa e.len with
    | none => s
    | some (k, o) =>
      if bit (body d 0x0D 1) 0 then
        let o' := { o with pin := pinCode (body d 0x0C 1), userHint := true }
        (s.setObject k o').pinEffect o.pin o'
      else if bit (body d 0x0D 1) 1 then s.setObject k { o with pin := 0, userHint := false }
      else s

/-- A command ends its work. -/
def State.doneHere (s : State) (q j : Nat) (idx : Word) : State :=
  match (s.queue q j).find idx with
  | some c => s.setCmd q j { c with ran := true, status := if c.late then stOkLate else stOk }
  | none => s

/-- Whether a started command of an opcode has work to do. -/
def State.canRun (s : State) (q : Nat) (c : Cmd) (op : Nat) : Bool :=
  s.quadRuns q && decide (c.phase = .running) && !c.ran && decide (opcodeOf c.desc = op)

/-- A MIGRATE begins: the pin is set, and a migration to flash notes the tiles that have to reach it (R265, R275). -/
def State.beginMigrate (s : State) (q j : Nat) (c : Cmd) : State :=
  let l := if body c.desc 0x0C 1 = 1 then c.tileRange.filter (fun t => decide (s.tileSt t ≠ .f) && decide (s.tileSt t ≠ .u)) else []
  (s.pinCmd c).setCmd q j { c with passes := [(0, 1)], migrating := l }

/-- A MIGRATE's request for a tile: a read's, and one whose page is being programmed is read back then (Table TIR-6, R270). -/
def State.wantResident (s : State) (t : Nat) : State :=
  let s := (s.wantTile t 0).2
  if s.tileSt t = .w then s.setTile t { s.tile t with wanted := (s.tile t).wanted <|> some .read } else s

/-- One round of a MIGRATE: to HBM it asks for every tile that is not resident, to flash it evicts what it can
(R277, R265). -/
def State.stepMigrate (s : State) (q j : Nat) (idx : Word) : State :=
  match (s.queue q j).find idx with
  | none => s
  | some c =>
    if body c.desc 0x0C 1 = 0 then
      let s := (c.tileRange.filter (fun t => !(s.inSlot t))).foldl State.wantResident s
      if c.tileRange.all (fun t => decide ((s.tile t).st = .r) || decide ((s.tile t).st = .d)) then s.doneHere q j idx else s
    else
      let s := c.migrating.foldl State.evictNow s
      match (s.queue q j).find idx with
      | some c => if c.migrating.isEmpty then s.doneHere q j idx else s
      | none => s

/-- MIGRATE (R277, R265, R275; 07 R211). -/
def execMigrate (q j : Nat) (idx : Word) (s : State) : Host.Outcome State Fault Refusal :=
  .next (
    match (s.queue q j).find idx with
    | none => s
    | some c =>
      if s.canRun q c opMigrate then
        (if c.passes.isEmpty then s.beginMigrate q j c else s).stepMigrate q j idx
      else s)

/-- Hint requests that an I/O die has queued. -/
def State.hintsAt (s : State) (x : Nat) : Nat :=
  (s.tier.hintQ.filter (fun t => decide (ioOf (tileChannel t) = x))).length

/-- Queues hint requests until one finds its die's queue of 4,096 full; answers what is left (R277). -/
def State.queueHints (s : State) : List Nat → List Nat × State
  | [] => ([], s)
  | t :: ts =>
    if s.hintsAt (ioOf (tileChannel t)) < 4096 then
      (s.modTier (fun z => { z with hintQ := z.hintQ ++ [t] })).queueHints ts
    else (t :: ts, s)

/-- PREFETCH_HINT (R277; 07 R211): it completes when its requests are accepted. -/
def execPrefetchHint (q j : Nat) (idx : Word) (s : State) : Host.Outcome State Fault Refusal :=
  .next (
    match (s.queue q j).find idx with
    | none => s
    | some c =>
      if s.canRun q c opPrefetch then
        let s := s.serveHints s.tier.hintQ
        let (rest, s) := s.queueHints (if c.passes.isEmpty then c.tileRange else c.migrating)
        let s := (s.setCmd q j { c with passes := [(0, 1)], migrating := rest }).serveHints s.tier.hintQ
        if rest.isEmpty then s.doneHere q j idx else s
      else s)

/-! ### Objects (R273 to R276) -/

/-- Tiles of the exposed range (R254, Table TIR-1). -/
def State.tierUnits (s : State) : Nat := (s.populated .tiered).2 / 2 ^ 21

/-- Whether two objects share a part of the range. -/
def TObj.overlaps (a b : TObj) : Bool := decide (a.base < b.base + b.size) && decide (b.base < a.base + a.size)

/-- Whether slots of a former home of an object's tiles still wait for their eviction. -/
def State.evictingIn (s : State) (o : TObj) : Bool :=
  s.tier.evicting.any (fun e => decide (o.base * 128 ≤ e.2) && decide (e.2 < (o.base + o.size) * 128))

/-- The first failure of a write that sets valid, 0 for none (R274). -/
def State.objectError (s : State) (k : Nat) (o : TObj) (home : Nat) : Nat :=
  if s.tierUnits < o.base + o.size then 1
  else if s.tier.objects.any (fun e => decide (e.1 ≠ k) && e.2.valid && e.2.overlaps o) then 2
  else if (o.pin = 1 || o.noevict) && !pinsFit s.tierSlots (Table.put TObj.reset s.claimed k o) then 4
  else if s.evictingIn o then 5
  else if o.size = 0 ∨ 4 < home then 6
  else 0

/-- The groups of the tier that stand in a slot. -/
def State.heldGroups (s : State) : List (Nat × Nat) :=
  (s.tier.slots.filter (fun e => e.2.used)).map (fun e => (e.1 / 16 / 2 ^ 24, e.2.group))

/-- Evicts what can be evicted of slots that stand at a former home (R274). -/
def State.evictStray (s : State) (p : Nat × Nat) : State :=
  let s := (groupTiles p.2).foldl (fun s t => if s.canEvictTile t then s.evictTile p.1 t else s) s
  s.freeSlot p.1 p.2

/-- Begins the evictions that a change of homes brings (R274). -/
def State.rehome (s : State) : State :=
  let stray := s.heldGroups.filter (fun p => decide (p.1 ≠ s.tierHome p.2))
  let s := stray.foldl State.evictStray s
  s.modTier (fun z => { z with evicting := stray })

/-- Notes the reason that an object write was not taken, 0 where it was. -/
def State.objError (s : State) (n : Nat) : State := s.modTier (fun z => { z with objErr := n })

/-- A write of an object's third word (R274, Table TIR-7). -/
def State.writeObject (s : State) (k : Nat) (v : Word) : State :=
  let n := v.toNat
  let o := s.tier.object k
  let home := bits n 24 3
  let pin := unlessReserved (decide (bits n 28 2 = 3)) o.pin (bits n 28 2)
  let o' : TObj :=
    if o.valid then { o with pin := pin, noevict := bit n 27, userHint := o.userHint && decide (pin = o.pin) }
    else { o with pin := pin, noevict := bit n 27, context := bits n 0 12, userHint := false,
                  home := unlessReserved (decide (4 < home)) o.home home }
  if bit n 31 then
    let t : TObj := { o' with valid := true }
    let e := if o.valid then
        (if (pin = 1 ∧ o.pin ≠ 1 ∨ bit n 27 ∧ !o.noevict) ∧ !pinsFit s.tierSlots (Table.put TObj.reset s.claimed k t) then 4 else 0)
      else s.objectError k t home
    if e ≠ 0 then s.objError e
    else
      let s := (s.setObject k t).objError 0
      (if o.valid then s else s.rehome).pinEffect (if o.valid then o.pin else 0) t
  else
    let s := (s.setObject k { o' with valid := false, userHint := false }).objError 0
    if o.valid then s.rehome else s

/-- A write of a word of an object (R273, R274). -/
def State.writeObjectWord (s : State) (k w : Nat) (v : Word) : State :=
  let o := s.tier.object k
  if w = 2 then s.writeObject k v
  else if o.valid then s
  else if w = 0 then s.setObject k { o with base := bits v.toNat 0 22 }
  else if w = 1 then s.setObject k { o with size := bits v.toNat 0 22 }
  else s

/-- OBJECT_TABLE_WRITE (R274): n is the word's number, four to an object. -/
def execObjectTableWrite (p : Port) (n : Nat) (v : Word) (s : State) : Host.Outcome State Fault Refusal :=
  .next (if s.mayWrite p && decide (n < 4096) then s.writeObjectWord (n / 4) (n % 4) v else s)

/-- OBJECT_EVICT_DONE (R274): what is left of the evictions is carried out, and obj_busy clears when none is. -/
def execObjectEvictDone (s : State) : Host.Outcome State Fault Refusal :=
  .next (
    let s := s.tier.evicting.foldl State.evictStray s
    (s.modTier (fun z => { z with evicting := z.evicting.filter (fun p => s.heldGroups.contains p) })).serveTier)

/-! ### The prefetch schedule (R278 to R280) -/

/-- Entries of the schedule ring. -/
def Tier.schedSize (z : Tier) : Nat := 2 ^ z.schedLog2

/-- SCHED_ENABLE_WRITE (R278, Table TIR-11): enabling sets HEAD to TAIL. -/
def execSchedEnableWrite (p : Port) (v : Word) (s : State) : Host.Outcome State Fault Refusal :=
  .next (if s.mayWrite p then
      s.modTier (fun z =>
        let n := bits v.toNat 0 5
        let on := bit v.toNat 31
        { z with schedEnable := on,
                 schedLog2 := unlessReserved (z.schedEnable || decide (n < 4) || decide (16 < n)) z.schedLog2 n,
                 schedHead := if on && !z.schedEnable then z.schedTail else z.schedHead })
    else s)

/-- SCHED_TAIL_WRITE (R278): ignored where it would move TAIL more than size past HEAD. -/
def execSchedTailWrite (p : Port) (v : Word) (s : State) : Host.Outcome State Fault Refusal :=
  .next (if s.mayWrite p then
      s.modTier (fun z => if dist32 v z.schedHead ≤ z.schedSize then { z with schedTail := v } else z)
    else s)

/-- Judges the active entries at a step: what is not resident when a deadline's step begins counts late, once
(R279). -/
def State.judgeSched (s : State) (step : Nat) : State :=
  let late := (s.tier.active.filter (fun e => !e.judged && decide (e.deadline ≤ step))).flatMap (·.tiles)
  let s := late.foldl State.countLate s
  s.modTier (fun z => { z with active := z.active.map (fun e => if e.deadline ≤ step then { e with judged := true } else e) })

/-- Marks the resident slots of a RELEASE entry's tiles as first victims (R279, R269). -/
def State.releaseTile (s : State) (t : Nat) : State :=
  let g := t / 4
  let d := s.tierHome g
  let set := tierSet g (s.tierSlots / 16)
  match s.findSlot d set g with
  | some w => if s.inSlot t then s.setSlot d set w { s.slot d set w with released := true } else s
  | none => s

/-- Takes a schedule entry that is due (R279). -/
def State.takeSched (s : State) (bs : List Byte) : State :=
  let o := s.tier.object (field bs 0 2)
  let kind := field bs 2 1
  let first := field bs 4 4
  let n := field bs 8 4
  let s' := s.modTier (fun z => { z with schedHead := z.schedHead + 1 })
  if !o.valid || decide (1023 < field bs 0 2) || decide (o.size * 512 < first + n) || decide (1 < kind) || decide (n = 0) then
    s'.modTier (fun z => { z with schedErr := s.tier.schedHead, schedBad := true })
  else if s.time.step + field bs 3 1 < field bs 0x10 8 then s
  else
    let tiles := (List.range n).map (o.base * 512 + first + ·)
    if kind = 1 then tiles.foldl State.releaseTile s'
    else
      let due := field bs 0x10 8
      let (l, s) := State.schedTiles (due + field bs 0xC 1 + 1) tiles s'
      if l.isEmpty then s
      else (s.modTier (fun z => { z with active := z.active ++ [⟨l, due, field bs 0xC 1, false⟩] })).judgeSched s.time.step

/-- SCHED_ENTRY_ACTIVATE (R279): up to 64 entries are active. -/
def execSchedEntryActivate (s : State) : Host.Outcome State Fault Refusal :=
  .next (
    let z := s.tier
    if !s.running || !z.schedEnable || decide (z.schedHead = z.schedTail) || decide (64 ≤ z.active.length) then s
    else
      let pa := z.schedBase.toNat + 32 * (z.schedHead.toNat % z.schedSize)
      if s.hostClosed pa || !s.readReady true pa 32 then s
      else if s.readPoison true pa 32 then
        s.modTier (fun z => { z with schedHead := z.schedHead + 1, schedErr := z.schedHead, schedBad := true })
      else (s.didRead pa 32).takeSched (s.readPhys true pa 32))

/-- PROTECTION_EXPIRE (R280): 2^24 ticks from a tile's promotion. -/
def execProtectionExpire (t : Nat) (s : State) : Host.Outcome State Fault Refusal :=
  .next (
    let x := s.tile t
    if x.protTill.isSome && decide (x.protAt + 2 ^ 24 ≤ s.drone) then
      ((s.setTile t { x with protTill := none }).countLate t).serveTier
    else s)

/-- The start of a step ends protections and judges what was to be resident (R279). -/
def State.tierStep (s : State) (step : Nat) : State :=
  let ended := (s.tier.tiles.filter (fun e => e.2.protTill.any (fun n => decide (n ≤ step)))).map Prod.fst
  let s := ended.foldl (fun s t => s.setTile t { s.tile t with protTill := none }) s
  (s.judgeSched step).serveTier

/-! ### STRIPED regions (R281, R282) -/

/-- Whether a LOAD's source is 4 GiB wholly inside populated DDR5 or direct HBM (R282). -/
def State.sourceOk (s : State) : Bool :=
  match s.backed s.tier.regionSrc.toNat (2 ^ 32) with
  | some .ddr => true
  | some (.hbm _) => true
  | _ => false

/-- Rejects a region operation (R282, Table TIR-10). -/
def State.rejectRegion (s : State) (code : Nat) : State := s.modTier (fun z => { z with regionErr := code })

/-- Whether a tile is of a region of 4 GiB. -/
def inRegion (r t : Nat) : Bool := decide (t / 2 ^ 20 = r)

/-- The bytes of a region leave memory with their lines, its slots are free, and its promotions are discarded (R282); its
tiles have reached U or F for every MIGRATE (R265). -/
def State.clearRegion (s : State) (r : Nat) : State :=
  let held := (s.tier.tiles.map Prod.fst).filter (inRegion r)
  let s := held.foldl (fun s t => (((s.recallTile t).extDropTile (s.tierHome (t / 4)) t).fillZero t).noteFlash t) s
  s.modTier (fun z =>
    { z with tiles := z.tiles.filter (fun e => !(inRegion r e.1)),
             slots := z.slots.filter (fun e => !(inRegion r (e.2.group * 4))),
             readQ := z.readQ.filter (fun e => !(inRegion r e.1)) })

/-- Starts a region operation (R282): the region is LOADING until it ends; the source is that of now. -/
def State.startRegion (s : State) (r : Nat) (load : Bool) : State :=
  (s.clearRegion r).modTier (fun z =>
    { z with regionErr := 0, regionOp := some (r, load, z.regionSrc.toNat), regions := Table.put 0 z.regions r 1 })

/-- The fields of PKG_TIER_REGION_CMD after a write (Table TIR-11): a reserved op leaves its field unchanged (00_scope.md
R14). -/
def Tier.keepRegionCmd (z : Tier) (op r : Nat) : Tier :=
  { z with regionCmd := unlessReserved (decide (op ≠ 1 ∧ op ≠ 2)) z.regionCmd op, regionNum := r }

/-- A write of PKG_TIER_REGION_CMD with go (R282, Table TIR-11). -/
def State.regionCmd (s : State) (r op : Nat) : State :=
  let s := s.modTier (fun z => z.keepRegionCmd op r)
  if !s.striped then s.rejectRegion 5
  else if op ≠ 1 ∧ op ≠ 2 then s.rejectRegion 6
  else if s.tier.regionOp.isSome then s.rejectRegion 2
  else if 1983 < r then s.rejectRegion 3
  else if op = 1 ∧ !s.sourceOk then s.rejectRegion 1
  else s.startRegion r (decide (op = 1))

/-- REGION_LOAD (R282). -/
def execRegionLoad (p : Port) (r : Nat) (s : State) : Host.Outcome State Fault Refusal :=
  .next (if s.mayWrite p then s.regionCmd r 1 else s)

/-- REGION_ERASE (R282). -/
def execRegionErase (p : Port) (r : Nat) (s : State) : Host.Outcome State Fault Refusal :=
  .next (if s.mayWrite p then s.regionCmd r 2 else s)

/-- The newest bytes of memory, each line that a cache holds dirty in its place. -/
def State.newestMem (s : State) (lo hi : Nat) : List Host.Cell :=
  let ls := (s.coh.lines.map (fun e => e.1 % 2 ^ 42)).filter (fun l => decide (lo ≤ l * 64) && decide (l * 64 < hi))
  (ls.foldl (fun t l => t.setBytes (l * 64) (s.newest l).1) s).mem

/-- The entries of a table in a range, moved to another place. -/
def Table.slice {α : Type} (t : Table α) (lo n to_ : Nat) : Table α :=
  ((t.from lo).below (lo + n)).map (fun (e : Nat × α) => (e.1 - lo + to_, e.2))

/-- Puts a slice into a table in place of what stood there. -/
def Table.patch {α : Type} (t : Table α) (lo n : Nat) (p : Table α) : Table α := t.below lo ++ (p ++ t.from (lo + n))

/-- The flash of a region after a LOAD: its source's bytes, and the poison of every tile with a poisoned sector
(R263, R282). An ERASE leaves none. -/
def State.programRegion (s : State) (r : Nat) (load : Bool) (src : Nat) : State :=
  let lo := tierBase + r * 2 ^ 32
  let data := if load then Table.slice (s.newestMem src (src + 2 ^ 32)) src (2 ^ 32) lo else []
  let bad := if load then
      ((s.poison.filter (fun e => e.2 && decide (src ≤ e.1 * 64) && decide (e.1 * 64 < src + 2 ^ 32))).map
        (fun e => r * 2 ^ 20 + (e.1 * 64 - src) / 4096)).dedup
    else []
  { s with flash := Table.patch s.flash lo (2 ^ 32) data,
           flashPoison := Table.patch s.flashPoison (r * 2 ^ 20) (2 ^ 20) (bad.map (fun t => (t, true))) }

/-- The lowest spare block of a plane that is not in use and not retired (R261). -/
def Channel.planeSpare (c : Channel) (plane : Nat) : Option Nat :=
  ((List.range 64).map (1984 + ·)).find? (fun b =>
    !(c.retired.contains (plane * 2048 + b)) && !(c.remap.any (fun e => decide (e.1 / 2048 = plane) && decide (e.2 = b + 1))))

/-- The block of a region in a plane of a channel fails: it is retired, and a spare of the plane takes its place; false
where none is left (R261, R282). -/
def State.failBlock (s : State) (r ch plane : Nat) : Bool × State :=
  let c := s.tier.channel ch
  let k := plane * 2048 + r
  let v := Table.get 0 c.remap k
  let bad := plane * 2048 + (if v = 0 then r else v - 1)
  let s := (s.modChannel ch (fun c => { c with retired := bad :: c.retired, spare := c.spare - 1 })).countRetired ch (flashRec 0 0x0003 ch 0)
  match c.planeSpare plane with
  | some b => (true, s.modChannel ch (fun c => { c with remap := Table.put 0 c.remap k (b + 1) }))
  | none => (false, s)

/-- The blocks that fail in a region operation, each as its channel and plane; false where a plane has no spare. -/
def State.failBlocks (s : State) (r : Nat) : List (Nat × Nat) → Bool × State
  | [] => (true, s)
  | (ch, plane) :: l =>
    let (a, s) := s.failBlock r ch plane
    let (b, s) := s.failBlocks r l
    (a && b, s)

/-- The blocks of a region, one in each plane of each channel, are erased; a LOAD programs 262,144 pages (R261,
R282). -/
def State.wearRegion (s : State) (r : Nat) (load : Bool) : State :=
  let s := (List.range 64).foldl (fun s ch => s.modChannel ch (fun c =>
    (List.range 4).foldl (fun c p =>
      let v := Table.get 0 c.remap (p * 2048 + r)
      c.erased (p * 2048 + (if v = 0 then r else v - 1))) c)) s
  if load then
    (List.range 2).foldl (fun s x => s.modFlashDie x (fun f => { f with programs := satAdd 0xFFFFFFFF f.programs 131072 })) s
  else s

/-- REGION_OP_DONE (R282): READY after a LOAD, EMPTY after an ERASE; FAILED where a plane has no spare for a block that
failed. -/
def execRegionOpDone (fails : List (Nat × Nat)) (s : State) : Host.Outcome State Fault Refusal :=
  .next (
    match s.tier.regionOp with
    | none => s
    | some (r, load, src) =>
      if s.boot.held then s
      else
        let (ok, s) := s.failBlocks r fails
        let s := s.wearRegion r load
        let s := if ok then s.programRegion r load src else s
        (s.modTier (fun z =>
          { z with regionOp := none, regionErr := if ok then 0 else 4,
                   regions := Table.put 0 z.regions r (if ok then (if load then 2 else 0) else 3) })).serveTier.wakeHomes)

end Sys2Proof.Machine
end

