-- ==== Sys2Proof/Machine/WindowOps.lean ====
section
/-! DEFINITION. Receive windows: opening, closing, judging packets and taking them
(08_memory_model.md R243 to R248; 13_axis_links_and_drone.md R367, R368, R381). -/

namespace Sys2Proof.Machine

/-! ### Opening and closing -/

/-- Bytes of a record at a window's stride code (13 Table AXL-10). -/
def strideBytes (n : Nat) : Nat := if n = 1 then 64 else if n = 2 then 320 else 0

/-- The extent check of a window that is opened (R243, R381): its data extent, and its record extent where it
has a stride. None where the window does not open. -/
def State.windowExts (s : State) (x : Window) (ctx : Nat) : Option (Extent × Option Extent) :=
  if x.size.toNat = 0 then none
  else
    match s.checkDirect ctx needWrite x.base.toNat x.size.toNat with
    | .ok e =>
      if x.stride = 0 then some (e, none)
      else
        match s.checkDirect ctx needWrite x.recBase.toNat (strideBytes x.stride * (x.size.toNat / 4096)) with
        | .ok r => some (e, some r)
        | _ => none
    | _ => none

/-- A window that is closed. -/
def Window.close (x : Window) : Window := { x with opened := false, ext := none, recExt := none }

/-! ### Judging a packet -/

/-- What a window does with a packet (R246, R247). -/
inductive Verdict where
  | dropClosed
  | dropStale
  | dropBeyond
  | overLimit
  | accept (e : Extent)

/-- The verdict on a packet of an epoch, offset and length (R246, R247). -/
def Window.judge (x : Window) (epoch : Half) (offset len : Nat) : Verdict :=
  match x.opened, x.ext with
  | true, some e =>
    if x.epoch ≠ epoch then .dropStale
    else if x.size.toNat < offset + len then .dropBeyond
    else if x.limit ≠ 0xFFFFFFFFFFFF ∧ x.limit.toNat < x.bytes.toNat + len then .overLimit
    else .accept e
  | _, _ => .dropClosed

/-- Counts a drop (R246, Table MEM-9). -/
def Window.countDrop (x : Window) : Verdict → Window
  | .dropClosed => { x with closed := satAdd 0xFF x.closed 1 }
  | .dropStale => { x with stale := satAdd 0xFFFF x.stale 1 }
  | .dropBeyond => { x with beyond := satAdd 0xFF x.beyond 1 }
  | _ => x

/-- Whether a window lies in the tiered range while that takes no writes: one that was opened before is treated as
closed (09_memory_tiers.md R272; log entry 187). -/
def State.windowShut (s : State) (x : Window) : Bool :=
  s.tierReadOnly && [x.ext, x.recExt].any (fun o => o.any (fun (e : Extent) => decide (e.tier = 2)))

/-- The verdict of a quad's window on a packet. -/
def State.judgeAt (s : State) (q w : Nat) (epoch : Half) (offset len : Nat) : Verdict :=
  if s.windowShut (s.window q w) then .dropClosed else (s.window q w).judge epoch offset len

/-- Whether a write from a die into a window's extent can go now (01 R19, R25, 09 R267, 12 R339, R353). -/
def State.windowReady (s : State) (from_ : Nat) (e : Extent) (pa n : Nat) : Bool :=
  !(s.hostClosed pa) && (decide (n = 0) || (s.dieReachesAll from_ pa n && s.writeReady e.coherent pa n))

/-- The counters and the linked object of a window after a message of n bytes (R244). -/
def State.windowCount (s : State) (q w n : Nat) : State :=
  let x := s.window q w
  let s := s.modWindow q w (fun x => { x with bytes := x.bytes + BitVec.ofNat 48 n, packets := x.packets + 1 })
  if x.linkEn then s.syncOp x.link ⟨.quad q, .package, false, 1⟩ else s

/-- A record as the window writes it: producer 0xFF and a new rec_crc, the rest as sent (13 R367). -/
def windowRec (r : List Byte) : List Byte :=
  let b := r.take 12 ++ [0xFF] ++ (r.drop 13).take 47
  b ++ leBytes 4 (crc32c b).toNat ++ r.drop 64

/-- Where a window writes a packet's record: its record extent and the address, where the window takes it (13 R367). -/
def Window.recordAt (x : Window) (p : Packet) : Option (Extent × Nat) :=
  x.recExt.bind (fun r =>
    if p.rcd.length = strideBytes x.stride ∧ p.offset % 4096 = 0 then
      some (r, r.pa + strideBytes x.stride * (p.offset / 4096))
    else none)

/-- Writes a packet's data, and its record where the window takes it (13 R367, 08 R244). -/
def State.windowWrite (s : State) (x : Window) (e : Extent) (p : Packet) : State :=
  let s := if p.data.isEmpty then s else s.writePhys e.coherent (e.pa + p.offset) p.data
  match x.recordAt p with
  | some (r, pa) => s.writePhys r.coherent pa (windowRec p.rcd)
  | none => s

/-- Whether a packet's data and record can be written now, from the quad that translates its offset (10_segments.md
R304; log entry 186). -/
def State.packetReady (s : State) (q : Nat) (x : Window) (e : Extent) (p : Packet) : Bool :=
  s.windowReady (q / 16) e (e.pa + p.offset) p.data.length &&
  (x.recordAt p).all (fun r => s.windowReady (q / 16) r.1 r.2 p.rcd.length)

/-- Answers a packet (13 R368). -/
def State.answer (s : State) (p : Packet) (kind : PacketKind) (status : Nat) : State :=
  s.route 6 (respond p s.self kind status)

/-- Tries to take one packet: none where it must be held, at its limit or for memory (R244, R246, R247). -/
def State.takePacket (s : State) (q w : Nat) (p : Packet) : Option State :=
  let x := s.window q w
  match s.judgeAt q w p.epoch p.offset p.data.length with
  | .overLimit => none
  | .accept e =>
    if s.packetReady q x e p then
      some (((s.windowWrite x e p).windowCount q w p.data.length).answer p .ack 0)
    else none
  | v => some ((s.modWindow q w (·.countDrop v)).answer p .nack stEpochStale)

/-- Takes held packets in arrival order until one must wait (R247). -/
def State.takeHeld (s : State) (q w : Nat) : List Packet → State
  | [] => s.modWindow q w (fun x => { x with held := [] })
  | p :: t =>
    match s.takePacket q w p with
    | some s => s.takeHeld q w t
    | none => s.modWindow q w (fun x => { x with held := p :: t })

/-- Judges a window's held packets again. -/
def State.releaseHeld (s : State) (q w : Nat) : State := s.takeHeld q w (s.window q w).held

/-- Closes every window of the package whose extents were translated under a slot (10_segments.md R302); its
held packets are judged against the closed window. -/
def State.closeWindows (s : State) (ctx slot : Nat) : State :=
  (s.quads.flatMap (fun e => (e.2.windows.filter (fun w =>
      [w.2.ext, w.2.recExt].any (fun o => o.any (fun (x : Extent) => decide (x.ctx = ctx) && decide (x.slot = slot))))).map
    (fun w => (e.1, w.1)))).foldl (fun s p => (s.modWindow p.1 p.2 Window.close).releaseHeld p.1 p.2) s

end Sys2Proof.Machine
end

