-- ==== Sys2Proof/Machine/Windows.lean ====
section
/-! DEFINITION. The window commands: control and counter writes, and packets that arrive
(08_memory_model.md R243 to R248; 13_axis_links_and_drone.md R367, R368). -/

namespace Sys2Proof.Machine

/-- A write of QD_WINw_CTRL to a window (R243, Table MEM-9): the context moves only while it is closed, and a
write that opens it checks its extents. -/
def State.writeWindowCtrl (s : State) (q w : Nat) (v : Word) : State :=
  let x := s.window q w
  let n := v.toNat
  let x := { x with linkEn := bit n 30, epoch := BitVec.ofNat 16 (bits n 0 16) }
  if x.opened then s.modWindow q w (fun _ => if bit n 31 then x else x.close)
  else
    let x := { x with context := bits n 16 12 }
    if bit n 31 then
      match s.windowExts x x.context with
      | some (e, r) => s.modWindow q w (fun _ => { x with opened := true, ext := some e, recExt := r })
      | none => s.modWindow q w (fun _ => x)
    else s.modWindow q w (fun _ => x)

/-- WINDOW_CTRL_WRITE (R243, R381): packets held at the limit are judged against the new value. -/
def execWindowCtrlWrite (p : Port) (q w : Nat) (v : Word) (s : State) : Host.Outcome State Fault Refusal :=
  .next (if s.mayWrite p && s.quadOpen q && decide (w < 32) then (s.writeWindowCtrl q w v).releaseHeld q w else s)

/-- A write of a window's counter or limit (R248, Table MEM-9). -/
def Window.writeCounter (x : Window) (r : WindowCounter) (v : Word) : Window :=
  match r with
  | .bytesLo => { x with bytes := setLo48 x.bytes v 0 }
  | .bytesHi => { x with bytes := setHi48 x.bytes v }
  | .pkts => { x with packets := v }
  | .limitLo => { x with limit := setLo48 x.limit v 0 }
  | .limitHi => { x with limit := setHi48 x.limit v }

/-- WINDOW_COUNTER_WRITE (R248, R247). -/
def execWindowCounterWrite (p : Port) (q w : Nat) (r : WindowCounter) (v : Word) (s : State) :
    Host.Outcome State Fault Refusal :=
  .next (if s.mayWrite p && s.quadOpen q && decide (w < 32) then
      (s.modWindow q w (·.writeCounter r v)).releaseHeld q w
    else s)

/-- A packet that arrives at its window: behind held packets it waits, and one that must be held is held
(R244, R247). -/
def State.arrive (s : State) (q w : Nat) (p : Packet) : State :=
  let s := s.releaseHeld q w
  let hold := s.modWindow q w (fun x => { x with held := x.held ++ [p] })
  if (s.window q w).held.isEmpty then (s.takePacket q w p).getD hold else hold

/-- PACKET_DELIVER (R244; 13 R367): a DATA or INLINE packet at the package it names. A quad that does not
exist counts as one whose windows are closed. -/
def execPacketDeliver (pk : Packet) (s : State) : Host.Outcome State Fault Refusal :=
  .next (if !s.running || isResponse pk || decide (pk.dest ≠ s.self) then s
    else if s.present pk.dquad && decide (pk.window < 32) then s.arrive pk.dquad pk.window pk
    else s.answer pk .nack stEpochStale)

end Sys2Proof.Machine
end

