-- ==== Sys2Proof/Machine/Reset.lean ====
section
/-! DEFINITION. The four reset levels, what each clears and keeps, and their ends (18_boot_and_reset.md R462 to R467,
R471 to R473, Table BRT-3; 12_coherence.md R353; 15_resilience.md R417; 09_memory_tiers.md R265). -/

namespace Sys2Proof.Machine

/-- Whether a reset from PKG_RST_CTRL runs (Table BRT-7). -/
def State.resetBusy (s : State) : Bool := s.boot.hostBusy || !s.boot.diesInReset.isEmpty

/-- Whether a port's write of go to PKG_RST_CTRL acts (R464, R473). -/
def State.mayReset (s : State) (p : Port) : Bool := s.mayManage p && !s.resetBusy

/-! ### Package reset -/

/-- A tile after the tier's map has been rebuilt: its programmed copy, if any, is all that is left (09 R265). -/
def Tile.rebuilt (x : Tile) : Option Tile := if x.inFlash then some { Tile.fresh with st := .f, inFlash := true } else none

/-- A flash channel after package reset: unprogrammed write groups are lost (09 R265). -/
def Channel.restarted (c : Channel) : Channel := { c with open_ := [], firstAt := 0, programming := [] }

/-- The tier after package reset (Table BRT-3; 09 R265, Tables TIR-10 and TIR-14): what flash holds stays; read_only
reads 0 until boot has the flash again. -/
def Tier.restarted (z : Tier) : Tier :=
  { Tier.reset with
    tiles := if z.formatted.1 = 1 then []
             else z.tiles.filterMap (fun e => e.2.rebuilt.map (fun x => (e.1, x))),
    placed := z.placed,
    channels := Table.mapVals Channel.reset Channel.restarted z.channels,
    regions := z.regions,
    flash := Table.mapVals FlashDie.reset (fun f => { FlashDie.reset with retired := f.retired }) z.flash,
    formatted := z.formatted,
    checkpoints := z.checkpoints }

/-- A region whose load a reset cut off is EMPTY or FAILED: the spec gives it no state, so the choice is free. -/
def State.settleRegions (s : State) : State :=
  (s.tier.regions.filter (fun e => decide (e.2 = 1))).foldl (fun s e =>
    let (b, s) := s.drawNat 2
    s.modTier (fun z => { z with regions := Table.put 0 z.regions e.1 (if b = 0 then 0 else 3) })) s

/-- What survives package reset in the configuration unit: fuses, board store and field record (Table BRT-3). The
enabled quads read the ordering code's count, the one any image it accepts gives (00_scope.md R5, Table SCP-3). -/
def Cfg.restarted (c : Cfg) : Cfg :=
  { Cfg.reset with
    orderingCode := c.orderingCode, siliconRev := c.siliconRev, iana := c.iana, keys := c.keys, minSvn := c.minSvn,
    quadsEnabled := if c.orderingCode = 0 then 64 else 56, field := c.field, store := c.store }

/-- The state after a package reset (Table BRT-3), with what the cause leaves in PKG_RST_CAUSE, and whether power
was lost, which takes ERR_FATAL_LAST, fatal_more, the fatal bit and THERMTRIP_N with it (R473; 15 R417; 16 R435,
R437). -/
def State.restart (s : State) (cause : Boot) (powerLost : Bool) : State :=
  let s := s.settleRegions
  { State.reset with
    pending := s.pending, free := s.free, flash := s.flash, flashPoison := s.flashPoison, out := s.out,
    tier := s.tier.restarted,
    cfg := s.cfg.restarted,
    log := if powerLost then ErrLog.reset
           else { ErrLog.reset with fatalMore := s.log.fatalMore, fatalLast := s.log.fatalLast },
    power := { Power.reset with trip := s.power.trip && !powerLost },
    boot := { cause with afterFatal := (s.boot.afterFatal || s.log.fatal) && !powerLost,
                         thermtrip := s.boot.thermtrip && !powerLost } }

/-- The reset registers of each cause (Table BRT-7): PWR_GOOD and PKG_RST_N hold the package until its release;
PKG_RST_CTRL leaves the straps as they were sampled (19_signals_and_mechanical.md R480). -/
def Boot.causedBy (b : Boot) : ResetCause → Boot
  | .powerGood => { Boot.reset with held := true }
  | .pin => { Boot.reset with held := true, powerOn := false, pin := true }
  | .ctrl _ => { Boot.reset with powerOn := false, mgmt := true, straps := b.straps }

/-- Whether power was lost when PWR_GOOD fell: after a trip it was (16 R435); otherwise the fall alone does not say,
and the choice is free. -/
def State.powerLost (s : State) : Bool × State :=
  if s.boot.thermtrip then (true, s)
  else
    let (b, s) := s.drawNat 2
    (decide (b = 0), s)

/-- PACKAGE_RESET (R462, R464). -/
def execPackageReset (c : ResetCause) (s : State) : Host.Outcome State Fault Refusal :=
  .next (
    match c with
    | .powerGood =>
      let (lost, s) := s.powerLost
      s.restart (s.boot.causedBy c) lost
    | .pin => s.restart (s.boot.causedBy c) false
    | .ctrl p => if s.mayReset p then s.restart (s.boot.causedBy c) false else s)

/-- PACKAGE_RESET_RELEASE (19 R480; R468): the straps are sampled and boot starts. -/
def execPackageResetRelease (straps : BitVec 16) (s : State) : Host.Outcome State Fault Refusal :=
  .next (if s.boot.held then s.modBoot (fun b => { b with held := false, straps := straps }) else s)

/-! ### Quads -/

/-- Aborts a queue and ends what still runs of it (R466; 07_commands_and_queues.md R220). -/
def State.killQueue (s : State) (q j : Nat) : State :=
  let x := s.queue q j
  let s := if x.state = .running ∨ x.state = .stopping then s.abortQueue q j false else s
  (s.queue q j).cmds.foldl (fun s c => s.endCmd q j c stAborted 0) s

/-- Closes a window; packets held at it meet it closed (08_memory_model.md R246). -/
def State.shutWindow (s : State) (q w : Nat) : State := (s.modWindow q w Window.close).releaseHeld q w

/-- A quad's registers after a reset: its suspicion stays (Table BRT-3). -/
def Quad.restarted (x : Quad) : Quad := { Quad.reset with score := x.score, suspect := x.suspect }

/-- Aborts a quad's queues, closes its windows and resets its registers (R466, Table BRT-3). -/
def State.resetQuad (s : State) (q : Nat) : State :=
  let s := (List.range 16).foldl (fun s j => s.killQueue q j) s
  let s := (List.range 32).foldl (fun s w => s.shutWindow q w) s
  let at_ := 0x1000000 * (q / 16 + 1) + 0x100000 + q % 16 * 0x10000
  { s with latches := Table.drop s.latches at_ 0x10000 }.modQuad q Quad.restarted

/-- QUAD_RESET (R466): an absent quad is ignored (R473). -/
def execQuadReset (p : Port) (q : Nat) (s : State) : Host.Outcome State Fault Refusal :=
  .next (if s.mayReset p && s.boot.done && s.quadOpen q then s.resetQuad q else s)

/-! ### Compute dies -/

/-- Zeroes a range of memory, poison with it. -/
def State.zeroMem (s : State) (pa n : Nat) : State :=
  { s with mem := Table.drop s.mem pa n, poison := Table.drop s.poison (pa / 64) (n / 64) }

/-- The lines that a die's homes hold anything of. -/
def State.linesHomed (s : State) (d : Nat) : List Nat :=
  (((s.coh.dir.map Prod.fst) ++ (s.coh.lines.map (fun (e : Nat × Line) => e.1 % 2 ^ 42))).filter
    (fun l => decide (s.homeOf l / 4 = d))).dedup

/-- Whether a die's homes have a transaction open. -/
def State.homesBusy (s : State) (d : Nat) : Bool :=
  s.coh.txns.any (fun e => e.2.isSome && decide (s.homeOf e.1 / 4 = d))

/-- A compute-die reset (R465): its quads stop, its homes recall their lines, its extension goes home, and its
scratch, pool and sync objects clear. Waits registered at its homes are kept for its return. -/
def State.resetDie (s : State) (d : Nat) : State :=
  let s := (List.range 16).foldl (fun s l => s.resetQuad (16 * d + l)) s
  let s := (s.linesHomed d).foldl (fun s l => s.purge l true) s
  let s := { s with ext := s.ext.filter (fun e => decide (e.1 / 16 / 2 ^ 24 ≠ d)), extLfsr := Table.put 1 s.extLfsr d 1 }
  let s := (s.zeroMem (0x180000000000 + 16 * d * 0x2000000) (16 * 0x2000000)).zeroMem (0x180080000000 + d * 0x8000000) 0x8000000
  let waits := s.regsOf d
  let s := { s with sync := Table.drop s.sync (4096 * d) 4096, regs := Table.put [] s.regs d [] }
  s.modBoot (fun b => { b with diesInReset := b.diesInReset ++ [d], rewaits := b.rewaits ++ waits })

/-- COMPUTE_DIE_RESET (R465, R464): it starts once the die's homes have no transaction open. -/
def execComputeDieReset (p : Port) (d : Nat) (s : State) : Host.Outcome State Fault Refusal :=
  .next (if s.mayReset p && s.boot.done && decide (d < 4) && !s.homesBusy d then s.resetDie d else s)

/-- The lowest-numbered spare of a die that passes self-test (17_configuration_and_security.md R445). -/
def State.goodSpare (s : State) (d : Nat) (failed : Nat → Bool) : Option Nat :=
  (List.range 18).find? (fun p => decide (s.physState d p = 1) && !failed p)

/-- Marks a physical quad's state (15_resilience.md Table RES-6). -/
def State.setPhys (s : State) (d p v : Nat) : State :=
  s.modBoot (fun b => { b with physState := Table.put 0 b.physState (d * 18 + p) v })

/-- A physical quad that failed self-test: never mapped; where it was active, a spare takes its place or its logical
quad is absent (15 R408, R410; 17 R445). -/
def State.failPhys (s : State) (d : Nat) (failed : Nat → Bool) (p : Nat) : State :=
  if s.physState d p = 0 then
    let l := s.physLocal d p
    match s.goodSpare d failed with
    | some r => ((s.setPhys d p 3).setItem ⟨2, 1, d * 32 + r, BitVec.ofNat 32 l⟩).modQuad (16 * d + l) (fun _ => Quad.reset)
    | none => s.setPhys d p 3
  else if s.physState d p = 1 then s.setPhys d p 3
  else s

/-- Self-test of a die's physical quads: those of the list failed. -/
def State.selfTest (s : State) (d : Nat) (failed : Nat → Bool) : State :=
  (List.range 18).foldl (fun s p => if failed p then s.failPhys d failed p else s) s

/-- Whether a registration's command still waits on it. -/
def State.stillWaits (s : State) (r : Reg) : Bool :=
  match (s.queue r.q r.j).slot with
  | some c => decide (c.idx = r.idx) && decide (c.phase = .waitCond) && c.conds.head? == some r.cond
  | none => false

/-- Tests a wait again against the value 0; it registers again where the test fails (R465). -/
def State.rewait (s : State) (r : Reg) : State :=
  if !s.stillWaits r then s else if r.cond.met 0 then s.wake r else s.register r

/-- The return of a die: its quads are retested, waits are tested again, and operations that waited at its objects go
on (R465). -/
def State.dieReturns (s : State) (d : Nat) (ok : List Bool) : State :=
  let s := s.selfTest d (fun p => !(ok.getD p true))
  let s := s.modBoot (fun b => { b with diesInReset := b.diesInReset.filter (· ≠ d) })
  let mine := s.boot.rewaits.filter (fun r => decide (objDie r.cond.obj = d))
  let s := s.modBoot (fun b => { b with rewaits := b.rewaits.filter (fun r => decide (objDie r.cond.obj ≠ d)) })
  let s := mine.foldl State.rewait s
  s.releaseSync.wakeHomes

/-- DIE_RESET_DONE (R465). -/
def execDieResetDone (d : Nat) (selfTest : List Bool) (s : State) : Host.Outcome State Fault Refusal :=
  .next (if s.boot.diesInReset.contains d then s.dieReturns d selfTest else s)

/-! ### The host complex -/

/-- Closes one transaction as the host complex goes down: it is poisoned where it needed data that a caching agent
had not given (12 R353). -/
def State.cutTxn (s : State) (line : Nat) : State :=
  match s.txn line with
  | none => s
  | some t =>
    let owner := (s.dirEntry line).owner
    let needs := !t.awaitWb.isEmpty || t.waits.any (fun w => decide (owner = some w.1))
    let s := if needs then (s.poisonLine line 3 (owner.getD 0xFF)).homeRec line (owner.getD 0xFF) else s
    let s := s.modTxn line (fun t => { t with waits := [], awaitWb := [], poison := t.poison || needs })
    let s := match s.txn line with
      | some t => if t.answered then s else (s.serve line t).2
      | none => s
    s.setTxn line none

/-- Poisons a line whose entry names a caching agent as owner (12 R353). -/
def State.loseOwner (s : State) (line : Nat) : State :=
  match (s.dirEntry line).owner with
  | some o => (s.poisonLine line 3 o).homeRec line o
  | none => s

/-- Whether a message goes to a requester without a cache. -/
def Msg.toCacheless : Msg → Bool
  | .cmp (.cacheless _) _ _ _ => true
  | .datHome (.cacheless _) _ _ _ _ => true
  | _ => false

/-- Whether a request waits at a home that stays open, from a requester that is no caching agent. -/
def State.keepsWaiting (s : State) (w : Nat × Requester × Req) : Bool :=
  decide (s.homeOf w.1 / 4 < 4) && (match w.2.1 with | .cacheless _ => true | .agent _ => false)

/-- The host complex goes down (R467; 12 R353): homes close, cores stop, and every caching agent is dropped. -/
def State.hostDown (s : State) : State :=
  let s := (s.modCoh (fun c => { c with closed := true })).modBoot (fun b => { b with hostHeld := true })
  let s := s.modCoh (fun c => { c with waiting := c.waiting.filter s.keepsWaiting, retryQ := [], reserved := [] })
  let s := (s.coh.txns.map Prod.fst).foldl State.cutTxn s
  let s := (s.coh.dir.map Prod.fst).foldl State.loseOwner s
  let s := s.modCoh (fun c =>
    { c with lines := [], dir := [], msgs := c.msgs.filter Msg.toCacheless, stale := [], dead := [] })
  { s with cores := [], hostDies := [], routes := [], scWays := [], scTrees := [], streams := [] }

/-- HOST_COMPLEX_RESET (R464, R467): an assertion while the complex is in reset extends it. -/
def execHostComplexReset (src : HostResetSource) (s : State) : Host.Outcome State Fault Refusal :=
  .next (
    let ok := match src with
      | .pin => !s.boot.held
      | .ctrl p => s.mayReset p
    let ctrl := match src with
      | .pin => false
      | .ctrl _ => true
    if !ok || !s.boot.done || s.coh.closed then s
    else s.hostDown.modBoot (fun b =>
      { b with hostBusy := ctrl, hostResets := satAdd 0xFF b.hostResets 1 }))

/-- RST_CAUSE_FATAL_CLEAR (R473, 15 R417). -/
def execRstCauseFatalClear (p : Port) (s : State) : Host.Outcome State Fault Refusal :=
  .next (if s.mayManage p then
      (s.modBoot (fun b => { b with afterFatal := false })).modLog (fun l => { l with fatalLast := [], fatalMore := 0 })
    else s)

end Sys2Proof.Machine
end

