-- ==== Sys2Proof/Machine/Transactions.lean ====
section
/-! DEFINITION. The management semaphore and configuration transactions: items and their ranges, staging,
verification, the commit phase and the apply (17_configuration_and_security.md R444 to R450, R453;
15_resilience.md R408 to R410). -/

namespace Sys2Proof.Machine

/-! ### Answers -/

/-- The number of a management port: 0 for MGMT_A, 1 for MGMT_B. -/
def portNo : Port → Option Nat
  | .mgmtA => some 0
  | .mgmtB => some 1
  | .core _ => none
  | .pcie _ => none

/-- Answers a management request (17 R452, Table CFG-7); other ports send none. -/
def State.reply (s : State) (p : Port) (r : Response) : State :=
  match portNo p with
  | some n => s.modCfg (fun c => { c with answers := Table.put Response.none c.answers n r })
  | none => s

/-- An answer of a code alone. -/
def State.replyCode (s : State) (p : Port) (code : Nat) : State := s.reply p { Response.none with code := code }

/-- A record of the configuration unit (R441, R445, R447, R450). -/
def cfgRec : ErrRec := errRec 0 0x18 0x0004 6 0xFF

/-- A message that only an open management unit answers (18_boot_and_reset.md R468). -/
def State.whenOpen (s : State) (p : Port) (f : State → State) : State :=
  if s.mgmtOpen && (portNo p).isSome then f s else s

/-- A message that recovery answers too (R441). -/
def State.whenOpenOrRecovery (s : State) (p : Port) (f : State → State) : State :=
  if (s.mgmtOpen || (!s.boot.held && s.boot.recovery)) && (portNo p).isSome then f s else s

/-- A message that needs the semaphore: NO_SEM from another port (Table CFG-7). -/
def State.withSem (s : State) (p : Port) (f : State → State) : State :=
  if s.holdsSem p then f s else s.replyCode p ccNoSem

/-! ### Items (Table CFG-4) -/

/-- Whether an index names a physical quad: die × 32 + physical quad. -/
def physIndex (i : Nat) : Bool := decide (i / 32 < 4) && decide (i % 32 < 18)

/-- Table PWR-1's cap of a mode for an ordering code. -/
def fullCap (ordering mode : Nat) : Nat := itemDefault ordering 6 2 mode

/-- Whether an item is known and its index and value lie in their ranges (Table CFG-3 code 2, Table CFG-4). A local
index at or above the enabled count is for code 4 (00_scope.md R5). -/
def itemOk (ordering : Nat) (it : CfgItem) : Bool :=
  let i := it.index
  let v := it.value.toNat
  let zero := decide (i = 0)
  let k := it.sect * 256 + it.code
  if k = 0x201 then physIndex i && decide (v < 32)
  else if k = 0x202 then zero && decide (v < 2)
  else if k = 0x203 then zero && decide (v < 16)
  else if k = 0x204 then zero && decide (v < 2)
  else if k = 0x210 then physIndex i
  else if k = 0x301 then decide (i < 4) && decide (v ≤ 16)
  else if k = 0x302 then decide (i < 4) && [2, 4, 8, 16].contains v
  else if k = 0x303 then decide (i < 2) && decide (2 ≤ v) && decide (v ≤ 16)
  else if k = 0x304 then decide (i < 2) && (decide (v = 0) || (decide (2 ≤ v) && decide (v ≤ 14)))
  else if k = 0x305 then decide (i < 2) && decide (v < 65536)
  else if k = 0x306 then decide (i < 4) && decide (v < 65536)
  else if k = 0x307 then decide (i < 6) && decide (v < 2)
  else if k = 0x308 then zero && decide (v < 2)
  else if k = 0x401 then zero && decide (v < 2 ^ 30)
  else if k = 0x402 then zero && !(bit v 30)
  else if k = 0x403 then zero && decide (v < 64)
  else if k = 0x404 then zero && decide (v < 256)
  else if k = 0x501 then decide (i < 3)
  else if k = 0x502 then zero && decide (v < 3)
  else if k = 0x503 then zero && decide (v < 3)
  else if k = 0x504 then zero && decide (v < 2)
  else if k = 0x601 then zero && decide (v < 3)
  else if k = 0x602 then decide (i < 3) && decide (fullCap ordering i ≤ 2 * v) && decide (v ≤ fullCap ordering i)
  else if k = 0x603 then zero && decide (v < 256)
  else if k = 0x701 then zero && decide (v < 2)
  else if k = 0x702 then zero && decide (v ≤ 12)
  else if k = 0x801 then decide (i < 4) && decide (v < 3)
  else if k = 0x802 then decide (i < 2) && decide (1 ≤ v) && decide (v ≤ 6)
  else if k = 0x810 then decide (i < 64) &&
      (if i % 4 = 0 then decide (v / 4 % 1024 = 0) else if i % 4 = 1 then decide (v < 65536)
       else if i % 4 = 2 then true else decide (v = 0))
  else if k = 0x811 then decide (i < 128) && decide (v % 2 ^ 31 < 1024)
  else if k = 0x812 then decide (i < 512) && decide (v % 2 ^ 31 < 16384)
  else if k = 0x813 then decide (i < 2) && decide (v % 8 < 5) && decide (v / 8 % 32 = 0) && decide (v < 2 ^ 15)
  else if k = 0x814 then decide (i < 8)
  else if k = 0x815 then zero && decide (v < 2)
  else if k = 0x901 then zero && decide (v < 64)
  else false

/-- Whether a transaction may change an item (Table CFG-4): fi_permit may only be cleared. -/
def State.mayStage (s : State) (it : CfgItem) : Bool :=
  let k := it.sect * 256 + it.code
  if k = 0x901 then decide (it.value.toNat &&& s.item 9 1 0 = it.value.toNat)
  else [0x202, 0x203, 0x210, 0x301, 0x302, 0x303, 0x304, 0x305, 0x306, 0x307, 0x602, 0x810, 0x811, 0x812, 0x813,
        0x814].contains k

/-- An item's 8 bytes (R444). -/
def itemBytes (it : CfgItem) : List Byte :=
  leBytes 1 it.code ++ leBytes 1 it.sect ++ leBytes 2 it.index ++ leBytes 4 it.value.toNat

/-- Whether two items set the same thing. -/
def sameItem (a b : CfgItem) : Bool :=
  decide (a.sect = b.sect) && decide (a.code = b.code) && decide (a.index = b.index)

/-- A staged list with an item added: one staged before keeps its place and takes the last value (R446). -/
def stageItem (l : List CfgItem) (it : CfgItem) : List CfgItem :=
  if l.any (sameItem it) then l.map (fun x => if sameItem it x then it else x) else l ++ [it]

/-! ### The end of a transaction -/

/-- Ends a transaction with an outcome (Table CFG-11) and tells both ports. -/
def State.endTxn (s : State) (result : Nat) : State :=
  (s.modCfg (fun c =>
    { c with txnState := 0, txnOwner := 0, txnResult := result, staged := [], applyAt := none })).sendEvent (.txn result)

/-- A rollback (R447): nothing has applied; one that the device makes by itself is logged. -/
def State.rollBack (s : State) (result : Nat) : State :=
  let s := (s.modCfg (fun c => { c with rollbacks := satAdd 0xFFFF c.rollbacks 1 })).endTxn result
  if result = 3 ∨ result = 4 then s.logErr cfgRec else s

/-! ### The semaphore (R453) -/

/-- Ticks of a lease and of a transaction's deadline: 10 s. -/
def leaseTicks : Nat := 10000000000

/-- What every end of a lease does (R453, R447; 13_axis_links_and_drone.md R373). -/
def State.leaseEnds (s : State) : State :=
  let h := s.cfg.holder
  let s := s.modCfg (fun c => { c with holder := 0, leaseEnd := 0, storing := none })
  let s := { s with links := Table.mapVals Link.reset (fun l => { l with fiEnable := false }) s.links }
  let s := if s.cfg.txnState = 1 ∧ s.cfg.txnOwner = h then s.rollBack 4 else s
  s.sendEvent (.leaseEnd h)

/-- The holder code of a port. -/
def holderOf (p : Port) : Nat := (portNo p).elim 0 (· + 1)

/-- SEM_ACQUIRE (R453). -/
def execSemAcquire (p : Port) (s : State) : Host.Outcome State Fault Refusal :=
  .next (s.whenOpenOrRecovery p (fun s =>
    if s.cfg.holder = 0 then
      (s.modCfg (fun c => { c with holder := holderOf p, lastHolder := holderOf p - 1, leaseEnd := s.drone + leaseTicks })).replyCode p ccOk
    else
      let left := s.cfg.leaseEnd - s.drone
      s.reply p { code := ccBusy, words := [BitVec.ofNat 32 s.cfg.holder, loWord left, hiWord left], bytes := [] }))

/-- SEM_RENEW (R453). -/
def execSemRenew (p : Port) (s : State) : Host.Outcome State Fault Refusal :=
  .next (s.whenOpenOrRecovery p (fun s => s.withSem p (fun s =>
    (s.modCfg (fun c => { c with leaseEnd := s.drone + leaseTicks })).replyCode p ccOk)))

/-- SEM_RELEASE (R453). -/
def execSemRelease (p : Port) (s : State) : Host.Outcome State Fault Refusal :=
  .next (s.whenOpenOrRecovery p (fun s => s.withSem p (fun s => s.leaseEnds.replyCode p ccOk)))

/-- LEASE_EXPIRE (R453): the lease's deciding cycle has passed; a renew that arrives in it wins. -/
def execLeaseExpire (s : State) : Host.Outcome State Fault Refusal :=
  .next (if !s.boot.held && decide (s.cfg.holder ≠ 0) && !(s.inTime s.cfg.leaseEnd) then s.leaseEnds else s)

/-! ### Opening, staging, reading and rolling back -/

/-- TXN_BEGIN (R446). -/
def execTxnBegin (p : Port) (s : State) : Host.Outcome State Fault Refusal :=
  .next (s.whenOpen p (fun s => s.withSem p (fun s =>
    if s.cfg.txnState ≠ 0 then s.replyCode p ccBusy
    else (s.modCfg (fun c => { c with txnState := 1, txnOwner := holderOf p, staged := [],
                                      txnDeadline := some (s.drone + leaseTicks) })).replyCode p ccOk)))

/-- A message about the open transaction: BUSY while it commits, INVALID where none is open, DENIED to a port that does
not own it. -/
def State.withTxn (s : State) (p : Port) (f : State → State) : State :=
  s.withSem p (fun s =>
    if s.cfg.txnState = 0 then s.replyCode p ccInvalid
    else if s.cfg.txnState = 2 then s.replyCode p ccBusy
    else if s.cfg.txnOwner ≠ holderOf p then s.replyCode p ccDenied
    else f s)

/-- TXN_STAGE (R446): 1 to 8 items that a transaction may change, 1,024 in all. -/
def execTxnStage (p : Port) (items : List CfgItem) (s : State) : Host.Outcome State Fault Refusal :=
  .next (s.whenOpen p (fun s => s.withTxn p (fun s =>
    let l := items.foldl stageItem s.cfg.staged
    if items.isEmpty || decide (8 < items.length) || decide (1024 < l.length) then s.replyCode p ccInvalid
    else if !(items.all s.mayStage) then s.replyCode p ccDenied
    else (s.modCfg (fun c => { c with staged := l, txnDeadline := some (s.drone + leaseTicks) })).replyCode p ccOk)))

/-- TXN_READ (R446): either port reads the staged list. -/
def execTxnRead (p : Port) (s : State) : Host.Outcome State Fault Refusal :=
  .next (s.whenOpen p (fun s =>
    s.reply p { code := ccOk, words := [], bytes := s.cfg.staged.flatMap itemBytes }))

/-- TXN_ROLLBACK (R447, R448): taken until the apply is scheduled. -/
def execTxnRollback (p : Port) (s : State) : Host.Outcome State Fault Refusal :=
  .next (s.whenOpen p (fun s => s.withSem p (fun s =>
    if s.cfg.txnState = 0 then s.replyCode p ccInvalid
    else if s.cfg.applyAt.isSome then s.replyCode p ccBusy
    else if s.cfg.txnOwner ≠ holderOf p then s.replyCode p ccDenied
    else (s.rollBack 2).replyCode p ccOk)))

/-- TXN_AUTO_ROLLBACK (R447, R448): the deadline's deciding cycle has passed before an apply was scheduled. A message
that arrives in that cycle wins. -/
def execTxnAutoRollback (s : State) : Host.Outcome State Fault Refusal :=
  .next (if !s.boot.held && decide (s.cfg.txnState ≠ 0) && s.cfg.applyAt.isNone && s.cfg.txnDeadline.any (fun t => !(s.inTime t))
    then s.rollBack 3 else s)

/-! ### Verification (R448) -/

/-- The position of the first staged item that a test picks, 0 of none. -/
def State.position (s : State) (f : CfgItem → Bool) : Nat := (s.cfg.staged.findIdx? f).getD 0

/-- Ways of a mask of 16. -/
def maskCount (m : Nat) : Nat := ((List.range 16).filter (bit m)).length

/-- Whether a host die's partitions fit its enabled ways (Table CFG-3 code 4). -/
def State.partitionsFit (s : State) (h : Nat) : Bool :=
  decide (s.item 3 3 h + s.item 3 4 h + maskCount (s.item 3 5 h) ≤ 16)

/-- Whether every valid segment in a die pool lies inside the populated scratch (R448, 10_segments.md R286). -/
def State.poolSegsFit (s : State) : Bool :=
  s.stus.all (fun t => t.2.segs.all (fun e =>
    let g := e.2
    !g.valid || (match regionOf g.pbase with
      | some (.pool _) => (s.backed g.pbase g.len).isSome
      | _ => true)))

/-- A retirement's physical quad must be active (R448). -/
def State.badRetire (s : State) (it : CfgItem) : Bool :=
  decide (it.sect = 2) && decide (it.code = 0x10) && decide (s.physState (it.index / 32) (it.index % 32) ≠ 0)

/-- The failure that verification finds first: code and position, or none (R448, Table CFG-3). -/
def State.verifyTxn (s : State) : Option (Nat × Nat) :=
  let l := s.cfg.staged
  let t := s.asStaged
  let cache := fun (h : Nat) (it : CfgItem) =>
    decide (it.sect = 3) && (decide (it.code = 3) || decide (it.code = 4) || decide (it.code = 5)) && decide (it.index = h)
  if l.any (fun it => !(itemOk s.cfg.orderingCode it)) then some (2, s.position (fun it => !(itemOk s.cfg.orderingCode it)))
  else if !(t.partitionsFit 0) then some (4, s.position (cache 0))
  else if !(t.partitionsFit 1) then some (4, s.position (cache 1))
  else if l.any s.badRetire then some (4, s.position s.badRetire)
  else if !t.poolSegsFit then some (4, s.position (fun it => decide (it.sect = 3) && decide (it.code = 1)))
  else if !(pinsFit t.tierSlots t.tier.objects) then some (4, 0)
  else none

/-- TXN_COMMIT (R448): a failed verification rolls back. A commit that arrives in the deciding cycle of the auto-rollback
deadline wins over it, so that no deadline runs on (R447). -/
def execTxnCommit (p : Port) (s : State) : Host.Outcome State Fault Refusal :=
  .next (s.whenOpen p (fun s => s.withTxn p (fun s =>
    match s.verifyTxn with
    | some (code, pos) =>
      ((s.modCfg (fun c => { c with failCode := code, failItem := pos })).rollBack 5).replyCode p ccDenied
    | none => (s.modCfg (fun c =>
        { c with txnState := 2, txnDeadline := c.txnDeadline.filter (fun t => decide (s.drone < t)) })).replyCode p ccOk)))

/-! ### The commit phase (Table CFG-5) -/

/-- Whether no command of a quad has started. -/
def Quad.idle (x : Quad) : Bool := x.queues.all (fun e => e.2.cmds.all (fun c => decide (c.phase ≠ .running)))

/-- Whether the arrays of a quad are unclaimed. -/
def Quad.arraysFree (x : Quad) : Bool := x.claims.all (fun c => decide (c.1 ≠ stArray0) && decide (c.1 ≠ stArray1))

/-- Whether a quad can be retired: every queue DISABLED and every window closed (15 R408). -/
def Quad.retirable (x : Quad) : Bool :=
  x.queues.all (fun e => decide (e.2.state = .disabled)) && x.windows.all (fun e => !e.2.opened)

/-- Whether a host die's slices have no transaction open on a way that the staged items change. -/
def State.scQuiet (s : State) (h : Nat) : Bool :=
  s.scWays.all (fun e =>
    decide (e.1 / 16 / 3072 / 32 ≠ h) || !(s.wayChanges h (e.1 % 16)) ||
    (decide ((s.line (128 + h) (e.2 - 1)).tr = .stable) && !(s.pinned (e.2 - 1))))

/-- Whether the unit that an item affects is quiet (Table CFG-5). -/
def State.quietFor (s : State) (it : CfgItem) : Bool :=
  let dieIdle := (List.range 16).all (fun l => (s.quad (16 * it.index + l)).idle)
  let k := it.sect * 256 + it.code
  if k = 0x210 then (s.quad (16 * (it.index / 32) + s.physLocal (it.index / 32) (it.index % 32))).retirable
  else if k = 0x202 then s.quads.all (fun e => e.2.arraysFree)
  else if k = 0x301 ∨ k = 0x302 ∨ k = 0x306 then dieIdle
  else if k = 0x303 ∨ k = 0x304 ∨ k = 0x305 then s.scQuiet it.index
  else true

/-- 64 control cycles of 16 root periods, in Drone ticks rounded up (R448). -/
def applyDelay : Nat := 171

/-- TXN_QUIET (R448): every affected unit is quiet, and the apply is scheduled. -/
def execTxnQuiet (s : State) : Host.Outcome State Fault Refusal :=
  .next (if !s.boot.held && decide (s.cfg.txnState = 2) && s.cfg.applyAt.isNone && s.cfg.staged.all s.quietFor
    then s.modCfg (fun c => { c with applyAt := some (s.drone + applyDelay) }) else s)

/-! ### The apply -/

/-- Appends an applied change to the field record, signed with the image's digest (R450). -/
def State.recordField (s : State) (it : CfgItem) : State :=
  if s.item 2 4 0 = 0 then s
  else if 8192 ≤ s.cfg.field.length then s.logErr cfgRec
  else s.modCfg (fun c => { c with field := c.field ++ [([it], c.imageDigest)], fieldEntries := satAdd 0xFFFF c.fieldEntries 1 })

/-- Retires a physical quad (15 R409, R410; R449): the lowest-numbered spare takes its place, or none. -/
def State.retire (s : State) (d p : Nat) : State :=
  let l := s.physLocal d p
  let q := 16 * d + l
  let spare := s.goodSpare d (fun _ => false)
  let s := (s.setPhys d p 2).modQuad q (fun _ => Quad.reset)
  match spare with
  | some r => (s.setItem ⟨2, 1, d * 32 + r, BitVec.ofNat 32 l⟩).zeroMem (0x180000000000 + q * 0x2000000) 0x2000000
  | none => s

/-- A system cache gives up a line: dirty data goes home first (11_host_cores_and_cache.md R325). -/
def State.scDrop (s : State) (h line : Nat) : State :=
  let a := 128 + h
  let x := s.line a line
  let s := if x.st = .m ∨ x.st = .o then s.lineWrite line x.data x.poison else s
  (s.setLine a line Line.none).setDir line ((s.dirEntry line).remove a)

/-- Empties ways of a host die's slices. -/
def State.emptyWays (s : State) (h : Nat) (ws : List Nat) : State :=
  let mine := fun (e : Nat × Nat) => decide (e.1 / 16 / 3072 / 32 = h) && ws.contains (e.1 % 16)
  let s := (s.scWays.filter mine).foldl (fun s e => if (s.line (128 + h) (e.2 - 1)).st = .i then s else s.scDrop h (e.2 - 1)) s
  { s with scWays := s.scWays.filter (fun e => !(mine e)) }

/-- A change of a host die's partitions: ways that change hands are emptied first, and the trees of every set are
reset (11_host_cores_and_cache.md R321, R322). -/
def State.changeSc (s : State) (it : CfgItem) : State :=
  let h := it.index
  let t := s.setItem it
  let moved := (List.range 16).filter (fun w => decide (s.wayGroup h w ≠ t.wayGroup h w))
  if moved = [] then t
  else
    let s := (s.emptyWays h moved).setItem it
    { s with scTrees := s.scTrees.filter (fun e => decide (e.1 / 2 / 3072 / 32 ≠ h)) }

/-- A change of the geometry of a die's extension: what it holds goes home. Its data stands in memory already. -/
def State.changeExt (s : State) (it : CfgItem) : State :=
  { s with ext := s.ext.filter (fun e => decide (e.1 / 16 / 2 ^ 24 ≠ it.index)) }.setItem it

/-- A change of the disabled ways of a die's extension: what the changed ways hold goes home (Table CFG-5). -/
def State.changeExtWays (s : State) (it : CfgItem) : State :=
  let old := s.item 3 6 it.index
  { s with ext := s.ext.filter (fun e =>
      decide (e.1 / 16 / 2 ^ 24 ≠ it.index) || bit old (e.1 % 16) == bit it.value.toNat (e.1 % 16)) }.setItem it

/-- A change of a die's scratch share: the part of the pool that becomes scratch holds undefined bytes. -/
def State.changePool (s : State) (it : CfgItem) : State :=
  let old := s.item 3 1 it.index * 2 ^ 23
  let new := it.value.toNat * 2 ^ 23
  let s := s.changeExt it
  if old < new then s.scramble (0x180080000000 + it.index * 0x8000000 + old) (new - old) else s

/-- Applies one item (R448, R449). -/
def State.applyItem (s : State) (it : CfgItem) : State :=
  let k := it.sect * 256 + it.code
  if k = 0x210 then (s.retire (it.index / 32) (it.index % 32)).recordField it
  else if k = 0x301 then s.changePool it
  else if k = 0x302 then s.changeExt it
  else if k = 0x306 then (s.changeExtWays it).recordField it
  else if k = 0x303 ∨ k = 0x304 then s.changeSc it
  else if k = 0x305 then (s.changeSc it).recordField it
  else if k = 0x901 then
    (List.range 6).foldl (fun s n =>
      if bit it.value.toNat n then s else s.modLink n (fun l => { l with fiEnable := false })) (s.setItem it)
  else s.setItem it

/-- A measurement, zero at package reset (R457). -/
def Cfg.measure (c : Cfg) (m : Nat) : List Byte := Table.get (List.replicate 64 0) c.meas m

/-- Extends a measurement with the digest of bytes (R457). -/
def State.extend (s : State) (m : Nat) (bs : List Byte) : State :=
  s.modCfg (fun c =>
    let d := Config.shake256 (c.measure m ++ Config.shake256 bs)
    { c with meas := Table.put (List.replicate 64 0) c.meas m d })

/-- Applies the whole transaction (R448, R457). -/
def State.applyTxn (s : State) : State :=
  let l := s.cfg.staged
  let s := (l.foldl State.applyItem s).extend 5 (l.flatMap itemBytes)
  (s.modCfg (fun c => { c with applied := satAdd 0xFFFF c.applied 1 })).endTxn 1

/-- TXN_APPLY (R448): the scheduled cycle has come. -/
def execTxnApply (s : State) : Host.Outcome State Fault Refusal :=
  .next (if !s.boot.held && s.cfg.applyAt.any (fun t => decide (t ≤ s.drone)) then s.applyTxn else s)

end Sys2Proof.Machine
end

