-- ==== Sys2Proof/Machine/Store.lean ====
section
/-! DEFINITION. The board store, images and their verification, store messages and key operations
(17_configuration_and_security.md R439 to R445, R455). -/

namespace Sys2Proof.Machine

/-! ### Bytes of the store -/

/-- What an erased byte of the store reads as. -/
def erased : Byte := 0xFF
/-- Bytes of the store. -/
def Cfg.storeBytes (c : Cfg) (off n : Nat) : List Byte := Table.range erased c.store off n
/-- Writes bytes of the store. -/
def Cfg.setStore (c : Cfg) (off : Nat) (bs : List Byte) : Cfg := { c with store := Table.splice erased c.store off bs }
/-- A bank's first byte (Table CFG-1). -/
def bankBase (b : Nat) : Nat := b * 0x2000000
/-- A trailer's place in its bank (R440): the image's room. -/
def trailerOff : Nat := 0x1FFF000

/-- A little-endian field of an image or trailer. -/
def imgField (bs : List Byte) (off n : Nat) : Nat := field bs off n

/-- A trailer: sequence number, image length, check (R440). -/
structure Trailer where
  seq : Nat
  len : Nat
  crc : Nat

/-- A bank's trailer. -/
def Cfg.trailer (c : Cfg) (b : Nat) : Trailer :=
  let bs := c.storeBytes (bankBase b + trailerOff) 12
  ⟨imgField bs 0 4, imgField bs 4 4, imgField bs 8 4⟩

/-- A bank's image of a length. -/
def Cfg.imageIn (c : Cfg) (b n : Nat) : List Byte := c.storeBytes (bankBase b) n

/-- A trailer's check over its image, sequence number and length (R440). -/
def trailerCrc (img : List Byte) (seq len : Nat) : Nat := (crc32c (img ++ leBytes 4 seq ++ leBytes 4 len)).toNat

/-- Whether a length is one that an image may have (R440). -/
def imageLenOk (n : Nat) : Bool := decide (4096 ≤ n) && decide (n ≤ trailerOff)

/-- Whether a bank's trailer matches (R441). -/
def Cfg.trailerOk (c : Cfg) (b : Nat) : Bool :=
  let t := c.trailer b
  imageLenOk t.len && decide (t.crc = trailerCrc (c.imageIn b t.len) t.seq t.len)

/-! ### Images (R443, R444) -/

/-- A directory entry: type, offset and length (Table CFG-2). -/
structure Section where
  type : Nat
  off : Nat
  len : Nat

/-- An image's directory. -/
def sectionsOf (img : List Byte) : List Section :=
  (List.range (imgField img 2 1)).map (fun i =>
    ⟨imgField img (0x10 + 16 * i) 1, imgField img (0x10 + 16 * i + 4) 4, imgField img (0x10 + 16 * i + 8) 4⟩)

/-- The bytes of an image's section of a type. -/
def sectionBytes (img : List Byte) (ty : Nat) : List Byte :=
  match (sectionsOf img).find? (fun x => decide (x.type = ty)) with
  | some x => (img.drop x.off).take x.len
  | none => []

/-- Rounds up to 4 KiB. -/
def roundPage (n : Nat) : Nat := ceilDiv n 4096 * 4096

/-- Whether sections follow one another from an offset, on 4 KiB boundaries, types rising (R443). -/
def laidOut : Nat → Nat → List Section → Bool
  | _, _, [] => true
  | off, ty, x :: t =>
    decide (x.off = off) && decide (ty < x.type) && laidOut (roundPage (x.off + x.len)) x.type t

/-- Whether header and directory are well formed and every section is there (Table CFG-3 code 1). -/
def headerOk (img : List Byte) : Bool :=
  let l := sectionsOf img
  decide (imgField img 0 2 = 1) && decide (10 ≤ l.length) && decide (l.length ≤ 16) && decide (imgField img 3 1 < 4) &&
  decide (imgField img 4 4 = img.length) && laidOut 4096 0 l &&
  [2, 3, 4, 5, 6, 7, 8, 9, 10].all (fun t => l.any (fun x => decide (x.type = t))) &&
  l.getLast?.any (fun x => decide (x.type = 15) && decide (x.off + x.len = img.length))

/-- The items of a list of bytes, 8 each (R444). -/
def itemsIn (bs : List Byte) : List CfgItem :=
  (List.range (bs.length / 8)).map (fun i =>
    let b := bs.drop (8 * i)
    ⟨imgField b 1 1, imgField b 0 1, imgField b 2 2, BitVec.ofNat 32 (imgField b 4 4)⟩)

/-- The sections that hold items. -/
def itemSections : List Nat := [2, 3, 4, 5, 6, 7, 8, 9]

/-- An image's items. -/
def imageItems (img : List Byte) : List CfgItem := itemSections.flatMap (fun t => itemsIn (sectionBytes img t))

/-- Every physical quad of every compute die. -/
def allPhys : List Nat := (List.range 4).flatMap (fun d => (List.range 18).map (fun p => d * 32 + p))

/-- Whether an image's items are known, in range, in their own section, and complete (Table CFG-3 code 2). -/
def itemsOk (ordering : Nat) (img : List Byte) : Bool :=
  itemSections.all (fun t =>
    decide ((sectionBytes img t).length % 8 = 0) && (itemsIn (sectionBytes img t)).all (fun it => decide (it.sect = t))) &&
  (imageItems img).all (fun it => itemOk ordering it && !(decide (it.sect = 2) && decide (it.code = 0x10))) &&
  allPhys.all (fun i => (imageItems img).any (fun it => decide (it.sect = 2) && decide (it.code = 1) && decide (it.index = i)))

/-- Whether no item of a list repeats (Table CFG-3 code 3). -/
def noRepeat : List CfgItem → Bool
  | [] => true
  | it :: t => !(t.any (sameItem it)) && noRepeat t

/-- The state with an image's items in force, and no others. -/
def State.withItems (s : State) (l : List CfgItem) : State :=
  l.foldl State.setItem (s.modCfg (fun c => { c with items := [] }))

/-- Whether a die's spare map has each local index once among its active quads (R5, Table CFG-3 code 4). -/
def State.spareMapOk (s : State) (d : Nat) : Bool :=
  let active := ((List.range 18).map (fun p => s.item 2 1 (d * 32 + p))).filter (fun v => decide (v < 16))
  decide (active.length = s.perDie) && (List.range s.perDie).all (fun i => decide (active.count i = 1))

/-- Whether the items in force agree with one another (Table CFG-3 code 4). -/
def State.itemsAgree (s : State) : Bool :=
  s.partitionsFit 0 && s.partitionsFit 1 &&
  !(decide (s.item 7 1 0 = 0) && decide (s.item 7 2 0 = 0)) &&
  (List.range 4).all s.spareMapOk &&
  (List.range 3).all (fun a => decide (bits (s.item 4 1 0) (10 * a) 10 ≤ bits (s.item 4 2 0) (10 * a) 10)) &&
  (List.range 3).all (fun m => decide (s.item 5 1 m = m + 4))

/-- A key slot (R455). -/
def Cfg.slot (c : Cfg) (k : Nat) : KeySlot := c.keys.getD k ⟨none, true⟩

/-- The digest of a slot that is fused and not revoked. -/
def Cfg.liveKey (c : Cfg) (k : Nat) : Option (List Byte) := if (c.slot k).revoked then none else (c.slot k).digest

/-- Whether an image's signature, key slot and version are accepted (R455, R441; Table CFG-3 code 5). Section 0x0F
holds the public key's 64 bytes, then the signature. -/
def Cfg.signatureOk (c : Cfg) (img : List Byte) : Bool :=
  let sec := sectionBytes img 15
  let key := sec.take 64
  let start := (((sectionsOf img).find? (fun x => decide (x.type = 15))).map Section.off).getD 0
  (match c.liveKey (imgField img 3 1) with
    | some d => decide (Config.shake256 key = d)
    | none => false) &&
  decide (sec.length = 64 + 29792) && Config.slhVerify key (img.take start) (sec.drop 64) &&
  decide (c.minSvn ≤ imgField img 8 4) && decide (imgField img 8 4 ≤ 64)

/-- Whether an image accepts this part (R441; Table CFG-3 code 6). -/
def Cfg.partOk (c : Cfg) (img : List Byte) : Bool :=
  bit (imgField img 12 1) c.orderingCode && bit (imgField img 13 1) c.siliconRev

/-- The first check of Table CFG-3 that an image fails, 0 of none. -/
def State.verifyImage (s : State) (img : List Byte) : Nat :=
  if !headerOk img then 1
  else if !itemsOk s.cfg.orderingCode img then 2
  else if !noRepeat (imageItems img) then 3
  else if !(s.withItems (imageItems img)).itemsAgree then 4
  else if !s.cfg.signatureOk img then 5
  else if !s.cfg.partOk img then 6
  else 0

/-! ### Store messages (R442) -/

/-- Bytes of the board store that the device lays out and every store has (R439). -/
def storeSize : Nat := 0x8000000

/-- Whether a range of the store meets entries of the field record, whose bytes the spec does not print. -/
def Cfg.meetsField (c : Cfg) (off n : Nat) : Bool :=
  [0x4000000, 0x4080000].any (fun b => decide (off < b + 64 * c.field.length) && decide (b < off + n))

/-- STORE_READ (R452). -/
def execStoreRead (p : Port) (off n : Nat) (s : State) : Host.Outcome State Fault Refusal :=
  .next (s.whenOpenOrRecovery p (fun s =>
    if n = 0 ∨ 240 < n ∨ storeSize < off + n then s.replyCode p ccInvalid
    else if s.cfg.meetsField off n then
      let (bs, s) := s.drawBytes n
      s.reply p { code := ccOk, words := [], bytes := bs }
    else s.reply p { code := ccOk, words := [], bytes := s.cfg.storeBytes off n }))

/-- A store message that names a bank: DENIED for the booted one (R442). -/
def State.withBank (s : State) (p : Port) (bank : Nat) (f : State → State) : State :=
  s.withSem p (fun s =>
    if 2 ≤ bank then s.replyCode p ccInvalid
    else if s.cfg.booted ∧ s.cfg.bank = bank then s.replyCode p ccDenied
    else f s)

/-- STORE_ERASE (R442). -/
def execStoreErase (p : Port) (bank : Nat) (s : State) : Host.Outcome State Fault Refusal :=
  .next (s.whenOpenOrRecovery p (fun s => s.withBank p bank (fun s =>
    (s.modCfg (fun c => { c with store := Table.drop c.store (bankBase bank) 0x2000000, storing := some bank })).replyCode p ccOk)))

/-- Bytes programmed into NOR flash: a program only clears bits. -/
def programmed (old new : List Byte) : List Byte := List.zipWith (· &&& ·) old new

/-- STORE_WRITE (R442): image bytes into a bank that has been erased. -/
def execStoreWrite (p : Port) (bank off : Nat) (bs : List Byte) (s : State) : Host.Outcome State Fault Refusal :=
  .next (s.whenOpenOrRecovery p (fun s => s.withBank p bank (fun s =>
    if trailerOff < off + bs.length ∨ s.cfg.storing ≠ some bank then s.replyCode p ccInvalid
    else
      (s.modCfg (fun c =>
        let at_ := bankBase bank + off
        c.setStore at_ (programmed (c.storeBytes at_ bs.length) bs))).replyCode p ccOk)))

/-- Whether a sequence number is ahead of another (R441). -/
def seqAhead (a b : Nat) : Bool := decide (0 < (a + 2 ^ 32 - b) % 2 ^ 32) && decide ((a + 2 ^ 32 - b) % 2 ^ 32 < 2 ^ 31)

/-- The sequence number of the next trailer (R442): one above the booted bank's, in recovery one above the higher of
the trailers that match, or 1. -/
def Cfg.nextSeq (c : Cfg) : Nat :=
  if c.booted then (c.seq.toNat + 1) % 2 ^ 32
  else
    match c.trailerOk 0, c.trailerOk 1 with
    | true, true => ((if seqAhead (c.trailer 1).seq (c.trailer 0).seq then (c.trailer 1).seq else (c.trailer 0).seq) + 1) % 2 ^ 32
    | true, false => ((c.trailer 0).seq + 1) % 2 ^ 32
    | false, true => ((c.trailer 1).seq + 1) % 2 ^ 32
    | false, false => 1

/-- STORE_FINISH (R442): the image is read back, its digest and every check pass, and the trailer is written last. -/
def execStoreFinish (p : Port) (bank len : Nat) (digest : List Byte) (s : State) : Host.Outcome State Fault Refusal :=
  .next (s.whenOpenOrRecovery p (fun s => s.withBank p bank (fun s =>
    if s.cfg.storing ≠ some bank ∨ !imageLenOk len then s.replyCode p ccInvalid
    else
      let img := s.cfg.imageIn bank len
      let n := s.cfg.nextSeq
      let t := s.modCfg (fun c => { c with storing := none })
      if Config.shake256 img ≠ digest then t.replyCode p ccDenied
      else if s.verifyImage img ≠ 0 then (t.modCfg (fun c => { c with verifyErr := s.verifyImage img })).replyCode p ccDenied
      else
        (t.modCfg (fun c => c.setStore (bankBase bank + trailerOff)
          (leBytes 4 n ++ leBytes 4 len ++ leBytes 4 (trailerCrc img n len)))).replyCode p ccOk)))

/-! ### Keys (R455) -/

/-- Whether a key operation is signed by an unrevoked slot. -/
def Cfg.signedBy (c : Cfg) (signer : Nat) (msg sig : List Byte) : Bool :=
  match c.liveKey signer with
  | some d => Config.slhVerify (Config.slotKey d) msg sig
  | none => false

/-- A key operation's message: its code, which operation, and its operands. -/
def keyMsg (op arg : Nat) (rest : List Byte) : List Byte := leBytes 1 0x14 ++ leBytes 1 op ++ leBytes 1 arg ++ rest

/-- A key operation: signed, or DENIED. -/
def State.withKeyOp (s : State) (p : Port) (signer : Nat) (msg sig : List Byte) (f : State → State) : State :=
  s.whenOpen p (fun s => s.withSem p (fun s =>
    if s.cfg.signedBy signer msg sig then f s else s.replyCode p ccDenied))

/-- KEY_FUSE (R455): an empty owner slot takes a digest. -/
def execKeyFuse (p : Port) (slot : Nat) (digest : List Byte) (signer : Nat) (sig : List Byte) (s : State) :
    Host.Outcome State Fault Refusal :=
  .next (s.withKeyOp p signer (keyMsg 0 slot digest) sig (fun s =>
    if digest.length ≠ 64 ∨ 4 ≤ slot then s.replyCode p ccInvalid
    else if slot < 2 ∨ (s.cfg.slot slot).digest ≠ none then s.replyCode p ccDenied
    else (s.modCfg (fun c => { c with keys := c.keys.set slot { c.slot slot with digest := some digest } })).replyCode p ccOk))

/-- KEY_REVOKE (R455): refused where no unrevoked slot would remain. -/
def execKeyRevoke (p : Port) (slot signer : Nat) (sig : List Byte) (s : State) : Host.Outcome State Fault Refusal :=
  .next (s.withKeyOp p signer (keyMsg 1 slot []) sig (fun s =>
    let keys := s.cfg.keys.set slot { s.cfg.slot slot with revoked := true }
    if 4 ≤ slot then s.replyCode p ccInvalid
    else if !(keys.any (fun k => k.digest.isSome && !k.revoked)) then s.replyCode p ccDenied
    else (s.modCfg (fun c => { c with keys := keys })).replyCode p ccOk))

/-- KEY_SVN_RAISE (R455): the fused minimum only rises, to 64 at most. -/
def execKeySvnRaise (p : Port) (svn signer : Nat) (sig : List Byte) (s : State) : Host.Outcome State Fault Refusal :=
  .next (s.withKeyOp p signer (keyMsg 2 svn []) sig (fun s =>
    if 64 < svn then s.replyCode p ccInvalid
    else if svn ≤ s.cfg.minSvn then s.replyCode p ccDenied
    else (s.modCfg (fun c => { c with minSvn := svn })).replyCode p ccOk))

end Sys2Proof.Machine
end

