-- ==== Sys2Proof/Machine/Boot.lean ====
section
/-! DEFINITION. Boot: bank selection, the stages and their failures, and the restart of the harts
(18_boot_and_reset.md R467 to R470; 13_axis_links_and_drone.md R359; 17_configuration_and_security.md R441, R445, R450, R457). -/

namespace Sys2Proof.Machine

/-! ### Stage 0x2: banks -/

/-- A bank's first failing check, 0 of none; a trailer that does not match leaves no image to check. -/
def State.judgeBank (s : State) (b : Nat) : Bool × Nat :=
  if s.cfg.trailerOk b then
    let e := s.verifyImage (s.cfg.imageIn b (s.cfg.trailer b).len)
    (decide (e = 0), e)
  else (false, 0)

/-- The bank that boots (R441), or none. -/
def State.chooseBank (s : State) : Option Nat :=
  match (s.judgeBank 0).1, (s.judgeBank 1).1 with
  | true, true => some (if seqAhead (s.cfg.trailer 1).seq (s.cfg.trailer 0).seq then 1 else 0)
  | true, false => some 0
  | false, true => some 1
  | false, false => none

/-- The last failed verification of the two banks (Table CFG-11). -/
def State.bootVerifyErr (s : State) : Nat := if (s.judgeBank 1).2 ≠ 0 then (s.judgeBank 1).2 else (s.judgeBank 0).2

/-- Whether the bank not booted is ahead of the booted one and fails (R441). -/
def State.fellBack (s : State) (b : Nat) : Bool :=
  s.cfg.trailerOk (1 - b) && seqAhead (s.cfg.trailer (1 - b)).seq (s.cfg.trailer b).seq && !(s.judgeBank (1 - b)).1

/-- The power mode that boot enters, and the rails that stage 0x3 sets for it (16_power_clocks_thermal.md R421;
19_signals_and_mechanical.md R478). -/
def State.bootMode (s : State) : State :=
  let m := s.item 6 1 0
  let s := s.modPower (fun p => { p with req := m, cur := m, target := m })
  (List.range 4).foldl (fun s d => s.modDiePower d (fun x =>
    { x with divider := s.modeDivider m, railMv := fusedMv d m })) s

/-- Takes a bank's image (R441, R457 M1 to M3): its items are in force, and PKG_ID_INFO shows the quads its spare map
enables (00_scope.md R9). -/
def State.takeImage (s : State) (b : Nat) : State :=
  let t := s.cfg.trailer b
  let img := s.cfg.imageIn b t.len
  let back := s.fellBack b
  let s := s.modCfg (fun c =>
    { c with bank := b, booted := true, fallback := back, svn := imgField img 8 4, seq := BitVec.ofNat 32 t.seq,
             imageDigest := Config.shake256 img })
  let s := if back then s.logErr cfgRec else s
  let s := (s.extend 1 (img.take 16 ++ sectionBytes img 10)).extend 2 (itemSections.flatMap (sectionBytes img))
  let s := s.extend 3 (leBytes 1 (imgField img 3 1) ++ leBytes 1 b ++ leBytes 4 t.seq)
  let s := s.withItems (imageItems img)
  s.modCfg (fun c => { c with quadsEnabled := (allPhys.filter (fun i => decide (s.item 2 1 i < 16))).length })

/-! ### Failures -/

/-- A stage that fails halts boot (R470, Table BRT-6). The record's code is not printed: it is free. -/
def State.haltBoot (s : State) (stage err : Nat) : State :=
  let s := s.modBoot (fun b => { b with failedStage := stage, err := err })
  let (code, s) := s.drawNat 65536
  s.logErr { cfgRec with cls := 2, code := code }

/-- The end of stage 0x2: a bank boots, or recovery holds the stage (R441). -/
def State.selectBank (s : State) : State :=
  let e := s.bootVerifyErr
  let s := s.modCfg (fun c => { c with verifyErr := if e = 0 then c.verifyErr else e })
  match s.chooseBank with
  | some b => (s.takeImage b).modBoot (fun b => { b with stage := 3 })
  | none => (s.modBoot (fun b => { b with recovery := true })).haltBoot 2 1

/-! ### Stage 0x4: quads -/

/-- Applies a field-record entry of the booted image (R450, R457 M4). -/
def State.applyField (s : State) (e : List CfgItem × List Byte) : State :=
  if e.2 ≠ s.cfg.imageDigest then s
  else
    let s := e.1.foldl (fun s it =>
      if it.sect = 2 then s.retire (it.index / 32) (it.index % 32) else s.setItem it) s
    (s.extend 4 (e.1.flatMap itemBytes)).modCfg (fun c => { c with fieldEntries := satAdd 0xFFFF c.fieldEntries 1 })

/-- The end of stage 0x4: spare map, field record and self-test (R445, R450); scratch and pools are zero. -/
def State.startQuads (s : State) (failed : List Nat) : State :=
  let s := s.cfg.field.foldl State.applyField s
  let s := (List.range 4).foldl (fun s d => s.selfTest d (fun p => failed.contains (d * 18 + p))) s
  s.modBoot (fun b => { b with stage := 5 })

/-! ### Stages 0x5 to 0x7 -/

/-- Memory after training: zeros (Table BRT-4). -/
def State.fillMemory (s : State) : State := { s with mem := [], poison := [] }

/-- A flash channel of a formatted tier: every block in use is free again. -/
def Channel.formatted (c : Channel) : Channel :=
  { c with open_ := [], firstAt := 0, programming := [], cur := none, used := [],
           free := 8192 - c.spare - c.held - c.retired.length, blockReads := [] }

/-- Read-only state follows from the spares that flash has left (09 R262). -/
def State.spentSpares (s : State) : Bool := !s.striped && s.tier.channels.any (fun e => decide (e.2.spare = 0))

/-- Formats the tier where the image's mode or share differs from the flash's record (R445). -/
def State.startFlash (s : State) : State :=
  let want := (s.item 7 1 0, s.item 7 2 0)
  let s := s.modTier (fun z => { z with readOnly := s.spentSpares })
  if s.tier.formatted = want then s
  else
    let s := s.modTier (fun z =>
      { z with tiles := [], placed := [], regions := [], formatted := want, checkpoints := [],
               channels := Table.mapVals Channel.reset Channel.formatted z.channels })
    { s with flash := [], flashPoison := [] }.logErr cfgRec

/-- Every axis link that the image uses begins to train (Table BRT-4; 13 R359, R360). -/
def State.startLinks (s : State) : State :=
  (List.range 6).foldl (fun s n => if s.linkUnused n then s else s.startTraining n) s

/-- Goes on to stage 0x7 when memory and flash have both finished (R468); the axis links start training there. -/
def State.joinStages (s : State) : State :=
  if s.boot.memDone && s.boot.flashDone then (s.modBoot (fun b => { b with stage := 7 })).startLinks else s

/-- The booted bank's image. -/
def State.bootImage (s : State) : List Byte := s.cfg.imageIn s.cfg.bank (s.cfg.trailer s.cfg.bank).len

/-- Copies the host first stage to DDR5 address 0 (Table BRT-4). -/
def State.copyHostStage (s : State) : State :=
  s.writeMem 0 (Config.hostFirstStage (sectionBytes s.bootImage 10))

/-- The end of stage 0x7: boot is done and the harts run (R468, R469). -/
def State.finishBoot (s : State) : State :=
  let s := s.copyHostStage
  let s := s.modPower (fun p => { p with lastCal := s.drone, cleanSince := s.drone })
  s.modBoot (fun b => { b with stage := 15, done := true, hostHeld := false, perstReleased := true })

/-- A stage that has finished (Table BRT-4). -/
def State.endStage (s : State) (r : BootReport) : State :=
  match r.stage with
  | 1 => (s.extend 0 Config.bootRom).modBoot (fun b => { b with stage := 2 })
  | 2 => s.selectBank
  | 3 => s.bootMode.modBoot (fun b => { b with stage := 4 })
  | 4 => s.startQuads r.selfTestFailed
  | 5 => (s.fillMemory.modBoot (fun b => { b with memDone := true })).joinStages
  | 6 => (s.startFlash.modBoot (fun b => { b with flashDone := true })).joinStages
  | 7 => s.finishBoot
  | _ => s

/-- Whether a report is of a stage that runs now: 0x5 and 0x6 run together (R468). -/
def State.stageRuns (s : State) (k : Nat) : Bool :=
  if k = 6 then decide (s.boot.stage = 5) && !s.boot.flashDone
  else if k = 5 then decide (s.boot.stage = 5) && !s.boot.memDone
  else decide (s.boot.stage = k)

/-- BOOT_STAGE (R468, R470): a stage ends, or fails; a FATAL halts boot with code 0x08. After a trip the package waits
for its power to be removed (16 R435). -/
def execBootStage (r : BootReport) (s : State) : Host.Outcome State Fault Refusal :=
  .next (if s.boot.held || s.boot.done || s.boot.recovery || s.boot.thermtrip || decide (s.boot.failedStage ≠ 0) ||
      !(s.stageRuns r.stage) then s
    else if s.log.fatal then s.haltBoot r.stage 8
    else if r.err ≠ 0 then s.haltBoot r.stage r.err
    else s.endStage r)

/-- HOST_RESET_RELEASE (R467, R471): homes reopen, the first stage is read again, checked against M1's measurement and
copied, and the harts start. -/
def execHostResetRelease (s : State) : Host.Outcome State Fault Refusal :=
  .next (if s.boot.held || !s.boot.done || !s.coh.closed then s
    else
      let img := s.bootImage
      let m1 := Config.shake256 (List.replicate 64 0 ++ Config.shake256 (img.take 16 ++ sectionBytes img 10))
      let s := (s.modCoh (fun c => { c with closed := false })).modBoot (fun b => { b with hostBusy := false })
      let s := if m1 = s.cfg.measure 1 then s.copyHostStage.modBoot (fun b => { b with hostHeld := false }) else s
      s.wakeHomes)

end Sys2Proof.Machine
end

