-- ==== Sys2Proof/Machine/Decoding.lean ====
section
/-! DEFINITION. Decode of a fetched descriptor: steps 5 to 7 of 07_commands_and_queues.md R198, suspension
on a fault (10_segments.md R296), and the way from decode to ready (07 R216, 08 R237). -/

namespace Sys2Proof.Machine

/-- What decode comes to: an end with a status and its detail, a suspension on a fault record, a wait for
the program block's memory, or the extents and program of an admitted command. -/
inductive Dec where
  | ends (status : Nat) (detail : Nat)
  | suspend (u r va : Nat)
  | again
  | granted (exts : Table Extent) (prog : List Byte)

/-- The check of one extent with the rules that other chapters add: the tier (SEG_PERM), own scratch
(BAD_ROUTE, on the translated address), and the object query of a pin (07 R198 step 6, 10 R293, R294, 09
R275). -/
def State.checkSpec (s : State) (q j : Nat) (d : List Byte) (x : XSpec) : Dec × State :=
  let ctx := (s.queue q j).context
  let va := addrOf d x.off
  let (r, s) := s.segLookup q ctx va
  let res := if r.any (fun p => !x.tiers.contains p.2.tier) then XRes.perm
             else checkSeg s.tierReadOnly ctx x.need va x.len r
  match res with
  | .fault =>
    match s.reportFault (16 * q + j) ctx va with
    | (some n, s) => (.suspend (stuOf ctx) n va, s)
    | (none, s) => (.ends stSegFault va, s)
  | .perm => (.ends stSegPerm va, s)
  | .limit e => (.ends stSegLimit e, s)
  | .ok e =>
    if x.own && !(decide (regionOf e.pa = some (.scratch q))) then (.ends stBadRoute va, s)
    else if opcodeOf d = opMigrate &&
        !s.pinAllowed ctx e.pa e.len (body d 0x0C 1) (bit (body d 0x0D 1) 0) (bit (body d 0x0D 1) 1) then
      (.ends stSegPerm va, s)
    else (.granted [(x.off, e)] [], s)

/-- Step 6: the extents in body order; a command suspends on its first fault only. -/
def State.checkSpecs (s : State) (q j : Nat) (d : List Byte) : List XSpec → Table Extent → Dec × State
  | [], acc => (.granted acc [], s)
  | x :: t, acc =>
    match s.checkSpec q j d x with
    | (.granted e _, s) => s.checkSpecs q j d t (acc ++ e)
    | r => r

/-- The body offset of a command's Reed program block, where decode reads one (07 R201). -/
def progOff (d : List Byte) : Option Nat :=
  match reedOf d with
  | some r =>
    if r.nsteps = 0 then none
    else some (if opcodeOf d = opGather ∨ opcodeOf d = opScatter then 0x28 else 0x50)
  | none => none

/-- Whether a program block's contents are rejected (06 R164, R166, R174). GATHER_POOL and SCATTER_ADD have
no reduction word; a set reduce bit has ended them at step 4 (log entry 179). -/
def progBad (op : Nat) (r : ReedCtl) (bs : List Byte) : Bool :=
  let p := (List.range r.nsteps).map (fun i => field bs (2 * i) 2)
  !onePassOk p || (r.reduce && decide (op ≠ opGather) && decide (op ≠ opScatter) && !p.any isColRed)

/-- Step 7: the Reed program block, read whole (07 R198, R201). `c` stands for the command in the error
record. -/
def State.checkProg (s : State) (q j : Nat) (c : Cmd) (exts : Table Extent) : Dec × State :=
  let d := c.desc
  match progOff d with
  | none => (.granted exts [], s)
  | some o =>
    match { c with exts := exts }.ext o with
    | none => (.granted exts [], s)
    | some e =>
      if s.hostClosed e.pa then (.ends stHostReset 0, s)
      else if !(s.reachesAll q e.pa 32 && s.readReady e.coherent e.pa 32) then (.again, s.requestRead e.pa 32)
      else if s.readPoison e.coherent e.pa 32 then
        (.ends stPoison 0, s.logErr (s.cmdRec 2 0x02 0x0020 q j c stPoison (some e.pa)))
      else
        let bs := s.readPhys e.coherent e.pa 32
        let s := s.didRead e.pa 32
        if (reedOf d).any (fun r => progBad (opcodeOf d) r bs) then (.ends stBadOpcode 0, s) else (.granted exts bs, s)

/-- Steps 6 and 7, which a resumed command repeats (10 R299, R302). -/
def State.checkMemory (s : State) (q j : Nat) (c : Cmd) : Dec × State :=
  match s.checkSpecs q j c.desc (xspecs c.desc) [] with
  | (.granted exts _, s) => s.checkProg q j c exts
  | r => r

/-- The destination entry that a command names, if it names one (07 R208, R209). -/
def destOf (d : List Byte) : Option Nat :=
  if opcodeOf d = opSend then some (body d 0x25 1)
  else if opcodeOf d = opInline then some (dXarg d % 256)
  else none

/-- Step 5: the destination entry, read once (07 R198, R209). None where the check fails. -/
def State.checkDest (s : State) (q j : Nat) (d : List Byte) : Option DestEntry :=
  match destOf d with
  | none => some DestEntry.reset
  | some n =>
    let e := (s.quad q).dest n
    if s.destOk e (s.queue q j).context then some e else none

/-- Every check of R198 in order. -/
def State.checkCmd (s : State) (q j : Nat) (c : Cmd) : Dec × DestEntry × State :=
  if staticCheck c.desc ≠ stOk then (.ends (staticCheck c.desc) 0, .reset, s)
  else
    match s.checkDest q j c.desc with
    | none => (.ends stSegPerm 0, .reset, s)
    | some e =>
      match s.checkMemory q j c with
      | (r, s) => (r, e, s)

/-- Drops the conditions at the front that are met now: each is tested once (08 R237, 07 R210). -/
def State.skipMet (s : State) : List Cond → List Cond
  | [] => []
  | c :: t => if c.met (s.syncVal c.obj) then s.skipMet t else c :: t

/-- Puts a command into its queue's wait slot. -/
def State.toSlot (s : State) (q j : Nat) (c : Cmd) : State := s.modQueue q j (fun x => { x with slot := some c })

/-- Where an admitted command goes: registered on its first unmet condition, waiting for its order, or
ready (07 R216, R217; 08 R237). -/
def State.place (s : State) (q j : Nat) (c : Cmd) : State :=
  match s.skipMet c.conds with
  | k :: t =>
    (s.register ⟨q, j, c.idx, k⟩).toSlot q j { c with conds := k :: t, phase := .waitCond }
  | [] =>
    let c := { c with conds := [] }
    if s.orderMet q j c then
      s.modQueue q j (fun x => { x with cmds := x.cmds ++ [{ c with phase := .ready }] })
    else s.toSlot q j { c with phase := .waitOrder }

/-- Decode's outcome for a command that is in no place of its queue yet. -/
def State.settleDecode (s : State) (q j : Nat) (c : Cmd) : Dec → State
  | .ends st det => s.endCmd q j c st (BitVec.ofNat 64 det)
  | .suspend u r va => s.toSlot q j { c with phase := .waitFault u r, detail := BitVec.ofNat 64 va }
  | .again => s
  | .granted exts prog => s.place q j { c with exts := exts, prog := prog }

/-- Decoded commands of a quad that are ready and not started (02 R59). -/
def Quad.readyCount (x : Quad) : Nat :=
  (x.queues.map (fun e => (e.2.cmds.filter (fun c => decide (c.phase = .ready))).length)).sum

/-- A fetched descriptor as a command. The timeout's deadline is fixed here, for a command with a condition
(08 R238, 07 R192). -/
def State.freshCmd (s : State) (f : Fetched) : Cmd :=
  { idx := f.idx, desc := f.desc, stamp := f.stamp, phase := .ready, exts := [], prog := [],
    dest := .reset, stash := 0, conds := condsOf f.desc,
    deadline := if hasCond f.desc ∧ dTimeout f.desc ≠ 0 then some (s.drone + 2 ^ dTimeout f.desc) else none,
    late := false, held := [], ran := false, status := stOk, detail := 0, tiles := 0,
    unsent := [], failedAt := none, passes := [], redecode := false, withdrawn := false, migrating := [] }

end Sys2Proof.Machine
end

