-- ==== Sys2Proof/Machine/Commands.lean ====
section
/-! DEFINITION. The sequencer's own steps: fetch, decode, start, release and completion
(07_commands_and_queues.md R215 to R219; 02_stations_and_routes.md R59 to R64). -/

namespace Sys2Proof.Machine

/-! ### DESCRIPTOR_FETCH -/

/-- Whether a queue has something to fetch and room for it (07 R215, R216). -/
def Queue.canFetch (x : Queue) : Bool :=
  decide (x.state = .running) && decide (x.slot = none) && decide (x.head ≠ x.tail) && decide (x.fetched.length < 4)

/-- The queue that fetches next, in rotating order (07 R215). -/
def Quad.fetchFrom (x : Quad) : Option Nat :=
  ((List.range 16).map (fun i => (x.rotFetch + i) % 16)).find? (fun j => (x.queue j).canFetch)

/-- A ring read that faults stops the queue with error set (07 R215). LAST_ERR's opcode field is 0, as no descriptor was
read: DESIGN CHOICE, log entry 175. -/
def State.ringFault (s : State) (q j status : Nat) : State :=
  (s.noteErr q j status 0 (s.queue q j).head).errorStop q j

/-- Takes a descriptor's bytes: HEAD moves on, and the rotation past the queue. -/
def State.takeDesc (s : State) (q j : Nat) (bs : List Byte) : State :=
  s.modQuad q (fun x =>
    { x.modQueue j (fun y => { y with head := y.head + 1, fetched := y.fetched ++ [⟨y.head, bs, x.stamp⟩] }) with
      stamp := x.stamp + 1, rotFetch := (j + 1) % 16 })

/-- Fetches one descriptor of a queue. The quad's copy is decode's (10 R290): a ring access asks the unit (log
entry 168). A fetch that must wait for its memory keeps the rotation at its queue: DESIGN CHOICE, log entry 175. -/
def State.fetchOne (s : State) (q j : Nat) : State :=
  let x := s.queue q j
  match s.checkDirect x.context needRead (x.base.toNat + 128 * (x.head.toNat % x.size)) 128 with
  | .ok e =>
    if s.hostClosed e.pa then s.ringFault q j stHostReset
    else if !(s.reachesAll q e.pa 128 && s.readReady e.coherent e.pa 128) then s.requestRead e.pa 128
    else if s.readPoison e.coherent e.pa 128 then s.ringFault q j stPoison
    else (s.didRead e.pa 128).takeDesc q j (s.readPhys e.coherent e.pa 128)
  | r => s.ringFault q j r.status

/-- DESCRIPTOR_FETCH (07 R215, R213). -/
def execDescriptorFetch (q : Nat) (s : State) : Host.Outcome State Fault Refusal :=
  .next (if s.quadRuns q then
      match (s.quad q).fetchFrom with
      | some j => s.fetchOne q j
      | none => s
    else s)

/-! ### COMMAND_DECODE -/

/-- Decodes the oldest fetched descriptor of a queue (07 R198, R216; 02 R59). -/
def State.decodeHead (s : State) (q j : Nat) : State :=
  match (s.queue q j).fetched with
  | [] => s
  | f :: t =>
    let c := s.freshCmd f
    match s.checkCmd q j c with
    | (.again, _, s) => s
    | (r, e, s) => (s.modQueue q j (fun x => { x with fetched := t })).settleDecode q j { c with dest := e } r

/-- COMMAND_DECODE (07 R198). -/
def execCommandDecode (q j : Nat) (s : State) : Host.Outcome State Fault Refusal :=
  let x := s.queue q j
  .next (if s.quadRuns q && decide (x.state = .running) && decide (x.slot = none) && decide ((s.quad q).readyCount < 4)
    then s.decodeHead q j else s)

/-! ### COMMAND_START -/

/-- Whether the commit phase of a configuration transaction holds a claim of a quad (17 R448, Table CFG-5):
a changed die pool holds every claim on the die's quads, a changed resilience mode every array claim. -/
def State.claimHeld (s : State) (q : Nat) (need : List (Nat × Nat)) : Bool :=
  decide (s.cfg.txnState = 2) && s.cfg.staged.any (fun i =>
    (decide (i.sect = 3) && (decide (i.code = 1) || decide (i.code = 2) || decide (i.code = 6)) && decide (i.index = q / 16)) ||
    (decide (i.sect = 2) && decide (i.code = 2) && need.any (fun p => decide (p.1 = stArray0) || decide (p.1 = stArray1))))

/-- What other commands may not take because a reservation keeps it (02 R62): the reserving command's set. -/
def Quad.kept (x : Quad) (j : Nat) (idx : Word) : List (Nat × Nat) :=
  match x.reservation with
  | some (k, i) =>
    if k = j ∧ i = idx then [] else ((x.queue k).find i).elim [] (fun c => claimsOf c.desc)
  | none => []

/-- A pass of arbitration: the state, and the ready command nearest the pointer that has been passed over
so far (02 R61, R62). -/
structure Arb where
  s : State
  nearest : Option (Nat × Word)

/-- A command takes its set and starts: its stash target is read now (11 Table HST-8); the pointer moves past
its queue; a command that it passed over takes the reservation (02 R60 to R62). -/
def Arb.win (a : Arb) (q j : Nat) (c : Cmd) (need : List (Nat × Nat)) : Arb :=
  let s := a.s.setCmd q j { c with phase := .running, held := need, stash := (a.s.queue q j).stash, redecode := false }
  if need = [] then { a with s := s }
  else
    { s := s.modQuad q (fun x =>
        let r := if x.reservation = some (j, c.idx) then none else x.reservation
        { x with rotStart := (j + 1) % 16, slots := if need.any (fun p => decide (p.1 = stGather)) then 0 else x.slots,
                 reservation := match r with | some k => some k | none => a.nearest }),
      nearest := none }

/-- A ready command claims its whole set or nothing (02 R60). -/
def Arb.claim (a : Arb) (q j : Nat) (c : Cmd) : Arb :=
  let need := claimsOf c.desc
  let x := a.s.quad q
  if need = [] then a.win q j c need
  else if fits (x.claims ++ x.kept j c.idx) need && !(a.s.claimHeld q need) then a.win q j c need
  else { a with nearest := match a.nearest with | some k => some k | none => some (j, c.idx) }

/-- A command whose translation was withdrawn repeats steps 6 and 7 when it is ready (10 R302). -/
def Arb.again (a : Arb) (q j : Nat) (c : Cmd) : Arb :=
  match a.s.checkMemory q j c with
  | (.granted exts prog, s) =>
    let c := { c with exts := exts, prog := prog, redecode := false }
    { a with s := s.setCmd q j c }.claim q j c
  | (.ends st det, s) => { a with s := s.endCmd q j c st (BitVec.ofNat 64 det) }
  | (.suspend u r va, s) =>
    let c := { c with phase := .waitFault u r, detail := BitVec.ofNat 64 va }
    if (s.queue q j).slot = none then
      { a with s := (s.modQueue q j (fun x => x.remove c.idx)).toSlot q j c }
    else { a with s := s.setCmd q j c }
  | (.again, s) => { a with s := s }

/-- One candidate of a pass. -/
def Arb.step (q : Nat) (a : Arb) (k : Nat × Word) : Arb :=
  match (a.s.queue q k.1).find k.2 with
  | some c => if c.phase = .ready then (if c.redecode then a.again q k.1 c else a.claim q k.1 c) else a
  | none => a

/-- The ready commands of a quad in rotating order of queue number (02 R61). The pointer moves between passes: after a
winner of one queue a pass still serves that queue's other ready commands before the next queue's, and one that loses
after a win is the nearest for the reservation. DESIGN CHOICE, log entry 53. -/
def Quad.readyList (x : Quad) : List (Nat × Word) :=
  ((List.range 16).map (fun i => (x.rotStart + i) % 16)).flatMap (fun j =>
    ((x.queue j).cmds.filter (fun c => decide (c.phase = .ready))).map (fun c => (j, c.idx)))

/-- One pass of the arbiter. -/
def State.arbitrate (s : State) (q : Nat) : State :=
  ((s.quad q).readyList.foldl (Arb.step q) ⟨s, none⟩).s

/-- COMMAND_START (02 R60 to R62). -/
def execCommandStart (q : Nat) (s : State) : Host.Outcome State Fault Refusal :=
  .next (if s.quadRuns q then s.arbitrate q else s)

/-! ### STATION_RELEASE -/

/-- Whether a station of a command has emptied: its work is done, and PORT has sent its last packet
(02 R63, R54). -/
def Cmd.emptied (c : Cmd) (st : Nat) : Bool := c.ran && (decide (st ≠ stPort) || c.unsent.isEmpty)

/-- Whether the vectors of a GEMV that runs can be read, so that the last of them may leave INTAKE while the weights
still come (06_reed_chanter_gather.md R177); its lane is the first of the command's to go. -/
def State.vectorsLeft (s : State) (q : Nat) (c : Cmd) (st : Nat) : Bool :=
  decide (opcodeOf c.desc = opGemv) && decide (st = stIntake) &&
  decide (lanesIn c.held stIntake = lanesIn (claimsOf c.desc) stIntake) &&
  [0, 8].all (fun o => (c.ext o).all (fun e => s.reachesAll q e.pa e.len && s.readReady e.coherent e.pa e.len))

/-- A claim with one lane of a station fewer. -/
def dropLane (st : Nat) : List (Nat × Nat) → List (Nat × Nat)
  | [] => []
  | p :: t => if p.1 = st then (if p.2 ≤ 1 then t else (st, p.2 - 1) :: t) else p :: dropLane st t

/-- STATION_RELEASE (02 R63, R60): a lane of a station, or a station of one lane, leaves a command's set. -/
def execStationRelease (q j : Nat) (idx : Word) (stn : Nat) (s : State) : Host.Outcome State Fault Refusal :=
  .next (
    match (s.queue q j).find idx with
    | some c =>
      if s.quadRuns q && decide (c.phase = .running) && (c.emptied stn || s.vectorsLeft q c stn) then
        s.setCmd q j { c with held := dropLane stn c.held }
      else s
    | none => s)

/-! ### COMMAND_COMPLETE -/

/-- Whether a command awaits responses to its packets (13 R370). -/
def Quad.awaits (x : Quad) (j : Nat) (idx : Word) : Bool :=
  x.outstanding.any (fun o => decide (o.j = j) && decide (o.idx = idx))

/-- Whether a command has completed (02 R63): its sink has finished and every station has released. -/
def State.complete (s : State) (q j : Nat) (c : Cmd) : Bool :=
  decide (c.phase = .running) && c.ran && c.held.isEmpty && c.unsent.isEmpty && !((s.quad q).awaits j c.idx)

/-- COMMAND_COMPLETE (02 R63; 07 R193, R218, R219): record, signal, interrupt, and the error stop. A command
whose translation was withdrawn while it ran ends SEG_FAULT with detail 0 (10 R302). -/
def execCommandComplete (q j : Nat) (idx : Word) (s : State) : Host.Outcome State Fault Refusal :=
  .next (
    match (s.queue q j).find idx with
    | some c =>
      if s.quadRuns q && s.complete q j c then
        s.endCmd q j c (if c.withdrawn then stSegFault else c.status) (if c.withdrawn then 0 else c.detail)
      else s
    | none => s)

end Sys2Proof.Machine
end

