-- ==== Sys2Proof/Machine/ErrorLog.lean ====
section
/-! DEFINITION. The package's error log: merge windows, the way of records from staging into the log, and the log's
registers (15_resilience.md R413 to R416, R420). -/

namespace Sys2Proof.Machine

/-- CE_MERGE_EXPIRE (R414): record k of a die's staging queue has been held for its window. -/
def execCeMergeExpire (d k : Nat) (s : State) : Host.Outcome State Fault Refusal :=
  .next (
    let q := s.log.queue d
    match q[k]? with
    | some r =>
      if r.open_ && decide (r.drone + mergeWindow ≤ s.drone) then
        s.modLog (fun l => l.setQueue d (q.set k { r with open_ := false }))
      else s
    | none => s)

/-- Records of the log's ring. -/
def ErrLog.size (l : ErrLog) : Nat := 2 ^ l.log2Size

/-- Whether the log lies in DDR5. -/
def ErrLog.inDdr (l : ErrLog) : Bool := decide (regionOf l.base.toNat = some .ddr)

/-- Whether the log takes a record: enabled, with room, and not behind closed host homes (R413). -/
def State.logRoom (s : State) : Bool :=
  s.log.enable && decide (dist32 s.log.write s.log.read < s.log.size) && !(s.log.inDdr && s.coh.closed)

/-- The place of slot i of the ring. -/
def ErrLog.slotAt (l : ErrLog) (i : Word) : Nat := l.base.toNat + 64 * (i.toNat % l.size)

/-- Takes a record out of a die's staging queue; the rotation passes the die (R415). -/
def ErrLog.take (l : ErrLog) (d k : Nat) : ErrLog :=
  { l.setQueue d ((l.queue d).eraseIdx k) with rot := (d + 1) % 8 }

/-- Writes a record as one full-line coherent write, then raises its class's interrupt (R413, R415, R416). -/
def State.writeLog (s : State) (r : ErrRec) : State :=
  let l := s.log
  let r := { r with flags := r.flags % 8 + flag l.lostSince 3 }
  let s := s.writePhys true (l.slotAt l.write) (r.bytes l.write)
  (s.modLog (fun l => { l with write := l.write + 1, lostSince := false })).raiseIrq (1026 + r.cls)

/-- What becomes of the record that is first in line (R415): written where the log has room; else CE and DUE_R are
lost and the others stay. -/
def State.leaveStaging (s : State) (d k : Nat) (r : ErrRec) : State :=
  if s.logRoom then
    if s.dieReachesAll d (s.log.slotAt s.log.write) 64 && s.writeReady true (s.log.slotAt s.log.write) 64 then (s.modLog (fun l => l.take d k)).writeLog r else s
  else if r.cls < 2 then s.modLog (fun l => (l.take d k).lose)
  else s

/-- The first record of a queue that may leave: with no room, DUE and FATAL records stay and let others pass. -/
def firstOut (room : Bool) (q : List ErrRec) : Option Nat :=
  q.findIdx? (fun r => !r.open_ && (room || decide (r.cls < 2)))

/-- The die and record next in rotating order (R415). -/
def State.nextRecord (s : State) : Option (Nat × Nat × ErrRec) :=
  ((List.range 8).map (fun i => (s.log.rot + i) % 8)).findSome? (fun d =>
    match firstOut s.logRoom (s.log.queue d) with
    | some k => ((s.log.queue d)[k]?).map (fun r => (d, k, r))
    | none => none)

/-- RECORD_TO_LOG (R415, R413, R416). -/
def execRecordToLog (s : State) : Host.Outcome State Fault Refusal :=
  .next (if s.boot.held then s
    else
      match s.nextRecord with
      | some (d, k, r) => s.leaveStaging d k r
      | none => s)

/-! ### Registers -/

/-- Whether the ring lies wholly inside populated DDR5 or one compute die's direct HBM (R413). -/
def State.logFits (s : State) (base n : Nat) : Bool :=
  match s.backed base (64 * n) with
  | some .ddr => true
  | some (.hbm _) => true
  | _ => false

/-- A write of ERR_LOG_CTRL (R413, Table RES-9, 00_scope.md R14): log2_size only while disabled; enabling sets
WRITE to READ. -/
def State.writeLogCtrl (s : State) (v : Word) : State :=
  let n := bits v.toNat 0 5
  let size := if s.log.enable then s.log.log2Size else unlessReserved (n < 6 || 20 < n) s.log.log2Size n
  let s := s.modLog (fun l => { l with log2Size := size })
  if bit v.toNat 31 then
    if s.log.enable then s
    else if s.logFits s.log.base.toNat s.log.size then s.modLog (fun l => { l with enable := true, write := l.read })
    else s
  else s.modLog (fun l => { l with enable := false })

/-- ERR_LOG_CTRL_WRITE (R413). -/
def execErrLogCtrlWrite (p : Port) (v : Word) (s : State) : Host.Outcome State Fault Refusal :=
  .next (if s.mayWrite p then s.writeLogCtrl v else s)

/-- ERR_LOG_READ_WRITE (R420). -/
def execErrLogReadWrite (p : Port) (v : Word) (s : State) : Host.Outcome State Fault Refusal :=
  .next (if s.mayWrite p then s.modLog (fun l => { l with read := v }) else s)

end Sys2Proof.Machine
end

