-- ==== Sys2Proof/Machine/Ethernet.lean ====
section
/-! DEFINITION. The Ethernet ports: queue pairs and their moves, work requests, acknowledgements, inbound messages and
flow control (14_network_and_pcie.md R382 to R390). -/

namespace Sys2Proof.Machine

/-! ### Queue-pair entries (R383, Table NET-2) -/

/-- The place of a queue pair's entry. -/
def State.qpAt (s : State) (x qpn : Nat) : Nat := (s.qpReg x).base.toNat + 64 * qpn

/-- Whether an entry stands in populated DDR5. -/
def State.qpBacked (s : State) (x qpn : Nat) : Bool := decide (s.backed (s.qpAt x qpn) 64 = some .ddr)

/-- A queue pair's entry; one outside populated DDR5 reads as zeros, which is RESET. -/
def State.qpEntry (s : State) (x qpn : Nat) : List Byte :=
  if s.qpBacked x qpn then s.readPhys true (s.qpAt x qpn) 64 else List.replicate 64 0

/-- Whether entries can be reached now: the homes run and are open, and the line is neither busy nor poisoned. -/
def State.qpReady (s : State) (x qpn : Nat) : Bool :=
  s.running && decide (x < 2) && decide (qpn < 8192) && !(s.hostClosed (s.qpAt x qpn)) &&
  s.dieReachesAll (6 + x) (s.qpAt x qpn) 64 && s.readReady true (s.qpAt x qpn) 64 && !(s.readPoison true (s.qpAt x qpn) 64)

/-- Writes a field of an entry. -/
def State.setQpField (s : State) (x qpn off : Nat) (bs : List Byte) : State :=
  if s.qpBacked x qpn then s.writePhys true (s.qpAt x qpn + off) bs else s

/-- The state of an entry: 0 RESET, 1 INIT, 2 RTR, 3 RTS, 4 ERROR. -/
def qpState (e : List Byte) : Nat := field e 0 1
/-- Its context. -/
def qpCtx (e : List Byte) : Nat := bits (field e 2 2) 0 12
/-- The port of the package that it uses. -/
def qpPort (x : Nat) (e : List Byte) : Nat := 2 * x + bits (field e 2 2) 12 1
/-- Ring slots. -/
def qpSize (e : List Byte) : Nat := 2 ^ field e 0x0F 1
/-- Payload bytes of a packet: pmtu 3, 4 or 5 for 1,024, 2,048 or 4,096. -/
def qpMtu (e : List Byte) : Nat := 2 ^ (7 + field e 7 1)
/-- The send ring. -/
def qpSq (e : List Byte) : Nat := field e 0x18 4 + field e 0x1C 2 * 2 ^ 32
/-- The completion ring. -/
def qpCq (e : List Byte) : Nat := field e 0x20 4 + field e 0x1E 2 * 2 ^ 32
/-- The priority of the pair's traffic. -/
def qpPcp (e : List Byte) : Nat := bits (field e 0x3C 4) 12 3

/-- What the packets of a pair's message carry: `off` is the entry's sequence number that it starts with (Table NET-2). -/
def State.ethHead (s : State) (n : Nat) (e : List Byte) (off : Nat) : EthHead :=
  { destQpn := field e 4 3, psn := field e off 3, tclass := bits (field e 1 1) 2 6, pcp := qpPcp e,
    ip6 := bit (field e 2 2) 13, remoteIp := (e.drop 0x24).take 16, remoteMac := (e.drop 0x34).take 6,
    gid := Table.get 0 (s.eth n).gids (bits (field e 0x3A 1) 0 2),
    vlan := if bit (field e 0x3B 1) 7 then some (bits (field e 0x3C 4) 0 12) else none }

/-- Moves a packet sequence number of an entry on by a number of packets. -/
def State.advancePsn (s : State) (x qpn off n : Nat) : State :=
  s.setQpField x qpn off (leBytes 3 ((field (s.qpEntry x qpn) off 3 + n) % 2 ^ 24))

/-- Packets of a message. -/
def packetsOf (e : List Byte) (len : Nat) : Nat := max 1 (ceilDiv len (qpMtu e))

/-! ### Completions (R386, 07_commands_and_queues.md Table CMD-12) -/

/-- Where a ring index's work request and completion entry stand in the pair's context. -/
def sqVa (e : List Byte) (idx : Nat) : Nat := qpSq e + 64 * (idx % qpSize e)
def cqVa (e : List Byte) (idx : Nat) : Nat := qpCq e + 32 * (idx % qpSize e)

/-- Whether an index's places in both rings can be reached now, or will never be (01_package.md R25, 09 R267, 12
R339). -/
def State.ringsReady (s : State) (x : Nat) (e : List Byte) (idx : Nat) : Bool :=
  (match s.checkEth (qpPort x e) (qpCtx e) needRead (sqVa e idx) 64 with
    | .ok c => s.hostClosed c.pa || (s.dieReachesAll (6 + x) c.pa 64 && s.readReady c.coherent c.pa 64)
    | _ => true) &&
  (match s.checkEth (qpPort x e) (qpCtx e) needWrite (cqVa e idx) 32 with
    | .ok c => s.hostClosed c.pa || (s.dieReachesAll (6 + x) c.pa 32 && s.writeReady c.coherent c.pa 32)
    | _ => true)

/-- Sets off what an access to an index's places waits for. -/
def State.requestRings (s : State) (x : Nat) (e : List Byte) (idx : Nat) : State :=
  let s := match s.checkEth (qpPort x e) (qpCtx e) needRead (sqVa e idx) 64 with
    | .ok c => s.requestRead c.pa 64
    | _ => s
  match s.checkEth (qpPort x e) (qpCtx e) needWrite (cqVa e idx) 32 with
  | .ok c => s.requestWrite c.pa 32
  | _ => s

/-- The work request of a ring index (R385), or none where the ring cannot be read. -/
def State.wqeAt (s : State) (x : Nat) (e : List Byte) (idx : Nat) : Option (List Byte) :=
  match s.checkEth (qpPort x e) (qpCtx e) needRead (sqVa e idx) 64 with
  | .ok x => if s.hostClosed x.pa || s.readPoison x.coherent x.pa 64 then none else some (s.readPhys x.coherent x.pa 64)
  | _ => none

/-- The fields of a work request. -/
def wqeOp (w : List Byte) : Nat := field w 0 1
def wqeFlags (w : List Byte) : Nat := field w 1 1
def wqeLen (w : List Byte) : Nat := field w 4 4
def wqeVa (w : List Byte) : Nat := field w 8 8 % 2 ^ 48

/-- A completion entry. -/
def cqBytes (w : List Byte) (status idx size drone bytes : Nat) : List Byte :=
  leBytes 2 (field w 2 2) ++ leBytes 1 status ++ leBytes 1 (wqeOp w) ++ leBytes 4 idx ++ leBytes 8 drone ++
  leBytes 8 0 ++ leBytes 4 bytes ++ [0, 0, 0] ++ leBytes 1 ((idx / size + 1) % 2)

/-- Writes a completion entry; false where its place cannot be written. -/
def State.writeCq (s : State) (x : Nat) (e : List Byte) (idx : Nat) (bs : List Byte) : Bool × State :=
  let ask := fun (t : State) => t.ethAsk (qpPort x e) (qpCtx e) (cqVa e idx)
  match s.checkEth (qpPort x e) (qpCtx e) needWrite (cqVa e idx) 32 with
  | .ok c =>
    if s.hostClosed c.pa || s.writePoison c.coherent c.pa 32 then (false, ask s)
    else (true, ask (s.writePhys c.coherent c.pa bs))
  | _ => (false, ask s)

/-- Ends a work request: entry when cpl is set or the status is not OK, then its signal on OK (R386). False where the
entry could not be written. -/
def State.endWqe (s : State) (x : Nat) (e : List Byte) (idx : Nat) (w : List Byte) (status bytes : Nat) : Bool × State :=
  let needs := bit (wqeFlags w) 0 || decide (status ≠ stOk)
  let (ok, s) := if needs then s.writeCq x e idx (cqBytes w status idx (qpSize e) s.drone bytes) else (true, s)
  let sig := bit (wqeFlags w) 1 && decide (status = stOk) && ok
  (ok, if sig then s.syncOp (field w 0x1C 2 % 2 ^ 14) ⟨.eth (qpPort x e), .package, false, BitVec.ofNat 64 (field w 0x20 8)⟩
       else s)

/-- The indices posted and not started. -/
def Qp.posted (y : Qp) : List Nat := (List.range ((y.tail + 65536 - y.head) % 65536)).map (fun i => (y.head + i) % 65536)

/-- A move to ERROR (R384): what is in progress and what is posted ends ABORTED, each with its entry. -/
def State.qpError (s : State) (x qpn : Nat) : State :=
  let e := s.qpEntry x qpn
  let y := s.qp x qpn
  let s := (y.busy ++ y.posted).foldl (fun s i => (s.endWqe x e i ((s.wqeAt x e i).getD []) stAborted 0).2) s
  (s.modQp x qpn (fun y => { y with head := y.tail, busy := [], got := 0, retries := 0, rnr := 0, inDone := none })).setQpField
    x qpn 0 [4]

/-- Ends the work request of an index and takes it out of progress; an entry that cannot be written moves the pair to
ERROR. -/
def State.closeWqe (s : State) (x qpn idx : Nat) (w : List Byte) (status bytes : Nat) : State :=
  let (ok, s) := s.endWqe x (s.qpEntry x qpn) idx w status bytes
  let s := s.modQp x qpn (fun y => { y with busy := y.busy.erase idx, got := 0, retries := 0, rnr := 0 })
  if ok then s else s.qpError x qpn

/-! ### Moves and doorbells -/

/-- A move of a pair (R384): RESET empties its rings. -/
def State.qpMove (s : State) (x qpn st : Nat) : State :=
  if st = 4 then s.qpError x qpn
  else if st = 0 then (s.modQp x qpn (fun _ => Qp.reset)).setQpField x qpn 0 [0]
  else s.setQpField x qpn 0 (leBytes 1 st)

/-- A write of ETH_QP_CMD (Table NET-4; 00_scope.md R14). -/
def State.writeQpCmd (s : State) (x : Nat) (v : Word) : State :=
  let st := bits v.toNat 16 3
  let s := s.modQpReg x (fun r =>
    { r with cmdState := unlessReserved (4 < st) r.cmdState st, cmdQpn := bits v.toNat 0 13 })
  let r := s.qpReg x
  if bit v.toNat 31 then s.qpMove x r.cmdQpn r.cmdState else s

/-- QP_MOVE (R384). -/
def execQpMove (p : Port) (x : Nat) (v : Word) (s : State) : Host.Outcome State Fault Refusal :=
  .next (if s.mayWrite p && decide (x < 2) &&
      (s.qpReady x (bits v.toNat 0 13) || !(bit v.toNat 31)) then s.writeQpCmd x v else s)

/-- QP_MOVE_ERROR (R384): a write of ETH_QP_CMD that names ERROR. -/
def execQpMoveError (p : Port) (x qpn : Nat) (s : State) : Host.Outcome State Fault Refusal :=
  .next (if s.mayWrite p && s.qpReady x qpn then
      (s.modQpReg x (fun r => { r with cmdState := 4, cmdQpn := qpn })).qpError x qpn
    else s)

/-- A doorbell of a pair (R385): the rule of 07_commands_and_queues.md R214 with 16-bit indices. -/
def Qp.doorbell (y : Qp) (size v : Nat) : Qp := if doorbellOk16 v y.head y.tail size then { y with tail := v } else y

/-- ETH_QP_DB (R385). -/
def execEthQpDb (p : Port) (x : Nat) (v : Word) (s : State) : Host.Outcome State Fault Refusal :=
  .next (
    let qpn := bits v.toNat 16 13
    if s.mayWrite p && s.qpReady x qpn then
      (s.modQpReg x (fun r => { r with db := BitVec.ofNat 32 (bits v.toNat 0 29) })).modQp x qpn
        (fun y => y.doorbell (qpSize (s.qpEntry x qpn)) (bits v.toNat 0 16))
    else s)

/-! ### Starting work requests -/

/-- What a look at a request's local memory answers. -/
inductive LocalRes where
  | ok (e : Extent)
  | ends (status : Nat)
  | waits (s : State)

/-- The check of a request's local range (R385, R194), and whether it can be read or written now. -/
def State.localRange (s : State) (x : Nat) (e w : List Byte) (write : Bool) : LocalRes :=
  let va := wqeVa w
  let n := wqeLen w
  if n = 0 then .ok ⟨va, 0, 0, true, 0, qpCtx e, 0, 0⟩
  else if !(bit (field w 8 8) 63) then .ends stBadLength
  else
    match s.checkEth (qpPort x e) (qpCtx e) (if write then needWrite else needRead) va n with
    | .ok c =>
      if s.hostClosed c.pa then .ends stHostReset
      else if !(s.dieReachesAll (6 + x) c.pa n) then .waits s
      else if write then (if s.writeReady c.coherent c.pa n then .ok c else .waits (s.requestWrite c.pa n))
      else if !(s.readReady c.coherent c.pa n) then .waits (s.requestRead c.pa n)
      else if s.readPoison c.coherent c.pa n then .ends stPoison
      else .ok c
    | r => .ends r.status

/-- The port's lookup of a request's local range, where it names one. -/
def State.askLocal (s : State) (x : Nat) (e w : List Byte) : State :=
  if bit (field w 8 8) 63 ∧ wqeLen w ≠ 0 then s.ethAsk (qpPort x e) (qpCtx e) (wqeVa w) else s

/-- Sends a request's message: its data, or for a READ the request (R385). -/
def State.sendWqe (s : State) (x qpn : Nat) (e w : List Byte) (l : Extent) : State :=
  let op := wqeOp w
  let data := if op = 2 ∨ wqeLen w = 0 then [] else s.readPhys l.coherent l.pa (wqeLen w)
  let s := if data.isEmpty then s else s.didRead l.pa (wqeLen w)
  s.emit (.eth (qpPort x e) qpn (s.ethHead (qpPort x e) e 8) op (field w 0x10 8) (BitVec.ofNat 32 (field w 0x18 4)) (wqeLen w) data)

/-- Whether a READ is in progress. -/
def State.readsOut (s : State) (x qpn : Nat) : Bool :=
  (s.qp x qpn).busy.any (fun i => decide (wqeOp ((s.wqeAt x (s.qpEntry x qpn) i).getD []) = 2))

/-- Takes the next request off the ring. -/
def State.nextWqe (s : State) (x qpn : Nat) : State := s.modQp x qpn (fun y => { y with head := (y.head + 1) % 65536 })

/-- Starts the next request of a pair in RTS where it is of an opcode, or of none that exists (R385). -/
def State.startWqe (s : State) (x qpn op : Nat) : State :=
  let y := s.qp x qpn
  let e := s.qpEntry x qpn
  if !s.qpReady x qpn then s
  else if qpState e ≠ 3 ∨ y.head = y.tail ∨ bit (s.eth (qpPort x e)).paused.toNat (qpPcp e) then s
  else if !(s.ringsReady x e y.head) then s.requestRings x e y.head
  else
    match s.wqeAt x e y.head with
    | none => s.qpError x qpn
    | some w =>
      if 1 ≤ wqeOp w ∧ wqeOp w ≤ 3 then
        if wqeOp w ≠ op ∨ (bit (wqeFlags w) 2 ∧ s.readsOut x qpn) then s
        else if 2 ^ 31 < wqeLen w then (s.nextWqe x qpn).closeWqe x qpn y.head w stBadLength 0
        else
          let asked := fun (t : State) => (t.askLocal x e w).ethAsk (qpPort x e) (qpCtx e) (sqVa e y.head)
          match s.localRange x e w (decide (op = 2)) with
          | .waits s => s
          | .ends st => asked ((s.nextWqe x qpn).closeWqe x qpn y.head w st 0)
          | .ok l =>
            asked (((((s.nextWqe x qpn).sendWqe x qpn e w l).advancePsn x qpn 8 (packetsOf e (wqeLen w)))).modQp x qpn
              (fun z => { z with busy := z.busy ++ [y.head] }))
      else (s.nextWqe x qpn).closeWqe x qpn y.head w stBadOpcode 0

/-- WQE_WRITE (R385). -/
def execWqeWrite (x qpn : Nat) (s : State) : Host.Outcome State Fault Refusal := .next (s.startWqe x qpn 1)
/-- WQE_READ (R385). -/
def execWqeRead (x qpn : Nat) (s : State) : Host.Outcome State Fault Refusal := .next (s.startWqe x qpn 2)
/-- WQE_SEND (R385). -/
def execWqeSend (x qpn : Nat) (s : State) : Host.Outcome State Fault Refusal := .next (s.startWqe x qpn 3)

/-! ### Answers to work requests -/

/-- Counts inbound packets NAKed or dropped (Table NET-4). -/
def State.ethDrop (s : State) (n : Nat) : State := s.modEth n (fun t => { t with drop := satAdd 0xFFFFFFFF t.drop 1 })

/-- What an answer to the oldest request in progress does. A pair that is not in RTS drops it silently (R384). -/
def State.onOldest (s : State) (x qpn : Nat) (f : List Byte → Nat → List Byte → State → State) : State :=
  let e := s.qpEntry x qpn
  if !s.qpReady x qpn then s
  else if qpState e ≠ 3 then s.ethDrop (qpPort x e)
  else
    match (s.qp x qpn).busy with
    | [] => s
    | i :: _ =>
      if !(s.ringsReady x e i) then s.requestRings x e i else f e i ((s.wqeAt x e i).getD []) s

/-- The stash target of a port's register (R390). -/
def State.ethStash (s : State) (n : Nat) : Stash := stashOf (s.eth n).stash

/-- Read data arrives (R386): it is written, and the last of it completes the request. -/
def State.takeReadData (s : State) (x qpn : Nat) (e : List Byte) (i : Nat) (w bs : List Byte) : State :=
  let got := (s.qp x qpn).got
  let n := min bs.length (wqeLen w - got)
  match s.localRange x e w true with
  | .waits s => s
  | .ends st => (s.closeWqe x qpn i w st got).askLocal x e w
  | .ok l =>
    if s.writePoison l.coherent (l.pa + got) n then (s.closeWqe x qpn i w stPoison got).askLocal x e w
    else
      let t := s.ethStash (qpPort x e)
      if n ≠ 0 ∧ !(s.hintedReady t l.coherent (l.pa + got) n) then s
      else
        let s := if n = 0 then s else s.writeHinted (6 + x) t l.coherent (l.pa + got) (bs.take n)
        (if wqeLen w ≤ got + n then s.closeWqe x qpn i w stOk (wqeLen w)
         else s.modQp x qpn (fun y => { y with got := got + n, retries := 0, rnr := 0 })).askLocal x e w

/-- RDMA_RESPONSE_RECEIVE (R386). -/
def execRdmaResponseReceive (x qpn : Nat) (bs : List Byte) (s : State) : Host.Outcome State Fault Refusal :=
  .next (s.onOldest x qpn (fun e i w s =>
    if wqeOp w = 2 then s.takeReadData x qpn e i w bs else s.closeWqe x qpn i w stOk (wqeLen w)))

/-- Sends the requests of a pair behind the oldest again, each from its start, while their data can be used. -/
def State.resendLater (s : State) (x qpn : Nat) (e : List Byte) : List Nat → State
  | [] => s
  | i :: t =>
    let w := (s.wqeAt x e i).getD []
    match s.localRange x e w (decide (wqeOp w = 2)) with
    | .ok l => ((s.sendWqe x qpn e w l).askLocal x e w).resendLater x qpn e t
    | _ => s

/-- A retry from the oldest request on (R386): all in progress are sent again, and the pair notes it; a request whose
local range has gone meanwhile ends with its status (R385, R292). -/
def State.resendWqe (s : State) (x qpn i : Nat) (e w : List Byte) (note : Qp → Qp) : State :=
  match s.localRange x e w (decide (wqeOp w = 2)) with
  | .ok l =>
    (((s.sendWqe x qpn e w l).modQp x qpn (fun y => note { y with got := 0 })).askLocal x e w).resendLater x qpn e
      ((s.qp x qpn).busy.drop 1)
  | .ends st => (s.closeWqe x qpn i w st 0).askLocal x e w
  | .waits s => s

/-- Ends a request LINK_LOST and moves its pair to ERROR (R386). -/
def State.loseLink (s : State) (x qpn i : Nat) (w : List Byte) : State :=
  (s.closeWqe x qpn i w stLinkLost 0).qpError x qpn

/-- RDMA_NAK_RECEIVE (R386): statuses by NAK; an RNR NAK is retried, 7 meaning without end. -/
def execRdmaNakReceive (x qpn : Nat) (k : NakKind) (s : State) : Host.Outcome State Fault Refusal :=
  .next (s.onOldest x qpn (fun e i w s =>
    match k with
    | .remoteAccess => s.closeWqe x qpn i w stEpochStale 0
    | .invalidRequest => s.closeWqe x qpn i w stBadLength 0
    | .remoteOperational => s.loseLink x qpn i w
    | .rnr =>
      let limit := bits (field e 0x0B 1) 4 3
      if limit = 7 ∨ (s.qp x qpn).rnr < limit then
        s.resendWqe x qpn i e w (fun y => { y with rnr := satAdd 7 y.rnr 1 })
      else s.loseLink x qpn i w))

/-- RDMA_ACK_TIMEOUT (R386): the transport retries of the entry, then LINK_LOST. -/
def execRdmaAckTimeout (x qpn : Nat) (s : State) : Host.Outcome State Fault Refusal :=
  .next (s.onOldest x qpn (fun e i w s =>
    if (s.qp x qpn).retries < bits (field e 0x0B 1) 0 3 then
      s.resendWqe x qpn i e w (fun y => { y with retries := y.retries + 1 })
    else s.loseLink x qpn i w))

/-! ### Inbound messages -/

/-- Answers an inbound packet with a NAK and counts it (Table NET-4). -/
def State.nakIn (s : State) (n qpn : Nat) (k : NakKind) : State := (s.emit (.ethNak n qpn k)).ethDrop n

/-- What an inbound packet does at a pair that takes packets; others drop it silently (R384). -/
def State.inboundAt (s : State) (n qpn : Nat) (f : List Byte → State → State) : State :=
  let e := s.qpEntry (n / 2) qpn
  if !(decide (n < 4) && s.qpReady (n / 2) qpn) then s
  else if qpState e = 2 ∨ qpState e = 3 then f e s
  else s.ethDrop n

/-- The window that an R_Key names: quad, window and epoch, or none (R387). -/
def rkeyTarget (r : Word) : Option (Nat × Nat × Half) :=
  let v := r.toNat
  if bits v 14 2 = 0 ∧ bits v 5 3 = 0 then some (bits v 8 6, bits v 0 5, BitVec.ofNat 16 (bits v 16 16)) else none

/-- Judges a message at a window and goes on with an accepted one; the others are answered and counted (R387). One that
comes behind packets held at the limit is not held and not judged: its sender tries again (08_memory_model.md R247; log
entry 184). -/
def State.windowIn (s : State) (n qpn q w : Nat) (epoch : Half) (off len : Nat) (f : Extent → State → State) : State :=
  if !(s.present q && decide (w < 32)) then s.nakIn n qpn .remoteAccess
  else if !((s.window q w).held.isEmpty) then s.nakIn n qpn .rnr
  else
    match s.judgeAt q w epoch off len with
    | .accept x => f x s
    | .overLimit => s.nakIn n qpn .rnr
    | v => (s.modWindow q w (·.countDrop v)).nakIn n qpn .remoteAccess

/-- The data of an accepted packet: written with the port's hint (R390), the message counted with its last packet. None
of it goes where memory cannot take it now. -/
def State.writeIn (s : State) (n qpn q w : Nat) (e : Extent) (x : RdmaIn) : State :=
  let pa := e.pa + x.base + x.done
  let m := x.data.length
  if !(s.windowReady (6 + n / 2) e pa m) then s.requestWrite pa m
  else if m ≠ 0 ∧ !(s.hintedReady (s.ethStash n) e.coherent pa m) then s
  else
    let s := if m = 0 then s else s.writeHinted (6 + n / 2) (s.ethStash n) e.coherent pa x.data
    let s := s.advancePsn (n / 2) qpn 0x0C 1
    if x.last then
      ((s.windowCount q w x.total).modQp (n / 2) qpn (fun y => { y with inDone := none })).emit (.ethAck n qpn)
    else s.modQp (n / 2) qpn (fun y => { y with inDone := some (x.done + m) })

/-- RDMA_WRITE_IN (R387): the packets of a message in order; after a NAK the rest are judged, and none counts. -/
def execRdmaWriteIn (n : Nat) (x : RdmaIn) (s : State) : Host.Outcome State Fault Refusal :=
  .next (s.inboundAt n x.qpn (fun _ s =>
    let broken := fun (s : State) => s.modQp (n / 2) x.qpn (fun y => { y with inDone := none })
    match rkeyTarget x.rkey with
    | none => (broken s).nakIn n x.qpn .remoteAccess
    | some (q, w, epoch) =>
      let fits := match s.judgeAt q w epoch x.base x.total with | .accept _ => true | _ => false
      let s := if fits then s else broken s
      s.windowIn n x.qpn q w epoch x.base x.total (fun e s =>
        let m := x.done + x.data.length
        if x.total < m ∨ (x.last ∧ m ≠ x.total) then (broken s).nakIn n x.qpn .invalidRequest
        else if x.done ≠ 0 ∧ (s.qp (n / 2) x.qpn).inDone ≠ some x.done then s.ethDrop n
        else s.writeIn n x.qpn q w e x)))

/-- RDMA_READ_IN (R388): served from an open window of the epoch whose segment grants reading. -/
def execRdmaReadIn (n qpn : Nat) (rkey : Word) (off len : Nat) (s : State) : Host.Outcome State Fault Refusal :=
  .next (s.inboundAt n qpn (fun _ s =>
    match rkeyTarget rkey with
    | none => s.nakIn n qpn .remoteAccess
    | some (q, w, epoch) =>
      let x := s.window q w
      if !(s.present q && x.opened && decide (x.epoch = epoch) && decide (off + len ≤ x.size.toNat)) then
        s.nakIn n qpn .remoteAccess
      else
        let asked := fun (t : State) => t.ethAsk n x.context (x.base.toNat + off)
        match s.checkEth n x.context needRead (x.base.toNat + off) len with
        | .ok e =>
          if s.hostClosed e.pa || !(s.dieReachesAll (6 + n / 2) e.pa len && s.readReady e.coherent e.pa len) then
            s.requestRead e.pa len
          else if s.readPoison e.coherent e.pa len then asked (s.nakIn n qpn .remoteOperational)
          else
            asked (((s.didRead e.pa len).emit
              (.eth n qpn (s.ethHead n (s.qpEntry (n / 2) qpn) 0x0C) 4 off rkey len
                (s.readPhys e.coherent e.pa len))).advancePsn (n / 2) qpn 0x0C
                (packetsOf (s.qpEntry (n / 2) qpn) len))
        | _ => asked (s.nakIn n qpn .remoteAccess)))

/-- RDMA_SEND_IN (R389): a message lands at recv_off, which moves on by its length in whole sectors. -/
def execRdmaSendIn (n qpn : Nat) (bs : List Byte) (s : State) : Host.Outcome State Fault Refusal :=
  .next (s.inboundAt n qpn (fun e s =>
    let q := field e 0x10 1
    let w := field e 0x11 1
    let off := field e 0x14 4
    s.windowIn n qpn q w (BitVec.ofNat 16 (field e 0x12 2)) off bs.length (fun x s =>
      if !(s.windowReady (6 + n / 2) x (x.pa + off) bs.length) then s.requestWrite (x.pa + off) bs.length
      else if !bs.isEmpty && !(s.hintedReady (s.ethStash n) x.coherent (x.pa + off) bs.length) then s
      else
        let s := if bs.isEmpty then s else s.writeHinted (6 + n / 2) (s.ethStash n) x.coherent (x.pa + off) bs
        let s := (s.windowCount q w bs.length).advancePsn (n / 2) qpn 0x0C (packetsOf e bs.length)
        (s.setQpField (n / 2) qpn 0x14 (leBytes 4 ((off + ceilDiv bs.length 64 * 64) % 2 ^ 32))).emit (.ethAck n qpn))))

/-! ### Flow control (R382, Table NET-1) -/

/-- PFC_PAUSE_RECEIVE (R382): the priorities of a mask pause or resume. -/
def execPfcPauseReceive (n : Nat) (paused mask : Byte) (s : State) : Host.Outcome State Fault Refusal :=
  .next (if s.boot.held || decide (4 ≤ n) then s
    else s.modEth n (fun t => { t with paused := (t.paused &&& ~~~mask) ||| (paused &&& mask) }))

/-- CNP_RECEIVE (R382): the pair it names lowers its rate once more. -/
def execCnpReceive (n qpn : Nat) (s : State) : Host.Outcome State Fault Refusal :=
  .next (if s.boot.held || decide (4 ≤ n) || decide (8192 ≤ qpn) then s
    else s.modQp (n / 2) qpn (fun y => { y with rateDown := y.rateDown + 1 }))

end Sys2Proof.Machine
end

