-- ==== Sys2Proof/Machine/Queues.lean ====
section
/-! DEFINITION. The queue commands: doorbells, control and head writes, abort and resume
(07_commands_and_queues.md R212 to R221). -/

namespace Sys2Proof.Machine

/-- A doorbell value at a queue (07_commands_and_queues.md R214). -/
def Queue.doorbell (x : Queue) (v : Word) : Queue :=
  if doorbellOk v x.head x.tail x.size then { x with tail := v } else { x with dbError := true }

/-- DOORBELL (R214, R223): a write of a queue's doorbell. Ports without authority leave it unchanged; a
PCIe write outside the grants counts as denied (14 R394). -/
def execDoorbell (p : Port) (q j : Nat) (v : Word) (s : State) : Host.Outcome State Fault Refusal :=
  .next (
    match p with
    | .pcie n =>
      if s.dbGranted n (16 * q + j) then
        if s.quadOpen q then s.modQueue q j (·.doorbell v) else s
      else s.pcieDeny n
    | _ => if s.mayWrite p && s.quadOpen q then s.modQueue q j (·.doorbell v) else s)

/-- The fields of QD_Qj_CTRL that a write changes at once (Table CMD-13): context and log2_size only
while DISABLED, log2_size only to 4 to 16. -/
def Queue.ctrlFields (x : Queue) (v : Word) : Queue :=
  let n := bits v.toNat 0 5
  let x := { x with stopOnError := bit v.toNat 30, enable := bit v.toNat 31 }
  if x.state = .disabled then
    { x with context := bits v.toNat 16 12, log2Size := unlessReserved (n < 4 || 16 < n) x.log2Size n }
  else x

/-- A write of QD_Qj_CTRL (Table CMD-13, R220). -/
def State.writeQueueCtrl (s : State) (q j : Nat) (v : Word) : State :=
  let s := s.modQueue q j (·.ctrlFields v)
  let x := s.queue q j
  if x.enable then
    match x.state with
    | .disabled => s.modQueue q j (fun x => { x with state := .running })
    | .stopping => s.modQueue q j (fun x => { x with thenDisabled := false })
    | _ => s
  else
    match x.state with
    | .running => s.abortQueue q j true
    | .stopping => s.modQueue q j (fun x => { x with thenDisabled := true })
    | .stopped => s.modQueue q j (fun x => { x with state := .disabled })
    | .disabled => s

/-- QUEUE_CTRL_WRITE (R212, R220). -/
def execQueueCtrlWrite (p : Port) (q j : Nat) (v : Word) (s : State) : Host.Outcome State Fault Refusal :=
  .next (if s.mayWrite p && s.quadOpen q then s.writeQueueCtrl q j v else s)

/-- A write of HEAD to a queue (R220): taken while DISABLED or STOPPED, it sets TAIL and DONE too, and
drops what was fetched and not decoded (log entry 17). -/
def Queue.writeHead (x : Queue) (v : Word) : Queue :=
  if x.state = .disabled ∨ x.state = .stopped then
    { x with head := v, tail := v, done := v, ended := [], fetched := [] }
  else x

/-- QUEUE_HEAD_WRITE (R220). -/
def execQueueHeadWrite (p : Port) (q j : Nat) (v : Word) (s : State) : Host.Outcome State Fault Refusal :=
  .next (if s.mayWrite p && s.quadOpen q then s.modQueue q j (·.writeHead v) else s)

/-- A 1 written to abort (R220): a queue that is neither RUNNING nor STOPPING has nothing to abort. -/
def State.abortWrite (s : State) (q j : Nat) : State :=
  let x := s.queue q j
  if x.state = .running ∨ x.state = .stopping then s.abortQueue q j false else s

/-- QUEUE_ABORT (R220, R65, R300). -/
def execQueueAbort (p : Port) (q j : Nat) (s : State) : Host.Outcome State Fault Refusal :=
  .next (if s.mayWrite p && s.quadOpen q then s.abortWrite q j else s)

/-- A 1 written to resume (R220, Table CMD-17): a STOPPED queue runs again, error clears, and LAST_ERR
starts to hold the first failure since. -/
def Queue.resume (x : Queue) : Queue :=
  if x.state = .stopped then { x with state := .running, error := false, lastErr := 0 } else x

/-- QUEUE_RESUME (R220). -/
def execQueueResume (p : Port) (q j : Nat) (s : State) : Host.Outcome State Fault Refusal :=
  .next (if s.mayWrite p && s.quadOpen q then s.modQueue q j (·.resume) else s)

end Sys2Proof.Machine
end

