-- ==== Sys2Proof/Machine/RegPlaces.lean ====
section
/-! DEFINITION. Configuration space: where each offset lies, and the registers whose value is 64 bits wide with a
latched high half (01_package.md R33 to R35; 04_matrix_array.md R133 and the chapters that cite it). -/

namespace Sys2Proof.Machine

/-- Where an offset of configuration space lies (R34; 07 R221, 08 R239, 14 R393). -/
inductive Place where
  /-- The package block. -/
  | pkg (o : Nat)
  /-- A quad's block. -/
  | quad (q o : Nat)
  /-- A queue's doorbell page. -/
  | bell (q j o : Nat)
  /-- A sync object's group, by its byte. -/
  | sync (obj r : Nat)
  /-- A die's block elsewhere, dies in the order C0 to C3, H0, H1, X0, X1. -/
  | die (d o : Nat)
  /-- The ECAM and memory window of a PCIe port. -/
  | pcie (n o : Nat)
  /-- No register block: unbacked. -/
  | none
deriving DecidableEq, Repr

/-- The place of an offset of a die's block. -/
def diePlace (d o : Nat) : Place :=
  if d < 4 then
    if 0x100000 ≤ o ∧ o < 0x200000 then .quad (16 * d + (o - 0x100000) / 0x10000) (o % 0x10000)
    else if 0x400000 ≤ o ∧ o < 0x420000 then .sync (4096 * d + (o - 0x400000) / 32) (o % 32)
    else if 0x800000 ≤ o ∧ o < 0x900000 then .bell (16 * d + (o - 0x800000) / 0x10000) (o % 0x10000 / 0x1000) (o % 0x1000)
    else .die d o
  else if 6 ≤ d ∧ 0x400000 ≤ o then .pcie (d - 6) o
  else .die d o

/-- The place of an offset of configuration space. -/
def placeOf (off : Nat) : Place :=
  if off < 0x10000 then .pkg off
  else if off < 0x1000000 ∨ 0x9000000 ≤ off then .none
  else diePlace (off / 0x1000000 - 1) (off % 0x1000000)

/-- The 64-bit value behind a _LO offset of the package block, if a latched pair stands there (13 R380, 16 R438). -/
def State.pkgWide (s : State) (o : Nat) : Option Nat :=
  if o = 0x210 then some s.drone
  else if o = 0x228 then some s.time.step
  else if o = 0x230 then some (s.time.bounds.headD 0)
  else if o = 0x408 then some s.power.energy
  else if o = 0x410 then some (s.power.unattr / 1000000)
  else if o = 0x420 then some s.power.calStep
  else Option.none

/-- The same in a quad's block (04 R133, 06 R189, 08 Table MEM-9). QD_ARRn_GATED counts at all times; its field holds
what the read has drawn. -/
def State.quadWide (s : State) (q o : Nat) : Option Nat :=
  let x := s.quad q
  if o = 0x608 ∨ o = 0x648 then some (x.array (o / 0x40 % 2)).mac.toNat
  else if o = 0x610 ∨ o = 0x650 then some (x.array (o / 0x40 % 2)).muted.toNat
  else if o = 0x618 ∨ o = 0x658 then some (x.array (o / 0x40 % 2)).gated.toNat
  else if o = 0x810 then some x.reedStep.toNat
  else if o = 0x818 then some x.chtMac.toNat
  else if 0x3000 ≤ o ∧ o < 0x3800 ∧ o % 0x40 = 0x18 then some (x.window ((o - 0x3000) / 0x40)).bytes.toNat
  else Option.none

/-- The same in a die's block (09 R283, 11 Table HST-9, 13 R380, 16 Table PWR-11). -/
def State.dieWide (s : State) (d o : Nat) : Option Nat :=
  if d < 4 ∧ o = 0x2210 then some (s.tier.die d).hits.toNat
  else if d < 4 ∧ o = 0x2310 then some (Table.get 0 s.extHits d).toNat
  else if d < 4 ∧ o = 0x2318 then some (Table.get 0 s.extMisses d).toNat
  else if 6 ≤ d ∧ 0x7000 ≤ o ∧ o < 0x7300 ∧ o % 0x100 = 0x10 then
    some (s.link (3 * (d - 6) + (o - 0x7000) / 0x100)).flits.toNat
  else if d = 6 ∧ 0x20000 ≤ o ∧ o < 0x28000 ∧ o % 8 = 0 then
    some (Table.get 0 s.power.ctxEnergy ((o - 0x20000) / 8) / 1000000)
  else Option.none

/-- The 64-bit value behind a _LO offset. -/
def State.wideAt (s : State) (off : Nat) : Option Nat :=
  match placeOf off with
  | .pkg o => s.pkgWide o
  | .quad q o => s.quadWide q o
  | .die d o => s.dieWide d o
  | _ => Option.none

/-- The offset of QD_ARRn_GATED_LO in a quad's block. -/
def isGated (off : Nat) : Bool :=
  match placeOf off with
  | .quad _ o => decide (o = 0x618) || decide (o = 0x658)
  | _ => false

end Sys2Proof.Machine
end

