-- ==== Sys2Proof/Machine/RegValues.lean ====
section
/-! DEFINITION. What the registers of configuration space read as (the register tables of every chapter). Reserved bits
and offsets without a register read 0 (00_scope.md R13; log entry 27). -/

namespace Sys2Proof.Machine

/-- Three coordinates of a word (13 Table AXL-6). -/
def State.axlLengths (s : State) : Nat := s.item 4 2 0 % 2 ^ 30 + flag s.loopback 31

/-- The package block from 0x0000 to 0x01FF: identification, fabric, clocks and dead agents (00 Tables SCP-3 and SCP-4,
01 Tables PKG-4, PKG-5, PKG-8 and PKG-10, 12 Table COH-9). -/
def State.idRegs (s : State) (o : Nat) : Nat :=
  if o = 0x00 then 0x5CD40000 + s.cfg.orderingCode * 2 ^ 12 + s.cfg.siliconRev * 2 ^ 8 + s.cfg.quadsEnabled
  else if o = 0x04 then s.quadMap % 2 ^ 32
  else if o = 0x08 then s.quadMap / 2 ^ 32
  else if o = 0x10 then s.fabric.degraded.toNat * 2 ^ 16 + s.fabric.up.toNat
  else if o = 0x14 then s.fabric.retrainLong.toNat * 2 ^ 16 + s.fabric.retrainSeen.toNat
  else if o = 0x18 then flag s.fabric.refPresent 8 + s.fabric.rootLocked.toNat
  else if o = 0x20 then 9 * (16 - s.item 7 2 0) * 2 ^ 8 + s.item 7 2 0
  else if 0x100 ≤ o ∧ o < 0x114 then
    ((s.coh.dead.filter (fun a => decide (a / 32 = (o - 0x100) / 4))).map (fun a => 2 ^ (a % 32))).sum
  else 0

/-- From 0x0200 to 0x02FF: topology, Drone and steps (13 Tables AXL-6 to AXL-8). -/
def State.timeRegs (s : State) (o : Nat) : Nat :=
  if o = 0x200 then s.item 4 1 0
  else if o = 0x204 then s.axlLengths
  else if o = 0x218 then flag s.time.synced 31 + flag s.time.freeRun 30 + flag s.time.isRoot 29 + s.time.parent * 2 ^ 26 +
    s.item 4 4 0
  else if o = 0x21C then s.time.rootAt.toNat
  else if o = 0x220 then s.time.hops
  else if o = 0x238 then flag s.time.linkEn 31 + flag s.time.bndErr 30 + s.time.bounds.length * 2 ^ 27 + s.time.linkObj
  else 0

/-- From 0x0300 to 0x03FF: the error log (15 Table RES-9). -/
def State.logRegs (s : State) (o : Nat) : Nat :=
  if o = 0x300 then s.log.base.toNat % 2 ^ 32
  else if o = 0x304 then s.log.base.toNat / 2 ^ 32
  else if o = 0x308 then flag s.log.enable 31 + s.log.log2Size
  else if o = 0x30C then s.log.write.toNat
  else if o = 0x310 then s.log.read.toNat
  else if o = 0x314 then flag s.log.fatal 31 + s.log.fatalMore * 2 ^ 16 + (s.log.staging.map (fun e => e.2.length)).sum
  else if o = 0x318 then s.log.lost
  else if 0x340 ≤ o ∧ o < 0x380 then field s.log.fatalLast (o - 0x340) 4
  else 0

/-- From 0x0400 to 0x04FF: package power (16 Tables PWR-8 and PWR-9). -/
def State.powerRegs (s : State) (o : Nat) : Nat :=
  let p := s.power
  if o = 0x400 then p.req * 2 ^ 30 + p.cur * 2 ^ 18 + flag s.anyFloor 17 + flag p.transition 16 + flag p.throttled 3 +
    flag p.overCap 2 + flag p.abandoned 1
  else if o = 0x404 then min 0xFFFF p.watts
  else if o = 0x418 then p.events * 2 ^ 24 + p.seen.toNat * 2 ^ 8 + p.level.toNat
  else if o = 0x41C then flag (!p.calModes.contains p.cur) 31 + flag p.calReject 30 + p.calCount
  else if o = 0x428 then flag p.trip 31 + p.hbmMax * 2 ^ 16 + p.dieMax * 2 ^ 8 + p.hotDie
  else 0

/-- From 0x0500 to 0x07FF: configuration and management (17 Table CFG-11). -/
def State.cfgRegs (s : State) (o : Nat) : Nat :=
  let c := s.cfg
  if o = 0x500 then c.bank * 2 ^ 31 + flag c.fallback 30 + c.verifyErr * 2 ^ 27 + c.svn
  else if o = 0x504 then c.seq.toNat
  else if o = 0x508 then c.txnState * 2 ^ 30 + c.txnOwner * 2 ^ 28 + c.txnResult * 2 ^ 25 + c.failCode * 2 ^ 22 +
    c.failItem * 2 ^ 11 + c.staged.length
  else if o = 0x50C then c.rollbacks * 2 ^ 16 + c.applied
  else if o = 0x510 then c.fieldEntries
  else if o = 0x520 then c.holder * 2 ^ 30 + c.lastHolder * 2 ^ 29 +
    (if c.holder = 0 then 0 else (c.leaseEnd - s.drone) / 1000000)
  else if o = 0x524 then c.iana.toNat
  else if o = 0x528 then c.lostB * 2 ^ 16 + c.lostA
  else if 0x600 ≤ o ∧ o < 0x780 then field (c.measure ((o - 0x600) / 64)) (o % 64) 4
  else 0

/-- PKG_RST_CAUSE (18 Table BRT-7). -/
def Boot.causeReg (b : Boot) : Nat :=
  b.hostResets * 2 ^ 8 + flag b.afterFatal 4 + flag b.mgmt 2 + flag b.pin 1 + flag b.powerOn 0

/-- From 0x0800 to 0x0FFF: boot and reset (18 Tables BRT-5 and BRT-7). -/
def State.bootRegs (s : State) (o : Nat) : Nat :=
  let b := s.boot
  if o = 0x800 then flag b.done 31 + flag b.recovery 30 + b.failedStage * 2 ^ 16 + b.err * 2 ^ 8 + b.stage
  else if o = 0x804 then b.causeReg
  else if o = 0x808 then flag s.resetBusy 30 + b.level * 2 ^ 24 + b.die * 2 ^ 16 + b.quad
  else 0

/-- A word of an object (09 Table TIR-7). -/
def State.objectReg (s : State) (k w : Nat) : Nat :=
  let o := s.tier.object k
  if w = 0 then o.base
  else if w = 1 then o.size
  else if w = 2 then flag o.valid 31 + flag o.userHint 30 + o.pin * 2 ^ 28 + flag o.noevict 27 + o.home * 2 ^ 24 + o.context
  else if o.valid then
    min 0xFFFFFFFF (s.tier.tiles.filter (fun e => o.has e.1 && (decide (e.2.st = .r) || decide (e.2.st = .d)))).length
  else 0

/-- From 0x1000 on: the tier (09 Tables TIR-7 and TIR-10 to TIR-12). -/
def State.tierRegs (s : State) (o : Nat) : Nat :=
  let z := s.tier
  if o = 0x1000 then z.objErr * 2 ^ 28 + z.regionErr * 2 ^ 24 + flag z.regionOp.isSome 23 + flag (!z.evicting.isEmpty) 22 +
    flag z.readOnly 21 + flag z.schedBad 20 + s.item 7 2 0 * 2 ^ 4 + s.item 7 1 0
  else if o = 0x1008 then z.schedBase.toNat % 2 ^ 32
  else if o = 0x100C then z.schedBase.toNat / 2 ^ 32
  else if o = 0x1010 then flag z.schedEnable 31 + z.schedLog2
  else if o = 0x1014 then z.schedHead.toNat
  else if o = 0x1018 then z.schedTail.toNat
  else if o = 0x101C then z.schedErr.toNat
  else if o = 0x1020 then z.regionCmd * 2 ^ 29 + z.regionNum
  else if o = 0x1024 then z.regionSrc.toNat % 2 ^ 32
  else if o = 0x1028 then z.regionSrc.toNat / 2 ^ 32
  else if 0x8000 ≤ o ∧ o < 0xC000 then s.objectReg ((o - 0x8000) / 16) (o % 16 / 4)
  else if 0xC000 ≤ o ∧ o < 0xC1F0 ∧ s.striped then
    ((List.range 16).map (fun i => s.region (16 * ((o - 0xC000) / 4) + i) * 4 ^ i)).sum
  else 0

/-- A register of the package block. -/
def State.pkgReg (s : State) (o : Nat) : Nat :=
  if o < 0x200 then s.idRegs o
  else if o < 0x300 then s.timeRegs o
  else if o < 0x400 then s.logRegs o
  else if o < 0x500 then s.powerRegs o
  else if o < 0x800 then s.cfgRegs o
  else if o < 0x1000 then s.bootRegs o
  else s.tierRegs o

/-! ### A quad's block -/

/-- QD_STN_BUSY (02 Table STN-5). -/
def Quad.busyReg (x : Quad) : Nat :=
  let l := x.claims
  lanesIn l stBell * 2 ^ 28 + lanesIn l stCrook * 2 ^ 26 + lanesIn l stIntake * 2 ^ 23 + flag x.reservation.isSome 10 +
    ((List.range 9).map (fun i => flag (decide (0 < lanesIn l (i + 1))) (i + 1))).sum

/-- QD_Qj_STATE's state field (07 Table CMD-16). -/
def QState.code : QState → Nat
  | .disabled => 0
  | .running => 1
  | .stopping => 2
  | .stopped => 3

/-- Whether a queue's wait slot holds a command suspended on a fault. -/
def Queue.faultWait (x : Queue) : Bool :=
  match x.slot with
  | some c => (match c.phase with
    | .waitFault _ _ => true
    | _ => false)
  | none => false

/-- A register of a queue (07 Tables CMD-13 and CMD-15 to CMD-17; 11 Table HST-8). -/
def Queue.reg (x : Queue) (o : Nat) : Nat :=
  if o = 0x00 then x.base.toNat % 2 ^ 32
  else if o = 0x04 then x.base.toNat / 2 ^ 32
  else if o = 0x08 then x.cpl.toNat % 2 ^ 32
  else if o = 0x0C then x.cpl.toNat / 2 ^ 32
  else if o = 0x10 then flag x.enable 31 + flag x.stopOnError 30 + x.context * 2 ^ 16 + x.log2Size
  else if o = 0x14 then x.head.toNat
  else if o = 0x18 then x.tail.toNat
  else if o = 0x1C then x.done.toNat
  else if o = 0x20 then flag x.dbError 5 + flag x.faultWait 4 + flag x.slot.isSome 3 + flag x.error 2 + x.state.code
  else if o = 0x28 then x.lastErr.toNat
  else if o = 0x2C then x.stash.toNat
  else 0

/-- A word of a destination entry (07 Table CMD-14). -/
def DestEntry.reg (e : DestEntry) (w : Nat) : Nat :=
  if w = 0 then e.w0.toNat else if w = 1 then e.w4.toNat else if w = 2 then e.w8.toNat else 0

/-- A register of a window (08 Table MEM-9; 13 Table AXL-10). -/
def Window.reg (x : Window) (o : Nat) : Nat :=
  if o = 0x00 then x.base.toNat % 2 ^ 32
  else if o = 0x04 then x.base.toNat / 2 ^ 32
  else if o = 0x08 then x.size.toNat % 2 ^ 32
  else if o = 0x0C then x.size.toNat / 2 ^ 32
  else if o = 0x10 then flag x.opened 31 + flag x.linkEn 30 + x.context * 2 ^ 16 + x.epoch.toNat
  else if o = 0x14 then x.link
  else if o = 0x20 then x.packets.toNat
  else if o = 0x24 then x.limit.toNat % 2 ^ 32
  else if o = 0x28 then x.limit.toNat / 2 ^ 32
  else if o = 0x2C then x.stale * 2 ^ 16 + x.beyond * 2 ^ 8 + x.closed
  else if o = 0x30 then x.recBase.toNat % 2 ^ 32 + x.stride
  else if o = 0x34 then x.recBase.toNat / 2 ^ 32
  else 0

/-- Commands of a quad that wait at a home (08 Table MEM-7). -/
def State.waitingRegs (s : State) (q : Nat) : Nat :=
  (s.regs.map (fun e => (e.2.filter (fun r => decide (r.q = q))).length)).sum

/-- A register of a quad's block below 0x1000, but for those that show work in progress. -/
def State.quadUnitReg (s : State) (q o : Nat) : Nat :=
  let x := s.quad q
  if o = 0x400 then x.busyReg
  else if 0x444 ≤ o ∧ o < 0x468 then (Table.get 0 x.tilesOut ((o - 0x440) / 4)).toNat
  else if 0x484 ≤ o ∧ o < 0x4A8 then Table.get 0 x.stall ((o - 0x480) / 4)
  else if o = 0x500 then x.checkFail * 2 ^ 16 + x.checkRetry
  else if o = 0x620 ∨ o = 0x660 then
    let a := x.array (o / 0x40 % 2)
    a.residue * 2 ^ 24 + a.parity * 2 ^ 16 + a.checkRow * 2 ^ 8 + a.checkCol
  else if o = 0x700 then flag x.gradUflow 2 + flag x.gradNan 1 + flag x.gradSat 0
  else if o = 0x704 then x.satCount
  else if o = 0x708 then x.uflowCount
  else if o = 0x804 then x.gthRows
  else if o = 0x808 then x.badIndex.toNat
  else if o = 0x900 then x.lateWakes * 2 ^ 16 + s.waitingRegs q
  else if o = 0xA00 then x.segMisses * 2 ^ 16 + x.segCopy.length
  else if o = 0xB00 then x.portLate * 2 ^ 16 + x.outstanding.length
  else if o = 0xC00 then x.replays * 2 ^ 16 + x.exhausted * 2 ^ 8 + x.control
  else if o = 0xC04 then flag x.suspect 31 + x.score
  else 0

/-- A register of a quad's block. -/
def State.quadReg (s : State) (q o : Nat) : Nat :=
  let x := s.quad q
  if o < 0x1000 then s.quadUnitReg q o
  else if o < 0x1400 then (x.queue ((o - 0x1000) / 0x40)).reg (o % 0x40)
  else if 0x2000 ≤ o ∧ o < 0x3000 then (x.dest ((o - 0x2000) / 16)).reg (o % 16 / 4)
  else if 0x3000 ≤ o ∧ o < 0x3800 then (x.window ((o - 0x3000) / 0x40)).reg (o % 0x40)
  else 0

/-! ### Work in progress: free values while a station is claimed (log entry 24) -/

/-- Whether a quad's running commands claim a station. -/
def Quad.claimed (x : Quad) (st : Nat) : Bool := decide (0 < lanesIn x.claims st)

/-- A free number below a bound while a station is claimed, else 0. -/
def State.inProgress (s : State) (q st bound : Nat) : Nat × State :=
  if (s.quad q).claimed st then s.drawNat bound else (0, s)

/-- The low bits of the stationary format of the command that holds an array (07 Tables CMD-3 and CMD-5). -/
def Quad.fmtIn (x : Quad) (st : Nat) : Nat :=
  match x.queues.findSome? (fun e => e.2.cmds.find? (fun c => c.held.any (fun h => decide (h.1 = st)))) with
  | some c =>
    let fused := decide (opcodeOf c.desc = opNormBack) || decide (opcodeOf c.desc = opSoftmaxBack)
    body c.desc (if fused then 0x54 else 0x36) 1 % 16
  | none => 0

/-- QD_ARRn_STATUS (04 Table ARR-4): what the array does now is free while a command holds it. -/
def State.arrayStatus (s : State) (q n : Nat) : Nat × State :=
  let st := stArray0 + n
  let (w, s) := s.inProgress q st 32
  let x := s.quad q
  (flag s.checked 9 + flag (bit w 0) 8 + (if bit w 1 then x.fmtIn st * 2 ^ 4 else 0) + flag (bit w 2) 3 +
    flag (bit w 3) 2 + flag (bit w 4) 1 + flag (x.claimed st) 0, s)

/-- Whether a running command of a quad holds GATHER as a SCATTER_ADD sink. -/
def Quad.scatters (x : Quad) : Bool :=
  x.queues.any (fun e => e.2.cmds.any (fun c =>
    decide (opcodeOf c.desc = opScatter) && c.held.any (fun h => decide (h.1 = stGather))))

/-- Row slots that a quad holds (06 R184): none while GATHER is not claimed. -/
def Quad.slotsHeld (x : Quad) : Nat := if x.claimed stGather then x.slots else 0

/-- Row slots that the quads of a die hold. -/
def State.dieSlots (s : State) (d : Nat) : Nat := ((List.range 16).map (fun l => (s.quad (16 * d + l)).slotsHeld)).sum

/-- The slots that a quad holds by now: a free number within the quad's 4,096 and the die's 16,384 (06 R184; log
entry 24). -/
def State.drawSlots (s : State) (q : Nat) : State :=
  let x := s.quad q
  if x.claimed stGather then
    let (n, s) := s.drawNat (min 4096 (16384 - (s.dieSlots (q / 16) - x.slotsHeld)) + 1)
    s.modQuad q (fun x => { x with slots := n })
  else s

/-- QD_GTH_STATUS (06 Table VEC-6). A quad below its own limit waits for a die slot only where the die has none. -/
def State.gatherStatus (s : State) (q : Nat) : Nat × State :=
  let s := s.drawSlots q
  let x := s.quad q
  let (w, s) := s.inProgress q stGather 2
  let waits := decide (w = 1) && decide (x.slotsHeld < 4096) && decide (s.dieSlots (q / 16) = 16384)
  (flag waits 14 + flag x.scatters 13 + x.slotsHeld, s)

/-- QD_CROOK_OCC (05 R142, Table BWD-10): the tiles of a claimed lane are a free number, at most 32 in all. Which lane
a sole claim has is free (log entry 24). -/
def State.crookStatus (s : State) (q : Nat) : Nat × State :=
  let n := lanesIn (s.quad q).claims stCrook
  if n = 0 then (0, s)
  else
    let (a, s) := s.drawNat 33
    let (k, s) := s.drawNat 2
    let (b, s) := s.drawNat (33 - a)
    (if n = 1 then (if k = 0 then a else a * 2 ^ 8) else b * 2 ^ 8 + a, s)

/-- A register of a quad's block, with those that show work in progress. -/
def State.quadNow (s : State) (q o : Nat) : Nat × State :=
  if o = 0x600 then s.arrayStatus q 0
  else if o = 0x640 then s.arrayStatus q 1
  else if o = 0x710 then s.crookStatus q
  else if o = 0x800 then s.gatherStatus q
  else (s.quadReg q o, s)

/-- DIE_GTH_SLOTS (06 Table VEC-10): what the die's quads hold by now. -/
def State.gatherSlots (s : State) (d : Nat) : Nat × State :=
  let s := (List.range 16).foldl (fun s l => s.drawSlots (16 * d + l)) s
  (s.dieSlots d, s)

/-! ### The dies' blocks -/

/-- A home agent's register (12 Table COH-8). -/
def State.homeReg (s : State) (h o : Nat) : Nat :=
  let x := s.coh.home h
  if o = 0x00 then (s.coh.retryQ.filter (fun e => decide (s.homeOf e.2.1 = h))).length * 2 ^ 16 + s.openAt h
  else if o = 0x04 then flag x.late 3 + flag x.poison 2 + flag x.timeout 1 + flag x.retry 0
  else if o = 0x08 then x.poisonCount
  else if o = 0x0C then x.lateCount
  else if o = 0x10 then x.bcastCount
  else if o = 0x14 then x.backinv
  else if o = 0x18 then x.retryCount
  else if o = 0x1C then (s.coh.dir.filter (fun e => decide (s.homeOf e.1 = h))).length
  else if o = 0x20 then x.last.toNat % 2 ^ 32
  else if o = 0x24 then x.last.toNat / 2 ^ 32
  else if o = 0x28 then x.probe.toNat
  else if o = 0x30 then x.probed.toNat % 2 ^ 32
  else if o = 0x34 then x.probed.toNat / 2 ^ 32
  else 0

/-- A compute die's own register (06 to 11, 15; Tables MEM-6, TIR-13, HST-9 and RES-6). -/
def State.computeReg (s : State) (d o : Nat) : Nat :=
  let t := s.tier.die d
  if o = 0x2100 then (s.regsOf d).length * 2 ^ 16 + Table.get 0 s.sweepWakes d
  else if o = 0x2200 then s.item 3 1 d % 16 * 2 ^ 4 + flag (decide (s.item 3 1 d = 16)) 3
  else if o = 0x2204 then s.tierSlots
  else if o = 0x2208 then (s.tier.slots.filter (fun e => e.2.used && decide (e.1 / 16 / 2 ^ 24 = d) &&
    (groupTiles e.2.group).any (fun k => s.inSlot k && (s.tilePinned k || s.tileProtected k)))).length
  else if o = 0x2218 then t.promoted
  else if o = 0x221C then min 0xFFFF (t.evDirty / 256) * 2 ^ 16 + min 0xFFFF (t.evClean / 256)
  else if o = 0x2220 then t.bypass
  else if o = 0x2224 then t.late
  else if o = 0x2300 then s.item 3 7 d * 2 ^ 16 + (16 - s.item 3 1 d) * 2 ^ 8 + (if s.item 3 1 d = 16 then 0 else s.item 3 2 d)
  else if o = 0x2304 then Table.get 0 s.extSelfDis d * 2 ^ 16 + s.item 3 6 d
  else if o = 0x2308 then
    let (c, u, b) := Table.get (0, 0, 0) s.extErr d
    c * 2 ^ 16 + u * 2 ^ 8 + b
  else if 0x2500 ≤ o ∧ o < 0x2548 then
    let p := (o - 0x2500) / 4
    s.physState d p * 2 ^ 8 + (if s.physState d p = 0 then s.physLocal d p else 0)
  else 0

/-- A translation unit's register (10 Tables SEG-5 to SEG-9). -/
def Stu.reg (t : Stu) (o : Nat) : Nat :=
  if o < 0x20 then (Table.get 0 t.stage (o / 4)).toNat
  else if o = 0x20 then t.cmdOp * 2 ^ 29 + t.cmdSlot * 2 ^ 16 + t.cmdCtx
  else if o = 0x24 then flag t.running.isSome 31 + t.generation.toNat * 2 ^ 4 + t.result
  else if o = 0x80 then flag t.resolveFail 30 + t.resolveRecord
  else if o = 0x84 then t.overflow * 2 ^ 16 + flag t.faultPending 15 + (t.faults.filter (fun e => e.2.valid)).length
  else if o = 0x88 then t.lookups
  else if 0x100 ≤ o ∧ o < 0x500 then
    let f := t.fault ((o - 0x100) / 16)
    let w := o % 16 / 4
    if w = 0 then flag f.valid 31 + f.waiters * 2 ^ 12 + f.ctx
    else if w = 1 then f.va % 2 ^ 32
    else if w = 2 then f.queue * 2 ^ 22 + f.va / 2 ^ 32
    else f.drone.toNat
  else 0

/-- A host die's own register (11 Tables HST-6 and HST-7). -/
def State.hostReg (s : State) (h o : Nat) : Nat :=
  let x := s.hostDie h
  if 0x4000 ≤ o ∧ o < 0x5000 then (s.stu h).reg (o - 0x4000)
  else if o = 0x5000 then s.item 3 7 (4 + h) * 2 ^ 16 + s.item 3 4 h * 2 ^ 8 + s.item 3 3 h
  else if o = 0x5004 then s.item 3 5 h
  else if o = 0x5008 then x.corrected * 2 ^ 16 + x.uncorr * 2 ^ 8 + x.tagBoth
  else if o = 0x500C then x.errLoc.toNat
  else if o = 0x5010 then x.stashDropped
  else if h = 0 ∧ 0x10000 ≤ o ∧ o < 0x11018 then (Table.get 0 s.routes ((o - 0x10000) / 4)).toNat
  else 0

/-- AXLn_STATUS's state field (13 Table AXL-9). -/
def LinkSt.code : LinkSt → Nat
  | .down => 0
  | .training => 1
  | .up => 2
  | .retraining => 3

/-- A link's register (13 Table AXL-9). -/
def State.linkReg (s : State) (n o : Nat) : Nat :=
  let l := s.link n
  if o = 0x00 then flag l.miswired 11 + flag l.spareRx 10 + flag l.spareTx 9 + flag l.width8 8 + flag (s.linkUnused n) 3 +
    l.st.code
  else if o = 0x04 then l.crc * 2 ^ 16 + l.replays
  else if o = 0x08 then l.fecCorrected / 256 * 2 ^ 8 + l.fecUncorr
  else if o = 0x18 then l.detour
  else if o = 0x1C then l.lost
  else if o = 0x40 then flag l.fiEnable 31 + flag l.fiDenied 30 + flag (bit (s.item 9 1 0) n) 29 + l.fiCtrl.toNat % 2 ^ 26
  else if o = 0x44 then l.fiSeed.toNat
  else if o = 0x48 then l.fiCount
  else 0

/-- An Ethernet port's register (14 Table NET-4). -/
def Eth.reg (t : Eth) (o : Nat) : Nat :=
  if o = 0x00 then t.paused.toNat
  else if o = 0x04 then t.stash.toNat
  else if o = 0x08 then t.drop
  else if 0x10 ≤ o ∧ o < 0x50 then (Table.get 0 t.gids ((o - 0x10) / 16)).toNat / 2 ^ (8 * (o % 16)) % 2 ^ 32
  else 0

/-- Channels of an I/O die. -/
def Tier.ioChannels (z : Tier) (x : Nat) : List Channel := (List.range 32).map (fun i => z.channel (32 * x + i))

/-- An I/O die's flash register (09 Table TIR-14). -/
def State.flashReg (s : State) (x o : Nat) : Nat :=
  let f := s.tier.flashDie x
  let erases := (s.tier.ioChannels x).flatMap (fun c => c.blockErases.map Prod.snd)
  if o = 0x2400 then (if s.boot.flashDone then ((s.tier.ioChannels x).map (fun c => c.spare)).foldl min 256 else 256)
  else if o = 0x2404 then min 0xFFFF (greatest erases) * 2 ^ 16 + min 0xFFFF (erases.sum / (32 * 8192))
  else if o = 0x2408 then f.retired
  else if o = 0x240C then min 0xFFFFFFFF (f.reads / 1024)
  else if o = 0x2410 then f.programs
  else if o = 0x2414 then f.refresh
  else if o = 0x2418 then f.uncorr
  else 0

/-- An I/O die's own register (09, 13, 14). -/
def State.ioReg (s : State) (x o : Nat) : Nat :=
  if o < 0x3000 then s.flashReg x o
  else if 0x7000 ≤ o ∧ o < 0x7300 then s.linkReg (3 * x + (o - 0x7000) / 0x100) (o % 0x100)
  else if 0x8000 ≤ o ∧ o < 0x8200 then (s.eth (2 * x + (o - 0x8000) / 0x100)).reg (o % 0x100)
  else if o = 0x8400 then (s.qpReg x).base.toNat % 2 ^ 32
  else if o = 0x8404 then (s.qpReg x).base.toNat / 2 ^ 32
  else if o = 0x8408 then (s.qpReg x).cmdState * 2 ^ 16 + (s.qpReg x).cmdQpn
  else if o = 0x840C then (s.qpReg x).db.toNat
  else if o = 0x8800 then flag (s.pciePort x).up 31 + (s.pciePort x).rate * 2 ^ 4 + (s.pciePort x).width
  else if o = 0x8804 then (s.pciePort x).denied
  else 0

/-- A die's power register (16 Table PWR-10). -/
def State.diePowerReg (s : State) (d o : Nat) : Nat :=
  let x := s.diePower d
  if o = 0x2600 then x.effMhz * 2 ^ 16 + flag (s.dieFloor d) 9 + flag x.droop 8 + s.level d
  else if o = 0x2604 then x.trips
  else if o = 0x2608 then x.mv * 2 ^ 16 + x.amps
  else if o = 0x260C then x.sensor * 2 ^ 8 + x.hottest
  else 0

/-- A register of a die's block. -/
def State.dieReg (s : State) (d o : Nat) : Nat :=
  if 0x2600 ≤ o ∧ o < 0x2610 then s.diePowerReg d o
  else if d < 6 ∧ 0x6000 ≤ o ∧ o < 0x6400 then s.homeReg (4 * d + (o - 0x6000) / 0x100) (o % 0x100)
  else if d < 4 then s.computeReg d o
  else if d < 6 then s.hostReg (d - 4) o
  else s.ioReg (d - 6) o

end Sys2Proof.Machine
end

