-- ==== Sys2Proof/Machine/RegReads.lean ====
section
/-! DEFINITION. Reading a word of configuration space: the value, what the read clears, and the latched high halves
(00_scope.md R12; 04_matrix_array.md R133; 01_package.md R35). -/

namespace Sys2Proof.Machine

/-- What a read of the package block clears (RC fields: 15 Table RES-9, 16 Table PWR-9, 17 Table CFG-11, 18 Table
BRT-7). -/
def State.clearPkg (s : State) (o : Nat) : State :=
  if o = 0x318 then s.modLog (fun l => { l with lost := 0 })
  else if o = 0x418 then s.modPower (fun p => { p with events := 0 })
  else if o = 0x50C then s.modCfg (fun c => { c with rollbacks := 0, applied := 0 })
  else if o = 0x528 then s.modCfg (fun c => { c with lostA := 0, lostB := 0 })
  else if o = 0x804 then s.modBoot (fun b => { b with hostResets := 0 })
  else s

/-- What a read of a quad's register clears. -/
def Quad.cleared (x : Quad) (o : Nat) : Quad :=
  if 0x484 ≤ o ∧ o < 0x4A8 then { x with stall := Table.put 0 x.stall ((o - 0x480) / 4) 0 }
  else if o = 0x500 then { x with checkFail := 0, checkRetry := 0 }
  else if o = 0x620 ∨ o = 0x660 then
    x.modArray (o / 0x40 % 2) (fun a => { a with residue := 0, parity := 0, checkRow := 0, checkCol := 0 })
  else if o = 0x704 then { x with satCount := 0 }
  else if o = 0x708 then { x with uflowCount := 0 }
  else if o = 0x804 then { x with gthRows := 0 }
  else if o = 0x900 then { x with lateWakes := 0 }
  else if o = 0xA00 then { x with segMisses := 0 }
  else if o = 0xB00 then { x with portLate := 0 }
  else if o = 0xC00 then { x with replays := 0, exhausted := 0, control := 0 }
  else if 0x3000 ≤ o ∧ o < 0x3800 ∧ o % 0x40 = 0x2C then
    let w := (o - 0x3000) / 0x40
    { x with windows := Table.put Window.reset x.windows w { x.window w with stale := 0, beyond := 0, closed := 0 } }
  else x

/-- What a read of a quad's block clears. -/
def State.clearQuad (s : State) (q o : Nat) : State := s.modQuad q (fun x => x.cleared o)

/-- What a read of a home agent's register clears (12 Table COH-8). -/
def Home.cleared (x : Home) (o : Nat) : Home :=
  if o = 0x08 then { x with poisonCount := 0 }
  else if o = 0x0C then { x with lateCount := 0 }
  else if o = 0x10 then { x with bcastCount := 0 }
  else if o = 0x14 then { x with backinv := 0 }
  else if o = 0x18 then { x with retryCount := 0 }
  else x

/-- What a read of a compute die's own register clears; of a count shown in units, the part below one unit stays
(log entry 27). -/
def State.clearCompute (s : State) (d o : Nat) : State :=
  if o = 0x2100 then { s with sweepWakes := Table.put 0 s.sweepWakes d 0 }
  else if o = 0x2218 then s.modTierDie d (fun t => { t with promoted := 0 })
  else if o = 0x221C then s.modTierDie d (fun t => { t with evDirty := t.evDirty % 256, evClean := t.evClean % 256 })
  else if o = 0x2220 then s.modTierDie d (fun t => { t with bypass := 0 })
  else if o = 0x2224 then s.modTierDie d (fun t => { t with late := 0 })
  else if o = 0x2308 then { s with extErr := Table.put (0, 0, 0) s.extErr d (0, 0, 0) }
  else s

/-- What a read of a host die's own register clears. -/
def State.clearHost (s : State) (h o : Nat) : State :=
  if o = 0x4084 then s.modStu h (fun t => { t with overflow := 0 })
  else if o = 0x4088 then s.modStu h (fun t => { t with lookups := 0 })
  else if o = 0x5008 then s.modHostDie h (fun x => { x with corrected := 0, uncorr := 0, tagBoth := 0 })
  else if o = 0x5010 then s.modHostDie h (fun x => { x with stashDropped := 0 })
  else s

/-- What a read of a link's register clears (13 Table AXL-9). -/
def Link.cleared (l : Link) (o : Nat) : Link :=
  if o = 0x04 then { l with crc := 0, replays := 0 }
  else if o = 0x08 then { l with fecCorrected := l.fecCorrected % 256, fecUncorr := 0 }
  else if o = 0x18 then { l with detour := 0 }
  else if o = 0x1C then { l with lost := 0 }
  else if o = 0x48 then { l with fiCount := 0 }
  else l

/-- What a read of a flash register clears (09 Table TIR-14). -/
def FlashDie.cleared (f : FlashDie) (o : Nat) : FlashDie :=
  if o = 0x240C then { f with reads := f.reads % 1024 }
  else if o = 0x2410 then { f with programs := 0 }
  else if o = 0x2414 then { f with refresh := 0 }
  else if o = 0x2418 then { f with uncorr := 0 }
  else f

/-- What a read of an I/O die's own register clears. -/
def State.clearIo (s : State) (x o : Nat) : State :=
  if o < 0x3000 then s.modFlashDie x (fun f => f.cleared o)
  else if 0x7000 ≤ o ∧ o < 0x7300 then s.modLink (3 * x + (o - 0x7000) / 0x100) (fun l => l.cleared (o % 0x100))
  else if o = 0x8008 ∨ o = 0x8108 then s.modEth (2 * x + (o - 0x8000) / 0x100) (fun t => { t with drop := 0 })
  else if o = 0x8804 then s.modPcie x (fun t => { t with denied := 0 })
  else s

/-- What a read of a die's block clears. -/
def State.clearDie (s : State) (d o : Nat) : State :=
  if o = 0x2604 then s.modDiePower d (fun x => { x with trips := 0 })
  else if d < 6 ∧ 0x6000 ≤ o ∧ o < 0x6400 then s.modHome (4 * d + (o - 0x6000) / 0x100) (fun x => x.cleared (o % 0x100))
  else if d < 4 then s.clearCompute d o
  else if d < 6 then s.clearHost (d - 4) o
  else s.clearIo (d - 6) o

/-- DIE_PCIE_STATUS (14 Table NET-4): 0 until the port's training may begin (18 Table BRT-4); from then on what the
port's training has come to is free, and a read keeps what it found (log entry 11). -/
def State.pcieStatus (s : State) (n : Nat) : Nat × State :=
  if !s.boot.perstReleased then (s.ioReg n 0x8800, s)
  else
    let (u, s) := s.drawNat 2
    let (r, s) := s.drawNat 7
    let (w, s) := s.drawNat 6
    let s := s.modPcie n (fun x => { x with up := decide (u = 1), rate := r, width := [0, 1, 2, 4, 8, 16].getD w 0 })
    (s.ioReg n 0x8800, s)

/-- A read of an offset that is no latched pair. -/
def State.readPlain (s : State) (off : Nat) : Nat × State :=
  match placeOf off with
  | .pkg o => (s.pkgReg o, s.clearPkg o)
  | .quad q o =>
    if s.quadOpen q then
      let (v, s) := s.quadNow q o
      (v, s.clearQuad q o)
    else (0, s)
  | .bell q j o => (if s.quadOpen q ∧ o = 0 then (s.queue q j).tail.toNat else 0, s)
  | .sync obj r => (if r < 24 then (s.syncVal obj).toNat / 2 ^ (8 * (r % 8)) else 0, s)
  | .die d o =>
    if d < 4 ∧ o = 0x2000 then s.gatherSlots d
    else if 6 ≤ d ∧ o = 0x8800 then s.pcieStatus (d - 6)
    else (s.dieReg d o, s.clearDie d o)
  | .pcie n o =>
    let (v, s) := s.drawNat (2 ^ 32)
    (v, s.emit (.pcieRead n o 4))
  | .none => (0, s)

/-- Whether the block of an offset takes accesses: a quad must be open (R35; log entry 16). -/
def State.offOpen (s : State) (off : Nat) : Bool :=
  match placeOf off with
  | .quad q _ => s.quadOpen q
  | _ => true

/-- Adds to QD_ARRn_GATED the slice-cycles gated since it was last read, a free number (04 R126, R127; log entry 24). -/
def State.drawGated (s : State) (off : Nat) : State :=
  match placeOf off with
  | .quad q o =>
    let (v, s) := s.drawNat (2 ^ 48)
    s.modQuad q (fun x => x.modArray (o / 0x40 % 2) (fun a => { a with gated := a.gated + BitVec.ofNat 64 v }))
  | _ => s

/-- A read of a _LO register: its low half, the high half latched (04 R133). -/
def State.readLo (s : State) (off : Nat) : Nat × State :=
  let s := if isGated off then s.drawGated off else s
  let v := (s.wideAt off).getD 0
  (v, { s with latches := Table.put 0 s.latches (off + 4) (hiWord v) })

/-- Whether an offset is the _HI register of a latched pair. -/
def State.isHi (s : State) (off : Nat) : Bool := decide (4 ≤ off) && (s.wideAt (off - 4)).isSome

/-- A read of a word of configuration space at a 4-byte aligned offset. -/
def State.readWord (s : State) (off : Nat) : Word × State :=
  if !s.offOpen off then (0, s)
  else if (s.wideAt off).isSome then
    let (v, s) := s.readLo off
    (loWord v, s)
  else if s.isHi off then (Table.get 0 s.latches off, s)
  else
    let (v, s) := s.readPlain off
    (loWord v, s)

/-- A read of n words in a row (17 Table CFG-6). -/
def State.readWords (s : State) (off : Nat) : Nat → List Word × State
  | 0 => ([], s)
  | n + 1 =>
    let (w, s) := s.readWord off
    let (ws, s) := s.readWords (off + 4) n
    (w :: ws, s)

/-- Whether every byte of a range of configuration space stands in a register block (01_package.md R33, R34). -/
def cfgBacked (off n : Nat) : Bool := decide (off + n ≤ 0x10000) || (decide (0x1000000 ≤ off) && decide (off + n ≤ 0x9000000))

end Sys2Proof.Machine
end

