-- ==== Sys2Proof/Machine/Segments.lean ====
section
/-! DEFINITION. The translation units: segment operations, withdrawals and the resolution of faults
(10_segments.md R285 to R306). -/

namespace Sys2Proof.Machine

/-! ### The operation register -/

/-- Starts an operation from a write of STU_SEG_CMD (R306): while one runs the write is ignored and result
reads 8; a context of the other unit ends with result 7. -/
def State.stuGo (s : State) (u op ctx slot : Nat) (f : State → State) : State :=
  if (s.stu u).running.isSome then s.modStu u (fun t => { t with result := 8 })
  else
    let s := s.modStu u (fun t => { t with cmdOp := op, cmdSlot := slot, cmdCtx := ctx })
    if ctx / 2048 ≠ u then s.modStu u (fun t => { t with running := some (.install 7 t.generation) }) else f s

/-- Whether a port may start an operation of a unit. -/
def State.stuOpen (s : State) (p : Port) (u ctx slot : Nat) : Bool :=
  s.mayWrite p && decide (u < 2) && decide (ctx < 4096) && decide (slot < 16)

/-! ### SEG_READ and SEG_OP_DONE -/

/-- SEG_READ (R306): the staging words are filled when the operation completes. -/
def execSegRead (p : Port) (u ctx slot : Nat) (s : State) : Host.Outcome State Fault Refusal :=
  .next (if s.stuOpen p u ctx slot then
      s.stuGo u 0 ctx slot (fun s => s.modStu u (fun t => { t with running := some (.read ctx slot) }))
    else s)

/-- A descriptor's bytes as eight words (R285). -/
def Seg.words (g : Seg) : List Word :=
  [loWord g.vbase, hiWord g.vbase, loWord g.pbase, hiWord g.pbase, BitVec.ofNat 32 g.len2m, g.attr.setWidth 32,
   g.gen.setWidth 32, 0]

/-- Ends an operation with a result and the slot's generation (Table SEG-7). -/
def Stu.done (t : Stu) (result : Nat) (gen : Half) : Stu := { t with running := none, result := result, generation := gen }

/-- SEG_OP_DONE (R306): a read or install completes. -/
def execSegOpDone (u : Nat) (s : State) : Host.Outcome State Fault Refusal :=
  .next (
    match (s.stu u).running with
    | some (.read ctx slot) =>
      s.modStu u (fun t =>
        let g := t.seg ctx slot
        { t.done 0 g.gen with stage := Table.splice 0 t.stage 0 g.words })
    | some (.install r gen) => s.modStu u (·.done r gen)
    | _ => s)

/-! ### SEG_INSTALL -/

/-- The descriptor that the staging words hold, without the bits that are ignored (Table SEG-1). -/
def Stu.staged (t : Stu) : Seg :=
  let w := fun (k : Nat) => (Table.get 0 t.stage k).toNat
  { valid := true, vbase := (w 0 + w 1 % 2 ^ 16 * 2 ^ 32) / 2 ^ 21 * 2 ^ 21,
    pbase := (w 2 + w 3 % 2 ^ 16 * 2 ^ 32) / 2 ^ 21 * 2 ^ 21, len2m := w 4 % 2 ^ 27,
    attr := BitVec.ofNat 8 (w 5 % 128), gen := 0 }

/-- The tier code of a region (Table SEG-1); configuration space has none. -/
def tierOf : Region → Option Nat
  | .ddr => some 0
  | .hbm _ => some 1
  | .tiered => some 2
  | .scratch _ => some 3
  | .pool _ => some 3
  | .config => none

/-- Whether a tier allows a segment's attributes (Table SEG-2). -/
def attrOk (tier : Nat) (g : Seg) : Bool :=
  let atomic := bit g.attr.toNat 2
  let hint := bit g.attr.toNat 6
  if tier = 0 then g.coherent && !atomic && !hint
  else if tier = 1 then !hint
  else if tier = 2 then true
  else !g.coherent && !atomic && !hint

/-- Whether a descriptor overlaps a valid segment of its context (R287). -/
def Stu.overlaps (t : Stu) (ctx : Nat) (g : Seg) : Bool :=
  (List.range 16).any (fun i =>
    let h := t.seg ctx i
    h.valid && decide (g.vbase < h.vbase + h.len) && decide (h.vbase < g.vbase + g.len))

/-- The result of an install: the first rule that fails, in increasing order (R286, R287, R306). -/
def State.installResult (s : State) (u ctx slot : Nat) (g : Seg) : Nat :=
  let t := s.stu u
  if (t.seg ctx slot).valid then 1
  else if g.len2m = 0 ∨ 2 ^ 48 < g.vbase + g.len then 2
  else if t.overlaps ctx g then 3
  else
    match s.backed g.pbase g.len with
    | none => 4
    | some r =>
      match tierOf r with
      | none => 4
      | some k => if k ≠ g.tier then 5 else if !attrOk k g then 6 else 0

/-- Installs the staged descriptor, or leaves the slot as it was (R286, R288). -/
def State.installSeg (s : State) (u ctx slot : Nat) : State :=
  let g := (s.stu u).staged
  let old := (s.stu u).seg ctx slot
  let r := s.installResult u ctx slot g
  if r = 0 then
    s.modStu u (fun t =>
      { t.setSeg ctx slot { g with gen := old.gen + 1 } with running := some (.install 0 (old.gen + 1)) })
  else s.modStu u (fun t => { t with running := some (.install r old.gen) })

/-- SEG_INSTALL (R286, R306). -/
def execSegInstall (p : Port) (u ctx slot : Nat) (s : State) : Host.Outcome State Fault Refusal :=
  .next (if s.stuOpen p u ctx slot then s.stuGo u 1 ctx slot (fun s => s.installSeg u ctx slot) else s)

/-! ### SEG_WITHDRAW and WITHDRAW_DRAINED -/

/-- Whether a command holds the translation of a slot (R291). -/
def Cmd.holdsSeg (c : Cmd) (ctx slot : Nat) : Bool :=
  c.exts.any (fun e => decide (e.2.ctx = ctx) && decide (e.2.slot = slot))

/-- A command that has not started drops the translation and repeats its check when it becomes ready (R302). -/
def Cmd.dropSeg (c : Cmd) (ctx slot : Nat) : Cmd :=
  if decide (c.phase ≠ .running) && c.holdsSeg ctx slot then { c with exts := [], redecode := true } else c

/-- The invalidation at one quad: copies dropped, unstarted commands marked (R301, R302). -/
def Quad.invalidate (x : Quad) (ctx slot : Nat) : Quad :=
  { x with segCopy := copyDrop x.segCopy ctx slot,
           queues := x.queues.map (fun (e : Nat × Queue) =>
             (e.1, { e.2 with slot := e.2.slot.map (·.dropSeg ctx slot), cmds := e.2.cmds.map (·.dropSeg ctx slot) })) }

/-- The invalidation at the Ethernet ports (R292, R301). -/
def State.dropEthCopies (s : State) (ctx slot : Nat) : State :=
  (List.range 4).foldl (fun s n => s.modEth n (fun t => { t with segCopy := copyDrop t.segCopy ctx slot })) s

/-- The running commands of the package with their quads and queues. -/
def State.runningCmds (s : State) : List (Nat × Nat × Cmd) :=
  s.quads.flatMap (fun e => e.2.queues.flatMap (fun y =>
    (y.2.cmds.filter (fun c => decide (c.phase = .running))).map (fun c => (e.1, y.1, c))))

/-- The started commands that hold a slot's translation stop and end SEG_FAULT (R302). -/
def State.stopHolders (s : State) (ctx slot : Nat) : State :=
  (s.runningCmds.filter (fun p => p.2.2.holdsSeg ctx slot)).foldl
    (fun s p => s.breakCmd p.1 p.2.1 { p.2.2 with withdrawn := true } stSegFault 0) s

/-- Withdraws a slot (R288, R301, R302). -/
def State.withdrawSeg (s : State) (u ctx slot : Nat) : State :=
  let old := (s.stu u).seg ctx slot
  if !old.valid then s.modStu u (fun t => { t with running := some (.install 1 old.gen) })
  else
    let s := s.modStu u (fun t =>
      { t.setSeg ctx slot { old with valid := false, gen := old.gen + 1 } with
        running := some (.withdraw ctx slot (old.gen + 1)) })
    let s := ((s.quads.map Prod.fst).foldl (fun s q => s.modQuad q (·.invalidate ctx slot)) s).dropEthCopies ctx slot
    (s.stopHolders ctx slot).closeWindows ctx slot

/-- SEG_WITHDRAW (R301). -/
def execSegWithdraw (p : Port) (u ctx slot : Nat) (s : State) : Host.Outcome State Fault Refusal :=
  .next (if s.stuOpen p u ctx slot then s.stuGo u 2 ctx slot (fun s => s.withdrawSeg u ctx slot) else s)

/-- WITHDRAW_DRAINED (R301): transfers are whole steps here, so those under the old generation have drained. -/
def execWithdrawDrained (u : Nat) (s : State) : Host.Outcome State Fault Refusal :=
  .next (
    match (s.stu u).running with
    | some (.withdraw _ _ gen) => s.modStu u (·.done 0 gen)
    | _ => s)

/-! ### SEG_LOOKUP_MISS -/

/-- SEG_LOOKUP_MISS (R290): a quad whose copy does not cover an address asks the context's unit. -/
def execSegLookupMiss (q ctx va : Nat) (s : State) : Host.Outcome State Fault Refusal :=
  .next (if s.quadRuns q && decide (ctx < 4096) &&
      (copyFind (s.quad q).segCopy ctx va).isNone then (s.segMiss q ctx va).2
    else s)

/-! ### Fault resolution -/

/-- The commands suspended on a record: quad, queue, command, and whether it stands in the wait slot. -/
def State.waitersOf (s : State) (u r : Nat) : List (Nat × Nat × Cmd × Bool) :=
  s.quads.flatMap (fun e => e.2.queues.flatMap (fun y =>
    ((y.2.slot.toList.filter (fun c => decide (c.phase = .waitFault u r))).map (fun c => (e.1, y.1, c, true))) ++
    ((y.2.cmds.filter (fun c => decide (c.phase = .waitFault u r))).map (fun c => (e.1, y.1, c, false)))))

/-- A waiter repeats its checks (R299): one that waited in the slot does so now, one that had been ready when its
translation was withdrawn does so when it is taken up again. -/
def State.retryOne (s : State) (p : Nat × Nat × Cmd × Bool) : State :=
  let (q, j, c, inSlot) := p
  let c := { c with phase := .ready, detail := 0 }
  if inSlot then
    let s := s.modQueue q j (fun x => { x with slot := none })
    match s.checkMemory q j c with
    | (.again, s) => s.place q j { c with redecode := true }
    | (d, s) => s.settleDecode q j c d
  else s.setCmd q j { c with redecode := true }

/-- Frees a record and notes the resolution (R299, Table SEG-8). -/
def State.freeRecord (s : State) (u r : Nat) (fail : Bool) : State :=
  s.modStu u (fun t => { t.setFault r FaultRec.reset with resolveFail := fail, resolveRecord := r })

/-- FAULT_RETRY (R299): a go that names an invalid record is ignored. -/
def execFaultRetry (p : Port) (u r : Nat) (s : State) : Host.Outcome State Fault Refusal :=
  .next (if s.mayWrite p && decide (u < 2) && decide (r < 64) then
      if ((s.stu u).fault r).valid then (s.waitersOf u r).foldl State.retryOne (s.freeRecord u r false)
      else s.modStu u (fun t => { t with resolveFail := false, resolveRecord := r })
    else s)

/-- FAULT_FAIL (R299): every waiter ends SEG_FAULT with its extent's first byte in detail. -/
def execFaultFail (p : Port) (u r : Nat) (s : State) : Host.Outcome State Fault Refusal :=
  .next (if s.mayWrite p && decide (u < 2) && decide (r < 64) then
      if ((s.stu u).fault r).valid then
        (s.waitersOf u r).foldl (fun s w => s.endCmd w.1 w.2.1 w.2.2.1 stSegFault w.2.2.1.detail) (s.freeRecord u r true)
      else s.modStu u (fun t => { t with resolveFail := true, resolveRecord := r })
    else s)

end Sys2Proof.Machine
end

