-- ==== Sys2Proof/Machine/Steps.lean ====
section
/-! DEFINITION. The step boundary (13_axis_links_and_drone.md R379; 09_memory_tiers.md R279, R280;
16_power_clocks_thermal.md R433). -/

namespace Sys2Proof.Machine

/-- Passes the head boundary: the step number rises, the linked object is added to, schedules and protections meet the
new step, and the boundary recalibrates where it is due. -/
def State.passBoundary (s : State) (rest : List Nat) (fits : List CalFit) : State :=
  let s := s.modTime (fun t => { t with step := (t.step + 1) % 2 ^ 64, bounds := rest })
  let s := if s.time.linkEn then s.syncOp s.time.linkObj ⟨.stepUnit, .package, false, 1⟩ else s
  (s.tierStep s.time.step).calibrate fits

/-- STEP_BOUNDARY (R379): the Drone has reached the head boundary. -/
def execStepBoundary (fits : List CalFit) (s : State) : Host.Outcome State Fault Refusal :=
  .next (
    match s.time.bounds with
    | [] => s
    | b :: rest => if !s.boot.held && decide (b ≤ s.drone) then s.passBoundary rest fits else s)

end Sys2Proof.Machine
end

