-- ==== Sys2Proof/Machine/Sync.lean ====
section
/-! DEFINITION. Synchronisation: SIGNAL, WAIT and FENCE, wakes and timeouts, the sweep, and operations that
reach sync objects (07_commands_and_queues.md R210; 08_memory_model.md R229 to R240). -/

namespace Sys2Proof.Machine

/-! ### SIGNAL, WAIT and FENCE -/

/-- Completes a started SIGNAL, WAIT or FENCE one quad cycle after its start: it claimed no station and its
conditions and order were met before it became ready (R210). Its completion performs the header's signal and
then a SIGNAL's entries. -/
def State.runPlain (s : State) (q j : Nat) (idx : Word) (op : Nat) : State :=
  match (s.queue q j).find idx with
  | none => s
  | some c =>
    if s.quadRuns q && decide (c.phase = .running) && !c.ran && decide (opcodeOf c.desc = op) then
      s.endCmd q j c (if c.late then stOkLate else stOk) 0
    else s

/-- SIGNAL (R210, R193). -/
def execSignal (q j : Nat) (idx : Word) (s : State) : Host.Outcome State Fault Refusal :=
  .next (s.runPlain q j idx opSignal)

/-- WAIT (R210, R237, R238). -/
def execWait (q j : Nat) (idx : Word) (s : State) : Host.Outcome State Fault Refusal :=
  .next (s.runPlain q j idx opWait)

/-- FENCE (R210, R217). -/
def execFence (q j : Nat) (idx : Word) (s : State) : Host.Outcome State Fault Refusal :=
  .next (s.runPlain q j idx opFence)

/-! ### Wakes and timeouts -/

/-- Whether a Drone value is in a command's deciding cycle or past it (R238). -/
def Cmd.decided (c : Cmd) (drone : Nat) : Bool := c.deadline.any (fun d => decide (d ≤ drone))

/-- Whether the wait slot's command waits for a wake of an object (R237). -/
def Cmd.awaits (c : Cmd) (idx : Word) (obj : Nat) : Bool :=
  decide (c.idx = idx) && decide (c.phase = .waitCond) && decide ((c.conds.headD ⟨0, .quad, false, 0⟩).obj = obj)

/-- A wake at a waiting command: the condition is met, in the deciding cycle if that has come, and the next one
is taken up (R237, R238; 07 R210). -/
def State.wakeCmd (s : State) (q j : Nat) (c : Cmd) : State :=
  let c := { c with conds := c.conds.drop 1, late := c.late || c.decided s.drone }
  (s.modQueue q j (fun x => { x with slot := none })).place q j c

/-- Counts a wake that came too late (R238). -/
def State.lateWake (s : State) (q : Nat) : State :=
  s.modQuad q (fun x => { x with lateWakes := satAdd 0xFFFF x.lateWakes 1 })

/-- One wake arrives: in the deciding cycle it wins, past it it is too late, though the wait has not been ended yet
(R238). -/
def State.takeWake (s : State) (q j : Nat) (idx : Word) (w : Wake) : State :=
  let s := s.modQuad q (fun x => { x with wakes := x.wakes.erase w })
  match (s.queue q j).slot with
  | some c =>
    if c.awaits idx w.obj && c.deadline.all s.inTime then s.wakeCmd q j c else s.lateWake q
  | none => s.lateWake q

/-- WAKE_ARRIVE (R233, R238): a wake on its way reaches its quad, unless a bridge holds it (01_package.md R25). -/
def execWakeArrive (q j : Nat) (idx : Word) (s : State) : Host.Outcome State Fault Refusal :=
  .next (
    match (s.quad q).wakes.find? (fun w => decide (w.j = j) && decide (w.idx = idx)) with
    | some w => if s.quadRuns q && s.pathUp (objDie w.obj) (q / 16) 0 then s.takeWake q j idx w else s
    | none => s)

/-- Ends a wait whose deadline has come: the registration is withdrawn and the object's value stands in
detail (R237, R238). -/
def State.timeOut (s : State) (q j : Nat) (c : Cmd) : State :=
  let obj := (c.conds.headD ⟨0, .quad, false, 0⟩).obj
  (s.unregister q j c.idx obj).endCmd q j c stWaitTimeout (s.syncVal obj)

/-- Whether a wake of a waiting command may still come in its deciding cycle, where it wins (R238; log entry 189). -/
def State.wakeMayCome (s : State) (q j : Nat) (c : Cmd) : Bool :=
  c.deadline.all s.inTime && (s.quad q).wakes.any (fun w => decide (w.j = j) && decide (w.idx = c.idx))

/-- WAIT_TIMEOUT (R238). -/
def execWaitTimeout (q j : Nat) (idx : Word) (s : State) : Host.Outcome State Fault Refusal :=
  .next (
    match (s.queue q j).slot with
    | some c =>
      if s.quadRuns q && decide (c.idx = idx) && decide (c.phase = .waitCond) && c.decided s.drone &&
          !(s.wakeMayCome q j c) then s.timeOut q j c
      else s
    | none => s)

/-! ### The home -/

/-- Whether a registered condition holds now. -/
def State.holds (s : State) (r : Reg) : Bool := r.cond.met (s.syncVal r.cond.obj)

/-- Whether a compute die's home of sync objects works (15_resilience.md R417; 18_boot_and_reset.md R465). -/
def State.homeUp (s : State) (d : Nat) : Bool := s.running && decide (d < 4) && !(s.boot.diesInReset.contains d)

/-- The sweep of a home: every waiter whose condition holds is woken, withdrawn and counted (R233). -/
def State.sweep (s : State) (d : Nat) : State :=
  let hit := (s.regsOf d).filter s.holds
  let keep := (s.regsOf d).filter (fun r => !s.holds r)
  let s := { s with regs := Table.put [] s.regs d keep,
                    sweepWakes := Table.put 0 s.sweepWakes d (satAdd 0xFFFF (Table.get 0 s.sweepWakes d) hit.length) }
  hit.foldl State.wake s

/-- SWEEP_WAKE (R233). -/
def execSweepWake (d : Nat) (s : State) : Host.Outcome State Fault Refusal :=
  .next (if s.homeUp d then s.sweep d else s)

/-- SYNC_OBJECT_OP (R236): the operations that reach an object in one cycle, in the order of the rotation. -/
def execSyncObjectOp (d i : Nat) (ops : List SyncOp) (s : State) : Host.Outcome State Fault Refusal :=
  .next (if s.running && decide (d < 4) && decide (i < 4096) then
      ops.foldl (fun s o => s.syncArrive (d * 4096 + i) o) s
    else s)

/-- The operation of a write to DIE_SYNCi_ADD or _SET, or none for a high word, which is ignored (R239). -/
def syncWrite (a : Agent) (sc : Scope) (isSet : Bool) (half : WordHalf) (v : Dword) : Option SyncOp :=
  match half with
  | .dword => some ⟨a, sc, isSet, v⟩
  | .low => some ⟨a, sc, isSet, BitVec.ofNat 64 (v.toNat % 2 ^ 32)⟩
  | .high => none

/-- Performs an optional operation on an object. -/
def State.syncOpt (s : State) (obj : Nat) : Option SyncOp → State
  | some o => s.syncArrive obj o
  | none => s

/-- A write to DIE_SYNCi_ADD or _SET by a port (R229, R239; 14_network_and_pcie.md R394; 17 Table CFG-8). -/
def State.writeSync (s : State) (p : Port) (obj : Nat) (isSet : Bool) (half : WordHalf) (v : Dword) : State :=
  match p with
  | .core c => if s.mayWrite p then s.syncOpt obj (syncWrite (.core c) .package isSet half v) else s
  | .mgmtA => if s.mayWrite p then s.syncOpt obj (syncWrite .mgmt .package isSet half v) else s
  | .mgmtB => if s.mayWrite p then s.syncOpt obj (syncWrite .mgmt .package isSet half v) else s
  | .pcie n =>
    if s.syncGranted n obj then s.syncOpt obj (syncWrite (.pcie n) .system isSet half v) else s.pcieDeny n

/-- DIE_SYNC_ADD (R239, R235). -/
def execDieSyncAdd (p : Port) (d i : Nat) (half : WordHalf) (v : Dword) (s : State) :
    Host.Outcome State Fault Refusal :=
  .next (if s.running && decide (d < 4) && decide (i < 4096) then s.writeSync p (d * 4096 + i) false half v else s)

/-- DIE_SYNC_SET (R239, R235). -/
def execDieSyncSet (p : Port) (d i : Nat) (half : WordHalf) (v : Dword) (s : State) :
    Host.Outcome State Fault Refusal :=
  .next (if s.running && decide (d < 4) && decide (i < 4096) then s.writeSync p (d * 4096 + i) true half v else s)

end Sys2Proof.Machine
end

