-- ==== Sys2Proof/Machine/RegWrites.lean ====
section
/-! DEFINITION. Writing a word of configuration space: each field acts by its access type, a reserved encoding leaves its
field as it was, and a write that has a command of its own is that command (00_scope.md R12 to R14; 17 Table CFG-8). -/

namespace Sys2Proof.Machine

/-- The state after a command, or the state before one that has none. -/
def State.after (s : State) : Host.Outcome State Fault Refusal → State
  | .next t => t
  | _ => s

/-- W1C of a mask of bits. -/
def clearBits {w : Nat} (x : BitVec w) (v : Nat) : BitVec w := x &&& ~~~ (BitVec.ofNat w v)

/-- A stash word: core and target, whose codes 5 to 7 are reserved (11 Table HST-8, R326). -/
def writeStash (old v : Word) : Word :=
  BitVec.ofNat 32 (bits v.toNat 8 7 * 2 ^ 8 + unlessReserved (decide (4 < bits v.toNat 0 3)) (bits old.toNat 0 3) (bits v.toNat 0 3))

/-! ### The package block -/

/-- PKG_RST_CTRL (18 Table BRT-7, R464, R473): its fields, then the reset that go starts; a go that names a reserved
level does nothing. -/
def State.writeRstCtrl (s : State) (p : Port) (v : Word) : State :=
  let n := v.toNat
  let level := bits n 24 3
  let go := bit n 31
  if !s.mayManage p || (go && s.resetBusy) then s
  else
    let s := s.modBoot (fun b =>
      { b with level := unlessReserved (decide (3 < level)) b.level level, die := bits n 16 2, quad := bits n 0 6 })
    if !go then s
    else if level = 0 then s.after (execPackageReset (.ctrl p) s)
    else if level = 1 then s.after (execComputeDieReset p (bits n 16 2) s)
    else if level = 2 then s.after (execHostComplexReset (.ctrl p) s)
    else if level = 3 then s.after (execQuadReset p (bits n 0 6) s)
    else s

/-- PKG_STEP_CTRL (13 Table AXL-8). -/
def Time.writeCtrl (t : Time) (v : Word) : Time :=
  { t with linkEn := bit v.toNat 31, bndErr := w1c t.bndErr v 30, linkObj := bits v.toNat 0 14 }

/-- PKG_TIER_REGION_CMD (09 Table TIR-11): go starts the operation, else the fields are kept; a reserved op leaves the
field unchanged (00_scope.md R14). -/
def State.writeRegionCmd (s : State) (p : Port) (v : Word) : State :=
  let op := bits v.toNat 29 2
  let r := bits v.toNat 0 11
  if !bit v.toNat 31 then s.modTier (fun z => z.keepRegionCmd op r)
  else if op = 1 then s.after (execRegionLoad p r s)
  else if op = 2 then s.after (execRegionErase p r s)
  else s.regionCmd r op

/-- The tier registers of the package block (09 Tables TIR-7, TIR-10, TIR-11). -/
def State.writeTier (s : State) (p : Port) (o : Nat) (v : Word) : State :=
  if o = 0x1000 then s.modTier (fun z => { z with schedBad := w1c z.schedBad v 20 })
  else if o = 0x1008 then s.modTier (fun z => if z.schedEnable then z else { z with schedBase := setLo48 z.schedBase v 12 })
  else if o = 0x100C then s.modTier (fun z => if z.schedEnable then z else { z with schedBase := setHi48 z.schedBase v })
  else if o = 0x1010 then s.after (execSchedEnableWrite p v s)
  else if o = 0x1018 then s.after (execSchedTailWrite p v s)
  else if o = 0x1020 then s.writeRegionCmd p v
  else if o = 0x1024 then s.modTier (fun z => { z with regionSrc := setLo48 z.regionSrc v 12 })
  else if o = 0x1028 then s.modTier (fun z => { z with regionSrc := setHi48 z.regionSrc v })
  else if 0x8000 ≤ o ∧ o < 0xC000 then s.after (execObjectTableWrite p ((o - 0x8000) / 4) v s)
  else s

/-- A write of the package block by a port that may write it; CFG_ and MGMT_ registers have no writable field. -/
def State.writePkg (s : State) (p : Port) (o : Nat) (v : Word) : State :=
  let n := v.toNat
  if o = 0x14 then s.modFabric (fun f =>
      { f with retrainLong := clearBits f.retrainLong (n / 2 ^ 16), retrainSeen := clearBits f.retrainSeen n })
  else if o = 0x230 then s.after (execStepBoundaryPush p v s)
  else if o = 0x234 then s.modTime (fun t => { t with bndHigh := v })
  else if o = 0x238 then s.modTime (fun t => t.writeCtrl v)
  else if o = 0x300 then s.modLog (fun l => if l.enable then l else { l with base := setLo48 l.base v 12 })
  else if o = 0x304 then s.modLog (fun l => if l.enable then l else { l with base := setHi48 l.base v })
  else if o = 0x308 then s.after (execErrLogCtrlWrite p v s)
  else if o = 0x310 then s.after (execErrLogReadWrite p v s)
  else if o = 0x400 then s.after (execPwrModeWrite p v s)
  else if o = 0x418 then s.modPower (fun x => { x with seen := clearBits x.seen (n / 2 ^ 8) })
  else if o = 0x41C then s.modPower (fun x => { x with calReject := w1c x.calReject v 30 })
  else if 0x1000 ≤ o then s.writeTier p o v
  else s

/-! ### A quad's block -/

/-- A write of a queue's register that has no command of its own (07 Tables CMD-15 and CMD-16; 11 Table HST-8). -/
def Queue.write (x : Queue) (o : Nat) (v : Word) : Queue :=
  if o = 0x00 then { x with base := setLo48 x.base v 12 }
  else if o = 0x04 then { x with base := setHi48 x.base v }
  else if o = 0x08 then { x with cpl := setLo48 x.cpl v 12 }
  else if o = 0x0C then { x with cpl := setHi48 x.cpl v }
  else if o = 0x20 then { x with dbError := w1c x.dbError v 5 }
  else if o = 0x2C then { x with stash := writeStash x.stash v }
  else x

/-- QD_Qj_CMD (07 Table CMD-17): abort, then resume. -/
def State.writeQueueCmd (s : State) (p : Port) (q j : Nat) (v : Word) : State :=
  let s := if bit v.toNat 0 then s.after (execQueueAbort p q j s) else s
  if bit v.toNat 1 then s.after (execQueueResume p q j s) else s

/-- A write of a queue's register. -/
def State.writeQueue (s : State) (p : Port) (q j o : Nat) (v : Word) : State :=
  if o = 0x10 then s.after (execQueueCtrlWrite p q j v s)
  else if o = 0x14 then s.after (execQueueHeadWrite p q j v s)
  else if o = 0x24 then s.writeQueueCmd p q j v
  else s.modQueue q j (fun x => x.write o v)

/-- A write of a word of a destination entry, its reserved bits dropped (07 Table CMD-14). -/
def DestEntry.write (e : DestEntry) (w : Nat) (v : Word) : DestEntry :=
  if w = 0 then { e with w0 := v &&& 0x3FFFFFFF }
  else if w = 1 then { e with w4 := v &&& 0xFFFF1F3F }
  else if w = 2 then { e with w8 := v &&& 0x80000FFF }
  else e

/-- A write of a window's register that has no command of its own; base, size and records only while it is closed
(08 Table MEM-9; 13 Table AXL-10). -/
def Window.write (x : Window) (o : Nat) (v : Word) : Window :=
  if o = 0x14 then { x with link := bits v.toNat 0 14 }
  else if x.opened then x
  else if o = 0x00 then { x with base := setLo48 x.base v 12 }
  else if o = 0x04 then { x with base := setHi48 x.base v }
  else if o = 0x08 then { x with size := setLo48 x.size v 12 }
  else if o = 0x0C then { x with size := setHi48 x.size v }
  else if o = 0x30 then
    { x with recBase := setLo48 x.recBase v 6, stride := unlessReserved (decide (bits v.toNat 0 2 = 3)) x.stride (bits v.toNat 0 2) }
  else if o = 0x34 then { x with recBase := setHi48 x.recBase v }
  else x

/-- The counter or limit at an offset of a window's group. -/
def counterAt (o : Nat) : Option WindowCounter :=
  if o = 0x18 then some .bytesLo
  else if o = 0x1C then some .bytesHi
  else if o = 0x20 then some .pkts
  else if o = 0x24 then some .limitLo
  else if o = 0x28 then some .limitHi
  else none

/-- A write of a window's register. -/
def State.writeWindow (s : State) (p : Port) (q w o : Nat) (v : Word) : State :=
  if o = 0x10 then s.after (execWindowCtrlWrite p q w v s)
  else
    match counterAt o with
    | some r => s.after (execWindowCounterWrite p q w r v s)
    | none => s.modWindow q w (fun x => x.write o v)

/-- A write of a quad's block. -/
def State.writeQuad (s : State) (p : Port) (q o : Nat) (v : Word) : State :=
  if o = 0x700 then s.modQuad q (fun x =>
      { x with gradUflow := w1c x.gradUflow v 2, gradNan := w1c x.gradNan v 1, gradSat := w1c x.gradSat v 0 })
  else if o = 0xC04 then s.modQuad q (fun x => { x with suspect := w1c x.suspect v 31 })
  else if 0x1000 ≤ o ∧ o < 0x1400 then s.writeQueue p q ((o - 0x1000) / 0x40) (o % 0x40) v
  else if 0x2000 ≤ o ∧ o < 0x3000 then s.modQuad q (fun x =>
      { x with dests := Table.put DestEntry.reset x.dests ((o - 0x2000) / 16) ((x.dest ((o - 0x2000) / 16)).write (o % 16 / 4) v) })
  else if 0x3000 ≤ o ∧ o < 0x3800 then s.writeWindow p q ((o - 0x3000) / 0x40) (o % 0x40) v
  else s

/-! ### The dies' blocks -/

/-- STU_SEG_CMD (10 R306, Table SEG-6); the reserved op leaves its field unchanged (00_scope.md R14). -/
def State.writeSegCmd (s : State) (p : Port) (u : Nat) (v : Word) : State :=
  let op := bits v.toNat 29 2
  let slot := bits v.toNat 16 4
  let ctx := bits v.toNat 0 12
  let busy := (s.stu u).running.isSome
  if bit v.toNat 31 then
    if op = 0 then s.after (execSegRead p u ctx slot s)
    else if op = 1 then s.after (execSegInstall p u ctx slot s)
    else if op = 2 then s.after (execSegWithdraw p u ctx slot s)
    else s.modStu u (fun t => if busy then { t with result := 9 } else { t with cmdSlot := slot, cmdCtx := ctx, result := 9 })
  else s.modStu u (fun t => if busy then { t with result := 8 } else { t with cmdOp := unlessReserved (decide (op = 3)) t.cmdOp op, cmdSlot := slot, cmdCtx := ctx })

/-- STU_FAULT_RESOLVE (10 Table SEG-8). -/
def State.writeResolve (s : State) (p : Port) (u : Nat) (v : Word) : State :=
  let r := bits v.toNat 0 6
  if bit v.toNat 31 then
    (if bit v.toNat 30 then s.after (execFaultFail p u r s) else s.after (execFaultRetry p u r s))
  else s.modStu u (fun t => { t with resolveFail := bit v.toNat 30, resolveRecord := r })

/-- The bits of a staging word that the descriptor's layout gives a writable meaning: the rest read as zero, and the
generation is ignored when written (10 Table SEG-1; 00 R13; log entry 167). -/
def stageMask (k : Nat) : Word :=
  if k = 0 ∨ k = 2 then 0xFFE00000 else if k = 1 ∨ k = 3 then 0xFFFF else if k = 4 then 0x7FFFFFF else if k = 5 then 0x7F else 0

/-- A write of a staging word; words 6 and 7 hold no writable field (10 Table SEG-5). -/
def Stu.writeStage (t : Stu) (k : Nat) (v : Word) : Stu :=
  if t.running.isSome ∨ 6 ≤ k then t else { t with stage := Table.put 0 t.stage k (v &&& stageMask k) }

/-- A write of a translation unit's register (10 R306, Tables SEG-5 to SEG-8). -/
def State.writeStu (s : State) (p : Port) (u o : Nat) (v : Word) : State :=
  if o < 0x20 then s.modStu u (fun t => t.writeStage (o / 4) v)
  else if o = 0x20 then s.writeSegCmd p u v
  else if o = 0x80 then s.writeResolve p u v
  else if o = 0x84 then s.modStu u (fun t => { t with faultPending := w1c t.faultPending v 15 })
  else s

/-- HC_IRQ_ROUTEs: identity 0 is reserved (11 Table HST-7). -/
def writeRoute (old v : Word) : Word :=
  BitVec.ofNat 32 (bits v.toNat 30 2 * 2 ^ 30 + bits v.toNat 16 7 * 2 ^ 16 +
    unlessReserved (decide (bits v.toNat 0 11 = 0)) (bits old.toNat 0 11) (bits v.toNat 0 11))

/-- The first line of a home agent's range: its die's direct HBM, or DDR5 (12 Table COH-8; log entry 26). -/
def homeRange (h : Nat) : Nat := if h / 4 < 4 then (0x080000000000 + h / 4 * 2 ^ 38) / 64 else 0

/-- A directory entry as COH_DIR_PROBE shows it (12 R342, Table COH-6; log entry 26). -/
def DirEntry.encode (e : DirEntry) (line : Nat) (pinned : Bool) : Nat :=
  match e.st with
  | .di => 0
  | st =>
    let code := match st with
      | .ds => 0
      | .do_ => 1
      | _ => 2
    2 ^ 63 + flag pinned 62 + flag e.bcast 61 + code * 2 ^ 59 + e.ptrs.length * 2 ^ 56 +
      ((List.range 4).map (fun i => e.ptrs.getD i 0xFF * 2 ^ (24 + 8 * i))).sum + line / 2 ^ 15 % 2 ^ 24

/-- A write of COH_DIR_PROBE_ADDR probes the line's entry (12 Table COH-8). -/
def State.writeProbe (s : State) (h : Nat) (v : Word) : State :=
  let line := homeRange h + v.toNat
  let e := if s.homeOf line = h then (s.dirEntry line).encode line (s.pinned line) else 0
  s.modHome h (fun x => { x with probe := v, probed := BitVec.ofNat 64 e })

/-- A write of a home agent's register (12 Table COH-8). -/
def State.writeHome (s : State) (h o : Nat) (v : Word) : State :=
  if o = 0x04 then s.modHome h (fun x =>
      { x with late := w1c x.late v 3, poison := w1c x.poison v 2, timeout := w1c x.timeout v 1, retry := w1c x.retry v 0 })
  else if o = 0x28 then s.writeProbe h v
  else s

/-- A write of AXLn_FI_SEED (13 R373): as of AXLn_FI_CTRL, from the holder alone. -/
def State.writeFiSeed (s : State) (p : Port) (n : Nat) (v : Word) : State :=
  s.modLink n (fun l => if s.mayInject p then { l with fiSeed := v } else { l with fiDenied := true })

/-- A write of a 32-bit part of a 128-bit register. -/
def setPart (x : BitVec 128) (k : Nat) (v : Word) : BitVec 128 :=
  BitVec.ofNat 128 (x.toNat - x.toNat / 2 ^ (32 * k) % 2 ^ 32 * 2 ^ (32 * k) + v.toNat * 2 ^ (32 * k))

/-- A write of an Ethernet port's register (14 Table NET-4). -/
def Eth.write (t : Eth) (o : Nat) (v : Word) : Eth :=
  if o = 0x04 then { t with stash := writeStash t.stash v }
  else if 0x10 ≤ o ∧ o < 0x50 then
    { t with gids := Table.put 0 t.gids ((o - 0x10) / 16) (setPart (Table.get 0 t.gids ((o - 0x10) / 16)) (o % 16 / 4) v) }
  else t

/-- A write of an I/O die's block (14 Table NET-4). -/
def State.writeIo (s : State) (p : Port) (x o : Nat) (v : Word) : State :=
  if 0x8000 ≤ o ∧ o < 0x8200 then s.modEth (2 * x + (o - 0x8000) / 0x100) (fun t => t.write (o % 0x100) v)
  else if o = 0x8400 then s.modQpReg x (fun r => { r with base := setLo48 r.base v 12 })
  else if o = 0x8404 then s.modQpReg x (fun r => { r with base := setHi48 r.base v })
  else if o = 0x8408 then s.after (execQpMove p x v s)
  else if o = 0x840C then s.after (execEthQpDb p x v s)
  else s

/-- A write of a die's block. -/
def State.writeDie (s : State) (p : Port) (d o : Nat) (v : Word) : State :=
  if d < 6 ∧ 0x6000 ≤ o ∧ o < 0x6400 then s.writeHome (4 * d + (o - 0x6000) / 0x100) (o % 0x100) v
  else if d < 4 then s
  else if d < 6 then
    if 0x4000 ≤ o ∧ o < 0x5000 then s.writeStu p (d - 4) (o - 0x4000) v
    else if d = 4 ∧ 0x10000 ≤ o ∧ o < 0x11018 then
      { s with routes := Table.put 0 s.routes ((o - 0x10000) / 4) (writeRoute (Table.get 0 s.routes ((o - 0x10000) / 4)) v) }
    else s
  else s.writeIo p (d - 6) o v

/-- The link whose AXLn_FI_CTRL (0) or AXLn_FI_SEED (1) stands at an offset. -/
def fiAt (d o : Nat) : Option (Nat × Nat) :=
  if 6 ≤ d ∧ 0x7000 ≤ o ∧ o < 0x7300 ∧ (o % 0x100 = 0x40 ∨ o % 0x100 = 0x44) then
    some (3 * (d - 6) + (o - 0x7000) / 0x100, (o % 0x100 - 0x40) / 4)
  else none

/-! ### Any offset -/

/-- A write of a sync object's group (08 R239). -/
def State.writeGroup (s : State) (p : Port) (obj r : Nat) (half : WordHalf) (v : Dword) : State :=
  if r = 8 ∨ r = 12 then s.after (execDieSyncAdd p (obj / 4096) (obj % 4096) half v s)
  else if r = 16 ∨ r = 20 then s.after (execDieSyncSet p (obj / 4096) (obj % 4096) half v s)
  else s

/-- Whether a register is kept from host cores (17 Table CFG-8, 18 R464, R473). -/
def isReset (o : Nat) : Bool := decide (o = 0x804) || decide (o = 0x808)

/-- A write of PKG_RST_CTRL or PKG_RST_CAUSE. -/
def State.writeReset (s : State) (p : Port) (o : Nat) (v : Word) : State :=
  if o = 0x808 then s.writeRstCtrl p v
  else if bit v.toNat 4 then s.after (execRstCauseFatalClear p s)
  else s

/-- A write of a word of configuration space at a 4-byte aligned offset, as Table CFG-8 lets the port. -/
def State.writeWord (s : State) (p : Port) (off : Nat) (v : Word) : State :=
  match p with
  | .pcie n => s.pcieDeny n
  | _ =>
    match placeOf off with
    | .pkg o => if isReset o then s.writeReset p o v else if s.mayWrite p then s.writePkg p o v else s
    | .quad q o => if s.mayWrite p && s.quadOpen q then s.writeQuad p q o v else s
    | .bell q j o => if o = 0 then s.after (execDoorbell p q j v s) else s
    | .sync obj r => s.writeGroup p obj r (if r % 8 = 0 then .low else .high) (v.setWidth 64)
    | .die d o =>
      match fiAt d o with
      | some (n, 0) => s.after (execAxlFiCtrlWrite p n v s)
      | some (n, _) => if s.hostRuns || s.mgmtOpen then s.writeFiSeed p n v else s
      | none => if s.mayWrite p then s.writeDie p d o v else s
    | .pcie n o => if s.mayWrite p then s.emit (.pcieWrite n o (leBytes 4 v.toNat)) else s
    | .none => s

/-- A write of words in a row. -/
def State.writeWords (s : State) (p : Port) (off : Nat) : List Word → State
  | [] => s
  | v :: vs => (s.writeWord p off v).writeWords p (off + 4) vs

end Sys2Proof.Machine
end

