-- ==== Sys2Proof/Machine/HostSpace.lean ====
section
/-! DEFINITION. Loads, fetches and stores of host cores by the attributes of the region they reach: cacheable memory
through the L1 caches and the L2, uncached memory, and configuration space with the PCIe windows
(11_host_cores_and_cache.md R310 to R312, R319, Table HST-2; 01_package.md R33; 09_memory_tiers.md R272;
14_network_and_pcie.md R393). -/

namespace Sys2Proof.Machine

/-! ### Configuration space -/

/-- The base of configuration space (01 Table PKG-9). -/
def cfgBase : Nat := 0x190000000000

/-- Whether a core may access configuration space so: a naturally aligned 4 or 8 bytes of a register block (Table HST-2,
01 R33). -/
def cfgAccessOk (off n : Nat) : Bool := (decide (n = 4) || decide (n = 8)) && decide (off % n = 0) && cfgBacked off n

/-- The die that holds a place of configuration space; the package block answers from any die (log entry 183). -/
def Place.die? : Place → Option Nat
  | .pkg _ => Option.none
  | .quad q _ => some (q / 16)
  | .bell q _ _ => some (q / 16)
  | .sync obj _ => some (obj / 4096)
  | .die d _ => some d
  | .pcie n _ => some (6 + n)
  | .none => Option.none

/-- Whether a core's access to an offset of configuration space and its answer pass the bridges now (01 R25). -/
def State.cfgReaches (s : State) (c off : Nat) : Bool :=
  match (placeOf off).die? with
  | some d => s.wayUp (4 + c / 64) d (cfgBase + off)
  | none => true

/-- A core's load from configuration space: of 8 bytes the low word first. -/
def State.cfgLoad (s : State) (c off n : Nat) : State :=
  if !cfgAccessOk off n then s.report c .accessFault
  else if !s.cfgReaches c off then s.report c .waits
  else
    match placeOf off with
    | .pcie k o =>
      let (bs, s) := s.drawBytes n
      (s.emit (.pcieRead k o n)).report c (.data bs)
    | _ =>
      let (ws, s) := s.readWords off (n / 4)
      s.report c (.data (ws.flatMap (fun w => leBytes 4 w.toNat)))

/-- A core's store to configuration space: 8 bytes to a sync object are one access; elsewhere the high word goes first
(log entry 28). -/
def State.cfgStore (s : State) (c off : Nat) (bs : List Byte) : State :=
  let v := ofLe bs
  if !cfgAccessOk off bs.length then s.report c .accessFault
  else if !s.cfgReaches c off then s.report c .waits
  else
    (match placeOf off with
     | .pcie k o => s.emit (.pcieWrite k o bs)
     | .sync obj r =>
       if bs.length = 8 then s.writeGroup (.core c) obj r .dword (BitVec.ofNat 64 v) else s.writeWord (.core c) off (loWord v)
     | _ =>
       if bs.length = 8 then (s.writeWord (.core c) (off + 4) (hiWord v)).writeWord (.core c) off (loWord v)
       else s.writeWord (.core c) off (loWord v)).report c .stored

/-! ### Loads and fetches -/

/-- An uncached load: a cache-less read at the home (12_coherence.md R332, 09 R267, R270). -/
def State.uncachedLoad (s : State) (c pa n : Nat) : State :=
  if !s.coreReaches c pa n || !s.readReady true pa n then (s.requestRead pa n).report c .waits
  else
    let s' := (s.didRead pa n).countUncached c
    if s.readPoison true pa n then s'.report c .hwError else s'.report c (.data (s.readPhys true pa n))

/-- A cached load: the lines come into the L2 and the L1D and are read there (R319); the home answers a dead L2 with
poison (12 R349). -/
def State.cachedLoad (s : State) (c pa n : Nat) : State :=
  match s.hostFills c false (sectorsOf pa n) with
  | (.waits, s) => s.report c .waits
  | (.dead, s) => s.report c .hwError
  | (.here, s) =>
    let s := s.touchL1ds c (sectorsOf pa n)
    if s.l2Poison c pa n then s.report c .hwError else s.report c (.data (s.l2Bytes c pa n))

/-- A line that a fetch needs comes into the L1I where it is not there. -/
def State.fetchLine (s : State) (c line : Nat) : Fill × State :=
  if Table.get [] (s.core c).l1i line ≠ [] then (.here, s)
  else
    match s.hostFill c line false with
    | (.here, s) => if (s.line c line).poison then (.dead, s) else (.here, s.fillL1i c line)
    | r => r

/-- The lines that a fetch needs. -/
def State.fetchLines (s : State) (c : Nat) : List Nat → Fill × State
  | [] => (.here, s)
  | l :: t =>
    match s.fetchLine c l with
    | (.here, s) => s.fetchLines c t
    | r => r

/-- A cached fetch reads the L1I, which stores of the core do not change: what it holds may be old until a FENCE.I empties
it (R319; 12_coherence.md R335). -/
def State.cachedFetch (s : State) (c pa n : Nat) : State :=
  match s.fetchLines c (sectorsOf pa n) with
  | (.waits, s) => s.report c .waits
  | (.dead, s) => s.report c .hwError
  | (.here, s) =>
    s.report c (.data ((((sectorsOf pa n).flatMap (fun l => Table.get [] (s.core c).l1i l)).drop (pa % 64)).take n))

/-- FENCE.I before a fetch empties the L1I. -/
def State.fenceI (s : State) (c : Nat) : LoadKind → State
  | .fetch true => s.modCore c (fun x => { x with l1i := [] })
  | _ => s

/-- The PMP's use of a load. -/
def loadUse : LoadKind → PmpUse
  | .fetch _ => .execute
  | _ => .read

/-- A load of a core from an address outside configuration space, as the attributes of its region and page say. -/
def State.memLoad (s : State) (c pa n : Nat) (pbmt : Pbmt) (k : LoadKind) : State :=
  match s.backed pa n with
  | none => s.report c .accessFault
  | some r =>
    if !r.cached pbmt then s.uncachedLoad c pa n
    else
      match k with
      | .fetch _ => s.cachedFetch c pa n
      | _ => s.cachedLoad c pa n

/-- A vector load that has its data writes the group of registers, and retires (R310, Table HST-3). -/
def State.deliver (s : State) (c : Nat) : LoadKind → State
  | .vector vd =>
    match (s.core c).result with
    | .data bs => (s.modCore c (fun x => x.putGroup 8 vd bs)).countEvent c 0x000A 1
    | _ => s
  | _ => s

/-- A load of a core. -/
def State.coreLoad (s : State) (c : Nat) (a : CoreAt) (n : Nat) (how : LoadHow) : State :=
  let s := s.fenceI c how.kind
  (if !s.mayUse c a.pa n (loadUse how.kind) then s.report c .accessFault
   else if regionOf a.pa = some .config then s.cfgLoad c (a.pa - cfgBase) n
   else (s.meets c (a.pa / 64) how.err).memLoad c a.pa n a.pbmt how.kind).deliver c how.kind

/-- HOST_LOAD (R310 to R312, R319, R320, R325; 12 R350). -/
def execHostLoad (c : Nat) (a : CoreAt) (n : Nat) (how : LoadHow) (s : State) : Host.Outcome State Fault Refusal :=
  .next (if s.hostRuns then s.coreLoad c a n how else s)

/-! ### Stores -/

/-- An uncached store: a cache-less write at the home, past the detectors of the core and of the ports (R324); one that
meets poison is not applied (12 R350). -/
def State.uncachedStore (s : State) (c pa : Nat) (bs : List Byte) : State :=
  let n := bs.length
  if !s.coreReaches c pa n || !s.writeReady true pa n then (s.requestWrite pa n).report c .waits
  else
    let s := s.countUncached c
    if s.writePoison true pa n then s.report c .stored
    else (((s.streamRange c pa n).passPorts (4 + c / 64) pa n).writePhys true pa bs).report c .stored

/-- A cached store: the lines come into the L2 and the L1D to be written (R319); of a dead L2 it leaves nothing (12
R349). -/
def State.cachedStore (s : State) (c pa : Nat) (bs : List Byte) : State :=
  match s.hostFills c true (sectorsOf pa bs.length) with
  | (.waits, s) => s.report c .waits
  | (.dead, s) => s.report c .stored
  | (.here, s) => ((s.touchL1ds c (sectorsOf pa bs.length)).l2Write c pa bs).report c .stored

/-- A store of a core; the tiered range refuses it while it is read-only (09 R272). -/
def State.coreStore (s : State) (c pa : Nat) (bs : List Byte) (pbmt : Pbmt) : State :=
  if !s.mayUse c pa bs.length .write then s.report c .accessFault
  else if regionOf pa = some .config then s.cfgStore c (pa - cfgBase) bs
  else
    match s.backed pa bs.length with
    | none => s.report c .accessFault
    | some r =>
      if isTiered pa && s.tierReadOnly then s.report c .accessFault
      else if r.cached pbmt then s.cachedStore c pa bs
      else s.uncachedStore c pa bs

/-- A vector store that is done retires (Table HST-3). -/
def State.storeVector (s : State) (c pa : Nat) (bs : List Byte) (pbmt : Pbmt) : State :=
  let s := s.coreStore c pa bs pbmt
  if (s.core c).result = .stored then s.countEvent c 0x000A 1 else s

/-- HOST_STORE (R310 to R312; 09 R272). -/
def execHostStore (c pa : Nat) (src : StoreSrc) (pbmt : Pbmt) (s : State) : Host.Outcome State Fault Refusal :=
  .next (if !s.hostRuns then s
    else
      match src with
      | .bytes bs => s.coreStore c pa bs pbmt
      | .vector r n => s.storeVector c pa ((s.core c).group r n) pbmt)

end Sys2Proof.Machine
end

