-- ==== Sys2Proof/Machine/Management.lean ====
section
/-! DEFINITION. The management messages that read, write registers and debug: identification, registers, the log,
attestation, the certificate and the debug module (17_configuration_and_security.md R452, R456, R458, Table CFG-6;
18_boot_and_reset.md R468). -/

namespace Sys2Proof.Machine

/-- A message that both ports answer once the package is out of reset (18 R468). -/
def State.whenUp (s : State) (p : Port) (f : State → State) : State :=
  if !s.boot.held && (portNo p).isSome then f s else s

/-- A message that the ports answer from stage 0x3 onward (18 R468). -/
def State.whenReadable (s : State) (p : Port) (f : State → State) : State :=
  if s.mayRead p && (portNo p).isSome then f s else s

/-- An answer OK with words. -/
def State.replyWords (s : State) (p : Port) (ws : List Word) : State := s.reply p { code := ccOk, words := ws, bytes := [] }

/-- An answer OK with bytes. -/
def State.replyBytes (s : State) (p : Port) (bs : List Byte) : State := s.reply p { code := ccOk, words := [], bytes := bs }

/-- GET_INFO (Table CFG-6): PKG_ID_INFO, the quad maps, CFG_IMAGE and MGMT_INFO. -/
def execGetInfo (p : Port) (s : State) : Host.Outcome State Fault Refusal :=
  .next (s.whenUp p (fun s =>
    s.replyWords p ([0x00, 0x04, 0x08, 0x500, 0x524].map (fun o => loWord (s.pkgReg o)))))

/-- Whether a message's run of words is well formed: 1 to 16 words at an aligned offset. -/
def runOk (off n : Nat) : Bool := decide (0 < n) && decide (n ≤ 16) && decide (off % 4 = 0)

/-- REG_READ (R452, Table CFG-6; 01 R33). -/
def execRegRead (p : Port) (off n : Nat) (s : State) : Host.Outcome State Fault Refusal :=
  .next (s.whenReadable p (fun s =>
    if !runOk off n then s.replyCode p ccInvalid
    else if !cfgBacked off (4 * n) then s.replyCode p ccError
    else
      let (ws, s) := s.readWords off n
      s.replyWords p ws))

/-- REG_WRITE (R454, Table CFG-6). -/
def execRegWrite (p : Port) (off : Nat) (vs : List Word) (s : State) : Host.Outcome State Fault Refusal :=
  .next (s.whenOpen p (fun s => s.withSem p (fun s =>
    if !runOk off vs.length then s.replyCode p ccInvalid
    else if !cfgBacked off (4 * vs.length) then s.replyCode p ccError
    else (s.writeWords p off vs).replyCode p ccOk)))

/-- A record of the log by its index: one of the last size records that have been written (R413). -/
def State.readLogAt (s : State) (p : Port) (i : Word) : State :=
  let l := s.log
  let back := dist32 l.write i
  let at_ := l.slotAt i
  if !l.enable || decide (back = 0) || decide (l.size < back) then s.replyCode p ccInvalid
  else if l.inDdr && s.coh.closed || s.readPoison true at_ 64 then s.replyCode p ccError
  else s.replyBytes p (s.readPhys true at_ 64)

/-- LOG_READ (Table CFG-6): a record of the log, or all that a die's staging queue holds, whose log index is not known
yet (15 R412, R414). -/
def execLogRead (p : Port) (src : LogSource) (s : State) : Host.Outcome State Fault Refusal :=
  .next (s.whenReadable p (fun s =>
    match src with
    | .log i => s.readLogAt p i
    | .staging d =>
      if 8 ≤ d then s.replyCode p ccInvalid
      else s.replyBytes p ((s.log.queue d).flatMap (fun r => r.bytes 0xFFFFFFFF))))

/-- Logical quads present now (Table CFG-9). -/
def State.quadCount (s : State) : Nat := ((List.range 64).filter s.present).length

/-- The signed part of an attestation report (R458, Table CFG-9). -/
def State.report512 (s : State) (nonce : List Byte) : List Byte :=
  let c := s.cfg
  leBytes 2 1 ++ leBytes 1 c.orderingCode ++ leBytes 1 c.siliconRev ++
  leBytes 1 s.quadCount ++ leBytes 1 c.bank ++
  leBytes 1 (flag (!s.checked) 0 + flag s.striped 1 + flag c.fallback 2 + flag (decide (s.item 2 4 0 = 1)) 3) ++ leBytes 1 0 ++
  leBytes 4 c.seq.toNat ++ leBytes 4 c.svn ++ leBytes 8 s.drone ++ leBytes 8 0 ++
  nonce ++ Config.shake256 Config.identityKey ++ (List.range 6).flatMap c.measure

/-- ATTEST (R458). -/
def execAttest (p : Port) (nonce : List Byte) (s : State) : Host.Outcome State Fault Refusal :=
  .next (s.whenUp p (fun s =>
    if nonce.length ≠ 32 then s.replyCode p ccInvalid
    else
      let r := s.report512 nonce
      s.replyBytes p (r ++ Config.slhSign r)))

/-- GET_CERT (R456). -/
def execGetCert (p : Port) (s : State) : Host.Outcome State Fault Refusal :=
  .next (s.whenUp p (fun s => s.replyBytes p (Config.identityKey ++ Config.certificate)))

/-- DEBUG (Table CFG-6; 11_host_cores_and_cache.md R309): an access of a hart's debug module; DENIED where debug_en
is 0. -/
def execDebug (p : Port) (hart : Nat) (req : HartAccess) (s : State) : Host.Outcome State Fault Refusal :=
  .next (s.whenOpen p (fun s => s.withSem p (fun s =>
    if s.item 8 0x15 0 = 0 then s.replyCode p ccDenied
    else if 128 ≤ hart then s.replyCode p ccInvalid
    else
      let (ws, s) := s.hartAccess hart req
      s.replyWords p ws)))

end Sys2Proof.Machine
end

