-- ==== Sys2Proof/Machine/PcieOps.lean ====
section
/-! DEFINITION. What PCIe devices may do: apertures, doorbells, sync objects, stash target and interrupt files
(14_network_and_pcie.md R392 to R394, Table NET-3). -/

namespace Sys2Proof.Machine

/-- An aperture of a port (Table NET-3; 17_configuration_and_security.md Table CFG-4): base, bytes, and its flags. -/
structure Aperture where
  base : Nat
  bytes : Nat
  read : Bool
  write : Bool

/-- Aperture k of a port. -/
def State.aperture (s : State) (n k : Nat) : Aperture :=
  let w := fun (i : Nat) => s.item 8 0x10 (n * 32 + k * 4 + i)
  ⟨w 0 / 4096 * 4096 + w 1 % 2 ^ 16 * 2 ^ 32, w 2 * 4096, bit (w 0) 0, bit (w 0) 1⟩

/-- Whether a range lies in an aperture of a port that allows the access, in populated memory. -/
def State.apertured (s : State) (n pa len : Nat) (write : Bool) : Bool :=
  (match s.backed pa len with
    | some .config => false
    | some _ => true
    | none => false) &&
  (List.range 8).any (fun k =>
    let a := s.aperture n k
    decide (a.base ≤ pa) && decide (pa + len ≤ a.base + a.bytes) && (if write then a.write else a.read))

/-- Whether a committing transaction holds a port's requests (17 Table CFG-5). -/
def State.pcieHeld (s : State) (n : Nat) : Bool :=
  decide (s.cfg.txnState = 2) && s.cfg.staged.any (fun it =>
    decide (it.sect = 8) &&
    ((decide (it.code = 0x10) && decide (it.index / 32 = n)) || (decide (it.code = 0x11) && decide (it.index / 64 = n)) ||
     (decide (it.code = 0x12) && decide (it.index / 256 = n)) || (decide (it.code = 0x13) && decide (it.index = n)) ||
     (decide (it.code = 0x14) && decide (it.index / 4 = n))))

/-- Whether the image lets a port write a hart's interrupt files (Table NET-3). -/
def State.msiGranted (s : State) (n hart : Nat) : Bool :=
  decide (hart < 128) && bit (s.item 8 0x14 (n * 4 + hart / 32)) (hart % 32)

/-- A read by a device (R394). -/
def State.pcieRead (s : State) (n pa len : Nat) : State :=
  if !(s.apertured n pa len false) then (s.pcieDeny n).emit (.pcieUnsupported n)
  else if s.hostClosed pa || !(s.dieReachesAll (6 + n) pa len && s.readReady true pa len) then s.requestRead pa len
  else if s.readPoison true pa len then (s.didRead pa len).emit (.pciePoison n)
  else (s.didRead pa len).emit (.pcieData n (s.readPhys true pa len))

/-- A write by a device into configuration space: a granted doorbell or sync object, else refused (R394, R223, R229;
08_memory_model.md R239). A bridge on its way holds it (01_package.md R25). -/
def State.pcieConfig (s : State) (n off : Nat) (bs : List Byte) : State :=
  let d := off / 2 ^ 24 - 1
  let o := off % 2 ^ 24
  let v := BitVec.ofNat 64 (ofLe bs)
  if off < 2 ^ 24 ∨ 4 ≤ d then s.pcieDeny n
  else if 0x800000 ≤ o ∧ o < 0x900000 ∧ o % 0x1000 = 0 ∧ bs.length = 4 then
    let q := 16 * d + (o - 0x800000) / 0x10000
    let j := o % 0x10000 / 0x1000
    if s.dbGranted n (16 * q + j) then
      (if s.quadOpen q && s.pathUp (6 + n) d off then s.modQueue q j (·.doorbell (BitVec.ofNat 32 (ofLe bs))) else s)
    else s.pcieDeny n
  else if 0x400000 ≤ o ∧ o < 0x420000 then
    let i := (o - 0x400000) / 32
    let r := o % 32
    let half := fun (k : Nat) => if bs.length = 8 then WordHalf.dword else if r = k then WordHalf.low else WordHalf.high
    if !(s.pathUp (6 + n) d off) then s
    else if r = 8 ∨ r = 12 then s.writeSync (.pcie n) (d * 4096 + i) false (half 8) v
    else if r = 16 ∨ r = 20 then s.writeSync (.pcie n) (d * 4096 + i) true (half 16) v
    else s.pcieDeny n
  else s.pcieDeny n

/-- A write by a device to memory, with the port's stash target (R394). -/
def State.pcieWrite (s : State) (n pa : Nat) (bs : List Byte) : State :=
  if regionOf pa = some .config then s.pcieConfig n (pa - 0x190000000000) bs
  else if !(s.apertured n pa bs.length true) || (isTiered pa && s.tierReadOnly) then s.pcieDeny n
  else if s.hostClosed pa || !(s.dieReachesAll (6 + n) pa bs.length && s.writeReady true pa bs.length) then
    s.requestWrite pa bs.length
  else if s.writePoison true pa bs.length then s
  else
    let t := stashOf (BitVec.ofNat 32 (s.item 8 0x13 n))
    if s.hintedReady t true pa bs.length then s.writeHinted (6 + n) t true pa bs else s

/-- A message-signalled interrupt (R394; 11_host_cores_and_cache.md R315). -/
def State.pcieMsi (s : State) (n hart : Nat) (file : Bool) (identity : Nat) : State :=
  if !(s.msiGranted n hart) then s.pcieDeny n
  else if identity = 0 ∨ 2047 < identity ∨ !(s.pathUp (6 + n) (4 + hart / 64) 0) then s
  else s.modCore hart (fun c =>
    if file then { c with irqS := c.irqS.insert identity } else { c with irqM := c.irqM.insert identity })

/-- PCIE_MEM_REQUEST (R394). -/
def execPcieMemRequest (n : Nat) (r : PcieRequest) (s : State) : Host.Outcome State Fault Refusal :=
  .next (if !s.running || decide (2 ≤ n) || s.pcieHeld n then s
    else
      match r with
      | .read pa len => s.pcieRead n pa len
      | .write pa bs => s.pcieWrite n pa bs
      | .msi hart file identity => s.pcieMsi n hart file identity)

end Sys2Proof.Machine
end

