-- ==== Sys2Proof/Machine/Registers.lean ====
section
/-! DEFINITION. The register commands of a port: a read of a _LO counter, a read of a register with fields that clear,
and a write (00_scope.md R12; 04_matrix_array.md R133; 17_configuration_and_security.md R454). -/

namespace Sys2Proof.Machine

/-- A read that a PCIe device sends, whose grants name no register (14 R394, Table NET-3). -/
def State.pcieNoRead (s : State) (n : Nat) : State := (s.pcieDeny n).emit (.pcieUnsupported n)

/-- A port's read of one word, kept in `lastRead`. -/
def State.portRead (s : State) (p : Port) (off : Nat) : State :=
  match p with
  | .pcie n => s.pcieNoRead n
  | _ =>
    if s.mayRead p && decide (off % 4 = 0) && cfgBacked off 4 then
      let (w, s) := s.readWord off
      { s with lastRead := w }
    else s

/-- COUNTER_LO_READ (04 R133): the _LO register of a latched pair. -/
def execCounterLoRead (p : Port) (off : Nat) (s : State) : Host.Outcome State Fault Refusal :=
  .next (if (s.wideAt off).isSome then s.portRead p off else s)

/-- RC_REGISTER_READ (00 R12): a register that is not the low half of a latched pair. -/
def execRcRegisterRead (p : Port) (off : Nat) (s : State) : Host.Outcome State Fault Refusal :=
  .next (if (s.wideAt off).isSome then s else s.portRead p off)

/-- REGISTER_WRITE (00 R12 to R14; 17 R454). -/
def execRegisterWrite (p : Port) (off : Nat) (v : Word) (s : State) : Host.Outcome State Fault Refusal :=
  .next (if off % 4 = 0 then s.writeWord p off v else s)

end Sys2Proof.Machine
end

