-- ==== Sys2Proof/Machine/Resilience.lean ====
section
/-! DEFINITION. Tile replay, suspicion and patrol scrub (15_resilience.md R397 to R407; 11_host_cores_and_cache.md
R325). -/

namespace Sys2Proof.Machine

/-! ### Suspicion -/

/-- Adds to a quad's suspicion score; at 64 from below the quad is suspect (15 R406, R407, Table RES-11). -/
def State.blame (s : State) (q n : Nat) : State :=
  let x := s.quad q
  let v := satAdd 0xFFFF x.score n
  let s := s.modQuad q (fun x => { x with score := v })
  if x.score < 64 ∧ 64 ≤ v then
    (s.modQuad q (fun x => { x with suspect := true })).logErr
      { errRec 1 0x07 0x0013 (q / 16) q with phys := (s.physOf q).getD 0xFF, flags := 1, aux0 := v }
  else s

/-- MARGIN_WARNING (R406). -/
def execMarginWarning (q : Nat) (s : State) : Host.Outcome State Fault Refusal :=
  .next (if !s.boot.held && s.present q then s.blame q 8 else s)

/-- SUSPICION_DECAY (R406): one off every score, once in 2^34 Drone ticks. -/
def execSuspicionDecay (s : State) : Host.Outcome State Fault Refusal :=
  .next (if s.boot.held then s
    else { s with quads := Table.mapVals Quad.reset (fun x => { x with score := x.score - 1 }) s.quads })

/-! ### Replay -/

/-- The source of a station's records (15 Table RES-7). -/
def stationSource (stn : Nat) : Nat :=
  if stn = stArray0 ∨ stn = stArray1 then 0x01
  else if stn = stReed then 0x02
  else if stn = stChanter then 0x03
  else if stn = stGather then 0x04
  else 0x05

/-- Counts an array's check that fired (04_matrix_array.md R131, Table ARR-6). -/
def ArrayRegs.fired (a : ArrayRegs) (check : Nat) : ArrayRegs :=
  match check with
  | 0 => { a with residue := satAdd 0xFF a.residue 1 }
  | 1 => { a with parity := satAdd 0xFF a.parity 1 }
  | 2 => { a with checkRow := satAdd 0xFF a.checkRow 1 }
  | 3 => { a with checkCol := satAdd 0xFF a.checkCol 1 }
  | _ => a

/-- Counts a check of a station: only the arrays have registers for it. -/
def Quad.fired (x : Quad) (stn check : Nat) : Quad :=
  if stn = stArray0 then x.modArray 0 (fun a => a.fired check)
  else if stn = stArray1 then x.modArray 1 (fun a => a.fired check)
  else x

/-- Ends a command REPLAY_EXHAUSTED with a DUE record (R404, R405). -/
def State.exhaust (s : State) (q j : Nat) (c : Cmd) (source code check passes : Nat) : State :=
  let s := s.blame q 16
  let s := s.logErr { s.cmdRec 2 source code q j c stReplayExhausted none with syndrome := 2 ^ check, aux0 := passes }
  s.breakCmd q j c stReplayExhausted 0

/-- A unit of a running command is marked (R402 to R405): it is replayed at most three times; a control error is
not replayed. -/
def State.markUnit (s : State) (q j : Nat) (c : Cmd) (stn unit check : Nat) : State :=
  let s := s.modQuad q (fun x => x.fired stn check)
  let k := stn * 2 ^ 32 + unit
  let n := Table.get 0 c.passes k
  if check = 5 then
    (s.modQuad q (fun x => { x with control := satAdd 0xFF x.control 1 })).exhaust q j c 0x07 0x0022 5 n
  else if n < 3 then
    let s := (s.modQuad q (fun x => { x with replays := satAdd 0xFFFF x.replays 1 })).blame q 1
    let s := s.logErr { s.cmdRec 1 (stationSource stn) 0x0010 q j c 0 none with syndrome := 2 ^ check, aux0 := n + 1 }
    s.setCmd q j { c with passes := Table.put 0 c.passes k (n + 1) }
  else
    (s.modQuad q (fun x => { x with exhausted := satAdd 0xFF x.exhausted 1 })).exhaust q j c (stationSource stn) 0x0021 check n

/-- Whether a station has a check (R397, R401, R405; 04_matrix_array.md R128, R129; 06 R179): residues and parities in
the datapaths that compute, the checksum row and column in the arrays in CHECKED mode, hop parity and the tile count
at every station. -/
def State.hasCheck (s : State) (stn check : Nat) : Bool :=
  let array := decide (stn = stArray0) || decide (stn = stArray1)
  if check < 2 then array || decide (stn = stReed) || decide (stn = stChanter) || decide (stn = stGather)
  else if check < 4 then array && s.checked
  else decide (check < 6)

/-- REPLAY_UNIT (R403): a check has fired on a unit of a running command at a station that it holds, before any
tile of the unit left the station. The recomputed unit holds the bits of a pass without error. Check 6 is a parity error in
state that the commands of the quad share, which is FATAL (R405). -/
def execReplayUnit (q j : Nat) (idx : Word) (stn unit check : Nat) (s : State) : Host.Outcome State Fault Refusal :=
  .next (
    match (s.queue q j).find idx with
    | some c =>
      if s.quadRuns q && decide (check = 6) then s.fatal 0x07 0x0034 (q / 16) q
      else if s.quadRuns q && decide (c.phase = .running) && !c.ran && c.held.any (fun p => decide (p.1 = stn)) &&
          s.hasCheck stn check then
        s.markUnit q j c stn unit check
      else s
    | none => s)

/-! ### Sector adds -/

/-- Whether sector adds may reach an address: direct HBM or the tiered range (06 R185, 08_memory_model.md
Table MEM-8), not while the tier is read-only (09_memory_tiers.md R272). -/
def State.addable (s : State) (pa : Nat) : Bool :=
  match s.backed pa 64 with
  | some (.hbm _) => true
  | some .tiered => !s.tierReadOnly
  | _ => false

/-- An add that three recomputations left in error: its sector is poisoned, and the SCATTER_ADD that made it ends
REPLAY_EXHAUSTED with a DUE record (R404). -/
def State.badAdd (s : State) (q j : Nat) (idx : Word) (sec : Nat) : State :=
  let s := s.setPoison (sec / 64) true
  match (s.queue q j).find idx with
  | some c =>
    if decide (c.phase = .running) && decide (opcodeOf c.desc = opScatter) then s.exhaust q j c 0x09 0x0021 0 3 else s
  | none => s

/-- SECTOR_ADD (06 R186): one add, of a SCATTER_ADD of a queue, at the controller that holds the sector. `incs` are
FP32 increments by element. An error that three recomputations leave applies nothing (R404). -/
def execSectorAdd (a : AddAt) (fmt : Nat) (mask : Dword) (incs : List Word) (err : Bool) (s : State) :
    Host.Outcome State Fault Refusal :=
  .next (
    let sec := a.pa / 64 * 64
    if s.running && s.addable sec && s.writeReady true sec 64 then
      if err then s.badAdd a.q a.j a.idx sec
      else if s.readPoison true sec 64 then s
      else s.writePhys true sec (addSector fmt mask (s.readPhys true sec 64) incs)
    else if s.running && s.addable sec then s.requestWrite sec 64 else s)

/-! ### Patrol scrub -/

/-- The source, die and unit of a word of memory, or none where no memory word stands there
(15 Table RES-7; 01_package.md R31). -/
def State.wordPlace (s : State) (pa : Nat) : Option (Nat × Nat × Nat) :=
  match s.backed pa 1 with
  | some .ddr =>
    some (0x0A, s.ddrDie pa, if s.item 3 8 0 = 0 then pa / 4096 % 16 else 8 * (s.ddrDie pa - 4) + pa / 4096 % 8)
  | some (.hbm d) => some (0x09, d, 4 * d + pa / 4096 % 4)
  | some .tiered =>
    let st := s.tileSt (tileOf pa)
    if st = .r ∨ st = .d then
      let d := s.tierHome (tileOf pa / 4)
      some (0x09, d, 4 * d + pa / 4096 % 4)
    else none
  | some (.scratch q) => some (0x06, q / 16, q)
  | some (.pool d) => some (0x08, d, 0xFF)
  | _ => none

/-- The bit of scrub_off for a source (17_configuration_and_security.md Table CFG-4). -/
def scrubBit (source : Nat) : Nat := if source = 0x09 then 2 else if source = 0x0A then 3 else 0

/-- Scrub of a word of memory (R399, R400); it has no tags. An HBM device's own report is logged (R398). -/
def State.scrubWord (s : State) (pa : Nat) (found : EccFinding) : State :=
  match s.wordPlace pa with
  | none => s
  | some (src, d, u) =>
    if bit (s.item 2 3 0) (scrubBit src) then s
    else
      let phys := if src = 0x06 then (s.physOf u).getD 0xFF else 0xFF
      match found with
      | .clean => s
      | .tags => s
      | .control => s
      | .report => if src = 0x09 then s.logErr (memRec 0 src 0x0004 d u pa) else s
      | .corrected => s.logErr { memRec 0 src 0x0001 d u pa with phys := phys }
      | .uncorrectable => (s.setPoison (pa / 64) true).logErr { memRec 2 src 0x0020 d u pa with phys := phys }

/-- Where a scrub read of an address lands: a cache that holds the line idle, the extension, or the memory word
(log entry 21). -/
def State.scrub (s : State) (pa : Nat) (found : EccFinding) : State :=
  let line := pa / 64
  if found = .control then s.controlError line
  else if found = .report then s.scrubWord pa found
  else
  let caches := !(bit (s.item 2 3 0) 1)
  match (s.holders line).find? (fun h => decide (h.2.st ≠ .i) && decide (h.2.tr = .stable)) with
  | some (a, x) => if caches && !s.pinned line then s.scrubCache a line x found else s.scrubWord pa found
  | none =>
    match s.hbmDie pa with
    | some d =>
      match s.extFind d line with
      | some w => if caches && s.extOn d then s.scrubExt d line w found else s.scrubWord pa found
      | none => s.scrubWord pa found
    | none => s.scrubWord pa found

/-- SCRUB_READ (R400). -/
def execScrubRead (pa : Nat) (found : EccFinding) (s : State) : Host.Outcome State Fault Refusal :=
  .next (if s.boot.held then s else s.scrub pa found)

end Sys2Proof.Machine
end

