-- ==== Sys2Proof/Machine/Dispatch.lean ====
section
/-! DEFINITION. The meaning of each command: one arm for each constructor of Instr. -/

namespace Sys2Proof.Machine

/-- The effect of a command on everything but the queue of waiting commands. -/
def exec (i : Instr) (s : State) : Host.Outcome State Fault Refusal :=
  match i with
  | .doorbell p q j v => Sys2Proof.Machine.execDoorbell p q j v s
  | .queueCtrlWrite p q j v => Sys2Proof.Machine.execQueueCtrlWrite p q j v s
  | .queueHeadWrite p q j v => Sys2Proof.Machine.execQueueHeadWrite p q j v s
  | .queueAbort p q j => Sys2Proof.Machine.execQueueAbort p q j s
  | .queueResume p q j => Sys2Proof.Machine.execQueueResume p q j s
  | .descriptorFetch q => Sys2Proof.Machine.execDescriptorFetch q s
  | .commandDecode q j => Sys2Proof.Machine.execCommandDecode q j s
  | .segLookupMiss q ctx va => Sys2Proof.Machine.execSegLookupMiss q ctx va s
  | .commandStart q => Sys2Proof.Machine.execCommandStart q s
  | .stationRelease q j idx stn => Sys2Proof.Machine.execStationRelease q j idx stn s
  | .commandComplete q j idx => Sys2Proof.Machine.execCommandComplete q j idx s
  | .move q j idx => Sys2Proof.Machine.execMove q j idx s
  | .gemm q j idx => Sys2Proof.Machine.execGemm q j idx s
  | .gemmT q j idx => Sys2Proof.Machine.execGemmT q j idx s
  | .gemv q j idx => Sys2Proof.Machine.execGemv q j idx s
  | .gatherPool q j idx => Sys2Proof.Machine.execGatherPool q j idx s
  | .scatterAdd q j idx => Sys2Proof.Machine.execScatterAdd q j idx s
  | .vecop q j idx => Sys2Proof.Machine.execVecop q j idx s
  | .normBack q j idx => Sys2Proof.Machine.execNormBack q j idx s
  | .softmaxBack q j idx => Sys2Proof.Machine.execSoftmaxBack q j idx s
  | .send q j idx => Sys2Proof.Machine.execSend q j idx s
  | .inlineSend q j idx => Sys2Proof.Machine.execInlineSend q j idx s
  | .signal q j idx => Sys2Proof.Machine.execSignal q j idx s
  | .wait q j idx => Sys2Proof.Machine.execWait q j idx s
  | .fence q j idx => Sys2Proof.Machine.execFence q j idx s
  | .prefetchHint q j idx => Sys2Proof.Machine.execPrefetchHint q j idx s
  | .migrate q j idx => Sys2Proof.Machine.execMigrate q j idx s
  | .wakeArrive q j idx => Sys2Proof.Machine.execWakeArrive q j idx s
  | .waitTimeout q j idx => Sys2Proof.Machine.execWaitTimeout q j idx s
  | .sweepWake d => Sys2Proof.Machine.execSweepWake d s
  | .syncObjectOp d x ops => Sys2Proof.Machine.execSyncObjectOp d x ops s
  | .dieSyncAdd p d x half v => Sys2Proof.Machine.execDieSyncAdd p d x half v s
  | .dieSyncSet p d x half v => Sys2Proof.Machine.execDieSyncSet p d x half v s
  | .replayUnit q j idx stn unit check => Sys2Proof.Machine.execReplayUnit q j idx stn unit check s
  | .sectorAdd at_ fmt mask incs err => Sys2Proof.Machine.execSectorAdd at_ fmt mask incs err s
  | .segRead p u ctx slot => Sys2Proof.Machine.execSegRead p u ctx slot s
  | .segInstall p u ctx slot => Sys2Proof.Machine.execSegInstall p u ctx slot s
  | .segWithdraw p u ctx slot => Sys2Proof.Machine.execSegWithdraw p u ctx slot s
  | .segOpDone u => Sys2Proof.Machine.execSegOpDone u s
  | .withdrawDrained u => Sys2Proof.Machine.execWithdrawDrained u s
  | .faultRetry p u r => Sys2Proof.Machine.execFaultRetry p u r s
  | .faultFail p u r => Sys2Proof.Machine.execFaultFail p u r s
  | .windowCtrlWrite p q w v => Sys2Proof.Machine.execWindowCtrlWrite p q w v s
  | .windowCounterWrite p q w r v => Sys2Proof.Machine.execWindowCounterWrite p q w r v s
  | .packetDeliver pk => Sys2Proof.Machine.execPacketDeliver pk s
  | .packetForward arr pk => Sys2Proof.Machine.execPacketForward arr pk s
  | .ackReceive q tag => Sys2Proof.Machine.execAckReceive q tag s
  | .nackReceive q tag st => Sys2Proof.Machine.execNackReceive q tag st s
  | .packetDeadline q tag => Sys2Proof.Machine.execPacketDeadline q tag s
  | .flitReceive n f => Sys2Proof.Machine.execFlitReceive n f s
  | .replayRequest n => Sys2Proof.Machine.execReplayRequest n s
  | .replayTimeout n => Sys2Proof.Machine.execReplayTimeout n s
  | .linkLaneFail n dir lane => Sys2Proof.Machine.execLinkLaneFail n dir lane s
  | .linkRetrainTimeout n => Sys2Proof.Machine.execLinkRetrainTimeout n s
  | .linkTrainRetry n => Sys2Proof.Machine.execLinkTrainRetry n s
  | .linkTrained n partner partnerLink => Sys2Proof.Machine.execLinkTrained n partner partnerLink s
  | .axlFiCtrlWrite p n v => Sys2Proof.Machine.execAxlFiCtrlWrite p n v s
  | .bridgeLaneFail b repaired => Sys2Proof.Machine.execBridgeLaneFail b repaired s
  | .bridgeRetrainStart b => Sys2Proof.Machine.execBridgeRetrainStart b s
  | .bridgeRetrainDone b => Sys2Proof.Machine.execBridgeRetrainDone b s
  | .bridgeRetrainLong b => Sys2Proof.Machine.execBridgeRetrainLong b s
  | .bridgeLost b => Sys2Proof.Machine.execBridgeLost b s
  | .clockFault k => Sys2Proof.Machine.execClockFault k s
  | .rdShared a line => Sys2Proof.Machine.execRdShared a line s
  | .rdOwn a line => Sys2Proof.Machine.execRdOwn a line s
  | .upgrade a line => Sys2Proof.Machine.execUpgrade a line s
  | .rdOnce r line => Sys2Proof.Machine.execRdOnce r line s
  | .wrFull r line data stash => Sys2Proof.Machine.execWrFull r line data stash s
  | .wrPart r line mask data => Sys2Proof.Machine.execWrPart r line mask data s
  | .atomic r line op => Sys2Proof.Machine.execAtomic r line op s
  | .cmo r line k => Sys2Proof.Machine.execCmo r line k s
  | .snpShr a line => Sys2Proof.Machine.execSnpShr a line s
  | .snpOwn a line => Sys2Proof.Machine.execSnpOwn a line s
  | .snpInv a line => Sys2Proof.Machine.execSnpInv a line s
  | .snpOnce a line => Sys2Proof.Machine.execSnpOnce a line s
  | .snpCln a line => Sys2Proof.Machine.execSnpCln a line s
  | .rspState a line => Sys2Proof.Machine.execRspState a line s
  | .rspInwb a line => Sys2Proof.Machine.execRspInwb a line s
  | .cmp r line => Sys2Proof.Machine.execCmp r line s
  | .cmpAck a line => Sys2Proof.Machine.execCmpAck a line s
  | .retry a line => Sys2Proof.Machine.execRetry a line s
  | .grant a line => Sys2Proof.Machine.execGrant a line s
  | .wbAck a line => Sys2Proof.Machine.execWbAck a line s
  | .datHome r line => Sys2Proof.Machine.execDatHome r line s
  | .datFwd a line => Sys2Proof.Machine.execDatFwd a line s
  | .datSnp a line => Sys2Proof.Machine.execDatSnp a line s
  | .datInstall t line => Sys2Proof.Machine.execDatInstall t line s
  | .wbDirty a line => Sys2Proof.Machine.execWbDirty a line s
  | .wbClean a line => Sys2Proof.Machine.execWbClean a line s
  | .wbMove a line => Sys2Proof.Machine.execWbMove a line s
  | .snoopTimeout a line => Sys2Proof.Machine.execSnoopTimeout a line s
  | .amo c at_ wide op v => Sys2Proof.Machine.execAmo c at_ wide op v s
  | .amocas c at_ size expect new => Sys2Proof.Machine.execAmocas c at_ size expect new s
  | .lr c at_ wide => Sys2Proof.Machine.execLr c at_ wide s
  | .sc c at_ wide v => Sys2Proof.Machine.execSc c at_ wide v s
  | .lrReservationExpire c => Sys2Proof.Machine.execLrReservationExpire c s
  | .cboClean c pa pbmt => Sys2Proof.Machine.execCboClean c pa pbmt s
  | .cboFlush c pa pbmt => Sys2Proof.Machine.execCboFlush c pa pbmt s
  | .cboInval c pa pbmt err => Sys2Proof.Machine.execCboInval c pa pbmt err s
  | .cboZero c pa pbmt => Sys2Proof.Machine.execCboZero c pa pbmt s
  | .prefetchR c pa pbmt => Sys2Proof.Machine.execPrefetchR c pa pbmt s
  | .prefetchW c pa pbmt => Sys2Proof.Machine.execPrefetchW c pa pbmt s
  | .timerCompare c => Sys2Proof.Machine.execTimerCompare c s
  | .streamRunTimeout det run => Sys2Proof.Machine.execStreamRunTimeout det run s
  | .extErrorWindowExpire d way => Sys2Proof.Machine.execExtErrorWindowExpire d way s
  | .scrubRead pa found => Sys2Proof.Machine.execScrubRead pa found s
  | .promotionLands r => Sys2Proof.Machine.execPromotionLands r s
  | .writeGroupTimeout ch => Sys2Proof.Machine.execWriteGroupTimeout ch s
  | .pageProgrammed ch => Sys2Proof.Machine.execPageProgrammed ch s
  | .programFailure ch => Sys2Proof.Machine.execProgramFailure ch s
  | .garbageCollection g => Sys2Proof.Machine.execGarbageCollection g s
  | .mapCheckpoint x => Sys2Proof.Machine.execMapCheckpoint x s
  | .objectTableWrite p n v => Sys2Proof.Machine.execObjectTableWrite p n v s
  | .objectEvictDone => Sys2Proof.Machine.execObjectEvictDone s
  | .schedEnableWrite p v => Sys2Proof.Machine.execSchedEnableWrite p v s
  | .schedTailWrite p v => Sys2Proof.Machine.execSchedTailWrite p v s
  | .schedEntryActivate => Sys2Proof.Machine.execSchedEntryActivate s
  | .protectionExpire t => Sys2Proof.Machine.execProtectionExpire t s
  | .regionLoad p r => Sys2Proof.Machine.execRegionLoad p r s
  | .regionErase p r => Sys2Proof.Machine.execRegionErase p r s
  | .regionOpDone fails => Sys2Proof.Machine.execRegionOpDone fails s
  | .droneSyncExchange t1 t2 t3 t4 => Sys2Proof.Machine.execDroneSyncExchange t1 t2 t3 t4 s
  | .droneLoad t1 t2 t3 t4 => Sys2Proof.Machine.execDroneLoad t1 t2 t3 t4 s
  | .rootElection cands => Sys2Proof.Machine.execRootElection cands s
  | .droneFreeRun => Sys2Proof.Machine.execDroneFreeRun s
  | .stepBoundaryPush p v => Sys2Proof.Machine.execStepBoundaryPush p v s
  | .stepBoundary fits => Sys2Proof.Machine.execStepBoundary fits s
  | .suspicionDecay => Sys2Proof.Machine.execSuspicionDecay s
  | .pwrModeWrite p v => Sys2Proof.Machine.execPwrModeWrite p v s
  | .modeStep d => Sys2Proof.Machine.execModeStep d s
  | .modeChangeAbandon => Sys2Proof.Machine.execModeChangeAbandon s
  | .energyInterval e => Sys2Proof.Machine.execEnergyInterval e s
  | .droopTrip d => Sys2Proof.Machine.execDroopTrip d s
  | .droopRelease d => Sys2Proof.Machine.execDroopRelease d s
  | .vrAlert b => Sys2Proof.Machine.execVrAlert b s
  | .floorExit => Sys2Proof.Machine.execFloorExit s
  | .thermalSample r => Sys2Proof.Machine.execThermalSample r s
  | .thermalTrip d sensor reading => Sys2Proof.Machine.execThermalTrip d sensor reading s
  | .ceMergeExpire d k => Sys2Proof.Machine.execCeMergeExpire d k s
  | .recordToLog => Sys2Proof.Machine.execRecordToLog s
  | .errLogCtrlWrite p v => Sys2Proof.Machine.execErrLogCtrlWrite p v s
  | .errLogReadWrite p v => Sys2Proof.Machine.execErrLogReadWrite p v s
  | .getInfo p => Sys2Proof.Machine.execGetInfo p s
  | .regRead p off n => Sys2Proof.Machine.execRegRead p off n s
  | .regWrite p off vs => Sys2Proof.Machine.execRegWrite p off vs s
  | .semAcquire p => Sys2Proof.Machine.execSemAcquire p s
  | .semRenew p => Sys2Proof.Machine.execSemRenew p s
  | .semRelease p => Sys2Proof.Machine.execSemRelease p s
  | .leaseExpire => Sys2Proof.Machine.execLeaseExpire s
  | .txnBegin p => Sys2Proof.Machine.execTxnBegin p s
  | .txnStage p items => Sys2Proof.Machine.execTxnStage p items s
  | .txnRead p => Sys2Proof.Machine.execTxnRead p s
  | .txnCommit p => Sys2Proof.Machine.execTxnCommit p s
  | .txnRollback p => Sys2Proof.Machine.execTxnRollback p s
  | .txnAutoRollback => Sys2Proof.Machine.execTxnAutoRollback s
  | .txnQuiet => Sys2Proof.Machine.execTxnQuiet s
  | .txnApply => Sys2Proof.Machine.execTxnApply s
  | .storeRead p off n => Sys2Proof.Machine.execStoreRead p off n s
  | .storeErase p bank => Sys2Proof.Machine.execStoreErase p bank s
  | .storeWrite p bank off bs => Sys2Proof.Machine.execStoreWrite p bank off bs s
  | .storeFinish p bank len digest => Sys2Proof.Machine.execStoreFinish p bank len digest s
  | .logRead p src => Sys2Proof.Machine.execLogRead p src s
  | .attest p nonce => Sys2Proof.Machine.execAttest p nonce s
  | .getCert p => Sys2Proof.Machine.execGetCert p s
  | .keyFuse p slot digest signer sig => Sys2Proof.Machine.execKeyFuse p slot digest signer sig s
  | .keyRevoke p slot signer sig => Sys2Proof.Machine.execKeyRevoke p slot signer sig s
  | .keySvnRaise p svn signer sig => Sys2Proof.Machine.execKeySvnRaise p svn signer sig s
  | .debug p hart req => Sys2Proof.Machine.execDebug p hart req s
  | .packageReset c => Sys2Proof.Machine.execPackageReset c s
  | .computeDieReset p d => Sys2Proof.Machine.execComputeDieReset p d s
  | .hostComplexReset src => Sys2Proof.Machine.execHostComplexReset src s
  | .hostResetRelease => Sys2Proof.Machine.execHostResetRelease s
  | .quadReset p q => Sys2Proof.Machine.execQuadReset p q s
  | .dieResetDone d selfTest => Sys2Proof.Machine.execDieResetDone d selfTest s
  | .bootStage r => Sys2Proof.Machine.execBootStage r s
  | .rstCauseFatalClear p => Sys2Proof.Machine.execRstCauseFatalClear p s
  | .ethQpDb p x v => Sys2Proof.Machine.execEthQpDb p x v s
  | .qpMove p x v => Sys2Proof.Machine.execQpMove p x v s
  | .qpMoveError p x qpn => Sys2Proof.Machine.execQpMoveError p x qpn s
  | .wqeWrite x qpn => Sys2Proof.Machine.execWqeWrite x qpn s
  | .wqeRead x qpn => Sys2Proof.Machine.execWqeRead x qpn s
  | .wqeSend x qpn => Sys2Proof.Machine.execWqeSend x qpn s
  | .rdmaNakReceive x qpn k => Sys2Proof.Machine.execRdmaNakReceive x qpn k s
  | .rdmaWriteIn n x => Sys2Proof.Machine.execRdmaWriteIn n x s
  | .rdmaReadIn n qpn rkey off len => Sys2Proof.Machine.execRdmaReadIn n qpn rkey off len s
  | .rdmaSendIn n qpn bs => Sys2Proof.Machine.execRdmaSendIn n qpn bs s
  | .pcieMemRequest n r => Sys2Proof.Machine.execPcieMemRequest n r s
  | .counterLoRead p off => Sys2Proof.Machine.execCounterLoRead p off s
  | .rcRegisterRead p off => Sys2Proof.Machine.execRcRegisterRead p off s
  | .registerWrite p off v => Sys2Proof.Machine.execRegisterWrite p off v s
  | .packageResetRelease straps => Sys2Proof.Machine.execPackageResetRelease straps s
  | .hostLoad c at_ n how => Sys2Proof.Machine.execHostLoad c at_ n how s
  | .hostStore c pa src pbmt => Sys2Proof.Machine.execHostStore c pa src pbmt s
  | .marginWarning q => Sys2Proof.Machine.execMarginWarning q s
  | .lrSnoopDelayEnd c => Sys2Proof.Machine.execLrSnoopDelayEnd c s
  | .rdmaResponseReceive x qpn bs => Sys2Proof.Machine.execRdmaResponseReceive x qpn bs s
  | .rdmaAckTimeout x qpn => Sys2Proof.Machine.execRdmaAckTimeout x qpn s
  | .pfcPauseReceive n paused mask => Sys2Proof.Machine.execPfcPauseReceive n paused mask s
  | .cnpReceive n qpn => Sys2Proof.Machine.execCnpReceive n qpn s
  | .bypassReadDone r => Sys2Proof.Machine.execBypassReadDone r s

end Sys2Proof.Machine
end

