-- ==== Sys2Proof/Machine/Idle.lean ====
section
/-! DEFINITION. What passes when no command waits: one tick of the Drone. -/

namespace Sys2Proof.Machine

/-- One tick of the Drone: an increment is added or skipped towards the parent, at most once in 256 ticks
(13_axis_links_and_drone.md R374, R376). -/
def Time.tick (t : Time) : Time :=
  if t.loaded ∧ t.lastSlew + 256 ≤ t.drone ∧ 0 < t.offset then
    { t with drone := (t.drone + 2) % 2 ^ 64, prev := t.drone, offset := t.offset - 1, lastSlew := t.drone }
  else if t.loaded ∧ t.lastSlew + 256 ≤ t.drone ∧ t.offset < 0 then
    { t with prev := t.drone, offset := t.offset + 1, lastSlew := t.drone }
  else { t with drone := (t.drone + 1) % 2 ^ 64, prev := t.drone }

/-- One Drone tick of 1 ns (13 R374); none while the package is held in reset. -/
def idleTick (s : State) : State := if s.boot.held then s else s.modTime Time.tick

end Sys2Proof.Machine
end

