-- ==== Sys2Proof/WellFormed.lean ====
section
/-! DEFINITION. Which terms of `Instr` are well formed: every operand inside the range that the spec's
numbering gives it. A command outside its range reaches nothing that exists. -/

namespace Sys2Proof

/-- Cores are 0 to 127 and PCIe ports 0 and 1 (11 R308, 01 Table PKG-1). -/
def Port.wf : Port → Bool
  | .core n => decide (n < 128)
  | .pcie n => decide (n < 2)
  | .mgmtA => true
  | .mgmtB => true

/-- Coordinates are 10-bit fields (13 R361). -/
def Coords.wf (c : Coords) : Bool := decide (c.x < 1024) && decide (c.y < 1024) && decide (c.z < 1024)

/-- The field ranges of 13 Table AXL-5, and the record lengths of its flags. -/
def Packet.wf (p : Packet) : Bool :=
  decide (p.tag < 65536) && p.dest.wf && p.src.wf && decide (p.dquad < 256) && decide (p.window < 32) &&
  decide (p.offset < 2 ^ 48) && decide (p.squad < 256) && decide (p.data.length ≤ 4096) &&
  (decide (p.rcd.length = 0) || decide (p.rcd.length = 64) || decide (p.rcd.length = 320))

/-- The field ranges of 13 Table AXL-1 and the flit's 245 bytes of payload. -/
def Flit.wf (f : Flit) : Bool :=
  decide (f.type < 16) && decide (f.vc < 16) && decide (f.seq < 4096) && decide (f.ack < 4096) &&
  decide (f.creditVc < 16) && decide (f.credit < 256) && decide (f.payload.length = 245)

/-- Caching agents are 0 to 129 (12 Table COH-1). -/
def Requester.wf : Requester → Bool
  | .agent a => decide (a < 130)
  | .cacheless _ => true

/-- The named core exists (11 R326). -/
def Stash.wf : Stash → Bool
  | .l2 c => decide (c < 128)
  | .none => true
  | .h0 => true
  | .h1 => true
  | .extension => true

/-- An integer atomic lies inside its line, aligned to its width (08 Table MEM-8). -/
def LineAtomic.wf : LineAtomic → Bool
  | .amo off wide _ _ => decide (off < 64) && decide (off % (if wide then 8 else 4) = 0)
  | .cas off wide _ _ => decide (off < 64) && decide (off % (if wide then 8 else 4) = 0)
  | .floatAdd fmt _ incs => decide (fmt < 256) && decide (incs.length ≤ 32)

/-- The 8-byte encoding of an item has 8-bit codes and a 16-bit index (17 R444). -/
def CfgItem.wf (i : CfgItem) : Bool := decide (i.sect < 256) && decide (i.code < 256) && decide (i.index < 65536)

/-- Eight dies, 4,096 contexts (16 R430, R431). -/
def DieActivity.wf (d : DieActivity) : Bool :=
  decide (d.die < 8) && d.events.all (fun e => e.ctx.all (fun c => decide (c < 4096)))

/-- One reading of each die, stack and module (16 R434). -/
def ThermalReadings.wf (r : ThermalReadings) : Bool :=
  decide (r.dies.length = 8) && decide (r.hbm.length = 16) && decide (r.flash.length = 8)

/-- Eight staging queues (15 R414). -/
def LogSource.wf : LogSource → Bool
  | .log _ => true
  | .staging d => decide (d < 8)

/-- 48-bit addresses, 128 harts, identities 1 to 2,047 (11 R315). -/
def PcieRequest.wf : PcieRequest → Bool
  | .read pa n => decide (pa < 2 ^ 48) && decide (n ≤ 4096)
  | .write pa bs => decide (pa < 2 ^ 48) && decide (bs.length ≤ 512)
  | .msi h _ i => decide (h < 128) && decide (0 < i ∧ i < 2048)

/-- A message of at most 2^31 bytes and its parts (14 R385, R387). -/
def RdmaIn.wf (x : RdmaIn) : Bool :=
  decide (x.qpn < 8192) && decide (x.total ≤ 2 ^ 31) && decide (x.done + x.data.length ≤ x.total)

/-- A reset register is written by a port (18 R464). -/
def ResetCause.wf : ResetCause → Bool
  | .ctrl p => p.wf
  | .powerGood => true
  | .pin => true

/-- As `ResetCause.wf`. -/
def HostResetSource.wf : HostResetSource → Bool
  | .ctrl p => p.wf
  | .pin => true

/-- Scalar loads and fetches move at most a line, vector loads whole elements of registers that exist (11 R310). -/
def LoadKind.wf (n : Nat) : LoadKind → Bool
  | .scalar => decide (n ≤ 64)
  | .fetch _ => decide (n ≤ 64)
  | .vector vd => decide (n ≤ 256) && decide (vd * 32 + n ≤ 1024)

/-- A 48-bit address (01 R30). -/
def CoreAt.wf (x : CoreAt) : Bool := decide (x.pa < 2 ^ 48)

/-- 64 quads, 16 queues, a 48-bit address (06 R186). -/
def AddAt.wf (x : AddAt) : Bool := decide (x.q < 64) && decide (x.j < 16) && decide (x.pa < 2 ^ 48)

/-- 2^31 tiles; 9 retries stand for a read that 8 did not mend (09 R263). -/
def FlashRead.wf (x : FlashRead) : Bool := decide (x.tile < 2 ^ 31) && decide (x.retries < 10)

/-- 64 channels (09 R261). -/
def Collection.wf (x : Collection) : Bool := decide (x.ch < 64)

/-- As `LoadKind.wf`. -/
def StoreSrc.wf : StoreSrc → Bool
  | .bytes bs => decide (0 < bs.length ∧ bs.length ≤ 64)
  | .vector vs n => decide (0 < n ∧ n ≤ 256) && decide (vs * 32 + n ≤ 1024)

/-- 4,096 CSRs, 32 integer registers, and 32 vector registers of 32 bytes (11 R309, R310). -/
def HartAccess.wf : HartAccess → Bool
  | .csrRead n => decide (n < 4096)
  | .csrWrite n _ => decide (n < 4096)
  | .gprRead r => decide (r < 32)
  | .gprWrite r _ => decide (r < 32)
  | .vecRead r => decide (r < 32)
  | .vecWrite r bs => decide (r < 32) && decide (bs.length = 32)
  | .timecmpRead => true
  | .timecmpWrite _ => true
  | .timeRead => true
  | .timeWrite _ => true
  | .module _ => true

/-- Every operand of a command lies in its range. -/
def Instr.wf : Instr → Bool
  | .doorbell p q j _ => p.wf && decide (q < 64) && decide (j < 16)
  | .queueCtrlWrite p q j _ => p.wf && decide (q < 64) && decide (j < 16)
  | .queueHeadWrite p q j _ => p.wf && decide (q < 64) && decide (j < 16)
  | .queueAbort p q j => p.wf && decide (q < 64) && decide (j < 16)
  | .queueResume p q j => p.wf && decide (q < 64) && decide (j < 16)
  | .descriptorFetch q => decide (q < 64)
  | .commandDecode q j => decide (q < 64) && decide (j < 16)
  | .segLookupMiss q ctx va => decide (q < 64) && decide (ctx < 4096) && decide (va < 2 ^ 48)
  | .commandStart q => decide (q < 64)
  | .stationRelease q j _ stn => decide (q < 64) && decide (j < 16) && decide (stn < 10)
  | .commandComplete q j _ => decide (q < 64) && decide (j < 16)
  | .move q j _ => decide (q < 64) && decide (j < 16)
  | .gemm q j _ => decide (q < 64) && decide (j < 16)
  | .gemmT q j _ => decide (q < 64) && decide (j < 16)
  | .gemv q j _ => decide (q < 64) && decide (j < 16)
  | .gatherPool q j _ => decide (q < 64) && decide (j < 16)
  | .scatterAdd q j _ => decide (q < 64) && decide (j < 16)
  | .vecop q j _ => decide (q < 64) && decide (j < 16)
  | .normBack q j _ => decide (q < 64) && decide (j < 16)
  | .softmaxBack q j _ => decide (q < 64) && decide (j < 16)
  | .send q j _ => decide (q < 64) && decide (j < 16)
  | .inlineSend q j _ => decide (q < 64) && decide (j < 16)
  | .signal q j _ => decide (q < 64) && decide (j < 16)
  | .wait q j _ => decide (q < 64) && decide (j < 16)
  | .fence q j _ => decide (q < 64) && decide (j < 16)
  | .prefetchHint q j _ => decide (q < 64) && decide (j < 16)
  | .migrate q j _ => decide (q < 64) && decide (j < 16)
  | .wakeArrive q j _ => decide (q < 64) && decide (j < 16)
  | .waitTimeout q j _ => decide (q < 64) && decide (j < 16)
  | .sweepWake d => decide (d < 4)
  | .syncObjectOp d i _ => decide (d < 4) && decide (i < 4096)
  | .dieSyncAdd p d i _ _ => p.wf && decide (d < 4) && decide (i < 4096)
  | .dieSyncSet p d i _ _ => p.wf && decide (d < 4) && decide (i < 4096)
  | .replayUnit q j _ stn _ check => decide (q < 64) && decide (j < 16) && decide (stn < 10) && decide (check < 7)
  | .sectorAdd at_ fmt _ incs _ => at_.wf && decide (fmt < 256) && decide (incs.length ≤ 32)
  | .segRead p u ctx slot => p.wf && decide (u < 2) && decide (ctx < 4096) && decide (slot < 16)
  | .segInstall p u ctx slot => p.wf && decide (u < 2) && decide (ctx < 4096) && decide (slot < 16)
  | .segWithdraw p u ctx slot => p.wf && decide (u < 2) && decide (ctx < 4096) && decide (slot < 16)
  | .segOpDone u => decide (u < 2)
  | .withdrawDrained u => decide (u < 2)
  | .faultRetry p u r => p.wf && decide (u < 2) && decide (r < 64)
  | .faultFail p u r => p.wf && decide (u < 2) && decide (r < 64)
  | .windowCtrlWrite p q w _ => p.wf && decide (q < 64) && decide (w < 32)
  | .windowCounterWrite p q w _ _ => p.wf && decide (q < 64) && decide (w < 32)
  | .packetDeliver pk => pk.wf
  | .packetForward arr pk => decide (arr < 7) && pk.wf
  | .ackReceive q tag => decide (q < 64) && decide (tag < 65536)
  | .nackReceive q tag _ => decide (q < 64) && decide (tag < 65536)
  | .packetDeadline q tag => decide (q < 64) && decide (tag < 65536)
  | .flitReceive n f => decide (n < 6) && f.wf
  | .replayRequest n => decide (n < 6)
  | .replayTimeout n => decide (n < 6)
  | .linkLaneFail n _ lane => decide (n < 6) && decide (lane < 17)
  | .linkRetrainTimeout n => decide (n < 6)
  | .linkTrainRetry n => decide (n < 6)
  | .linkTrained n partner partnerLink => decide (n < 6) && partner.wf && decide (partnerLink < 7)
  | .axlFiCtrlWrite p n _ => p.wf && decide (n < 6)
  | .bridgeLaneFail b _ => decide (b < 12)
  | .bridgeRetrainStart b => decide (b < 12)
  | .bridgeRetrainDone b => decide (b < 12)
  | .bridgeRetrainLong b => decide (b < 12)
  | .bridgeLost b => decide (b < 12)
  | .clockFault _ => true
  | .rdShared a line => decide (a < 130) && decide (line < 4398046511104)
  | .rdOwn a line => decide (a < 130) && decide (line < 4398046511104)
  | .upgrade a line => decide (a < 130) && decide (line < 4398046511104)
  | .rdOnce r line => r.wf && decide (line < 4398046511104)
  | .wrFull r line data stash => r.wf && decide (line < 4398046511104) && decide (data.length = 64) && stash.wf
  | .wrPart r line _ data => r.wf && decide (line < 4398046511104) && decide (data.length = 64)
  | .atomic r line op => r.wf && decide (line < 4398046511104) && op.wf
  | .cmo r line _ => r.wf && decide (line < 4398046511104)
  | .snpShr a line => decide (a < 130) && decide (line < 4398046511104)
  | .snpOwn a line => decide (a < 130) && decide (line < 4398046511104)
  | .snpInv a line => decide (a < 130) && decide (line < 4398046511104)
  | .snpOnce a line => decide (a < 130) && decide (line < 4398046511104)
  | .snpCln a line => decide (a < 130) && decide (line < 4398046511104)
  | .rspState a line => decide (a < 130) && decide (line < 4398046511104)
  | .rspInwb a line => decide (a < 130) && decide (line < 4398046511104)
  | .cmp r line => r.wf && decide (line < 4398046511104)
  | .cmpAck a line => decide (a < 130) && decide (line < 4398046511104)
  | .retry a line => decide (a < 130) && decide (line < 4398046511104)
  | .grant a line => decide (a < 130) && decide (line < 4398046511104)
  | .wbAck a line => decide (a < 130) && decide (line < 4398046511104)
  | .datHome r line => r.wf && decide (line < 4398046511104)
  | .datFwd a line => decide (a < 130) && decide (line < 4398046511104)
  | .datSnp a line => decide (a < 130) && decide (line < 4398046511104)
  | .datInstall t line => decide (t < 130) && decide (line < 4398046511104)
  | .wbDirty a line => decide (a < 130) && decide (line < 4398046511104)
  | .wbClean a line => decide (a < 130) && decide (line < 4398046511104)
  | .wbMove a line => decide (a < 130) && decide (line < 4398046511104)
  | .snoopTimeout a line => decide (a < 130) && decide (line < 4398046511104)
  | .amo c at_ _ _ _ => decide (c < 128) && at_.wf
  | .amocas c at_ size _ _ => decide (c < 128) && at_.wf && decide (size = 4 ∨ size = 8 ∨ size = 16)
  | .lr c at_ _ => decide (c < 128) && at_.wf
  | .sc c at_ _ _ => decide (c < 128) && at_.wf
  | .lrReservationExpire c => decide (c < 128)
  | .cboClean c pa _ => decide (c < 128) && decide (pa < 2 ^ 48)
  | .cboFlush c pa _ => decide (c < 128) && decide (pa < 2 ^ 48)
  | .cboInval c pa _ _ => decide (c < 128) && decide (pa < 2 ^ 48)
  | .cboZero c pa _ => decide (c < 128) && decide (pa < 2 ^ 48)
  | .prefetchR c pa _ => decide (c < 128) && decide (pa < 2 ^ 48)
  | .prefetchW c pa _ => decide (c < 128) && decide (pa < 2 ^ 48)
  | .timerCompare c => decide (c < 128)
  | .streamRunTimeout det run => decide (det < 144) && decide (run < 4)
  | .extErrorWindowExpire d way => decide (d < 4) && decide (way < 16)
  | .scrubRead pa _ => decide (pa < 2 ^ 48)
  | .promotionLands r => r.wf
  | .writeGroupTimeout ch => decide (ch < 64)
  | .pageProgrammed ch => decide (ch < 64)
  | .programFailure ch => decide (ch < 64)
  | .garbageCollection g => g.wf
  | .mapCheckpoint x => decide (x < 2)
  | .objectTableWrite p n _ => p.wf && decide (n < 4096)
  | .objectEvictDone => true
  | .schedEnableWrite p _ => p.wf
  | .schedTailWrite p _ => p.wf
  | .schedEntryActivate => true
  | .protectionExpire t => decide (t < 2 ^ 31)
  | .regionLoad p r => p.wf && decide (r < 2048)
  | .regionErase p r => p.wf && decide (r < 2048)
  | .regionOpDone fails => fails.all (fun p => decide (p.1 < 64) && decide (p.2 < 4))
  | .droneSyncExchange _ _ _ _ => true
  | .droneLoad _ _ _ _ => true
  | .rootElection cands => cands.all (fun c => c.at_.wf && decide (c.priority < 256))
  | .droneFreeRun => true
  | .stepBoundaryPush p _ => p.wf
  | .stepBoundary fits => fits.all (fun f => decide (f.die < 8))
  | .suspicionDecay => true
  | .pwrModeWrite p _ => p.wf
  | .modeStep d => decide (d < 4)
  | .modeChangeAbandon => true
  | .energyInterval e => e.all DieActivity.wf
  | .droopTrip d => decide (d < 8)
  | .droopRelease d => decide (d < 8)
  | .vrAlert b => decide (b < 8)
  | .floorExit => true
  | .thermalSample r => r.wf
  | .thermalTrip d sensor reading => decide (d < 8) && decide (sensor < 256) && decide (reading < 256)
  | .ceMergeExpire d k => decide (d < 8) && decide (k < 64)
  | .recordToLog => true
  | .errLogCtrlWrite p _ => p.wf
  | .errLogReadWrite p _ => p.wf
  | .getInfo p => p.wf
  | .regRead p off _ => p.wf && decide (off < 2 ^ 32)
  | .regWrite p off _ => p.wf && decide (off < 2 ^ 32)
  | .semAcquire p => p.wf
  | .semRenew p => p.wf
  | .semRelease p => p.wf
  | .leaseExpire => true
  | .txnBegin p => p.wf
  | .txnStage p items => p.wf && items.all CfgItem.wf
  | .txnRead p => p.wf
  | .txnCommit p => p.wf
  | .txnRollback p => p.wf
  | .txnAutoRollback => true
  | .txnQuiet => true
  | .txnApply => true
  | .storeRead p off _ => p.wf && decide (off < 2 ^ 32)
  | .storeErase p bank => p.wf && decide (bank < 2)
  | .storeWrite p bank off bs => p.wf && decide (bank < 2) && decide (off < 2 ^ 32) && decide (bs.length ≤ 2 ^ 25)
  | .storeFinish p bank _ digest => p.wf && decide (bank < 2) && decide (digest.length = 64)
  | .logRead p src => p.wf && src.wf
  | .attest p nonce => p.wf && decide (nonce.length = 32)
  | .getCert p => p.wf
  | .keyFuse p slot digest signer _ =>
    p.wf && decide (slot < 4) && decide (digest.length = 64) && decide (signer < 4)
  | .keyRevoke p slot signer _ => p.wf && decide (slot < 4) && decide (signer < 4)
  | .keySvnRaise p svn signer _ => p.wf && decide (svn < 65) && decide (signer < 4)
  | .debug p hart req => p.wf && decide (hart < 128) && req.wf
  | .packageReset c => c.wf
  | .computeDieReset p d => p.wf && decide (d < 4)
  | .hostComplexReset src => src.wf
  | .hostResetRelease => true
  | .quadReset p q => p.wf && decide (q < 64)
  | .dieResetDone d selfTest => decide (d < 4) && decide (selfTest.length = 18)
  | .bootStage r =>
    decide (r.stage < 16) && decide (r.err < 256) && r.selfTestFailed.all (fun p => decide (p < 72))
  | .rstCauseFatalClear p => p.wf
  | .ethQpDb p x _ => p.wf && decide (x < 2)
  | .qpMove p x _ => p.wf && decide (x < 2)
  | .qpMoveError p x qpn => p.wf && decide (x < 2) && decide (qpn < 8192)
  | .wqeWrite x qpn => decide (x < 2) && decide (qpn < 8192)
  | .wqeRead x qpn => decide (x < 2) && decide (qpn < 8192)
  | .wqeSend x qpn => decide (x < 2) && decide (qpn < 8192)
  | .rdmaNakReceive x qpn _ => decide (x < 2) && decide (qpn < 8192)
  | .rdmaWriteIn n x => decide (n < 4) && x.wf
  | .rdmaReadIn n qpn _ off _ => decide (n < 4) && decide (qpn < 8192) && decide (off < 2 ^ 32)
  | .rdmaSendIn n qpn _ => decide (n < 4) && decide (qpn < 8192)
  | .pcieMemRequest n r => decide (n < 2) && r.wf
  | .counterLoRead p off => p.wf && decide (off < 2 ^ 32)
  | .rcRegisterRead p off => p.wf && decide (off < 2 ^ 32)
  | .registerWrite p off _ => p.wf && decide (off < 2 ^ 32)
  | .packageResetRelease _ => true
  | .hostLoad c at_ n how => decide (c < 128) && at_.wf && decide (0 < n) && how.kind.wf n
  | .hostStore c pa src _ => decide (c < 128) && decide (pa < 2 ^ 48) && src.wf
  | .marginWarning q => decide (q < 64)
  | .lrSnoopDelayEnd c => decide (c < 128)
  | .rdmaResponseReceive x qpn _ => decide (x < 2) && decide (qpn < 8192)
  | .rdmaAckTimeout x qpn => decide (x < 2) && decide (qpn < 8192)
  | .pfcPauseReceive n _ _ => decide (n < 4)
  | .cnpReceive n qpn => decide (n < 4) && decide (qpn < 8192)
  | .bypassReadDone r => r.wf

end Sys2Proof
end

