-- ==== Sys2Proof/Safety.lean ====
section
/-! DEFINITION. What counts as a safe state and a safe run, and the terms the statements use: what a step leaves
alone, which port may ring a doorbell, and when a command of a queue is under way. -/

namespace Sys2Proof.Machine

/-- The invariant of memory: its canonical form, and the canonical form of the flash copy. -/
def State.memWf (s : State) : Bool := Memory.wf s.mem && Memory.wf s.flash

/-- Every waiting command is well formed. -/
def State.queueWf (s : State) : Bool := s.pending.all Instr.wf

/-- A step is safe when it answers a next state. -/
def safeStep (s : State) : Prop := ∃ t, step s = .next t

/-- A run of n steps that answers a next state each time. -/
def safeRun : Nat → State → Prop
  | 0, _ => True
  | n + 1, s => ∃ t, step s = .next t ∧ safeRun n t

/-! ### What a step leaves alone -/

/-- Nothing changes but quads, and of the quads only q. Every byte of memory, every register outside the quad and
every other quad is as it was. -/
def State.onlyQuad (q : Nat) (s t : State) : Prop :=
  t = { s with quads := t.quads } ∧ ∀ p, p ≠ q → t.quad p = s.quad p

/-- Nothing changes but queue j of quad q. -/
def State.onlyQueue (q j : Nat) (s t : State) : Prop :=
  s.onlyQuad q t ∧ t.quad q = { s.quad q with queues := (t.quad q).queues } ∧
  ∀ i, i ≠ j → t.queue q i = s.queue q i

/-- Nothing changes but window w of quad q. -/
def State.onlyWindow (q w : Nat) (s t : State) : Prop :=
  s.onlyQuad q t ∧ t.quad q = { s.quad q with windows := (t.quad q).windows } ∧
  ∀ i, i ≠ w → t.window q i = s.window q i

/-- Nothing changes but translation unit u. -/
def State.onlyStu (u : Nat) (s t : State) : Prop :=
  t = { s with stus := t.stus } ∧ ∀ v, v ≠ u → t.stu v = s.stu v

/-! ### Authority and progress -/

/-- Whether a port may ring the doorbell of queue j of quad q (17_configuration_and_security.md Table CFG-8;
14_network_and_pcie.md R394). -/
def State.mayRing (s : State) (p : Port) (q j : Nat) : Bool :=
  match p with
  | .pcie n => s.dbGranted n (16 * q + j)
  | _ => s.mayWrite p

/-- A command of a queue has started, its stations have not moved its tiles yet, and its quad runs
(02_stations_and_routes.md R59, R60). -/
def State.underway (s : State) (q j : Nat) (idx : Word) (op : Nat) (c : Cmd) : Prop :=
  s.quadRuns q = true ∧ (s.queue q j).find idx = some c ∧ c.phase = .running ∧ c.ran = false ∧ opcodeOf c.desc = op

/-- An extent that one access can read now: its home takes accesses, its die is reached, nothing that it needs is
on the way, and no sector of it is poisoned (01_package.md R25, 09_memory_tiers.md R267, 12_coherence.md R339, R350). -/
def State.canRead (s : State) (q : Nat) (e : Extent) : Prop :=
  s.hostClosed e.pa = false ∧ s.reachesAll q e.pa e.len = true ∧ s.readReady e.coherent e.pa e.len = true ∧
  s.readPoison e.coherent e.pa e.len = false

/-- An extent that one access can write now. -/
def State.canWrite (s : State) (q : Nat) (e : Extent) : Prop :=
  s.hostClosed e.pa = false ∧ s.reachesAll q e.pa e.len = true ∧ s.writeReady e.coherent e.pa e.len = true ∧
  s.writePoison e.coherent e.pa e.len = false

/-- Every extent that a run reads and writes is there to be used: homes accept, dies are reached and nothing that
an access needs is on the way. Poison is judged when each extent is read or written. -/
def RunIn.allReady (r : RunIn) (reads writes : List Nat) (s : State) : Prop :=
  (∀ o ∈ reads, ∀ e, r.c.ext o = some e →
    s.hostClosed e.pa = false ∧ s.reachesAll r.q e.pa e.len = true ∧ s.readReady e.coherent e.pa e.len = true) ∧
  (∀ o ∈ writes, ∀ e, r.c.ext o = some e →
    s.hostClosed e.pa = false ∧ s.reachesAll r.q e.pa e.len = true ∧
      s.hintedReady (stashOf r.c.stash) e.coherent e.pa e.len = true)

/-- The bytes that BELL writes for result tiles, in tile order. -/
def tileBytesOf (ts : List (OutTile × List Byte)) : List Byte := ts.flatMap (fun p => p.1.data)

/-- The state after BELL has written the result tiles of a finished run over a state, with no record extent, and
the quad has sent what waited (02_stations_and_routes.md R53, R63). -/
def RunIn.landed (r : RunIn) (e : Extent) (ts : List (OutTile × List Byte)) (counts : List (Nat × Nat)) (s : State) : State :=
  ((s.writeHinted (r.q / 16) (stashOf r.c.stash) e.coherent e.pa ((tileBytesOf ts).take e.len)).doneCmd r.q r.j r.c
    ⟨ts.length, [], counts⟩).pump r.q

/-- Whether the result tiles may be written at an extent: no sector that they cover in part is poisoned. -/
def State.canLand (s : State) (e : Extent) (ts : List (OutTile × List Byte)) : Prop :=
  s.writePoison e.coherent e.pa ((tileBytesOf ts).take e.len).length = false

/-- Memory that no cache holds a copy of and that is no part of the tiered range: its bytes stand in the state's
memory, as `State.byte` reads them. -/
def Extent.plain (e : Extent) : Prop := e.coherent = false ∧ isTiered e.pa = false

/-- Memory holds a run of bytes from an address on. -/
def State.hasBytes (s : State) (pa : Nat) (bs : List Byte) : Prop := ∀ i, i < bs.length → s.byte (pa + i) = bs.getD i 0

/-! ### Coherence -/

/-- A home that can take up a request for a line now: the package runs and the home is open, the line has no open
transaction and nothing is on its way to it, a slot is free, nothing waits, and no agent is dead (12_coherence.md R339,
R345, R349). The line is one of DDR5 or of direct HBM, whose memory is always within the home's reach. -/
def State.homeFree (s : State) (line : Nat) : Prop :=
  s.homeTakes line = true ∧ s.txn line = none ∧ s.openAt (s.homeOf line) < 512 ∧ s.coh.waiting = [] ∧
  s.coh.retryQ = [] ∧ s.coh.dead = [] ∧ s.datComing line = false ∧ isTiered (line * 64) = false

/-- Whether the set of a line in its home's directory has a way that is neither in use nor held (12_coherence.md R344,
R345). -/
def State.dirSpace (s : State) (line : Nat) : Bool :=
  let same := fun (l : Nat) => decide (s.homeOf l = s.homeOf line) && decide (dirSetOf l = dirSetOf line)
  decide ((s.coh.dir.filter (fun e => same e.1)).length +
    (s.heldWays.filter (fun l => same l && decide (l ≠ line))).length < 16)

/-- One snoop of a kind is out to an agent for a requester's transaction on a line, and nothing else has changed but
the requester's own cache: the directory and every byte of memory are as they were (12_coherence.md R341, R348). -/
def State.oneSnoop (s t : State) (k : Snp) (o line : Nat) (who : Requester) : Prop :=
  t.coh.msgs = s.coh.msgs ++ [.snp k o line who] ∧ t.dirEntry line = s.dirEntry line ∧
  (∃ x, t.txn line = some x ∧ x.who = who ∧ x.waits = [(o, k, s.drone + 2 ^ 20)]) ∧ ∀ a, t.byte a = s.byte a

/-- A hart that its PMP does not bind anywhere (11_host_cores_and_cache.md R311). -/
def State.unguarded (s : State) (c : Nat) : Prop :=
  ∀ pa n use, 0 < n → pa + n ≤ 2 ^ 48 → (s.core c).pmpOk pa n use = true

/-- An access of a core that finds its line's home free and nothing of the coherence protocol in flight: the cores
run, the access lies in one backed region of DDR5 or direct HBM, and the line can be asked for and stands in no cache in
a transient state. -/
def State.coreMay (s : State) (c pa n : Nat) : Prop :=
  s.hostRuns = true ∧ c < 128 ∧ ((s.backed pa n = some .ddr) ∨ ∃ d, s.backed pa n = some (.hbm d)) ∧
  s.lineOpen c (pa / 64) = true ∧ s.coh.msgs = [] ∧ s.coh.dead = [] ∧ 0 < n ∧ pa / 64 = (pa + n - 1) / 64 ∧
  s.unguarded c ∧ ∀ e ∈ s.coh.lines, e.1 % 2 ^ 42 = pa / 64 → e.2.tr = .stable

/-- Memory reads as before but for one line. -/
def State.onlyLine (s t : State) (line : Nat) : Prop :=
  ∀ x, x < line * 64 ∨ line * 64 + 64 ≤ x → t.byte x = s.byte x

/-- No agent holds a line, and the directory names none. -/
def State.unheld (t : State) (line : Nat) : Prop :=
  (∀ e ∈ t.coh.lines, e.1 % 2 ^ 42 ≠ line) ∧ t.dirEntry line = DirEntry.none

/-- No cache holds a line, no entry names one and nothing of the protocol is in flight. -/
def State.quietCaches (s : State) : Prop :=
  s.coh.lines = [] ∧ s.coh.dir = [] ∧ s.coh.msgs = [] ∧ s.coh.txns = []

/-- Nothing waits at the tier or at a home: no request, hint, flash read, schedule entry, and nothing that a pin owes
(09_memory_tiers.md R267). -/
def State.tierQuiet (s : State) : Prop :=
  s.coh.waiting = [] ∧ s.tier.hintQ = [] ∧ s.tier.readQ = [] ∧ s.tier.active = [] ∧ s.tier.owed = []

/-- A queue pair whose entry can be read and written now: it stands, aligned, in populated DDR5 that no cache holds
(14_network_and_pcie.md R383). -/
def State.qpPlain (s : State) (x qpn : Nat) : Prop :=
  s.qpReady x qpn = true ∧ s.qpBacked x qpn = true ∧ (s.qpReg x).base.toNat % 64 = 0 ∧ s.quietCaches

/-- The message that a pair's work request is sent with, its data read at an extent (14_network_and_pcie.md R385). -/
def State.wqeMsg (s : State) (x qpn : Nat) (e w : List Byte) (l : Extent) : Out :=
  .eth (qpPort x e) qpn (s.ethHead (qpPort x e) e 8) (wqeOp w) (field w 0x10 8) (BitVec.ofNat 32 (field w 0x18 4)) (wqeLen w)
    (if wqeOp w = 2 ∨ wqeLen w = 0 then [] else s.readPhys l.coherent l.pa (wqeLen w))

/-- Only registers that answer a management request have changed. -/
def State.onlyAnswer (s t : State) : Prop := t = { s with cfg := { s.cfg with answers := t.cfg.answers } }

/-- What a management port's request was answered with. -/
def State.mgmtAnswer (s : State) (n : Nat) : Response := Table.get Response.none s.cfg.answers n

end Sys2Proof.Machine
end

