-- ==== Sys2Proof/Certificates/Slice0/Obligations.lean ====
section
/-! DEFINITION. The statements for the provers. Each docstring says which rules of the spec it formalises. -/

open Sys2Proof Sys2Proof.Machine

/-- A step runs the command at the front of the queue. With a command at the front of the queue of waiting commands,
a step is exec of that command on the state with the rest of the queue. (07_commands_and_queues.md,
95_what_each_step_holds.md.) -/
def Obligations.StepRunsFrontCommand : Prop :=
  ∀ (s : State) (c : Instr) (rest : List Instr), s.pending = c :: rest →
    step s = exec c { s with pending := rest }

/-- With no command waiting one Drone tick passes. On an empty queue, in a package that is not held in reset and has
no slew to make, a step adds 1 to the Drone modulo 2^64, keeps the value it had beside it, and changes nothing
else. That an empty queue lets one tick pass is the model's choice (log entry 1). (13_axis_links_and_drone.md
Table AXL-8, R374.) -/
def Obligations.IdleStepIsOneDroneTick : Prop :=
  ∀ s : State, s.pending = [] → s.boot.held = false → s.time.loaded = false →
    step s = .next { s with time := { s.time with drone := (s.time.drone + 1) % 2 ^ 64, prev := s.time.drone } }

/-- No command changes the queue of waiting commands. Whatever command runs on whatever state, the commands that
wait behind it are the same afterwards. (95_what_each_step_holds.md.) -/
def Obligations.CommandsLeaveTheQueue : Prop :=
  ∀ (c : Instr) (s t : State), exec c s = .next t → t.pending = s.pending

/-- Every command answers a next state. No row of the table ends in a fault or a refusal, on any state and any
operands: errors of the device are state. What is the model's choice or inference here: log entry 31.
(95_what_each_step_holds.md.) -/
def Obligations.EveryCommandAnswers : Prop :=
  ∀ (c : Instr) (s : State), ∃ t, exec c s = .next t

/-- Every step keeps the canonical form of memory. If memory and the flash copy of the tiered range list strictly
rising addresses and no byte equal to what an unlisted address reads as, then so they do after any step,
whatever command it runs. What is the model's choice or inference here: log entry 5. (01_package.md,
08_memory_model.md, 09_memory_tiers.md.) -/
def Obligations.StepKeepsMemoryForm : Prop :=
  ∀ s t : State, s.memWf = true → step s = .next t → t.memWf = true

/-- The state after reset has memory in canonical form and an empty queue. The invariant of memory holds at reset,
no command waits, and every quad, queue and window stands at its reset value. What is the model's choice or
inference here: log entries 3 and 5. (18_boot_and_reset.md.) -/
def Obligations.ResetMemoryForm : Prop :=
  State.reset.memWf = true ∧ State.reset.pending = [] ∧
  (∀ q, State.reset.quad q = Quad.reset) ∧ (∀ q j, State.reset.queue q j = Queue.reset) ∧
  (∀ q w, State.reset.window q w = Window.reset)

/-- Only the key commands change the fused key slots and the minimum security version. Every command other than
KEY_FUSE, KEY_REVOKE and KEY_SVN_RAISE, a reset of any kind and boot among them, leaves the four fused key slots
and the fused minimum security version as they were. (17_configuration_and_security.md R455,
17_configuration_and_security.md R456.) -/
def Obligations.FusedKeysAndFloorStand : Prop :=
  ∀ (c : Instr) (s t : State), exec c s = .next t →
    (∀ p n d g x, c ≠ .keyFuse p n d g x) → (∀ p n g x, c ≠ .keyRevoke p n g x) → (∀ p n g x, c ≠ .keySvnRaise p n g x) →
    t.cfg.keys = s.cfg.keys ∧ t.cfg.minSvn = s.cfg.minSvn

/-- An accepted doorbell becomes TAIL, any other sets db_error. At a quad whose block takes accesses, a doorbell
write of v by a port that may ring it sets TAIL to v when (v - HEAD) mod 2^32 is at most the ring size and (v -
TAIL) mod 2^32 is below 2^31; otherwise it sets db_error and the queue is otherwise as it was. Nothing else in
the package changes. Of two waiting writes to one queue, each is tested against the rule in turn, the second on
what the first left. (R214.) -/
def Obligations.DoorbellMovesTail : Prop :=
  ∀ (p : Port) (q j : Nat) (v : Word) (s : State), s.mayRing p q j = true → s.quadOpen q = true →
    let rung := fun (x : Queue) (v : Word) =>
      if (v - x.head).toNat ≤ 2 ^ x.log2Size ∧ (v - x.tail).toNat < 2 ^ 31 then { x with tail := v } else { x with dbError := true }
    (∃ t, exec (.doorbell p q j v) s = .next t ∧ s.onlyQueue q j t ∧ t.queue q j = rung (s.queue q j) v) ∧
    (∀ (r : Port) (w : Word) (rest : List Instr), s.mayRing r q j = true →
      s.pending = .doorbell p q j v :: .doorbell r q j w :: rest →
      ∃ t u, step s = .next t ∧ step t = .next u ∧ u.pending = rest ∧ u.queue q j = rung (rung (s.queue q j) v) w)

/-- Writes of a queue's control, HEAD, abort and resume. By a port that may write, at a quad whose block takes
accesses: setting enable in a DISABLED queue makes it RUNNING with the context and ring size written (a reserved
size keeps the old one); clearing enable in a STOPPED queue disables it and keeps the context; HEAD is taken
while DISABLED or STOPPED and sets TAIL and DONE too (that it drops what was fetched is log entry 17), and
otherwise changes no queue; an abort of a RUNNING queue with nothing decoded leaves it STOPPED; a resume makes a
STOPPED queue RUNNING and clears error and LAST_ERR. Each changes that queue alone. What is the model's choice
or inference here: log entries 35 and 36. (07_commands_and_queues.md R212, 07_commands_and_queues.md R220,
07_commands_and_queues.md Table CMD-13, 07_commands_and_queues.md Table CMD-17.) -/
def Obligations.QueueControlWrites : Prop :=
  ∀ (p : Port) (q j : Nat) (v : Word) (s : State), s.mayWrite p = true → s.quadOpen q = true →
    ((s.queue q j).state = .disabled → v.getLsbD 31 = true →
      ∃ t, exec (.queueCtrlWrite p q j v) s = .next t ∧ s.onlyQueue q j t ∧
        t.queue q j = { s.queue q j with
          enable := true, stopOnError := v.getLsbD 30, context := v.toNat / 2 ^ 16 % 2 ^ 12, state := .running,
          log2Size := if 4 ≤ v.toNat % 32 ∧ v.toNat % 32 ≤ 16 then v.toNat % 32 else (s.queue q j).log2Size }) ∧
    ((s.queue q j).state = .stopped → v.getLsbD 31 = false →
      ∃ t, exec (.queueCtrlWrite p q j v) s = .next t ∧ s.onlyQueue q j t ∧
        t.queue q j = { s.queue q j with enable := false, stopOnError := v.getLsbD 30, state := .disabled }) ∧
    (∃ t, exec (.queueHeadWrite p q j v) s = .next t ∧ s.onlyQueue q j t ∧
      t.queue q j = if (s.queue q j).state = .disabled ∨ (s.queue q j).state = .stopped
        then { s.queue q j with head := v, tail := v, done := v, ended := [], fetched := [] } else s.queue q j) ∧
    ((s.queue q j).state = .running → (s.queue q j).slot = none → (s.queue q j).cmds = [] →
      (s.queue q j).thenDisabled = false → (s.queue q j).thenError = false →
      ∃ t, exec (.queueAbort p q j) s = .next t ∧ s.onlyQueue q j t ∧
        t.queue q j = { s.queue q j with state := .stopped }) ∧
    ((s.queue q j).state = .stopped →
      ∃ t, exec (.queueResume p q j) s = .next t ∧ s.onlyQueue q j t ∧
        t.queue q j = { s.queue q j with state := .running, error := false, lastErr := 0 })

/-- A fetch takes the descriptor at HEAD. When the rotating order comes to queue j of a running quad, and the ring
slot of HEAD (128 bytes at base + 128 x (HEAD mod size) in the queue's context) translates to an extent that can
be read, the fetch takes those 128 bytes as the descriptor of index HEAD, HEAD rises by one, and the rotation
moves past the queue. What is the model's choice or inference here: log entries 53, 168 and 175.
(07_commands_and_queues.md R213, 07_commands_and_queues.md R215.) -/
def Obligations.FetchTakesTheNextDescriptor : Prop :=
  ∀ (q j : Nat) (e : Extent) (s : State), s.quadRuns q = true → (s.quad q).fetchFrom = some j →
    s.checkDirect (s.queue q j).context needRead
      ((s.queue q j).base.toNat + 128 * ((s.queue q j).head.toNat % 2 ^ (s.queue q j).log2Size)) 128 = .ok e →
    e.len = 128 → s.canRead q e →
    exec (.descriptorFetch q) s = .next ((s.didRead e.pa 128).modQuad q (fun x =>
      { x.modQueue j (fun y => { y with
          head := y.head + 1, fetched := y.fetched ++ [⟨y.head, s.readPhys e.coherent e.pa 128, x.stamp⟩] }) with
        stamp := x.stamp + 1, rotFetch := (j + 1) % 16 }))

/-- Decode rejects a bad descriptor and makes a good one ready. In a running queue with a free wait slot, decode of
the oldest fetched descriptor: a descriptor that steps 1 to 4 reject ends with their status; one that names a
bad destination entry ends SEG_PERM; one that passes every check, waits on no condition and on no order joins
the decoded commands, ready, with its translated extents, its Reed program and its destination entry. What is
the model's choice or inference here: log entries 40, 50, 176, 177, 178, 179 and 180. (07_commands_and_queues.md
R198, 07_commands_and_queues.md R216, 10_segments.md R291.) -/
def Obligations.DecodeChecksAndAdmits : Prop :=
  ∀ (q j : Nat) (f : Fetched) (l : List Fetched) (s : State),
    s.quadRuns q = true → (s.queue q j).state = .running → (s.queue q j).slot = none → (s.quad q).readyCount < 4 →
    (s.queue q j).fetched = f :: l →
    (staticCheck f.desc ≠ stOk →
      exec (.commandDecode q j) s = .next ((s.modQueue q j (fun x => { x with fetched := l })).endCmd q j
        (s.freshCmd f) (staticCheck f.desc) 0)) ∧
    (staticCheck f.desc = stOk → s.checkDest q j f.desc = none →
      exec (.commandDecode q j) s = .next ((s.modQueue q j (fun x => { x with fetched := l })).endCmd q j
        (s.freshCmd f) stSegPerm 0)) ∧
    (∀ (e : DestEntry) (exts : Table Extent) (prog : List Byte) (u : State),
      staticCheck f.desc = stOk → s.checkDest q j f.desc = some e →
      s.checkMemory q j (s.freshCmd f) = (.granted exts prog, u) → condsOf f.desc = [] →
      (u.modQueue q j (fun x => { x with fetched := l })).orderMet q j
        { s.freshCmd f with dest := e, exts := exts, prog := prog } = true →
      exec (.commandDecode q j) s = .next ((u.modQueue q j (fun x => { x with fetched := l })).modQueue q j
        (fun x => { x with cmds := x.cmds ++ [{ s.freshCmd f with dest := e, exts := exts, prog := prog }] })))

/-- A ready command starts when its whole set of stations is free. When one command of a running quad is ready and
no translation of it was withdrawn, the arbiter starts it if its set of stations fits beside those held and
beside any reservation of another command and no configuration transaction holds its claim: it becomes running
and holds the whole set, and its stash target is read now. A command whose set does not fit takes nothing and no
queue changes. What is the model's choice or inference here: log entry 53. (02_stations_and_routes.md R60,
02_stations_and_routes.md R61.) -/
def Obligations.StartClaimsTheWholeSet : Prop :=
  ∀ (q j : Nat) (c : Cmd) (s : State), s.quadRuns q = true → (s.quad q).readyList = [(j, c.idx)] →
    (s.queue q j).find c.idx = some c → c.phase = .ready → c.redecode = false →
    ((claimsOf c.desc = [] ∨ fits ((s.quad q).claims ++ (s.quad q).kept j c.idx) (claimsOf c.desc) = true ∧
        s.claimHeld q (claimsOf c.desc) = false) →
      ∃ t, exec (.commandStart q) s = .next t ∧ s.onlyQuad q t ∧
        t.queue q j = (s.queue q j).setCmd { c with
          phase := .running, held := claimsOf c.desc, stash := (s.queue q j).stash, redecode := false }) ∧
    (claimsOf c.desc ≠ [] → fits ((s.quad q).claims ++ (s.quad q).kept j c.idx) (claimsOf c.desc) = false →
      exec (.commandStart q) s = .next s)

/-- A station that has emptied leaves its command's set; a command with nothing held completes. A station of a
running command whose work is done, PORT once its last packet is sent, leaves the set the command holds, of
several lanes one, and nothing else changes. A running command that has done its work, holds no station, has
nothing to send and awaits no response completes with its status (SEG_FAULT with detail 0 where its translation
was withdrawn while it ran): at the end of a command that wants no record, signal or interrupt, on a queue with
nothing else decoded and DONE at its index, the command has left the queue and DONE has passed it. What is the
model's choice or inference here: log entry 31. (02_stations_and_routes.md R63, 07_commands_and_queues.md R213,
07_commands_and_queues.md R217, 07_commands_and_queues.md R218.) -/
def Obligations.StationsReleaseAndCommandsComplete : Prop :=
  ∀ (q j : Nat) (c : Cmd) (s : State), s.quadRuns q = true → (s.queue q j).find c.idx = some c →
    c.phase = .running → c.ran = true →
    (∀ stn n pre post, stn ≠ stPort ∨ c.unsent = [] → c.held = pre ++ (stn, n) :: post → (∀ p ∈ pre, p.1 ≠ stn) →
      ∃ t, exec (.stationRelease q j c.idx stn) s = .next t ∧ s.onlyQueue q j t ∧
        t.queue q j = (s.queue q j).setCmd { c with held := pre ++ (if n ≤ 1 then post else (stn, n - 1) :: post) }) ∧
    (c.held = [] → c.unsent = [] → (s.quad q).awaits j c.idx = false →
      exec (.commandComplete q j c.idx) s =
        .next (s.endCmd q j c (if c.withdrawn then stSegFault else c.status) (if c.withdrawn then 0 else c.detail))) ∧
    (c.held = [] → c.unsent = [] → (s.quad q).awaits j c.idx = false → c.withdrawn = false → c.status = stOk →
      dCpl c.desc = false → dIrq c.desc = false → signalsOf q c.desc = [] →
      (s.queue q j).cmds = [c] → (s.queue q j).slot = none → (s.queue q j).done = c.idx → (s.queue q j).ended = [] →
      (s.queue q j).state = .running → (∀ i, (s.queue q i).slot = none) →
      ∃ t, exec (.commandComplete q j c.idx) s = .next t ∧ s.onlyQuad q t ∧ (t.queue q j).cmds = [] ∧
        (t.queue q j).done = c.idx + 1 ∧ (t.queue q j).state = .running ∧ ∀ i, i ≠ j → t.queue q i = s.queue q i)

/-- MOVE writes its source's bytes to its destination, SEND packs them, INLINE_SEND packs its descriptor's payload.
For a started command whose source has no records and which passes no CROOK lane. MOVE, with both extents ready
and no poison: the destination is written with the source's bytes, the command's work is done with status OK and
one tile for each 4,096 source bytes or part. SEND: the command has one DATA packet for each such tile to send,
tile i at the body's offset plus 4,096 i of the destination entry's window. INLINE_SEND: one INLINE packet with
the descriptor's payload at the header's offset. What a quad sends at once is the sending operation's part. What
is the model's choice or inference here: log entries 38, 55 and 56. (07_commands_and_queues.md R207,
07_commands_and_queues.md R208, 02_stations_and_routes.md R53, 13_axis_links_and_drone.md R366.) -/
def Obligations.MovesCarryTheirBytes : Prop :=
  ∀ (q j : Nat) (idx : Word) (c : Cmd) (a : Extent) (s : State),
    let data := s.readPhys a.coherent a.pa a.len
    let n := (data.length + 4095) / 4096
    let u := s.didRead a.pa a.len
    (∀ b, s.underway q j idx opMove c → onRoute c.desc stCrook = false → c.ext 0 = some a → c.ext 8 = none →
      c.ext 0x10 = some b → c.ext 0x18 = none → b.len = data.length → s.canRead q a → s.canWrite q b →
      s.hintReady (stashOf c.stash) b.coherent b.pa b.len = true →
      u.writePoison b.coherent b.pa b.len = false →
      exec (.move q j idx) s = .next (((u.writeHinted (q / 16) (stashOf c.stash) b.coherent b.pa data).doneCmd q j c
        ⟨n, [], [(stIntake, n), (stBell, n)]⟩).pump q)) ∧
    (s.underway q j idx opSend c → onRoute c.desc stCrook = false → c.ext 0 = some a → c.ext 8 = none →
      present c.desc 8 = false → s.canRead q a →
      ∃ ps, exec (.send q j idx) s = .next ((u.doneCmd q j c ⟨0, ps, [(stIntake, n)]⟩).pump q) ∧ ps.length = n ∧
        ∀ i, i < n → ps[i]? = some (tilePacket u q c.dest (body c.desc 0x30 6 + 4096 * i) ((data.drop (4096 * i)).take 4096) [])) ∧
    (s.underway q j idx opInline c →
      exec (.inlineSend q j idx) s = .next ((s.doneCmd q j c ⟨0, [{ tilePacket s q c.dest (dXarg2 c.desc)
        ((c.desc.drop 32).take (dXarg c.desc / 2 ^ 8 % 2 ^ 7)) [] with kind := .inline }], []⟩).pump q))

/-- GEMM, GEMM_T and GEMV write the rounded product of their operands. For a started command whose route has no Reed
and ends in BELL, whose result has no record extent, with every extent ready and operands that pass their
checks. GEMM and GEMM_T: the destination takes the packed tiles of the m x n matrix whose element (i, j) is the
ordered sum of the operand class over row i of the stationary operand and column j of the stream, through ReLU
where asked, times 2 to the scale exponent (0 in GEMM), each rounded as the command says; GEMM_T also counts its
results in the gradient registers. GEMV: the destination takes the b vectors of the products of the b input
vectors with the weight matrix. The command's work is done with status OK and one tile for each result tile.
What is the model's choice or inference here: log entries 19, 38, 43 and 45. (07_commands_and_queues.md R200,
07_commands_and_queues.md R203, 05_backward_pass.md R135, 05_backward_pass.md R144, 06_reed_chanter_gather.md
R175, 04_matrix_array.md R123.) -/
def Obligations.ProductsWriteTheirTiles : Prop :=
  ∀ (q j : Nat) (idx : Word) (c : Cmd) (e : Extent) (s : State),
    let r : RunIn := ⟨q, j, c, none⟩
    let d := c.desc
    let (m, k, n) := gDims d
    let out := fun (f : Nat) (b : Int) (p : List (List (Fp × Bool))) (u : State) =>
      r.packMatrix f m n (p.map (List.map (fun x => x.1.scale b))) (p.map (List.map Prod.snd)) u
    toBell d = true → reedOf d = none → c.ext 0x20 = some e → c.ext 0x28 = none → r.allReady gemmReads gemmWrites s →
    (∀ (x : Factors) (u : State), s.underway q j idx opGemm c →
      r.factors (body d 0x36 1) (body d 0x37 1) m k n (bit (body d 0x39 1) 0) s = .ok x u →
      let p := relued (dRelu d) (productOf ((clsOf (body d 0x36 1)).getD .fp8) x.a x.cols)
      let v := r.countProduct x u
      let ts := out (body d 0x38 1) 0 p v
      v.canLand e ts → ∃ counts, exec (.gemm q j idx) s = .next (r.landed e ts counts v)) ∧
    (∀ (x : Factors) (u : State), s.underway q j idx opGemmT c →
      r.factors (body d 0x36 1) (body d 0x37 1) m k n (decide (gMode d = 1)) s = .ok x u →
      let p := relued (dRelu d) (productOf ((clsOf (body d 0x36 1)).getD .fp8) x.a x.cols)
      let v := r.countProduct x u
      let ts := out (body d 0x38 1) (scaleExp d 0x3A) p v
      (v.countGrads q (ts.map Prod.fst)).canLand e ts →
      ∃ counts, exec (.gemmT q j idx) s = .next (r.landed e ts counts (v.countGrads q (ts.map Prod.fst)))) ∧
    (∀ (x w : List (List Fp)) (u v : State), s.underway q j idx opGemv c →
      let k := dim64 d 0x30 2
      let n := dim64 d 0x32 2
      let b := body d 0x34 1
      r.vectors (body d 0x35 1) b k 0 8 s = .ok x u → r.matrix (body d 0x36 1) k n 0x10 0x18 u = .ok w v →
      let p := relued (dRelu d) (productOf ((clsOf (body d 0x35 1)).getD .fp8) (x.map (List.map (stationary (body d 0x35 1)))) (transpose n w))
      let v := v.countChanter q (b * k * n)
      let ts := r.packVectors (body d 0x37 1) (p.map (List.map (fun x => x.1.scale 0))) (p.map (List.map Prod.snd)) v
      v.canLand e ts → ∃ counts, exec (.gemv q j idx) s = .next (r.landed e ts counts v))

/-- VECOP, NORM_BACK and SOFTMAX_BACK write the tiles of their kernels. For a started command whose route ends in
BELL, whose result has no record extent, with every extent ready and operands that pass their checks. VECOP
without a reduction: the destination takes the tiles of its function over the m x n input, each element taken in
FP32; its lane-cycles are counted; functions other than one-pass leave the workspace undefined. SOFTMAX_BACK:
row by row the softmax gradient of the array's product and the second operand, times 2 to the scale exponent.
NORM_BACK that recomputes its statistics: row by row the norm gradient; its two parameter tiles, the column sums
of the gradients of gain and offset, follow at their own extent. Both count in the gradient registers and leave
the workspace undefined. What is the model's choice or inference here: log entries 38, 45, 48, 51 and 174.
(06_reed_chanter_gather.md R161, 06_reed_chanter_gather.md R168, 06_reed_chanter_gather.md R172,
05_backward_pass.md R147, 05_backward_pass.md R153, 05_backward_pass.md R154, 05_backward_pass.md R144.) -/
def Obligations.KernelsWriteTheirTiles : Prop :=
  ∀ (q j : Nat) (idx : Word) (c : Cmd) (e : Extent) (s : State),
    let r : RunIn := ⟨q, j, c, none⟩
    let d := r.d
    let (m, _, n) := fDims d
    let packed := fun (dx : List (List Fp)) (ovf : List (List Bool)) (u : State) =>
      r.packMatrix (body d 0x56 1) m n (dx.map (List.map (fun v => v.scale (scaleExp d 0x5E)))) ovf u
    toBell d = true →
    (∀ (x : List (List Fp)) (o : VecOut) (u w : State), s.underway q j idx opVecop c →
      let v := vctlOf d
      let (m, n) := vDims d
      v.reduce = 0 → c.ext 0x18 = some e → c.ext 0x20 = none →
      r.allReady [0, 8, 0x10] [0x18, 0x20, 0x28, 0x30] s → r.matrix (body d 0x3B 1) m n 0 8 s = .ok x u →
      r.vecKernel v m n (toFp32 x) u = .ok o w →
      let ts := outTiles (body d 0x3C 1) (r.rounding w) q (fun _ => 0)
        (fun i => if v.stash then stashStats (body d 0x3C 1) n (v.fn - 1) o.stats i else Stats.none)
        (tilesOfMatrix (body d 0x3C 1) m n o.o.out)
      let t := w.countReed q ((if v.fn < 2 then progCost (vSteps d) else kernelCost v.fn) * m * n)
      let t := if v.fn = 0 then t else r.scrambleAt 0x30 t
      t.canLand e ts → ∃ counts, exec (.vecop q j idx) s = .next (r.landed e ts counts t)) ∧
    (∀ (y : FusedIn) (g : List Fp) (x : List (List Fp)) (u v : State), s.underway q j idx opSoftmaxBack c →
      c.ext 0x20 = some e → c.ext 0x28 = none → c.ext 0x38 = none → r.allReady fusedReads fusedWrites s →
      r.fusedProduct s = .ok y u → r.fusedOperand false m n u = .ok (g, x) v →
      let ts := packed (List.zipWith softmaxBackRow y.dy x) y.ovf v
      let t := r.scrambleAt 0x48 ((v.countGrads q (ts.map Prod.fst)).countReed q (2 * m * n))
      t.canLand e ts → ∃ counts, exec (.softmaxBack q j idx) s = .next (r.landed e ts counts t)) ∧
    (∀ (y : FusedIn) (g : List Fp) (x : List (List Fp)) (pe : Extent) (u v : State), s.underway q j idx opNormBack c →
      c.ext 0x20 = some e → c.ext 0x28 = none → c.ext 0x38 = some pe → nRecompute d = true →
      r.allReady fusedReads fusedWrites s →
      r.fusedProduct s = .ok y u → r.fusedOperand true m n u = .ok (g, x) v →
      let rows := (List.zip (List.replicate m none) (List.zip y.dy x)).map (fun (t : Option RowStat × List Fp × List Fp) =>
        normBackRow (decide (nKind d = 2)) t.1 (fp32.decode (body d 0x58 4)) g t.2.1 t.2.2)
      let ps := paramTiles (scaleExp d 0x5F) (colSum n (rows.map (fun t => t.2.1))) (colSum n (rows.map (fun t => t.2.2)))
      let ts := packed (rows.map Prod.fst) y.ovf v
      let t := r.scrambleAt 0x48 ((v.countGrads q (ts.map Prod.fst ++ ps)).countReed q (8 * m * n))
      let w := t.writeHinted (q / 16) (stashOf c.stash) e.coherent e.pa ((tileBytesOf ts).take e.len)
      let pb := (ps.flatMap OutTile.data).take pe.len
      t.canLand e ts → w.writePoison pe.coherent pe.pa pb.length = false →
      ∃ counts, exec (.normBack q j idx) s = .next (((w.writeHinted (q / 16) (stashOf c.stash) pe.coherent pe.pa pb).doneCmd q j c
        ⟨ts.length + 2, [], counts⟩).pump q))

/-- GATHER_POOL pools the rows of its list, SCATTER_ADD adds gradients to them, and a bad index ends both. For a
started command without a Reed whose extents and table rows are ready. GATHER_POOL whose walk of the index list
names only rows of the table: QD_GTH_ROWS counts the rows and the destination takes the tiles of the matrix of
pools, each the sum, mean or maximum of its rows in list order. SCATTER_ADD: the rows are counted, each row of
each pool takes the pool's gradient (over the pool's count in mean mode), and the command's work is done. A
GATHER_POOL whose list names a row outside the table breaks off SEG_LIMIT with the position of that index in
QD_GTH_BAD_INDEX and in its detail. What is the model's choice or inference here: log entries 38, 39 and 46.
(06_reed_chanter_gather.md R180, 06_reed_chanter_gather.md R182, 06_reed_chanter_gather.md R183,
06_reed_chanter_gather.md R185, 07_commands_and_queues.md R206, 06_reed_chanter_gather.md Table VEC-7.) -/
def Obligations.GatherAndScatterWalkTheList : Prop :=
  ∀ (q j : Nat) (idx : Word) (c : Cmd) (te e : Extent) (s u v : State) (pools : List PoolRows),
    let r : RunIn := ⟨q, j, c, none⟩
    let d := r.d
    let g := gatherOf d
    let rows := pools.flatMap PoolRows.rows
    reedOf d = none → c.ext 0 = some te →
    (∀ ps : List (List (List Fp)), s.underway q j idx opGather c → toBell d = true → c.ext 0x18 = some e → c.ext 0x20 = none →
      r.allReady [8, 0x10] [0x18, 0x20] s → r.walk g s = .ok (pools, none) u →
      (∀ i ∈ rows, r.askRead (rowExt te g.rowBytes i) u = .ok () u) →
      runAll (fun (p : PoolRows) t => runAll (fun i t => r.readRow g (rowExt te g.rowBytes i) t) p.rows t) pools
        (u.countRows q rows.length) = .ok ps v →
      let ts := outTiles g.fIo (r.rounding v) q (fun _ => 0) (fun _ => Stats.none)
        (tilesOfMatrix g.fIo g.ioRows g.ioCols (poolMatrix g (ps.map (poolOf g.width g.mode))))
      v.canLand e ts → ∃ counts, exec (.gatherPool q j idx) s = .next (r.landed e ts counts v)) ∧
    (∀ pos : Nat, s.underway q j idx opGather c → r.allReady [8, 0x10] [0x18, 0x20] s →
      r.walk g s = .ok (pools, some (stSegLimit, pos)) u →
      (∀ i ∈ rows, r.askRead (rowExt te g.rowBytes i) u = .ok () u) →
      exec (.gatherPool q j idx) s = .next (((u.countRows q rows.length).modQuad q (fun x =>
        { x with badIndex := BitVec.ofNat 32 pos })).breakRun q j c RunIn.runGather stSegLimit (BitVec.ofNat 64 pos))) ∧
    (∀ (m : List (List Fp)) (t w : State) (us : List (List Unit)), s.underway q j idx opScatter c →
      r.allReady [8, 0x10, 0x18, 0x20] [] s →
      r.walk g s = .ok (pools, none) u → (∀ i ∈ rows, r.askWrite (rowExt te g.rowBytes i) u = .ok () u) →
      r.matrix g.fIo g.ioRows g.ioCols 0x18 0x20 u = .ok m t →
      runAll (fun (p : PoolRows × List Fp) t =>
        runAll (fun i t => applyRow g (rowExt te g.rowBytes i) (increments g.mode p.1.count p.2) t) p.1.rows t)
        (List.zip pools (poolGrads g (m.map (List.map Fp.r32)))) (t.countRows q rows.length) = .ok us w →
      ∃ counts, exec (.scatterAdd q j idx) s =
        .next ((w.doneCmd q j c ⟨matTiles g.fIo g.ioRows g.ioCols, [], counts⟩).pump q))

/-- SECTOR_ADD adds to the masked elements of one sector. In a running package, at a sector that adds may reach and
that can be written now: without poison the sector takes, element by element under the mask, the exact sum of
its value and the increment rounded once in the table's format, and keeps the other elements; a poisoned sector
takes nothing; an error that three recomputations leave poisons the sector and applies nothing, and a running
SCATTER_ADD that made the add, its other work done, ends REPLAY_EXHAUSTED. A sector that must be brought in
first is asked for. No add reaches the tiered range while the tier is read-only. What is the model's choice or
inference here: log entry 60. (06_reed_chanter_gather.md R186, 15_resilience.md R404, 12_coherence.md R350,
09_memory_tiers.md R272.) -/
def Obligations.SectorAddIsOneReadModifyWrite : Prop :=
  ∀ (q j : Nat) (idx : Word) (pa fmt : Nat) (mask : Dword) (incs : List Word) (err : Bool) (s : State),
    let sec := pa / 64 * 64
    (s.running = true → s.addable sec = true →
      (s.writeReady true sec 64 = true → s.readPoison true sec 64 = false →
        exec (.sectorAdd ⟨q, j, idx, pa⟩ fmt mask incs false) s =
          .next (s.writePhys true sec (addSector fmt mask (s.readPhys true sec 64) incs))) ∧
      (s.writeReady true sec 64 = true → s.readPoison true sec 64 = true →
        exec (.sectorAdd ⟨q, j, idx, pa⟩ fmt mask incs false) s = .next s) ∧
      (s.writeReady true sec 64 = true → (s.queue q j).find idx = none →
        ∃ t, exec (.sectorAdd ⟨q, j, idx, pa⟩ fmt mask incs true) s = .next t ∧ t.sectorPoison (pa / 64) = true ∧
          (∀ x, x ≠ pa / 64 → t.sectorPoison x = s.sectorPoison x) ∧ t = { s with poison := t.poison }) ∧
      (∀ c, s.writeReady true sec 64 = true → (s.queue q j).find idx = some c → c.phase = .running →
        opcodeOf c.desc = opScatter → c.ran = true →
        ∃ t, exec (.sectorAdd ⟨q, j, idx, pa⟩ fmt mask incs true) s = .next t ∧ t.sectorPoison (pa / 64) = true ∧
          (∀ a, t.byte a = s.byte a) ∧
          t.queue q j = (s.queue q j).setCmd { c with status := stReplayExhausted, detail := 0, unsent := [] }) ∧
      (s.writeReady true sec 64 = false → exec (.sectorAdd ⟨q, j, idx, pa⟩ fmt mask incs err) s = .next (s.requestWrite sec 64))) ∧
    (s.backed sec 64 = some .tiered → s.tierReadOnly = true → exec (.sectorAdd ⟨q, j, idx, pa⟩ fmt mask incs err) s = .next s)

/-- SIGNAL, WAIT and FENCE end at once when they have started. A started SIGNAL, WAIT or FENCE ends OK, or OK_LATE
where its condition was met in its deciding cycle. A SIGNAL of one entry alone, without the record and interrupt
flags, with no bridge on its way in retrain and the object's die out of reset, performs its operation on the
named object by its quad, and no other object changes. What is the model's choice or inference here: log entries
32 and 186. (07_commands_and_queues.md R193, 07_commands_and_queues.md R210, 08_memory_model.md R238.) -/
def Obligations.PlainCommandsComplete : Prop :=
  ∀ (q j : Nat) (idx : Word) (c : Cmd) (s : State),
    (s.underway q j idx opSignal c → exec (.signal q j idx) s = .next (s.endCmd q j c (if c.late then stOkLate else stOk) 0)) ∧
    (s.underway q j idx opWait c → exec (.wait q j idx) s = .next (s.endCmd q j c (if c.late then stOkLate else stOk) 0)) ∧
    (s.underway q j idx opFence c → exec (.fence q j idx) s = .next (s.endCmd q j c (if c.late then stOkLate else stOk) 0)) ∧
    (∀ (obj : Nat) (o : SyncOp), s.underway q j idx opSignal c → c.late = false → dCpl c.desc = false → dIrq c.desc = false →
      signalsOf q c.desc = [(obj, o)] → s.boot.diesInReset.contains (objDie obj) = false → s.pathUp (syncFrom o.agent) (objDie obj) 0 = true →
      ∃ t, exec (.signal q j idx) s = .next t ∧ t.syncVal obj = applySync o (s.syncVal obj) ∧
        (∀ x, x ≠ obj → t.syncVal x = s.syncVal x) ∧ ∀ a, t.byte a = s.byte a)

/-- Operations that reach a sync object are applied one after another. In a running package, with the object's die
out of reset: the operations that reach an object in one cycle leave the value that they leave when applied in
the order given, each to the result of the one before; no other object, and no byte of memory, changes. What is
the model's choice or inference here: log entries 65 and 66. (08_memory_model.md R235, 08_memory_model.md R236,
08_memory_model.md Table MEM-3.) -/
def Obligations.SyncObjectsTakeOperations : Prop :=
  ∀ (d x : Nat) (ops : List SyncOp) (s : State), s.running = true → d < 4 → x < 4096 →
    s.boot.diesInReset.contains d = false →
    ∃ t, exec (.syncObjectOp d x ops) s = .next t ∧
      t.syncVal (d * 4096 + x) = ops.foldl (fun v o => if o.isSet then o.value else v + o.value) (s.syncVal (d * 4096 + x)) ∧
      (∀ y, y ≠ d * 4096 + x → t.syncVal y = s.syncVal y) ∧ ∀ a, t.byte a = s.byte a

/-- DIE_SYNC ADD and SET registers act on their object. In a running package, with the object's die out of reset: a
write of DIE_SYNCi_ADD or DIE_SYNCi_SET by a host core or a management port that may write, or by a PCIe port
with a grant of the object, adds or sets the value, a 32-bit write of the low word with its upper half 0. A
write of the high word alone changes nothing. A PCIe port without a grant changes no object and its denied count
rises. What is the model's choice or inference here: log entries 65 and 66. (08_memory_model.md R229,
08_memory_model.md R239, 08_memory_model.md R235, 14_network_and_pcie.md R394.) -/
def Obligations.RegisterWritesReachSyncObjects : Prop :=
  ∀ (p : Port) (d x : Nat) (v : Dword) (s : State), s.running = true → d < 4 → x < 4096 →
    s.boot.diesInReset.contains d = false →
    let obj := d * 4096 + x
    let may := match p with | .pcie n => s.syncGranted n obj | _ => s.mayWrite p
    (may = true →
      (∃ t, exec (.dieSyncAdd p d x .dword v) s = .next t ∧ t.syncVal obj = s.syncVal obj + v ∧ ∀ y, y ≠ obj → t.syncVal y = s.syncVal y) ∧
      (∃ t, exec (.dieSyncSet p d x .dword v) s = .next t ∧ t.syncVal obj = v ∧ ∀ y, y ≠ obj → t.syncVal y = s.syncVal y) ∧
      (∃ t, exec (.dieSyncAdd p d x .low v) s = .next t ∧ t.syncVal obj = s.syncVal obj + BitVec.ofNat 64 (v.toNat % 2 ^ 32) ∧
        ∀ y, y ≠ obj → t.syncVal y = s.syncVal y) ∧
      (∃ t, exec (.dieSyncSet p d x .low v) s = .next t ∧ t.syncVal obj = BitVec.ofNat 64 (v.toNat % 2 ^ 32) ∧
        ∀ y, y ≠ obj → t.syncVal y = s.syncVal y) ∧
      exec (.dieSyncAdd p d x .high v) s = .next s ∧ exec (.dieSyncSet p d x .high v) s = .next s) ∧
    (may = false → ∀ h, ∃ t u, exec (.dieSyncAdd p d x h v) s = .next t ∧ exec (.dieSyncSet p d x h v) s = .next u ∧
      (∀ y, t.syncVal y = s.syncVal y) ∧ (∀ y, u.syncVal y = s.syncVal y) ∧
      (∀ n, p = .pcie n → (t.pciePort n).denied = min 0xFFFFFFFF ((s.pciePort n).denied + 1)))

/-- A wake makes its waiter ready, a timeout ends it, and a sweep wakes every waiter whose condition holds. In a
running quad, for a command that waits in its slot on one condition: a wake of its object that no bridge holds
and that arrives before the deadline's deciding cycle has passed takes it from the slot to the decoded commands,
ready, where no order holds it; it is marked late when the wake comes in the deciding cycle. A wake without a
waiter is counted. A waiter whose deciding cycle has come and to which no wake is on its way ends WAIT_TIMEOUT
with the object's value in detail, its registration withdrawn. The sweep of a home that works leaves registered
exactly the waiters whose conditions do not hold, sends each other one a wake, and counts them. What is the
model's choice or inference here: log entries 33 and 189. (08_memory_model.md R233, 08_memory_model.md R237,
08_memory_model.md R238.) -/
def Obligations.WaitsEndByWakeOrTimeout : Prop :=
  ∀ (q j : Nat) (c : Cmd) (k : Cond) (s : State), s.quadRuns q = true →
    (∀ w, (s.quad q).wakes = [w] → w.j = j → w.idx = c.idx → w.obj = k.obj → (s.queue q j).slot = some c →
      c.phase = .waitCond → c.conds = [k] → (∀ x, c.deadline = some x → s.drone ≤ x ∨ s.time.prev < x) →
      s.pathUp (objDie k.obj) (q / 16) 0 = true →
      (let s' := (s.modQuad q (fun x => { x with wakes := [] })).modQueue q j (fun x => { x with slot := none })
       s'.orderMet q j { c with conds := [], late := c.late || c.deadline.any (fun x => decide (x ≤ s.drone)) } = true) →
      ∃ t, exec (.wakeArrive q j c.idx) s = .next t ∧ s.onlyQuad q t ∧ (t.queue q j).slot = none ∧
        (t.queue q j).cmds = (s.queue q j).cmds ++
          [{ c with conds := [], late := c.late || c.deadline.any (fun x => decide (x ≤ s.drone)), phase := .ready }]) ∧
    (∀ w, (s.quad q).wakes = [w] → w.j = j → w.idx = c.idx → (s.queue q j).slot = none → s.pathUp (objDie w.obj) (q / 16) 0 = true →
      exec (.wakeArrive q j c.idx) s = .next ((s.modQuad q (fun x => { x with wakes := [] })).modQuad q (fun x =>
        { x with lateWakes := min 0xFFFF (x.lateWakes + 1) }))) ∧
    ((s.queue q j).slot = some c → c.phase = .waitCond → c.conds = [k] → (∃ x, c.deadline = some x ∧ x ≤ s.drone) →
      (∀ w ∈ (s.quad q).wakes, w.j = j → w.idx ≠ c.idx) →
      exec (.waitTimeout q j c.idx) s = .next ((s.unregister q j c.idx k.obj).endCmd q j c stWaitTimeout (s.syncVal k.obj))) ∧
    (∀ d, s.homeUp d = true → ∃ t, exec (.sweepWake d) s = .next t ∧
      t.regsOf d = (s.regsOf d).filter (fun r => !r.cond.met (s.syncVal r.cond.obj)) ∧
      (∀ o, t.syncVal o = s.syncVal o) ∧
      Table.get 0 t.sweepWakes d = min 0xFFFF (Table.get 0 s.sweepWakes d +
        ((s.regsOf d).filter (fun r => r.cond.met (s.syncVal r.cond.obj))).length))

/-- An install takes the staged descriptor or answers the first rule that fails. By a port that may write, at an
idle unit, for a context of the unit. An install into a free slot of a non-empty extent inside the virtual
space, that overlaps no valid segment of its context and lies inside one backed region of the tier it names with
attributes that the tier allows, makes the slot valid with the staged descriptor and a generation one higher;
the unit is busy with result 0. An install into a valid slot changes no slot and ends with result 1. While the
unit runs an operation a go is ignored and its result reads 8; a context of the other unit ends with result 7.
Nothing but the unit changes. What is the model's choice or inference here: log entry 68. (10_segments.md R286,
10_segments.md R287, 10_segments.md R288, 10_segments.md R306, 10_segments.md Table SEG-1.) -/
def Obligations.SegmentInstallFollowsTheRules : Prop :=
  ∀ (p : Port) (u ctx slot : Nat) (s : State), s.mayWrite p = true → u < 2 → ctx < 4096 → slot < 16 →
    let g := (s.stu u).staged
    let old := (s.stu u).seg ctx slot
    ((s.stu u).running = none → ctx / 2048 = u → old.valid = false → g.len2m ≠ 0 → g.vbase + g.len ≤ 2 ^ 48 →
      (∀ i, i < 16 → ((s.stu u).seg ctx i).valid = true →
        ((s.stu u).seg ctx i).vbase + ((s.stu u).seg ctx i).len ≤ g.vbase ∨ g.vbase + g.len ≤ ((s.stu u).seg ctx i).vbase) →
      (s.backed g.pbase g.len).bind tierOf = some g.tier → attrOk g.tier g = true →
      ∃ t, exec (.segInstall p u ctx slot) s = .next t ∧ s.onlyStu u t ∧
        (t.stu u).seg ctx slot = { g with gen := old.gen + 1 } ∧ (t.stu u).running = some (.install 0 (old.gen + 1)) ∧
        ∀ i, i ≠ ctx * 16 + slot → Table.get Seg.reset (t.stu u).segs i = Table.get Seg.reset (s.stu u).segs i) ∧
    ((s.stu u).running = none → ctx / 2048 = u → old.valid = true →
      ∃ t, exec (.segInstall p u ctx slot) s = .next t ∧ s.onlyStu u t ∧ (t.stu u).segs = (s.stu u).segs ∧
        (t.stu u).running = some (.install 1 old.gen)) ∧
    ((s.stu u).running ≠ none →
      exec (.segInstall p u ctx slot) s = .next (s.modStu u (fun t => { t with result := 8 }))) ∧
    ((s.stu u).running = none → ctx / 2048 ≠ u →
      ∃ t, exec (.segInstall p u ctx slot) s = .next t ∧ s.onlyStu u t ∧ (t.stu u).segs = (s.stu u).segs ∧
        (t.stu u).running = some (.install 7 (s.stu u).generation))

/-- Reads fill the staging words, a withdraw frees the slot, and both answer when they are done. By a port that may
write, at an idle unit, for a context of the unit. SEG_READ starts a read, whose completion puts the eight words
of the slot's descriptor into staging with result 0 and the slot's generation. SEG_WITHDRAW of a valid slot
makes it invalid with a generation one higher, every quad drops its copies of it and its unstarted commands
their translations under it, every Ethernet port drops its copy, commands that run under it stop, and windows
opened under it close; of a slot that is not valid it ends with result 1. When the withdraw has drained its
result reads 0 with the new generation. A completed install shows its result. What is the model's choice or
inference here: log entries 68, 69 and 185. (10_segments.md R288, 10_segments.md R301, 10_segments.md R302,
10_segments.md R306, 10_segments.md Table SEG-7.) -/
def Obligations.SegmentReadAndWithdraw : Prop :=
  ∀ (p : Port) (u ctx slot : Nat) (s : State),
    (s.mayWrite p = true → u < 2 → ctx < 4096 → slot < 16 → (s.stu u).running = none → ctx / 2048 = u →
      (∃ t, exec (.segRead p u ctx slot) s = .next t ∧ s.onlyStu u t ∧ (t.stu u).segs = (s.stu u).segs ∧
        (t.stu u).running = some (.read ctx slot)) ∧
      (((s.stu u).seg ctx slot).valid = true →
        let v := s.modStu u (fun t => { t.setSeg ctx slot
            { (s.stu u).seg ctx slot with valid := false, gen := ((s.stu u).seg ctx slot).gen + 1 } with
          cmdOp := 2, cmdSlot := slot, cmdCtx := ctx,
          running := some (.withdraw ctx slot (((s.stu u).seg ctx slot).gen + 1)) })
        exec (.segWithdraw p u ctx slot) s = .next
          (((((s.quads.map Prod.fst).foldl (fun s q => s.modQuad q (·.invalidate ctx slot)) v).dropEthCopies ctx slot).stopHolders
            ctx slot).closeWindows ctx slot)) ∧
      (((s.stu u).seg ctx slot).valid = false →
        ∃ t, exec (.segWithdraw p u ctx slot) s = .next t ∧ s.onlyStu u t ∧ (t.stu u).segs = (s.stu u).segs ∧
          (t.stu u).running = some (.install 1 ((s.stu u).seg ctx slot).gen))) ∧
    ((s.stu u).running = some (.read ctx slot) →
      ∃ t, exec (.segOpDone u) s = .next t ∧ s.onlyStu u t ∧ (t.stu u).running = none ∧ (t.stu u).result = 0 ∧
        (t.stu u).generation = ((s.stu u).seg ctx slot).gen ∧ (t.stu u).segs = (s.stu u).segs ∧
        ∀ i, i < 8 → Table.get 0 (t.stu u).stage i = ((s.stu u).seg ctx slot).words.getD i 0) ∧
    (∀ (r : Nat) (g : Half), (s.stu u).running = some (.install r g) →
      ∃ t, exec (.segOpDone u) s = .next t ∧ s.onlyStu u t ∧
        t.stu u = { s.stu u with running := none, result := r, generation := g }) ∧
    (∀ g : Half, (s.stu u).running = some (.withdraw ctx slot g) →
      ∃ t, exec (.withdrawDrained u) s = .next t ∧ s.onlyStu u t ∧
        t.stu u = { s.stu u with running := none, result := 0, generation := g })

/-- A miss asks the unit, and a resolved fault record is freed. A running quad whose copy does not cover an address
asks the context's unit: both count it, and the segment found stands first in the quad's copy; where none covers
it the copy stays. FAULT_RETRY and FAULT_FAIL of a valid record without waiters free it and note the resolution;
a go that names an invalid record frees nothing. What is the model's choice or inference here: log entries 15
and 70. (10_segments.md R290, 10_segments.md R296, 10_segments.md R299, 10_segments.md Table SEG-8.) -/
def Obligations.LookupsAndFaultsResolve : Prop :=
  (∀ (q ctx va : Nat) (s : State), s.quadRuns q = true → ctx < 4096 →
    (s.quad q).segCopy.any (fun c => decide (c.ctx = ctx) && c.seg.covers va) = false →
    ∃ t, exec (.segLookupMiss q ctx va) s = .next t ∧
      (t.stu (stuOf ctx)) = { s.stu (stuOf ctx) with lookups := min 0xFFFFFFFF ((s.stu (stuOf ctx)).lookups + 1) } ∧
      (t.quad q).segMisses = min 0xFFFF ((s.quad q).segMisses + 1) ∧
      (match (s.stu (stuOf ctx)).lookup ctx va with
       | none => (t.quad q).segCopy = (s.quad q).segCopy
       | some (i, g) => (t.quad q).segCopy.head? = some ⟨ctx, i, g⟩) ∧
      (∀ p, p ≠ q → t.quad p = s.quad p) ∧ ∀ a, t.byte a = s.byte a) ∧
  (∀ (p : Port) (u r : Nat) (s : State), s.mayWrite p = true → u < 2 → r < 64 →
    (((s.stu u).fault r).valid = true → s.waitersOf u r = [] →
      (∃ t, exec (.faultRetry p u r) s = .next t ∧ s.onlyStu u t ∧ (t.stu u).fault r = FaultRec.reset ∧
        (t.stu u).resolveFail = false ∧ (t.stu u).resolveRecord = r ∧ ∀ x, x ≠ r → (t.stu u).fault x = (s.stu u).fault x) ∧
      (∃ t, exec (.faultFail p u r) s = .next t ∧ s.onlyStu u t ∧ (t.stu u).fault r = FaultRec.reset ∧
        (t.stu u).resolveFail = true ∧ (t.stu u).resolveRecord = r ∧ ∀ x, x ≠ r → (t.stu u).fault x = (s.stu u).fault x)) ∧
    (((s.stu u).fault r).valid = false →
      (∃ t, exec (.faultRetry p u r) s = .next t ∧ s.onlyStu u t ∧ (t.stu u).faults = (s.stu u).faults) ∧
      (∃ t, exec (.faultFail p u r) s = .next t ∧ s.onlyStu u t ∧ (t.stu u).faults = (s.stu u).faults)))

/-- Writes of a window's control, counters and limit. By a port that may write, at a quad whose block takes
accesses, for a window that holds no packet. A write that sets open in a closed window takes the context, epoch
and link enable written and, where its extents pass their check, opens it under them; one whose extents fail
leaves it closed. A write that clears open closes it. A counter or limit write changes that half of that field
alone. Nothing but the window changes. What is the model's choice or inference here: log entries 62 and 187.
(08_memory_model.md R243, 08_memory_model.md R247, 08_memory_model.md R248, 08_memory_model.md Table MEM-9,
13_axis_links_and_drone.md R381.) -/
def Obligations.WindowRegistersOpenAndCount : Prop :=
  ∀ (p : Port) (q w : Nat) (v : Word) (s : State), s.mayWrite p = true → s.quadOpen q = true → w < 32 →
    (s.window q w).held = [] →
    let x := s.window q w
    let set : Window := { x with linkEn := v.getLsbD 30, epoch := v.setWidth 16 }
    (x.opened = false → v.getLsbD 31 = true →
      ∃ t, exec (.windowCtrlWrite p q w v) s = .next t ∧ s.onlyWindow q w t ∧
        t.window q w = match s.windowExts { set with context := v.toNat / 2 ^ 16 % 2 ^ 12 } (v.toNat / 2 ^ 16 % 2 ^ 12) with
          | some (e, r) => { set with context := v.toNat / 2 ^ 16 % 2 ^ 12, opened := true, ext := some e, recExt := r }
          | none => { set with context := v.toNat / 2 ^ 16 % 2 ^ 12 }) ∧
    (x.opened = true → v.getLsbD 31 = false →
      ∃ t, exec (.windowCtrlWrite p q w v) s = .next t ∧ s.onlyWindow q w t ∧
        t.window q w = { set with opened := false, ext := none, recExt := none }) ∧
    (∀ r, ∃ t, exec (.windowCounterWrite p q w r v) s = .next t ∧ s.onlyWindow q w t ∧
      t.window q w = match r with
        | .bytesLo => { x with bytes := x.bytes.extractLsb' 32 16 ++ v }
        | .bytesHi => { x with bytes := v.setWidth 16 ++ x.bytes.extractLsb' 0 32 }
        | .pkts => { x with packets := v }
        | .limitLo => { x with limit := x.limit.extractLsb' 32 16 ++ v }
        | .limitHi => { x with limit := v.setWidth 16 ++ x.limit.extractLsb' 0 32 })

/-- A window takes a packet of its epoch inside its bounds, holds one past its limit, and drops and counts any
other. In a running package, for a request addressed to it, at a present quad's window that holds no packet. In
an open window of the packet's epoch, whose size holds the packet's offset and length and whose limit its bytes
stay within, the data and record are written where the memory is ready, the bytes and the packet counted, the
linked object signalled, and an acknowledgement goes back; a packet past the limit, or whose memory is not
ready, is held and not answered. A packet at a closed window, of another epoch or beyond the size writes
nothing, is counted by its cause, and is answered EPOCH_STALE; a window in the tiered range counts as closed
while that range is read-only. A packet for a quad that is not present is answered EPOCH_STALE. What is the
model's choice or inference here: log entries 60, 62, 63, 186 and 187. (08_memory_model.md R244,
08_memory_model.md R246, 08_memory_model.md R247, 09_memory_tiers.md R272, 13_axis_links_and_drone.md R367,
13_axis_links_and_drone.md R368.) -/
def Obligations.PacketsAreJudgedByTheirWindow : Prop :=
  ∀ (pk : Packet) (e : Extent) (s : State), s.running = true → isResponse pk = false → pk.dest = s.self →
    let q := pk.dquad
    let w := pk.window
    let x := s.window q w
    let z := s.modWindow q w (fun x => { x with held := [] })
    let closedTo := fun (t : State) =>
      t = (z.modWindow q w (fun x => { x with closed := min 0xFF (x.closed + 1) })).answer pk .nack stEpochStale
    let holds := fun (t : State) => t = z.modWindow q w (fun x => { x with held := x.held ++ [pk] })
    (s.present q = true → w < 32 → x.held = [] →
      (s.windowShut x = false → x.opened = true → x.ext = some e →
        (x.epoch = pk.epoch → pk.offset + pk.data.length ≤ x.size.toNat →
          (x.limit = 0xFFFFFFFFFFFF ∨ x.bytes.toNat + pk.data.length ≤ x.limit.toNat) →
          (z.packetReady q x e pk = true → exec (.packetDeliver pk) s =
            .next (((z.windowWrite x e pk).windowCount q w pk.data.length).answer pk .ack 0)) ∧
          (z.packetReady q x e pk = false → ∃ t, exec (.packetDeliver pk) s = .next t ∧ holds t)) ∧
        (x.epoch = pk.epoch → pk.offset + pk.data.length ≤ x.size.toNat → x.limit ≠ 0xFFFFFFFFFFFF →
          x.limit.toNat < x.bytes.toNat + pk.data.length → ∃ t, exec (.packetDeliver pk) s = .next t ∧ holds t) ∧
        (x.epoch ≠ pk.epoch → exec (.packetDeliver pk) s =
          .next ((z.modWindow q w (fun x => { x with stale := min 0xFFFF (x.stale + 1) })).answer pk .nack stEpochStale)) ∧
        (x.epoch = pk.epoch → x.size.toNat < pk.offset + pk.data.length → exec (.packetDeliver pk) s =
          .next ((z.modWindow q w (fun x => { x with beyond := min 0xFF (x.beyond + 1) })).answer pk .nack stEpochStale))) ∧
      (x.opened = false → ∃ t, exec (.packetDeliver pk) s = .next t ∧ closedTo t) ∧
      (s.tierReadOnly = true → x.ext = some e → e.tier = 2 → ∃ t, exec (.packetDeliver pk) s = .next t ∧ closedTo t)) ∧
    (s.present q = false → exec (.packetDeliver pk) s = .next (s.answer pk .nack stEpochStale))

/-- A packet is let go by its answer or fails at its deadline. In a running quad. An acknowledgement that comes no
later than the packet's deadline, or in the first cycle at or above it, lets it go; a refusal in time, or a
deadline whose deciding cycle is over, also makes the command that sent it stop sending with LINK_LOST or the
refusal's status. The first failing packet decides the status; LINK_LOST stands over an EPOCH_STALE of the same
cycle. What other commands of the quad have to send goes on. An answer past the deadline is counted late and
changes nothing else; a deadline whose deciding cycle is not over changes nothing. What is the model's choice or
inference here: log entries 71 and 189. (13_axis_links_and_drone.md R369, 13_axis_links_and_drone.md R370.) -/
def Obligations.ResponsesAndDeadlines : Prop :=
  ∀ (q tag : Nat) (o : OutPkt) (c : Cmd) (s : State), s.quadRuns q = true →
    (s.quad q).outstanding.find? (fun x => decide (x.tag = tag)) = some o →
    let let_go := s.modQuad q (fun x => { x with outstanding := x.outstanding.filter (fun y => decide (y.tag ≠ tag)) })
    let failed := fun (st : Nat) => (let_go.setCmd q o.j
      (if c.status < 0x10 then { c with unsent := [], status := st, failedAt := some s.drone }
       else if st = 0x43 ∧ c.status = 0x44 ∧ c.failedAt = some s.drone then { c with status := st }
       else c)).pump q
    (s.drone ≤ o.deadline ∨ s.time.prev < o.deadline →
      exec (.ackReceive q tag) s = .next (let_go.pump q) ∧
      ((s.queue q o.j).find o.idx = some c →
        exec (.nackReceive q tag 0x43) s = .next (failed 0x43) ∧ exec (.nackReceive q tag 0x44) s = .next (failed 0x44)) ∧
      exec (.packetDeadline q tag) s = .next s) ∧
    (o.deadline < s.drone → o.deadline ≤ s.time.prev →
      ((s.queue q o.j).find o.idx = some c → exec (.packetDeadline q tag) s = .next (failed 0x43)) ∧
      (∀ i, i ∈ [Instr.ackReceive q tag, .nackReceive q tag 0x43, .nackReceive q tag 0x44] →
        exec i s = .next (s.modQuad q (fun x => { x with portLate := min 0xFFFF (x.portLate + 1) }))))

/-- A packet goes along the first axis on which it is not at its destination, the shorter way round. In a package
that is not held in reset, a packet in its first stage whose first differing axis is a goes to the link of axis
a whose way round the ring is shorter, the plus way when both are equal, if routing treats that link as up; it
is marked past the dateline when its hop crosses it or when it was already past it on that ring. A packet at its
destination is handed to this package. What is the model's choice or inference here: log entries 78 and 161.
(13_axis_links_and_drone.md R362, 13_axis_links_and_drone.md R363, 13_axis_links_and_drone.md R364.) -/
def Obligations.PacketsTakeTheShorterWay : Prop :=
  ∀ (arr : Nat) (pk : Packet) (s : State), s.boot.held = false →
    (∀ a : Nat, a < 3 → pk.stage = .n → (∀ b, b < a → onAxis s.self b = onAxis pk.dest b) → onAxis s.self a ≠ onAxis pk.dest a →
      let len := s.ringLen a
      let me := onAxis s.self a
      let it := onAxis pk.dest a
      let minus := decide ((me + len - it) % len < (it + len - me) % len)
      let n := 2 * a + (if minus then 1 else 0)
      s.linkUsable n = true →
      exec (.packetForward arr pk) s = .next (s.sendOn n arr pk { pk with
        stage := .n, pastDateline := (decide (arr / 2 = a) && pk.pastDateline) ||
          (if minus then decide (me = 0) else decide (me + 1 = len)) })) ∧
    (pk.dest = s.self → exec (.packetForward arr pk) s = .next (s.emit (.packet 6 pk)))

/-- A flit is taken in order or a replay is asked for; a replay sends the buffer again until the ninth. On a link
that is up, in a package that is not held in reset. A flit that fails its check is counted and discarded with a
replay request; a good flit out of order is discarded with a replay request; a good flit in order drops from the
replay buffer what it acknowledges, returns the credits it carries, moves the receive sequence on, hands a data
flit's payload to its channel, and then the link sends what may go. A replay request with flits in the buffer,
or an oldest flit that has waited 2 microseconds with that cycle over, sends the buffer again and is counted;
after eight in a row without an advance it takes the link to retraining instead. A replay request at an empty
buffer, and a timeout whose deciding cycle is not over, change nothing. The counts that FEC makes below the
flits are free. What is the model's choice or inference here: log entries 72, 74, 75 and 189.
(13_axis_links_and_drone.md R357, 13_axis_links_and_drone.md R358, 13_axis_links_and_drone.md R363,
13_axis_links_and_drone.md Table AXL-1, 13_axis_links_and_drone.md Table AXL-9.) -/
def Obligations.FlitsInOrderOrReplayed : Prop :=
  ∀ (n : Nat) (f : Flit) (s : State), s.boot.held = false → (s.link n).st = .up →
    let z := s.countFec n
    let acked := fun (l : Link) => match l.replayBuf with
      | [] => l
      | (g, _) :: _ =>
        if (f.ack + 4096 - g.seq) % 4096 < l.replayBuf.length then
          { l with replayBuf := l.replayBuf.drop ((f.ack + 4096 - g.seq) % 4096 + 1), inRow := 0 }
        else l
    let taken := z.modLink n (fun l => { acked l with
      used := Table.put 0 (acked l).used f.creditVc (Table.get 0 (acked l).used f.creditVc - f.credit),
      rxSeq := (l.rxSeq + 1) % 4096 })
    let again := if (s.link n).inRow = 8 then
        s.modLink n (fun l => { l with st := .retraining, since := s.drone, inRow := 0 })
      else ((s.modLink n (fun l => { l with
          replays := min 0xFFFF (l.replays + 1), inRow := l.inRow + 1 })).modLink n (fun l => { l with
          replayBuf := l.replayBuf.map (fun e => (e.1, s.drone)) })).putFlits n ((s.link n).replayBuf.map Prod.fst)
    (badFlit f = true → exec (.flitReceive n f) s =
      .next ((z.modLink n (fun l => { l with crc := min 0xFFFF (l.crc + 1) })).emit (.replayRequest n))) ∧
    (badFlit f = false → f.seq ≠ (s.link n).rxSeq → exec (.flitReceive n f) s = .next (z.emit (.replayRequest n))) ∧
    (badFlit f = false → f.seq = (s.link n).rxSeq → exec (.flitReceive n f) s =
      .next ((if f.type = 1 then taken.takePayload n f.vc f.payload else taken).drainLink n)) ∧
    ((s.link n).replayBuf ≠ [] → exec (.replayRequest n) s = .next again) ∧
    ((s.link n).replayBuf = [] → exec (.replayRequest n) s = .next s) ∧
    (∀ g t r, (s.link n).replayBuf = (g, t) :: r → t + 2000 < s.drone → t + 2000 ≤ s.time.prev →
      exec (.replayTimeout n) s = .next again) ∧
    (∀ g t r, (s.link n).replayBuf = (g, t) :: r → (s.drone ≤ t + 2000 ∨ s.time.prev < t + 2000) →
      exec (.replayTimeout n) s = .next s)

/-- A lane's failure is repaired by the spare, a retrain of 1 ms takes a link down, and training ends up or
miswired. In a package that is not held in reset. The first failed data lane of a link with all lanes good uses
the spare of its direction, keeps the width, and logs one corrected record. A link that has retrained for 1 ms
goes down, its replay buffer discarded and what it had not begun to send routed again; one that is used and has
been down 100 ms trains again with all lanes tried anew. Training or a retrain that finds the partner which the
roles and ring lengths predict brings the link up, sends again what the replay buffer holds and goes on; any
other partner takes it down, miswired. What is the model's choice or inference here: log entries 76 and 189.
(13_axis_links_and_drone.md R359, 13_axis_links_and_drone.md R360, 13_axis_links_and_drone.md Table AXL-9,
15_resilience.md Table RES-8.) -/
def Obligations.LinksFailAndTrain : Prop :=
  ∀ (n : Nat) (s : State), s.boot.held = false →
    (∀ lane, lane < 16 → (s.link n).st = .up → (s.link n).failedTx = [] → (s.link n).failedRx = [] →
      (s.link n).spareRx = false → (s.link n).spareTx = false → (s.link n).width8 = false →
      exec (.linkLaneFail n .tx lane) s = .next ((s.modLink n (fun l => { l with
        failedTx := [lane], spareTx := true, half := false })).logErr
        { errRec 0 0x0D 0x0003 (6 + n / 3) n with aux0 := 1 })) ∧
    ((s.link n).st = .retraining → (s.link n).since + 1000000 ≤ s.drone →
      exec (.linkRetrainTimeout n) s = .next (((s.link n).txWait.filter (fun p => !p.begun)).foldl
        (fun s p => s.route p.arr p.pk) (s.modLink n (fun l => { l with
          st := .down, replayBuf := [], txWait := [], used := [], swap := none, inRow := 0, rx := [],
          since := s.drone })))) ∧
    (s.linkUnused n = false → (s.link n).st = .down → (s.link n).since + 100000000 ≤ s.drone →
      ∃ t, exec (.linkTrainRetry n) s = .next t ∧ (t.link n).st = .training ∧ (t.link n).failedTx = [] ∧
        (t.link n).failedRx = [] ∧ (t.link n).txSeq = 0 ∧ (t.link n).rxSeq = 0 ∧ t = { s with links := t.links } ∧
        ∀ m, m ≠ n → t.link m = s.link m) ∧
    (∀ (c : Coords) (k : Nat), s.linkUnused n = false → ((s.link n).st = .training ∨ (s.link n).st = .retraining) →
      (c = s.neighbour n ∧ k = n / 2 * 2 + (1 - n % 2) →
        exec (.linkTrained n c k) s = .next ((((s.modLink n (fun l => { l with
          st := .up, miswired := false, since := s.drone })).modLink n (fun l => { l with
          replayBuf := l.replayBuf.map (fun e => (e.1, s.drone)) })).putFlits n
          ((s.link n).replayBuf.map Prod.fst)).drainLink n)) ∧
      (¬ (c = s.neighbour n ∧ k = n / 2 * 2 + (1 - n % 2)) → (s.link n).txWait = [] →
        ∃ t, exec (.linkTrained n c k) s = .next t ∧ (t.link n).st = .down ∧ (t.link n).miswired = true ∧
          t = { s with links := t.links } ∧ ∀ m, m ≠ n → t.link m = s.link m) ∧
      (¬ (c = s.neighbour n ∧ k = n / 2 * 2 + (1 - n % 2)) → exec (.linkTrained n c k) s =
        .next ((s.modLink n (fun l => { l with miswired := true })).linkDown n)))

/-- Only the holder of MGMT_SEM writes a link's fault-injection register. The holder's write before the cycle in
which its lease ends sets enable, kind and fields; a reserved encoding keeps its field, and a 1 in denied clears
it. In that cycle the write is judged after the lease's end. A write by a running host core, or by a management
port that does not hold the semaphore then, changes nothing but sets denied. Other links, and everything but the
links, are as they were. (13_axis_links_and_drone.md R373, 17_configuration_and_security.md Table CFG-8.) -/
def Obligations.FaultInjectionIsKeptForTheHolder : Prop :=
  ∀ (p : Port) (n : Nat) (v : Word) (s : State),
    (s.mayManage p = true → s.drone < s.cfg.leaseEnd →
      ∃ t, exec (.axlFiCtrlWrite p n v) s = .next t ∧ t = { s with links := t.links } ∧ (∀ m, m ≠ n → t.link m = s.link m) ∧
        (t.link n).fiEnable = v.getLsbD 31 ∧ (t.link n).fiDenied = ((s.link n).fiDenied && !v.getLsbD 30) ∧
        (t.link n).fiCtrl.toNat / 2 ^ 24 % 4 = v.toNat / 2 ^ 24 % 4 ∧ (t.link n).fiCtrl.toNat % 2 ^ 8 = v.toNat % 2 ^ 8 ∧
        ((4 ≤ v.toNat / 2 ^ 17 % 32 ∧ v.toNat / 2 ^ 17 % 32 ≤ 30) → (t.link n).fiCtrl.toNat / 2 ^ 17 % 32 = v.toNat / 2 ^ 17 % 32) ∧
        (¬ (4 ≤ v.toNat / 2 ^ 17 % 32 ∧ v.toNat / 2 ^ 17 % 32 ≤ 30) →
          (t.link n).fiCtrl.toNat / 2 ^ 17 % 32 = (s.link n).fiCtrl.toNat / 2 ^ 17 % 32)) ∧
    (∀ c, p = .core c → s.hostRuns = true →
      exec (.axlFiCtrlWrite p n v) s = .next (s.modLink n (fun l => { l with fiDenied := true }))) ∧
    ((p = .mgmtA ∨ p = .mgmtB) → s.mgmtOpen = true → (s.holdsSem p = false ∨ s.cfg.leaseEnd ≤ s.drone) →
      exec (.axlFiCtrlWrite p n v) s = .next (s.modLink n (fun l => { l with fiDenied := true })))

/-- A bridge holds its traffic while it retrains and stops the device when it is lost. In a package that is not held
in reset. A bridge that passes traffic and starts to retrain is down from now; when it has trained it is up, its
retrain is seen, sticky, and what it held goes on: with no link in use nothing else changes where nothing was
held, and a held operation of a sync object whose way is open now reaches its object. A failed lane that no
redundant lane repairs degrades the bridge and logs a record of class 1, a repaired one logs a corrected record.
Once the cycle at 50 microseconds down has passed, with no transaction open, the long retrain is noted once and
waiting requests are taken up again. At 10 ms down the bridge is lost: a FATAL record is made and the device no
longer runs. What is the model's choice or inference here: log entries 79, 80, 81 and 189. (01_package.md R24,
01_package.md R25, 01_package.md R26, 12_coherence.md R352, 15_resilience.md Table RES-8.) -/
def Obligations.BridgesRetrainAndFail : Prop :=
  ∀ (b : Nat) (s : State), s.boot.held = false → b < 12 →
    let bb : BitVec 12 := BitVec.ofNat 12 (2 ^ b)
    let f := s.fabric
    (exec (.bridgeLaneFail b true) s = .next (s.logErr { errRec 0 0x0C 0x0003 (bridgeDie b) b with aux0 := 1 })) ∧
    (exec (.bridgeLaneFail b false) s = .next (({ s with fabric := { f with degraded := f.degraded ||| bb } } : State).logErr
      (errRec 1 0x0C 0x0012 (bridgeDie b) b))) ∧
    (f.up.getLsbD b = true → ∃ t, exec (.bridgeRetrainStart b) s = .next t ∧ t = { s with fabric := t.fabric } ∧
      t.fabric.up = f.up &&& ~~~bb ∧ Table.get 0 t.fabric.downAt b = s.drone ∧ t.fabric.degraded = f.degraded ∧
      t.fabric.retrainSeen = f.retrainSeen) ∧
    (f.up.getLsbD b = false →
      let v : State := { s with fabric := { f with
        up := f.up ||| bb, retrainSeen := f.retrainSeen ||| bb, downAt := Table.put 0 f.downAt b 0 } }
      exec (.bridgeRetrainDone b) s = .next v.bridgePasses ∧
      (∀ l, (∀ n, n < 6 → (s.link n).st ≠ .up ∧ (s.link n).st ≠ .retraining) → s.boot.heldSync = l → s.boot.diesInReset = [] →
        (l = [] → v.bridgePasses = v) ∧
        (∀ (obj : Nat) (o : SyncOp), l = [(obj, o)] → v.pathUp (syncFrom o.agent) (objDie obj) 0 = true →
          v.bridgePasses.syncVal obj = applySync o (s.syncVal obj) ∧ v.bridgePasses.boot.heldSync = []))) ∧
    (f.up.getLsbD b = false → Table.get 0 f.downAt b + 50000 < s.drone → Table.get 0 f.downAt b + 50000 ≤ s.time.prev →
      f.passedLong.getLsbD b = false → s.coh.txns = [] →
      exec (.bridgeRetrainLong b) s = .next (({ s with fabric := { f with
        retrainLong := f.retrainLong ||| bb, passedLong := f.passedLong ||| bb } } : State).wakeHomes)) ∧
    (f.up.getLsbD b = false → Table.get 0 f.downAt b + 10000000 ≤ s.drone → f.lost.getLsbD b = false →
      ∃ t, exec (.bridgeLost b) s = .next t ∧ t.log.fatal = true ∧ t.running = false ∧ t.fabric.lost = f.lost ||| bb ∧
        t.fabric.up = f.up)

/-- A clock fault is FATAL. In a package that is not held in reset, a lost reference clears its present bit, a root
that unlocks clears its die's bit, a crossing FIFO error changes no clock bit; each makes a FATAL record, after
which the device no longer runs, and no byte of memory changes. What is the model's choice or inference here:
log entry 81. (01_package.md R29, 01_package.md Table PKG-8, 15_resilience.md Table RES-8, 15_resilience.md
R417.) -/
def Obligations.ClockFaultsStopTheDevice : Prop :=
  ∀ (k : ClockFaultKind) (s : State), s.boot.held = false →
    ∃ t, exec (.clockFault k) s = .next t ∧ t.log.fatal = true ∧ t.running = false ∧ (∀ a, t.byte a = s.byte a) ∧
      t.fabric = match k with
        | .refLost => { s.fabric with refPresent := false }
        | .rootUnlocked d => { s.fabric with rootLocked := s.fabric.rootLocked &&& ~~~BitVec.ofNat 8 (2 ^ d) }
        | .crossingFifo _ => s.fabric

/-- A request for a line without an entry is served from memory. At a home that can take it up, for a line that no
cache holds. RD_SHARED is answered with the line's memory and grants E, RD_OWN grants M; either makes the
requester the one owner in the directory, its cache keeps a place for the line, and the transaction stays open
for its acknowledgement. RD_ONCE is answered with the memory and nothing stays open or recorded. WR_FULL writes
its 64 bytes, and one with a stash target that stands installs them there; WR_PART writes those that its mask
selects unless the line is poisoned, an ATOMIC leaves the operation's result and answers the old value, each
ending with CMP and no entry but the target's; a CMO ends with CMP and no entry, and only a discard of a line
that the extension holds dirty leaves the line's memory open. Only the writing requests change memory, and only
in the line. What is the model's choice or inference here: log entries 82 and 169. (12_coherence.md R341,
12_coherence.md Table COH-5, 12_coherence.md R339, 12_coherence.md R344, 11_host_cores_and_cache.md R314,
11_host_cores_and_cache.md R327.) -/
def Obligations.ColdLinesAreServedFromMemory : Prop :=
  ∀ (line : Nat) (s : State), s.homeFree line → s.dirEntry line = DirEntry.none →
    (∀ a u, s.asks (.agent a) line = true → s.agentFree a line = true → (s.line a line).st = .i →
      s.dirSpace line = true → s.cacheRoom a line false = some u →
      (∃ t, exec (.rdShared a line) s = .next t ∧ t.dirEntry line = ⟨.dx, [a], false, s.coh.stamp⟩ ∧
        (t.line a line).tr = .isD ∧ (t.txn line).isSome = true ∧ (∀ x, t.byte x = s.byte x) ∧
        t.coh.msgs = u.coh.msgs ++ [.datHome (.agent a) line .e (s.bytes (line * 64) 64) (s.sectorPoison line)]) ∧
      (∃ t, exec (.rdOwn a line) s = .next t ∧ t.dirEntry line = ⟨.dx, [a], false, s.coh.stamp⟩ ∧
        (t.line a line).tr = .imD ∧ (t.txn line).isSome = true ∧ (∀ x, t.byte x = s.byte x) ∧
        t.coh.msgs = u.coh.msgs ++ [.datHome (.agent a) line .m (s.bytes (line * 64) 64) (s.sectorPoison line)])) ∧
    (∀ r, s.asks r line = true → s.mayAsk r = true →
      (∃ t, exec (.rdOnce r line) s = .next t ∧ t.dirEntry line = DirEntry.none ∧ t.txn line = none ∧
        (∀ x, t.byte x = s.byte x) ∧
        t.coh.msgs = s.coh.msgs ++ [.datHome r line .s (s.bytes (line * 64) 64) (s.sectorPoison line)]) ∧
      (∀ data, data.length = 64 →
        (∃ t, exec (.wrFull r line data .none) s = .next t ∧ t.dirEntry line = DirEntry.none ∧ t.txn line = none ∧
          t.bytes (line * 64) 64 = data ∧ t.sectorPoison line = false ∧ s.onlyLine t line ∧
          t.coh.msgs = s.coh.msgs ++ [.cmp r line false 0]) ∧
        (∀ hint a, s.stashTo hint = some a → s.dirSpace line = true →
          ∃ t, exec (.wrFull r line data hint) s = .next t ∧ t.dirEntry line = ⟨.dx, [a], false, s.coh.stamp⟩ ∧
            t.txn line = none ∧ t.bytes (line * 64) 64 = data ∧ t.sectorPoison line = false ∧ s.onlyLine t line ∧
            t.coh.msgs = s.coh.msgs ++ [.datInstall a line data, .cmp r line false 0])) ∧
      (∀ mask data, s.sectorPoison line = false →
        ∃ t, exec (.wrPart r line mask data) s = .next t ∧ t.dirEntry line = DirEntry.none ∧ t.txn line = none ∧
          (∀ i, i < 64 → t.byte (line * 64 + i) = if mask.getLsbD i then data.getD i 0
            else (s.bytes (line * 64) 64).getD i 0) ∧
          s.onlyLine t line ∧ t.coh.msgs = s.coh.msgs ++ [.cmp r line false 0]) ∧
      (∀ mask data, s.sectorPoison line = true →
        ∃ t, exec (.wrPart r line mask data) s = .next t ∧ (∀ x, t.byte x = s.byte x) ∧
          t.coh.msgs = s.coh.msgs ++ [.cmp r line true 0]) ∧
      (∀ off op v, off + 8 ≤ 64 → s.sectorPoison line = false →
        ∃ t, exec (.atomic r line (.amo off true op v)) s = .next t ∧ t.dirEntry line = DirEntry.none ∧ t.txn line = none ∧
          ofLe (t.bytes (line * 64 + off) 8) = applyAmo op 64 (field (s.bytes (line * 64) 64) off 8) v.toNat ∧
          (∀ x, x < line * 64 + off ∨ line * 64 + off + 8 ≤ x → t.byte x = s.byte x) ∧
          t.coh.msgs = s.coh.msgs ++ [.cmp r line false (BitVec.ofNat 64 (field (s.bytes (line * 64) 64) off 8))]) ∧
      (∀ k, ∃ t, exec (.cmo r line k) s = .next t ∧ t.dirEntry line = DirEntry.none ∧ t.txn line = none ∧
        s.onlyLine t line ∧ t.coh.msgs = s.coh.msgs ++ [.cmp r line (s.sectorPoison line) 0] ∧
        ((k ≠ .inval ∨ ∀ d, s.hbmDie (line * 64) = some d → s.extIsDirty d line = false) → ∀ x, t.byte x = s.byte x)))

/-- A request for a line that a cache holds sends the snoop of its kind. At a home that can take it up. Of a line in
DX with owner o: RD_SHARED by another agent sends SNP_SHR to o, RD_OWN SNP_OWN, RD_ONCE SNP_ONCE, a write, an
atomic or a CMO flush or inval SNP_INV, a CMO clean SNP_CLN, whether or not o is the requester itself, each with
a deadline 2^20 ticks on, and no data moves yet. An UPGRADE by one of two sharers sends SNP_INV to the other,
and by the only sharer ends at once with CMP and the requester owner. While bcast is set every agent but the
requester gets the invalidation and it counts as a broadcast. What is the model's choice or inference here: log
entries 82 and 172. (12_coherence.md R341, 12_coherence.md Table COH-5, 12_coherence.md R343, 12_coherence.md
R348.) -/
def Obligations.HeldLinesAreSnooped : Prop :=
  ∀ (line o st : Nat) (s : State), s.homeFree line →
    (s.dirEntry line = ⟨.dx, [o], false, st⟩ →
      (∀ a u, a ≠ o → s.asks (.agent a) line = true → s.agentFree a line = true → (s.line a line).st = .i →
        s.cacheRoom a line false = some u →
        (∃ t, exec (.rdShared a line) s = .next t ∧ u.oneSnoop t .shr o line (.agent a)) ∧
        (∃ t, exec (.rdOwn a line) s = .next t ∧ u.oneSnoop t .own o line (.agent a))) ∧
      (∀ r, s.asks r line = true → s.mayAsk r = true →
        (∃ t, exec (.rdOnce r line) s = .next t ∧ s.oneSnoop t .once o line r) ∧
        (∀ data hint, ∃ t, exec (.wrFull r line data hint) s = .next t ∧ s.oneSnoop t .inv o line r) ∧
        (∀ mask data, ∃ t, exec (.wrPart r line mask data) s = .next t ∧ s.oneSnoop t .inv o line r) ∧
        (∀ op, ∃ t, exec (.atomic r line op) s = .next t ∧ s.oneSnoop t .inv o line r) ∧
        (∀ k, ∃ t, exec (.cmo r line k) s = .next t ∧ s.oneSnoop t (if k = .clean then .cln else .inv) o line r))) ∧
    (∀ a, s.asks (.agent a) line = true → s.agentFree a line = true → (s.line a line).st = .s →
      (a ≠ o → s.dirEntry line = ⟨.ds, [a, o], false, st⟩ →
        ∃ t, exec (.upgrade a line) s = .next t ∧ s.oneSnoop t .inv o line (.agent a) ∧ (t.line a line).tr = .smA) ∧
      (s.dirEntry line = ⟨.ds, [a], false, st⟩ → s.sectorPoison line = false →
        ∃ t, exec (.upgrade a line) s = .next t ∧ t.dirEntry line = ⟨.dx, [a], false, st⟩ ∧
          t.coh.msgs = s.coh.msgs ++ [.cmp (.agent a) line false 0]) ∧
      (∀ ps, s.dirEntry line = ⟨.ds, ps, true, st⟩ →
        ∃ t, exec (.upgrade a line) s = .next t ∧ t.coh.msgs.length = s.coh.msgs.length + 129 ∧
          (t.coh.home (s.homeOf line)).bcastCount = satAdd 0xFFFFFFFF (s.coh.home (s.homeOf line)).bcastCount 1))

/-- A holder answers each snoop as its state says. For the first message in flight, a snoop of a line that can
arrive at an agent that holds the line in no transient state, with no install on its way. SNP_SHR forwards the
data and M goes to O, E to S. SNP_OWN forwards data and ownership and the line leaves. SNP_INV makes the line
leave, dirty data going to the home. SNP_ONCE sends a copy and keeps the line; SNP_CLN sends the data and M goes
to E, O to S. A line that was dirty and is in its writeback is answered RSP_INWB, and one that the agent does
not hold RSP_STATE I. A core that holds a reservation on the line delays the answer to a snoop that takes it
away; when the delay ends the line and the reservation are gone. No byte of memory changes. What is the model's
choice or inference here: log entries 87, 89 and 173. (12_coherence.md R334, 12_coherence.md Table COH-3,
12_coherence.md R347, 11_host_cores_and_cache.md R313.) -/
def Obligations.SnoopsAreAnswered : Prop :=
  ∀ (a line b : Nat) (d : List Byte) (p : Bool) (ms : List Msg) (s : State), a < 130 →
    (∀ x, Msg.datInstall a line x ∉ ms) →
    let first := fun (k : Snp) => s.coh.msgs = .snp k a line (.agent b) :: ms ∧ s.msgUp (.snp k a line (.agent b)) = true
    let has := fun (st : LState) (k : Snp) => s.line a line = ⟨st, .stable, d, p⟩ ∧ first k
    let same := fun (t : State) => ∀ x, t.byte x = s.byte x
    let gone := fun (t : State) => t.line a line = Line.none ∧ same t
    let free := (s.core a).reservation ≠ some line ∨ 128 ≤ a
    (∀ st, st ≠ .i → has st .shr →
      ∃ t, exec (.snpShr a line) s = .next t ∧ same t ∧
        let st' := if st = .m then LState.o else if st = .e then .s else st
        t.line a line = ⟨st', .stable, d, p⟩ ∧
        t.coh.msgs = ms ++ [.datFwd a b line .s d p, .rspState st' a line true]) ∧
    (∀ st, st = .m ∨ st = .o ∨ st = .e → free → has st .own →
      ∃ t, exec (.snpOwn a line) s = .next t ∧ gone t ∧ t.coh.msgs = ms ++ [.datFwd a b line .m d p, .rspState .i a line true]) ∧
    (∀ st, st = .m ∨ st = .o → free → has st .inv →
      ∃ t, exec (.snpInv a line) s = .next t ∧ gone t ∧ t.coh.msgs = ms ++ [.datSnp a line d p, .rspState .i a line false]) ∧
    (∀ st, st = .e ∨ st = .s → free → has st .inv →
      ∃ t, exec (.snpInv a line) s = .next t ∧ gone t ∧ t.coh.msgs = ms ++ [.rspState .i a line false]) ∧
    (∀ st, st ≠ .i → has st .once →
      ∃ t, exec (.snpOnce a line) s = .next t ∧ t.line a line = s.line a line ∧ same t ∧
        t.coh.msgs = ms ++ [.datSnp a line d p]) ∧
    (∀ st, st ≠ .i → has st .cln →
      ∃ t, exec (.snpCln a line) s = .next t ∧ same t ∧
        t.line a line = ⟨if st = .m then .e else if st = .o then .s else st, .stable, d, p⟩ ∧
        t.coh.msgs = ms ++ [.datSnp a line d p]) ∧
    (∀ k i, (k, i) ∈ [(Snp.shr, Instr.snpShr a line), (.own, .snpOwn a line), (.inv, .snpInv a line),
        (.once, .snpOnce a line), (.cln, .snpCln a line)] → first k → free →
      (((s.line a line).tr = .miWb ∨ (s.line a line).tr = .oiWb) → (s.line a line).st = .i →
        ∃ t, exec i s = .next t ∧ t.line a line = s.line a line ∧ same t ∧ t.coh.msgs = ms ++ [.rspInwb a line]) ∧
      (s.line a line = Line.none →
        ∃ t, exec i s = .next t ∧ gone t ∧ t.coh.msgs = ms ++ [.rspState .i a line false])) ∧
    (∀ st k, k = .own ∨ k = .inv → st ≠ .i → a < 128 → (s.core a).reservation = some line →
      (s.core a).snoopHeld = none → has st k →
      ∃ t, exec (if k = .own then .snpOwn a line else .snpInv a line) s = .next t ∧ same t ∧
        t.coh.msgs = ms ∧ t.line a line = s.line a line ∧ (t.core a).snoopHeld = some (k, .agent b, line)) ∧
    (∀ st k, k = .own ∨ k = .inv → st ≠ .i → a < 128 → (s.core a).snoopHeld = some (k, .agent b, line) →
      s.line a line = ⟨st, .stable, d, p⟩ →
      ∃ t, exec (.lrSnoopDelayEnd a) s = .next t ∧ gone t ∧ (t.core a).reservation = none ∧ (t.core a).snoopHeld = none ∧
        ∀ m, m ∈ s.coh.msgs → m ∈ t.coh.msgs)

/-- A home completes a transaction by its answers, or by its deadline. At a home of a line of DDR5 or direct HBM
with one snoop out to owner o, where nothing waits and no other data is on its way, for the first message in
flight, which can arrive. In time, an RSP_O to a read gives DO{o, requester} and an RSP_S gives DS{o,
requester}; an RSP_I to SNP_OWN that forwarded gives DX{requester}. RSP_INWB makes the home wait for the
writeback in flight. DAT_SNP answers an RD_ONCE, whose transaction ends. CMP_ACK is taken at once, and closes a
transaction whose answers are in. An answer once its deadline's deciding cycle is over is discarded and counted
late. After that cycle the agent is dead, the timeout and the poisoning with cause 1 are noted, and an RD_ONCE
completes with poison. What is the model's choice or inference here: log entries 86, 92, 170 and 189.
(12_coherence.md R336, 12_coherence.md R339, 12_coherence.md R341, 12_coherence.md R348, 12_coherence.md R349,
12_coherence.md R351, 12_coherence.md Table COH-8.) -/
def Obligations.AnswersCompleteTransactions : Prop :=
  ∀ (line o n dl : Nat) (ms : List Msg) (s : State), s.coh.waiting = [] → s.coh.retryQ = [] → s.isDead o = false →
    isTiered (line * 64) = false → (∀ a x y, Msg.datSnp a line x y ∉ ms) → s.dirEntry line = ⟨.dx, [o], false, n⟩ →
    let h := s.homeOf line
    let first := fun (m : Msg) => s.coh.msgs = m :: ms ∧ s.msgUp m = true
    let inTime := s.drone ≤ dl ∨ s.time.prev < dl
    let past := dl < s.drone ∧ dl ≤ s.time.prev
    let opened := fun (who : Requester) (req : Req) (k : Snp) =>
      s.txn line = some ⟨who, req, [(o, k, dl)], [], [], none, false, false, false, false⟩
    (∀ b st, b ≠ o → st = .o ∨ st = .s → inTime → opened (.agent b) .rdShared .shr → first (.rspState st o line true) →
      ∃ t, exec (.rspState o line) s = .next t ∧ t.coh.msgs = ms ∧
        t.dirEntry line = ⟨if st = .o then .do_ else .ds, [o, b], false, n⟩ ∧ ∃ x, t.txn line = some x ∧ x.answered = true) ∧
    (∀ b, inTime → opened (.agent b) .rdOwn .own → first (.rspState .i o line true) →
      ∃ t, exec (.rspState o line) s = .next t ∧ t.coh.msgs = ms ∧ t.dirEntry line = ⟨.dx, [b], false, n⟩ ∧
        ∃ x, t.txn line = some x ∧ x.answered = true) ∧
    (∀ b, inTime → opened (.agent b) .rdOwn .own → first (.rspInwb o line) → ms.any (isWb o line) = true →
      ∃ t, exec (.rspInwb o line) s = .next t ∧ t.coh.msgs = ms ∧
        t.txn line = some ⟨.agent b, .rdOwn, [], [o], [], none, false, false, false, false⟩) ∧
    (∀ r d p, inTime → opened r .rdOnce .once → first (.datSnp o line d p) →
      ∃ t, exec (.datSnp o line) s = .next t ∧ t.coh.msgs = ms ++ [.datHome r line .s d p] ∧ t.txn line = none ∧
        t.dirEntry line = s.dirEntry line ∧ ∀ x, t.byte x = s.byte x) ∧
    (∀ r req k m i, past → opened r req k →
      (m, i) ∈ [(Msg.rspInwb o line, Instr.rspInwb o line)] ∨ (∃ st f, (m, i) = (.rspState st o line f, .rspState o line)) ∨
        (∃ d p, (m, i) = (.datSnp o line d p, .datSnp o line)) → first m →
      ∃ t, exec i s = .next t ∧ t.coh.msgs = ms ∧ t.coh.txns = s.coh.txns ∧ t.coh.dir = s.coh.dir ∧
        (t.coh.home h).late = true ∧ (t.coh.home h).lateCount = satAdd 0xFFFFFFFF (s.coh.home h).lateCount 1) ∧
    (∀ b x, s.txn line = some x → x.who = .agent b → first (.cmpAck b line) →
      (x.answered = true → ∃ t, exec (.cmpAck b line) s = .next t ∧ t.txn line = none ∧ t.coh.msgs = ms ∧ t.coh.dir = s.coh.dir) ∧
      (x.answered = false → ∃ t, exec (.cmpAck b line) s = .next t ∧ t.txn line = some { x with acked := true } ∧
        t.coh.msgs = ms ∧ t.coh.dir = s.coh.dir)) ∧
    (∀ r, s.running = true → past → opened r .rdOnce .once → s.datComing line = false →
      ∃ t, exec (.snoopTimeout o line) s = .next t ∧ t.isDead o = true ∧ t.txn line = none ∧
        (t.coh.home h).timeout = true ∧ (t.coh.home h).poison = true ∧
        (t.coh.home h).last = BitVec.ofNat 64 (line * 64 % 2 ^ 48 + 2 ^ 56 + o * 2 ^ 48) ∧
        t.coh.msgs = s.coh.msgs.map (Msg.poisoned line) ++ [.datHome r line .s (s.bytes (line * 64) 64) true])

/-- Agents install what arrives and acknowledge it; homes absorb writebacks. For the first message in flight, which
can arrive. Data from the home or a holder is installed in a core's L2 with the granted state while the home
awaits the acknowledgement, else it is not kept; either is acknowledged; a cache-less requester notes its bytes.
A CMP to an agent that upgrades makes its line M and is acknowledged; any other CMP is noted. DAT_INSTALL gives
a core's L2 that has a place the line dirty and counts. RETRY is taken; GRANT has the home take the request
again ahead of all others. WB_ACK ends a writeback. An agent with a writeback credit sends WB_DIRTY from M or O,
WB_CLEAN from E or S, and a core WB_MOVE from any valid state, or WB_DIRTY where its detector marks the write. A
dirty writeback of an owner's line in flight is written to memory and the entry freed; a clean notice frees the
entry of its only holder; a move hands line and pointer to the die's system cache. What is the model's choice or
inference here: log entries 85, 88, 91 and 173. (12_coherence.md R334, 12_coherence.md R335, 12_coherence.md
R337, 12_coherence.md R345, 12_coherence.md R351, 12_coherence.md R352, 11_host_cores_and_cache.md R324,
11_host_cores_and_cache.md R327.) -/
def Obligations.AgentsTakeWhatTheyAreSent : Prop :=
  ∀ (a line n : Nat) (d : List Byte) (p : Bool) (ms : List Msg) (s : State), a < 128 →
    let taken := s.modCoh (fun c => { c with msgs := ms })
    let first := fun (m : Msg) => s.coh.msgs = m :: ms ∧ s.msgUp m = true
    let x := s.line a line
    (∀ g, first (.datHome (.agent a) line g d p) →
      ∃ t, exec (.datHome (.agent a) line) s = .next t ∧ t.coh.msgs = ms ++ [.cmpAck a line] ∧
        t.line a line = if s.awaits a line then ⟨g, .stable, d, p⟩ else Line.none) ∧
    (∀ g h, first (.datFwd h a line g d p) →
      ∃ t, exec (.datFwd a line) s = .next t ∧ t.coh.msgs = ms ++ [.cmpAck a line] ∧
        t.line a line = if s.awaits a line then ⟨g, .stable, d, p⟩ else Line.none) ∧
    (∀ r g, first (.datHome (.cacheless r) line g d p) →
      ∃ t, exec (.datHome (.cacheless r) line) s = .next t ∧ t.coh.msgs = ms ∧
        Table.get [] t.coh.results (256 + r) = d ++ [if p then 1 else 0]) ∧
    (∀ q v, first (.cmp (.agent a) line q v) →
      (x.tr = .smA ∨ x.tr = .omA →
        ∃ t, exec (.cmp (.agent a) line) s = .next t ∧ t.coh.msgs = ms ++ [.cmpAck a line] ∧
          t.line a line = if s.awaits a line then ⟨.m, .stable, x.data, x.poison || q⟩ else Line.none) ∧
      (x.tr ≠ .smA → x.tr ≠ .omA → ∃ t, exec (.cmp (.agent a) line) s = .next t ∧ t.coh.msgs = ms ∧
        Table.get [] t.coh.results a = leBytes 8 v.toNat ++ [if q then 1 else 0])) ∧
    (∀ u, first (.datInstall a line d) → s.isDead a = false → taken.cacheRoom a line true = some u →
      ∃ t, exec (.datInstall a line) s = .next t ∧ t.coh.msgs = u.coh.msgs ∧ t.line a line = ⟨.m, .stable, d, false⟩ ∧
        (t.core a).missStash = (u.core a).missStash + 1) ∧
    (first (.retry a line) → exec (.retry a line) s = .next taken) ∧
    (first (.grant a line) → exec (.grant a line) s = .next ((taken.accept line (.agent a) (reqOf x)).getD
      (taken.modCoh (fun c => { c with waiting := (line, .agent a, reqOf x) :: c.waiting })))) ∧
    (first (.wbAck a line) → x.tr = .miWb ∨ x.tr = .oiWb ∨ x.tr = .eiWb ∨ x.tr = .siWb →
      ∃ t, exec (.wbAck a line) s = .next t ∧ t.coh.msgs = ms ∧ t.line a line = Line.none) ∧
    (x.tr = .stable → s.wbCredit a line = true →
      let dirty := Msg.wbDirty a line x.data x.poison
      (x.st = .m ∨ x.st = .o → ∃ t, exec (.wbDirty a line) s = .next t ∧ t.coh.msgs = s.coh.msgs ++ [dirty] ∧
        (t.line a line).tr = if x.st = .m then .miWb else .oiWb) ∧
      (x.st = .e ∨ x.st = .s → ∃ t, exec (.wbClean a line) s = .next t ∧ t.coh.msgs = s.coh.msgs ++ [.wbClean a line] ∧
        (t.line a line).tr = if x.st = .e then .eiWb else .siWb) ∧
      (x.st ≠ .i → ∃ t, exec (.wbMove a line) s = .next t ∧ t.coh.msgs = s.coh.msgs ++
        [if (s.passOut a line).1 then dirty else .wbMove a line x.st x.data x.poison])) ∧
    (s.coh.waiting = [] → s.txn line = none → s.dirEntry line = ⟨.dx, [a], false, n⟩ → isTiered (line * 64) = false →
      x.st = .i →
      (first (.wbDirty a line d p) → d.length = 64 →
        ∃ t, exec (.wbDirty a line) s = .next t ∧ t.bytes (line * 64) 64 = d ∧
          t.sectorPoison line = (s.sectorPoison line || p) ∧ s.onlyLine t line ∧
          t.dirEntry line = DirEntry.none ∧ t.coh.msgs = ms ++ [.wbAck a line]) ∧
      (first (.wbClean a line) →
        ∃ t, exec (.wbClean a line) s = .next t ∧ (∀ x, t.byte x = s.byte x) ∧ t.dirEntry line = DirEntry.none ∧
          t.coh.msgs = ms ++ [.wbAck a line]) ∧
      (∀ st u, first (.wbMove a line st d p) → s.line (128 + a / 64) line = Line.none → s.isDead (128 + a / 64) = false →
        taken.cacheRoom (128 + a / 64) line false = some u →
        ∃ t, exec (.wbMove a line) s = .next t ∧ t.line (128 + a / 64) line = ⟨st, .stable, d, p⟩ ∧
          t.dirEntry line = ⟨.dx, [128 + a / 64], false, n⟩ ∧ t.coh.msgs = u.coh.msgs ++ [.wbAck a line] ∧
          ∀ x, t.byte x = s.byte x))

/-- AMO, AMOCAS, LR and SC act on the newest bytes of their line. For a hart in M-mode with no PMP entry written,
whose access finds its line's home free, inside an aligned 16 bytes of DDR5 or direct HBM whose newest copy is
whole and not poisoned. AMO answers the old value and leaves the operation's result in memory, AMOCAS the new
value where the old one is as expected; no cache keeps the line, and no byte outside it changes. A 16-byte
AMOCAS is illegal, and an access where atomics are not taken is an access fault. LR of a line that the core
holds in M or E answers its bytes and reserves the line; of a line held nowhere, for which the L2 has room, it
fetches it in M first; in an uncached page it answers memory's bytes, reserves the line and fills no cache. SC
stores where the reservation holds, else fails and counts; either way, as at its expiry, the reservation is
gone. What is the model's choice or inference here: log entries 84 and 94. (11_host_cores_and_cache.md R311,
11_host_cores_and_cache.md R313, 11_host_cores_and_cache.md R312, 11_host_cores_and_cache.md Table HST-1,
12_coherence.md R346.) -/
def Obligations.AtomicsActOnTheNewestBytes : Prop :=
  ∀ (c pa : Nat) (s : State) (m : Pbmt),
    let line := pa / 64
    let d := (s.newest line).1
    let old := field d (pa % 64) 8
    (s.coreMay c pa 8 → pa / 16 = (pa + 7) / 16 → d.length = 64 → (s.newest line).2 = false → s.sectorPoison line = false →
      (∀ op v, ∃ t, exec (.amo c ⟨pa, m⟩ true op v) s = .next t ∧ (t.core c).result = .data (leBytes 8 old) ∧
        ofLe (t.bytes pa 8) = applyAmo op 64 old v.toNat ∧ t.unheld line ∧ s.onlyLine t line) ∧
      (∀ e new, ∃ t, exec (.amocas c ⟨pa, m⟩ 8 e new) s = .next t ∧ (t.core c).result = .data (leBytes 8 old) ∧
        ofLe (t.bytes pa 8) = (if old = e.toNat then new.toNat else old) ∧ t.unheld line ∧ s.onlyLine t line)) ∧
    (s.hostRuns = true → ∀ e new, exec (.amocas c ⟨pa, m⟩ 16 e new) s = .next (s.report c .illegal)) ∧
    (s.hostRuns = true → ∀ r w op v, s.backed pa (amoWidth w) = some r → r.amoOk = false →
      exec (.amo c ⟨pa, m⟩ w op v) s = .next (s.report c .accessFault) ∧ exec (.lr c ⟨pa, m⟩ w) s = .next (s.report c .accessFault) ∧
      exec (.sc c ⟨pa, m⟩ w v) s = .next (s.report c .accessFault)) ∧
    (∀ w v, s.coreMay c pa (amoWidth w) → pa % amoWidth w = 0 →
      ((s.line c line).serves true = true → (s.line c line).poison = false →
        (∃ t, exec (.lr c ⟨pa, .pma⟩ w) s = .next t ∧ (t.core c).result = .data (s.l2Bytes c pa (amoWidth w)) ∧
          (t.core c).reservation = some line ∧ t.coh = s.coh ∧ ∀ x, t.byte x = s.byte x) ∧
        ((s.core c).reservation = some line → (s.line c line).data.length = 64 →
          ∃ t, exec (.sc c ⟨pa, .pma⟩ w v) s = .next t ∧ (t.core c).result = .stored ∧ (t.core c).reservation = none ∧
            t.l2Bytes c pa (amoWidth w) = leBytes (amoWidth w) v.toNat ∧ (t.line c line).st = .m ∧
            ∀ x, t.byte x = s.byte x)) ∧
      (s.unheld line → s.sectorPoison line = false → s.dirSpace line = true → s.cacheRoom c line false ≠ none →
        ∃ t, exec (.lr c ⟨pa, .pma⟩ w) s = .next t ∧
          (t.core c).result = .data (((s.bytes (line * 64) 64).drop (pa % 64)).take (amoWidth w)) ∧
          (t.core c).reservation = some line ∧ t.line c line = ⟨.m, .stable, s.bytes (line * 64) 64, false⟩ ∧
          (t.dirEntry line).st = .dx ∧ (t.dirEntry line).ptrs = [c] ∧ ∀ x, t.byte x = s.byte x) ∧
      ((s.core c).reservation ≠ some line →
        ∃ t, exec (.sc c ⟨pa, m⟩ w v) s = .next t ∧ (t.core c).result = .scFail ∧ (t.core c).reservation = none ∧
          (t.core c).scFailures = (s.core c).scFailures + 1 ∧ t.coh = s.coh ∧ ∀ x, t.byte x = s.byte x) ∧
      (m ≠ .pma → s.quietCaches → s.sectorPoison line = false → s.fabric.up = 0xFFF → s.boot.diesInReset = [] →
        (∃ t, exec (.lr c ⟨pa, m⟩ w) s = .next t ∧ (t.core c).result = .data (s.bytes pa (amoWidth w)) ∧
          (t.core c).reservation = some line ∧ t.coh = s.coh ∧ ∀ x, t.byte x = s.byte x) ∧
        ((s.core c).reservation = some line →
          ∃ t, exec (.sc c ⟨pa, m⟩ w v) s = .next t ∧ (t.core c).result = .stored ∧ (t.core c).reservation = none ∧
            t.bytes pa (amoWidth w) = leBytes (amoWidth w) v.toNat ∧ s.onlyLine t line))) ∧
    exec (.lrReservationExpire c) s = .next (s.modCore c (fun x => { x with reservation := none }))

/-- Cache-block operations clean, flush, discard, zero and fetch the whole line. For a hart that its PMP does not
bind, whose access finds its line's home free. Of a line that agent o holds in M: CBO_CLEAN writes it to memory
and o keeps it in E, CBO_FLUSH (and CBO_INVAL, whose lookup meets no error in a cache, where CBIE is 1 in the
hart's mode) writes it and no cache keeps it, CBO_INVAL where CBIE is 3 discards it, and a dirty copy in the
extension too. CBO_ZERO leaves 64 zero bytes in memory, no poison and no cached copy. A prefetch of a line held
nowhere, for which the L2 has room, brings it in E, or in M for a write. In an uncached region a cache-block
operation has no effect. CBO_INVAL under any other CBIE is illegal. TIMER_COMPARE makes each timer interrupt
pending exactly while time is at or past its compare value; a run that times out leaves its detector. What is
the model's choice or inference here: log entries 84, 95, 96 and 192. (11_host_cores_and_cache.md R314,
11_host_cores_and_cache.md R317, 11_host_cores_and_cache.md R324, 12_coherence.md Table COH-5.) -/
def Obligations.CacheBlockOperationsAndTimers : Prop :=
  ∀ (c pa o n : Nat) (d : List Byte) (s : State) (m : Pbmt),
    let line := pa / 64
    (s.coreMay c pa 1 → d.length = 64 → o < 130 → s.dirEntry line = ⟨.dx, [o], false, n⟩ →
      s.holders line = [(o, ⟨.m, .stable, d, false⟩)] →
      let flushed := fun (t : State) => t.bytes (line * 64) 64 = d ∧ t.unheld line ∧ s.onlyLine t line ∧ (t.core c).result = .stored
      (∃ t, exec (.cboClean c pa m) s = .next t ∧ t.bytes (line * 64) 64 = d ∧ t.line o line = ⟨.e, .stable, d, false⟩ ∧
        t.dirEntry line = s.dirEntry line ∧ s.onlyLine t line ∧ (t.core c).result = .stored) ∧
      (∃ t, exec (.cboFlush c pa m) s = .next t ∧ flushed t) ∧
      ((s.core c).cbie = 1 → ∃ t, exec (.cboInval c pa m none) s = .next t ∧ flushed t) ∧
      ((s.core c).cbie = 3 → ∃ t, exec (.cboInval c pa m none) s = .next t ∧ t.unheld line ∧ s.onlyLine t line ∧
        (t.core c).result = .stored ∧
        ((∀ x, s.hbmDie (line * 64) = some x → s.extIsDirty x line = false) → ∀ x, t.byte x = s.byte x))) ∧
    (s.coreMay c (line * 64) 64 →
      ∃ t, exec (.cboZero c pa m) s = .next t ∧ t.bytes (line * 64) 64 = List.replicate 64 0 ∧ t.sectorPoison line = false ∧
        t.unheld line ∧ s.onlyLine t line ∧ (t.core c).result = .stored) ∧
    (s.coreMay c pa 1 → s.unheld line → s.dirSpace line = true → s.cacheRoom c line false ≠ none →
      (∃ t, exec (.prefetchR c pa .pma) s = .next t ∧ (∀ x, t.byte x = s.byte x) ∧
        t.line c line = ⟨.e, .stable, s.bytes (line * 64) 64, s.sectorPoison line⟩) ∧
      (∃ t, exec (.prefetchW c pa .pma) s = .next t ∧ (∀ x, t.byte x = s.byte x) ∧
        t.line c line = ⟨.m, .stable, s.bytes (line * 64) 64, s.sectorPoison line⟩)) ∧
    (s.hostRuns = true → s.unguarded c → ∀ q, s.backed pa 1 = some (.scratch q) →
      exec (.cboClean c pa m) s = .next (s.report c .stored) ∧ exec (.cboFlush c pa m) s = .next (s.report c .stored) ∧
      ((s.core c).cbie = 1 ∨ (s.core c).cbie = 3 → ∀ err, exec (.cboInval c pa m err) s = .next (s.report c .stored))) ∧
    (s.hostRuns = true → (s.core c).cbie ≠ 1 → (s.core c).cbie ≠ 3 → ∀ err, exec (.cboInval c pa m err) s = .next (s.report c .illegal)) ∧
    (∃ t, exec (.timerCompare c) s = .next t ∧ ((t.core c).mtip = true ↔ (s.core c).mtimecmp.toNat ≤ s.drone) ∧
      ((t.core c).stip = true ↔ (s.core c).stimecmp.toNat ≤ s.drone) ∧ t = { s with cores := t.cores }) ∧
    (∀ det run, ∃ t, exec (.streamRunTimeout det run) s = .next t ∧ t = { s with streams := t.streams } ∧
      Table.get [] t.streams det = (Table.get [] s.streams det).eraseIdx run)

/-- A core's loads, fetches and stores act by the attributes of the region they reach. An access that the PMP
refuses, that no backed region holds, or to configuration space of another size than 4 or 8 bytes naturally
aligned, is an access fault; else a load there answers its words, the low one first, and a store of 4 bytes
writes its word. A cached load of a line in the core's L2 answers its bytes, a vector load into its group of
registers too, or a hardware error where it is poisoned; of a line held nowhere, for which the L2 has room, it
brings the line in E and answers memory's bytes; a fetch of a line in the L1I answers what the L1I holds. A
cached store to a line that the core may write, from bytes or from vector registers, leaves it in M with the new
bytes and memory as it was. An uncached access that meets nothing open answers memory's bytes, or writes them
there, and counts. What is the model's choice or inference here: log entries 28, 98, 162, 171, 181 and 183.
(11_host_cores_and_cache.md R310, 11_host_cores_and_cache.md R311, 11_host_cores_and_cache.md R312,
11_host_cores_and_cache.md R319, 11_host_cores_and_cache.md Table HST-2, 01_package.md R33, 12_coherence.md
R350.) -/
def Obligations.CoresLoadAndStore : Prop :=
  ∀ (c pa n : Nat) (bs : List Byte) (s : State), s.hostRuns = true →
    let line := pa / 64
    let off := pa - cfgBase
    (∀ m err, (s.core c).pmpOk pa n .read = false → exec (.hostLoad c ⟨pa, m⟩ n ⟨.scalar, err⟩) s = .next (s.report c .accessFault)) ∧
    (∀ m, (s.core c).pmpOk pa bs.length .write = false → exec (.hostStore c pa (.bytes bs) m) s = .next (s.report c .accessFault)) ∧
    (regionOf pa ≠ some .config → s.backed pa n = none → ∀ m, exec (.hostLoad c ⟨pa, m⟩ n ⟨.scalar, none⟩) s = .next (s.report c .accessFault)) ∧
    (regionOf pa ≠ some .config → s.backed pa bs.length = none → ∀ m,
      exec (.hostStore c pa (.bytes bs) m) s = .next (s.report c .accessFault)) ∧
    (regionOf pa = some .config → cfgAccessOk off n = false → ∀ m err,
      exec (.hostLoad c ⟨pa, m⟩ n ⟨.scalar, err⟩) s = .next (s.report c .accessFault)) ∧
    (s.unguarded c → regionOf pa = some .config → s.cfgReaches c off = true → (∀ k o, placeOf off ≠ .pcie k o) → ∀ m err,
      (∀ ws u, cfgAccessOk off n = true → s.readWords off (n / 4) = (ws, u) →
        exec (.hostLoad c ⟨pa, m⟩ n ⟨.scalar, err⟩) s = .next (u.report c (.data (ws.flatMap (fun w => leBytes 4 w.toNat))))) ∧
      (bs.length = 4 → cfgAccessOk off 4 = true →
        exec (.hostStore c pa (.bytes bs) m) s = .next ((s.writeWord (.core c) off (loWord (ofLe bs))).report c .stored))) ∧
    (s.coreMay c pa n →
      ((s.line c line).serves false = true → (s.line c line).poison = false → (s.line c line).data.length = 64 →
        (∃ t, exec (.hostLoad c ⟨pa, .pma⟩ n ⟨.scalar, none⟩) s = .next t ∧
          (t.core c).result = .data (((s.line c line).data.drop (pa % 64)).take n) ∧ t.coh = s.coh ∧ ∀ x, t.byte x = s.byte x) ∧
        (∀ vd, ∃ t, exec (.hostLoad c ⟨pa, .pma⟩ n ⟨.vector vd, none⟩) s = .next t ∧
          (t.core c).group vd n = ((s.line c line).data.drop (pa % 64)).take n)) ∧
      ((s.line c line).serves false = true → (s.line c line).poison = true →
        ∃ t, exec (.hostLoad c ⟨pa, .pma⟩ n ⟨.scalar, none⟩) s = .next t ∧ (t.core c).result = .hwError ∧ t.coh = s.coh) ∧
      (s.unheld line → s.sectorPoison line = false → s.dirSpace line = true → s.cacheRoom c line false ≠ none →
        ∃ t, exec (.hostLoad c ⟨pa, .pma⟩ n ⟨.scalar, none⟩) s = .next t ∧
          (t.core c).result = .data (((s.bytes (line * 64) 64).drop (pa % 64)).take n) ∧
          t.line c line = ⟨.e, .stable, s.bytes (line * 64) 64, false⟩ ∧ ∀ x, t.byte x = s.byte x) ∧
      (Table.get [] (s.core c).l1i line ≠ [] →
        exec (.hostLoad c ⟨pa, .pma⟩ n ⟨.fetch false, none⟩) s =
          .next (s.report c (.data (((Table.get [] (s.core c).l1i line).drop (pa % 64)).take n)))) ∧
      (s.quietCaches → s.sectorPoison line = false → s.fabric.up = 0xFFF → s.boot.diesInReset = [] →
        ∃ t, exec (.hostLoad c ⟨pa, .nc⟩ n ⟨.scalar, none⟩) s = .next t ∧ (t.core c).result = .data (s.bytes pa n) ∧ t.coh = s.coh ∧
          (t.core c).uncached = (s.core c).uncached + 1 ∧ ∀ x, t.byte x = s.byte x)) ∧
    (∀ src vr, src = .bytes bs ∨ (src = .vector vr bs.length ∧ (s.core c).group vr bs.length = bs) → s.coreMay c pa bs.length →
      ((s.line c line).serves true = true → (s.line c line).data.length = 64 →
        ∃ t, exec (.hostStore c pa src .pma) s = .next t ∧ (t.core c).result = .stored ∧ (t.line c line).st = .m ∧
          t.l2Bytes c pa bs.length = bs ∧ ∀ x, t.byte x = s.byte x) ∧
      (s.quietCaches → s.sectorPoison line = false → s.fabric.up = 0xFFF → s.boot.diesInReset = [] →
        ∃ t, exec (.hostStore c pa src .nc) s = .next t ∧ (t.core c).result = .stored ∧ t.bytes pa bs.length = bs ∧
          (t.core c).uncached = (s.core c).uncached + 1 ∧ ∀ x, x < pa ∨ pa + bs.length ≤ x → t.byte x = s.byte x))

/-- Promotions, write groups and programmed pages move tiles with their bytes. From memory in canonical form, with
nothing waiting at the tier or at a home. A promotion that lands makes its tile resident, its bytes those of the
flash copy, which stays, and no byte outside the tile changes; where the read stayed uncorrectable every sector
of the tile is poisoned. A bypass read that is done stands in its buffer and changes no byte. A write group that
has been open for 100 microseconds is closed for programming. A page that is programmed puts each of its tiles
in flash with the bytes that memory held and poison where any of its sectors was. A program failure retires the
block, which comes off the spares, and the group still waits; the last spare makes the tier read-only. Garbage
collection moves no byte and no tile's state, whether its erases succeed or not, and does nothing where 64
blocks are free and wear is even. A checkpoint takes 262,144 tiles off the count. What is the model's choice or
inference here: log entries 61 and 103. (09_memory_tiers.md R262, 09_memory_tiers.md R265, 09_memory_tiers.md
R266, 09_memory_tiers.md R268, 09_memory_tiers.md R270, 09_memory_tiers.md Table TIR-6.) -/
def Obligations.TilesMoveBetweenFlashAndSlots : Prop :=
  ∀ (t ch x : Nat) (s : State), s.memWf = true → s.tierQuiet →
    let c := s.tier.channel ch
    (∀ n, s.running = true → (s.tile t).st = .p →
      ∃ u, exec (.promotionLands ⟨t, n⟩) s = .next u ∧ (u.tile t).st = .r ∧ (u.tile t).inFlash = true ∧ u.flash = s.flash ∧
        u.bytes (tileAddr t) 4096 = Table.range memDefault s.flash (tileAddr t) 4096 ∧
        (8 < n → ∀ i, i < 64 → u.sectorPoison (tileAddr t / 64 + i) = true) ∧
        ∀ a, a < tileAddr t ∨ tileAddr t + 4096 ≤ a → u.byte a = s.byte a) ∧
    (∀ n, s.running = true → (s.tile t).bypass = .asked → s.tileSt t = .f →
      ∃ u, exec (.bypassReadDone ⟨t, n⟩) s = .next u ∧ (u.tile t).bypass = .buffered ∧ (u.tile t).st = (s.tile t).st ∧
        u.flash = s.flash ∧ (8 < n → Table.get false u.flashPoison t = true) ∧ ∀ a, u.byte a = s.byte a) ∧
    (s.boot.held = false → c.open_ ≠ [] → c.firstAt + 100000 ≤ s.drone →
      ∃ u, exec (.writeGroupTimeout ch) s = .next u ∧ u = { s with tier := u.tier } ∧ (u.tier.channel ch).open_ = [] ∧
        (u.tier.channel ch).programming = c.programming ++ [c.open_] ∧ u.tier.tiles = s.tier.tiles ∧
        ∀ i, i ≠ ch → u.tier.channel i = s.tier.channel i) ∧
    (∀ g rest, c.programming = g :: rest → s.boot.held = false → s.flashHeld ch = false → g.Nodup →
      (∀ y ∈ g, (s.tile y).wanted = none) →
      ∃ u, exec (.pageProgrammed ch) s = .next u ∧ (u.tier.channel ch).programming = rest ∧
        (∀ y ∈ g, (u.tile y).st = .f ∧ Table.range memDefault u.flash (tileAddr y) 4096 = s.bytes (tileAddr y) 4096 ∧
          Table.get false u.flashPoison y = s.anyPoison (tileAddr y) 4096) ∧
        ∀ a, (∀ y ∈ g, a < tileAddr y ∨ tileAddr y + 4096 ≤ a) →
          u.byte a = s.byte a ∧ Table.get memDefault u.flash a = Table.get memDefault s.flash a) ∧
    (s.boot.held = false → c.programming ≠ [] →
      ∃ u, exec (.programFailure ch) s = .next u ∧ (u.tier.channel ch).programming = c.programming ∧
        (c.page s.tier.readOnly).1 ∈ (u.tier.channel ch).retired ∧ (u.tier.channel ch).spare = c.spare - 1 ∧
        (c.spare ≤ 1 → u.tier.readOnly = true) ∧ u.flash = s.flash ∧ ∀ a, u.byte a = s.byte a) ∧
    (∀ ok, (∃ u, exec (.garbageCollection ⟨ch, ok⟩) s = .next u ∧ u.tier.tiles = s.tier.tiles ∧ u.flash = s.flash ∧
        u.mem = s.mem ∧ (ok = true → u = { s with tier := u.tier })) ∧
      (64 ≤ c.free → c.blockErases = [] → exec (.garbageCollection ⟨ch, ok⟩) s = .next s)) ∧
    (s.boot.held = false → s.striped = false → 262144 ≤ Table.get 0 s.tier.checkpoints x →
      exec (.mapCheckpoint x) s = .next (s.modTier (fun z =>
        { z with checkpoints := Table.put 0 z.checkpoints x (Table.get 0 z.checkpoints x - 262144) })))

/-- A MIGRATE ends when its tiles stand where it moves them; a hint ends when it is taken. A started MIGRATE to HBM
ends when every tile of its range is resident, and asks for the promotion of one that stands in flash where a
slot can be had. A MIGRATE to flash ends when the last tile has reached it: a clean tile that no cache holds
goes there at once and flash keeps its bytes. A PREFETCH_HINT ends when the queues of its I/O dies have taken
its tiles: a tile in flash for which a slot can be had is promoted, one whose page is being programmed waits,
any other needs nothing; where a queue has its 4,096 requests and its die its 8,192 reads, the command waits.
What is the model's choice or inference here: log entries 41, 104 and 108. (09_memory_tiers.md R265,
09_memory_tiers.md R277, 09_memory_tiers.md Table TIR-6, 07_commands_and_queues.md R211.) -/
def Obligations.MigrationsAndHintsActOnTheirTiles : Prop :=
  ∀ (q j t : Nat) (idx : Word) (c : Cmd) (s : State),
    let done := s.setCmd q j { c with ran := true, status := if c.late then stOkLate else stOk }
    (s.underway q j idx opMigrate c → c.passes ≠ [] →
      (body c.desc 0x0C 1 = 0 → (∀ y ∈ c.tileRange, (s.tile y).st = .r ∨ (s.tile y).st = .d) →
        exec (.migrate q j idx) s = .next done) ∧
      (∀ u, body c.desc 0x0C 1 = 0 → c.tileRange = [t] → (s.tile t).st = .f → s.tileSt t = .f → s.takeSlot (t / 4) = .got u →
        ∃ v, exec (.migrate q j idx) s = .next v ∧ (v.tile t).st = .p) ∧
      (body c.desc 0x0C 1 ≠ 0 → c.migrating = [] → exec (.migrate q j idx) s = .next done) ∧
      (body c.desc 0x0C 1 ≠ 0 → c.migrating = [t] → (s.tile t).st = .r → (s.tile t).inFlash = true → s.quietCaches →
        s.coh.waiting = [] →
        ∃ v c', exec (.migrate q j idx) s = .next v ∧ (v.tile t).st = .f ∧ v.flash = s.flash ∧ (∀ a, v.byte a = s.byte a) ∧
          (v.queue q j).find idx = some c' ∧ c'.ran = true)) ∧
    (s.underway q j idx opPrefetch c → c.passes = [] → c.tileRange = [t] →
      (s.tier.hintQ = [] → s.flashReads (ioOf (tileChannel t)) < 8192 → s.nextRead (ioOf (tileChannel t)) = none →
        ∃ v c', exec (.prefetchHint q j idx) s = .next v ∧ (v.queue q j).find idx = some c' ∧
          c'.ran = true ∧ c'.status = (if c.late then stOkLate else stOk) ∧
          (s.tileSt t = .w → v.tier.hintQ = [t]) ∧ (s.tileSt t ≠ .f → s.tileSt t ≠ .w → v.tier.hintQ = []) ∧
          (∀ u, s.tileSt t = .f → s.takeSlot (t / 4) = .got u → (v.tile t).st = .p ∧ v.tier.hintQ = [])) ∧
      ((∀ y ∈ s.tier.hintQ, 8192 ≤ s.flashReads (ioOf (tileChannel y))) → s.hintsAt (ioOf (tileChannel t)) = 4096 →
        exec (.prefetchHint q j idx) s = .next (s.setCmd q j { c with passes := [(0, 1)], migrating := [t] })))

/-- Placement objects, the prefetch schedule and STRIPED regions act as their registers are written. By a port that
may write. Words 0 and 1 of an object that is not valid take base and size, those of a valid one ignore the
write. Setting valid with a range beyond the tier notes error 1, with an overlap error 2, and leaves the object
as it was; a write that breaks no rule makes it valid with its fields and error 0. With nothing waiting at the
tier: when evictions have been carried out, those left are of groups that still stand in a slot. Enabling the
schedule sets HEAD to TAIL; TAIL moves only within the ring. An entry that names no valid object moves HEAD on
and is noted; one not yet due waits; a RELEASE that is due moves HEAD on. Protection ends after 2^24 ticks and
counts late. A region command outside STRIPED mode is rejected with 5, during another with 2, for a region that
does not exist with 3, a LOAD from a source that is not populated DDR5 or direct HBM with 1; otherwise the
region is LOADING. When it ends with a spare for every block that failed the region is READY after a LOAD, with
the bytes in flash of the source that the LOAD began with, and EMPTY after an ERASE, with none; else it is
FAILED with error 4. What is the model's choice or inference here: log entries 105, 106 and 107.
(09_memory_tiers.md R274, 09_memory_tiers.md R278, 09_memory_tiers.md R279, 09_memory_tiers.md R280,
09_memory_tiers.md R282, 09_memory_tiers.md Table TIR-7, 09_memory_tiers.md Table TIR-11.) -/
def Obligations.ObjectsScheduleAndRegionsFollowTheirRules : Prop :=
  ∀ (p : Port) (k : Nat) (v : Word) (s : State), s.mayWrite p = true →
    let o := s.tier.object k
    let n := v.toNat
    let made : TObj := { o with pin := bits n 28 2, noevict := bit n 27, context := bits n 0 12, userHint := false,
                                home := bits n 24 3, valid := true }
    (k < 1024 →
      (o.valid = false → exec (.objectTableWrite p (4 * k) v) s = .next (s.setObject k { o with base := bits n 0 22 }) ∧
        exec (.objectTableWrite p (4 * k + 1) v) s = .next (s.setObject k { o with size := bits n 0 22 })) ∧
      (o.valid = true → exec (.objectTableWrite p (4 * k) v) s = .next s ∧ exec (.objectTableWrite p (4 * k + 1) v) s = .next s) ∧
      (o.valid = false → bit n 31 = true → bits n 28 2 < 3 → bits n 24 3 ≤ 4 →
        (s.tierUnits < o.base + o.size →
          ∃ t, exec (.objectTableWrite p (4 * k + 2) v) s = .next t ∧ t.tier.objErr = 1 ∧ t.tier.objects = s.tier.objects) ∧
        (o.base + o.size ≤ s.tierUnits → (∃ e ∈ s.tier.objects, e.1 ≠ k ∧ e.2.valid = true ∧ e.2.overlaps o = true) →
          ∃ t, exec (.objectTableWrite p (4 * k + 2) v) s = .next t ∧ t.tier.objErr = 2 ∧ t.tier.objects = s.tier.objects) ∧
        (s.objectError k made (bits n 24 3) = 0 →
          ∃ t, exec (.objectTableWrite p (4 * k + 2) v) s = .next t ∧ t.tier.objErr = 0 ∧ t.tier.object k = made ∧
            ∀ i, i ≠ k → t.tier.object i = s.tier.object i))) ∧
    (s.tierQuiet → ∃ t, exec .objectEvictDone s = .next t ∧ (∀ e ∈ t.tier.evicting, e ∈ t.heldGroups) ∧ t.tier.objects = s.tier.objects) ∧
    (∃ t, exec (.schedEnableWrite p v) s = .next t ∧ t.tier.schedEnable = bit n 31 ∧ t.tier.schedTail = s.tier.schedTail ∧
      (bit n 31 = true → s.tier.schedEnable = false → t.tier.schedHead = s.tier.schedTail)) ∧
    (∃ t, exec (.schedTailWrite p v) s = .next t ∧ t = { s with tier := t.tier } ∧
      t.tier.schedTail = if (v - s.tier.schedHead).toNat ≤ s.tier.schedSize then v else s.tier.schedTail) ∧
    (let z := s.tier
     let pa := z.schedBase.toNat + 32 * (z.schedHead.toNat % z.schedSize)
     s.running = true → z.schedEnable = true → z.schedHead ≠ z.schedTail → z.active.length < 64 → isTiered pa = false →
      s.hostClosed pa = false → s.readReady true pa 32 = true → s.readPoison true pa 32 = false →
      let bs := s.readPhys true pa 32
      let ob := z.object (field bs 0 2)
      (ob.valid = false → ∃ t, exec .schedEntryActivate s = .next t ∧ t.tier.schedHead = z.schedHead + 1 ∧
        t.tier.schedErr = z.schedHead ∧ t.tier.schedBad = true ∧ t.tier.active = z.active) ∧
      (ob.valid = true → field bs 0 2 ≤ 1023 → field bs 4 4 + field bs 8 4 ≤ ob.size * 512 → field bs 2 1 ≤ 1 → field bs 8 4 ≠ 0 →
        (s.time.step + field bs 3 1 < field bs 0x10 8 → ∃ t, exec .schedEntryActivate s = .next t ∧ t.tier = z) ∧
        (field bs 0x10 8 ≤ s.time.step + field bs 3 1 → field bs 2 1 = 1 →
          ∃ t, exec .schedEntryActivate s = .next t ∧ t.tier.schedHead = z.schedHead + 1 ∧ t.tier.schedBad = z.schedBad ∧
            t.tier.active = z.active ∧ t.tier.tiles = z.tiles))) ∧
    (∀ t, s.tierQuiet → (s.tile t).protTill.isSome = true → (s.tile t).protAt + 2 ^ 24 ≤ s.drone →
      ∃ u, exec (.protectionExpire t) s = .next u ∧ (u.tile t).protTill = none ∧ (u.tile t).st = (s.tile t).st ∧
        (u.tier.die (s.tierHome (t / 4))).late = satAdd 0xFFFFFFFF (s.tier.die (s.tierHome (t / 4))).late 1) ∧
    (∀ r,
      (s.striped = false → ∃ t u, exec (.regionLoad p r) s = .next t ∧ t.tier.regionErr = 5 ∧ t.tier.regions = s.tier.regions ∧
        exec (.regionErase p r) s = .next u ∧ u.tier.regionErr = 5 ∧ u.tier.regions = s.tier.regions) ∧
      (s.striped = true → s.tier.regionOp.isSome = true → ∃ t, exec (.regionLoad p r) s = .next t ∧ t.tier.regionErr = 2 ∧
        t.tier.regions = s.tier.regions) ∧
      (s.striped = true → s.tier.regionOp = none → 1983 < r → ∃ t, exec (.regionErase p r) s = .next t ∧ t.tier.regionErr = 3 ∧
        t.tier.regions = s.tier.regions) ∧
      (s.striped = true → s.tier.regionOp = none → r ≤ 1983 →
        (∃ t, exec (.regionErase p r) s = .next t ∧ t.region r = 1 ∧ t.tier.regionErr = 0 ∧
          t.tier.regionOp = some (r, false, s.tier.regionSrc.toNat)) ∧
        (s.sourceOk = true → ∃ t, exec (.regionLoad p r) s = .next t ∧ t.region r = 1 ∧ t.tier.regionErr = 0 ∧
          t.tier.regionOp = some (r, true, s.tier.regionSrc.toNat)) ∧
        (s.sourceOk = false → ∃ t, exec (.regionLoad p r) s = .next t ∧ t.tier.regionErr = 1 ∧ t.tier.regions = s.tier.regions)) ∧
      (∀ load src fails, s.tier.regionOp = some (r, load, src) → s.boot.held = false → s.tierQuiet → s.coh.lines = [] →
        ((s.failBlocks r fails).1 = true →
          ∃ t, exec (.regionOpDone fails) s = .next t ∧ t.region r = (if load then 2 else 0) ∧ t.tier.regionOp = none ∧
            (∀ a, t.byte a = s.byte a) ∧
            ∀ i, i < 2 ^ 32 → Table.get memDefault t.flash (0x100000000000 + r * 2 ^ 32 + i) =
              if load then s.byte (src + i) else memDefault) ∧
        ((s.failBlocks r fails).1 = false →
          ∃ t, exec (.regionOpDone fails) s = .next t ∧ t.region r = 3 ∧ t.tier.regionErr = 4 ∧ t.flash = s.flash ∧
            ∀ a, t.byte a = s.byte a)))

/-- The Drone is loaded once, slews afterwards, and steps pass at their boundaries. In a package not held in reset.
A package not yet synchronised that has a parent loads its time: the Drone moves by half of (t2 - t1) - (t4 -
t3), every queued wait keeps its remaining time, timer compares stay, queued boundaries are lost and noted. Once
loaded it never loads again; an exchange after 1,024 ticks measures the offset, and the Drone does not move by
it at once. A package that reaches no other is its own root with a priority, and runs free without one; one that
reaches a single synchronised candidate takes it as root. Running free clears synced and names no parent. A
boundary is queued when there is room and it lies past now and past all others; else the error is noted. When
the Drone reaches the head boundary, with the way to a linked object open and nothing waiting at the tier, the
step number rises by one and the linked object by one; no byte of memory changes. What is the model's choice or
inference here: log entries 111, 112, 113 and 114. (13_axis_links_and_drone.md R375, 13_axis_links_and_drone.md
R376, 13_axis_links_and_drone.md R377, 13_axis_links_and_drone.md R378, 13_axis_links_and_drone.md R379.) -/
def Obligations.TimeFollowsTheTorus : Prop :=
  ∀ (t1 t2 t3 t4 : Dword) (p : Port) (v : Word) (fits : List CalFit) (s : State), s.boot.held = false →
    let o := (((t2.toNat : Int) - t1.toNat) - ((t4.toNat : Int) - t3.toNat)).tdiv 2
    let b := s.time.bndHigh.toNat * 2 ^ 32 + v.toNat
    (s.time.loaded = false → s.hasParent = true →
      ∃ t, exec (.droneLoad t1 t2 t3 t4) s = .next t ∧ t.time.drone = ((s.time.drone : Int) + o).toNat % 2 ^ 64 ∧
        t.time.loaded = true ∧ t.time.synced = true ∧ t.time.bounds = [] ∧ (s.time.bounds ≠ [] → t.time.bndErr = true) ∧
        t.cores = s.cores ∧ t.mem = s.mem ∧ ∀ q j idx c, (s.queue q j).find idx = some c →
          (t.queue q j).find idx = some { c with deadline := c.deadline.map (fun d => ((d : Int) + o).toNat) }) ∧
    (s.time.loaded = true → exec (.droneLoad t1 t2 t3 t4) s = .next s) ∧
    (s.time.loaded = true → s.hasParent = true → s.time.lastExchange + 1024 ≤ s.drone →
      ∃ t, exec (.droneSyncExchange t1 t2 t3 t4) s = .next t ∧ t = { s with time := t.time } ∧ t.time.drone = s.time.drone ∧
        t.time.offset = o ∧ t.time.synced = decide (2 * o.natAbs ≤ 4 + s.time.hops)) ∧
    (0 < s.item 4 4 0 → ∃ t, exec (.rootElection []) s = .next t ∧ t = { s with time := t.time } ∧ t.time.isRoot = true ∧
      t.time.synced = true ∧ t.time.parent = 7 ∧ t.time.drone = s.time.drone) ∧
    (s.item 4 4 0 = 0 → ∃ t, exec (.rootElection []) s = .next t ∧ t.time.freeRun = true ∧ t.time.synced = false ∧
      t.time.isRoot = false ∧ t.time.parent = 7 ∧ t.time.drone = s.time.drone) ∧
    (∀ c n, c.at_ ≠ s.self → c.synced = true → 0 < c.priority → s.time.loaded = false →
      s.parentFor [s.selfCandidate, c] c.at_ = some n →
      ∃ t, exec (.rootElection [c]) s = .next t ∧ t.time.isRoot = false ∧ t.time.parent = n ∧
        t.time.rootAt = BitVec.ofNat 30 (coordsVal c.at_)) ∧
    (s.time.isRoot = false → ∃ t, exec .droneFreeRun s = .next t ∧ t.time.freeRun = true ∧ t.time.synced = false ∧
      t.time.parent = 7 ∧ t.time.drone = s.time.drone) ∧
    (s.mayWrite p = true →
      (s.time.bounds.length < 4 → s.time.drone ≤ b → (∀ x ∈ s.time.bounds, x < b) →
        exec (.stepBoundaryPush p v) s = .next { s with time := { s.time with bounds := s.time.bounds ++ [b] } }) ∧
      (4 ≤ s.time.bounds.length ∨ b < s.time.drone ∨ (∃ x ∈ s.time.bounds, b ≤ x) →
        exec (.stepBoundaryPush p v) s = .next { s with time := { s.time with bndErr := true } })) ∧
    (∀ h rest, s.time.bounds = h :: rest →
      (h ≤ s.drone → s.boot.diesInReset.contains (objDie s.time.linkObj) = false →
        s.pathUp (syncFrom .stepUnit) (objDie s.time.linkObj) 0 = true → s.tierQuiet →
        ∃ t, exec (.stepBoundary fits) s = .next t ∧ t.time.step = (s.time.step + 1) % 2 ^ 64 ∧ t.time.bounds = rest ∧
          t.syncVal s.time.linkObj = s.syncVal s.time.linkObj + (if s.time.linkEn then 1 else 0) ∧
          (∀ y, y ≠ s.time.linkObj → t.syncVal y = s.syncVal y) ∧ ∀ a, t.byte a = s.byte a) ∧
      (s.drone < h → exec (.stepBoundary fits) s = .next s))

/-- A mode change moves rail and divider in order, waits for stretches, and is abandoned when it waits too long. In
a package not held in reset. A write of PWR_MODE of a mode other than the one in force starts a change of every
compute die, during a change it waits as the request, and a reserved mode changes no request. To a faster
divider a die's rail rises first by at most 5 mV, then the divider falls by one; to a slower one the divider
rises first. A step of the rail that its regulator does not acknowledge leaves the rail and defers the move. A
droop or FLOOR stretch defers the move. When the last die has finished, the mode is in force. A move deferred
for more than 2 microseconds abandons the change: every die has the divider and rail of the mode being left. A
droop trip stretches its die's clock and counts; a release ends the stretch and takes a threshold that waited.
What is the model's choice or inference here: log entries 23, 115, 116, 117 and 118. (16_power_clocks_thermal.md
R421, 16_power_clocks_thermal.md R424, 16_power_clocks_thermal.md R426, 16_power_clocks_thermal.md R427,
16_power_clocks_thermal.md R428, 16_power_clocks_thermal.md Table PWR-8, 19_signals_and_mechanical.md R478.) -/
def Obligations.ModesChangeStepByStep : Prop :=
  ∀ (p : Port) (v : Word) (d : Nat) (s : State), s.boot.held = false →
    let m := bits v.toNat 30 2
    let x := s.diePower d
    let g := s.modeDivider s.power.target
    let mv := fusedMv d s.power.target
    (s.mayWrite p = true →
      (m ≠ 3 → m ≠ s.power.cur → s.power.transition = false →
        ∃ t, exec (.pwrModeWrite p v) s = .next t ∧ t.power.req = m ∧ t.power.target = m ∧ t.power.transition = true ∧
          t.power.cur = s.power.cur ∧ ∀ i, i < 4 → (t.diePower i).stepDone = false ∧
            (t.diePower i).divider = (s.diePower i).divider ∧ (t.diePower i).railMv = (s.diePower i).railMv) ∧
      (m ≠ 3 → s.power.transition = true →
        ∃ t, exec (.pwrModeWrite p v) s = .next t ∧ t.power.req = m ∧ t.power.queuedReq = some m ∧
          t.power.target = s.power.target ∧ t.power.dies = s.power.dies) ∧
      (m = 3 → ∃ t, exec (.pwrModeWrite p v) s = .next t ∧ t.power.req = s.power.req ∧ t.power.target = s.power.target ∧
        t.power.transition = s.power.transition)) ∧
    (d < 4 → s.power.transition = true → x.stepDone = false → x.nextRamp ≤ s.drone →
      (s.stretched d = false → x.lastStretch = 0 →
        (g < x.divider → x.railMv < mv → ∃ t, exec (.modeStep d) s = .next t ∧
          (t.diePower d).divider = x.divider ∧ ((t.diePower d).railMv = min mv (x.railMv + 5) ∨
            (t.diePower d).railMv = x.railMv ∧ (t.diePower d).deferredAt = some (x.deferredAt.getD s.drone))) ∧
        (g < x.divider → x.railMv = mv → ∃ t, exec (.modeStep d) s = .next t ∧
          (t.diePower d).railMv = mv ∧ (t.diePower d).divider = x.divider - 1) ∧
        (x.divider < g → ∃ t, exec (.modeStep d) s = .next t ∧
          (t.diePower d).railMv = x.railMv ∧ (t.diePower d).divider = x.divider + 1) ∧
        (x.divider = g → mv < x.railMv → ∃ t, exec (.modeStep d) s = .next t ∧
          (t.diePower d).divider = g ∧ ((t.diePower d).railMv = max mv (x.railMv - 5) ∨
            (t.diePower d).railMv = x.railMv ∧ (t.diePower d).deferredAt = some (x.deferredAt.getD s.drone)))) ∧
      (s.stretched d = true → x.divider ≠ g ∨ x.railMv ≠ mv → ∃ t, exec (.modeStep d) s = .next t ∧
        (t.diePower d).deferredAt = some (x.deferredAt.getD s.drone) ∧ (t.diePower d).railMv = x.railMv ∧
        (t.diePower d).divider = x.divider ∧ t.power.transition = true) ∧
      (x.divider = g → x.railMv = mv → s.power.queuedReq = none → (∀ i, i < 4 → i ≠ d → (s.diePower i).stepDone = true) →
        ∃ t, exec (.modeStep d) s = .next t ∧ t.power.cur = s.power.target ∧ t.power.transition = false)) ∧
    (s.power.transition = true → s.power.queuedReq = none → (∃ i at_, i < 4 ∧ (s.diePower i).deferredAt = some at_ ∧ at_ + 2000 < s.drone) →
      ∃ t, exec .modeChangeAbandon s = .next t ∧ t.power.abandoned = true ∧ t.power.transition = false ∧
        t.power.cur = s.power.cur ∧ ∀ i, i < 4 → (t.diePower i).divider = s.modeDivider s.power.cur ∧
          (t.diePower i).railMv = fusedMv i s.power.cur) ∧
    (d < 8 → x.droop = false → ∃ t, exec (.droopTrip d) s = .next t ∧ (t.diePower d).droop = true ∧
      (t.diePower d).trips = min 0xFFFFFFFF (x.trips + 1) ∧ t.stretched d = true ∧ ∀ i, i ≠ d → t.diePower i = s.diePower i) ∧
    (x.droop = true → ∃ t, exec (.droopRelease d) s = .next t ∧ (t.diePower d).droop = false ∧
      (t.diePower d).lastStretch = s.drone ∧ (t.diePower d).threshold = x.pendingThreshold.getD x.threshold ∧
      ∀ i, i ≠ d → t.diePower i = s.diePower i)

/-- Each interval's energy is charged and moves the cap's level; alerts and heat stretch clocks. In a package not
held in reset. An interval adds to the package's energy exactly the whole nanojoules that its charges bring, and
one context that ran alone on a compute die bears the energy of its multiply-accumulates at the die's rail
voltage, of its HBM lines, and, where that is not 0, the die's static energy, which is else unattributed.
Outside FULL the cap's level is 0, during FLOOR it stays, and in FULL it rises while the mean is above the cap.
An honoured regulator alert puts every die at FLOOR and counts; one that is not honoured does nothing. FLOOR
ends once the cycle in which 100 microseconds have passed since the last assertion is over, and not before. A
sample at 100 degrees or more raises its die's level by 2 up to 16, at 97 or less lowers it by 1; a stack at 100
degrees halves its rate; a module at 90 suspends programs. A sensor at its trip limit stops the device, below it
nothing happens. What is the model's choice or inference here: log entries 119, 120, 121, 189 and 190.
(16_power_clocks_thermal.md R425, 16_power_clocks_thermal.md R429, 16_power_clocks_thermal.md R430,
16_power_clocks_thermal.md R431, 16_power_clocks_thermal.md R434, 16_power_clocks_thermal.md R435,
16_power_clocks_thermal.md Table PWR-6.) -/
def Obligations.EnergyAlertsAndHeatSetTheLevels : Prop :=
  ∀ (s : State), s.boot.held = false →
    (∀ e, ∃ t, exec (.energyInterval e) s = .next t ∧
      t.power.energy = s.power.energy + (t.power.charged - s.power.charged) ∧ (∀ a, t.byte a = s.byte a) ∧
      (s.power.cur ≠ 0 → t.power.capL = 0) ∧ (s.power.cur = 0 → s.anyFloor = true → t.power.capL = s.power.capL) ∧
      (s.power.cur = 0 → s.anyFloor = false → s.cap * 1000000 < t.power.history.sum → s.power.capL ≤ 16 →
        s.power.capL < t.power.capL ∨ t.power.capL = 16)) ∧
    (∀ (a : DieActivity) (c m l : Nat), a.die < 4 → a.events = [⟨some c, [(.macFp8, m), (.hbmLine, l)]⟩] → s.power.calModes = [] →
      let dyn := m * Config.energyCoef a.die .macFp8 * a.mv ^ 2 * 106 / (750 ^ 2 * 100) + l * Config.energyCoef a.die .hbmLine
      let static := staticFj a.die a.mv a.temp * 106 / 100
      ∃ t, exec (.energyInterval [a]) s = .next t ∧ (t.diePower a.die).mv = a.mv ∧ (t.diePower a.die).amps = a.amps ∧
        t.power.unattr = s.power.unattr + (if dyn = 0 then static else 0) ∧
        Table.get 0 t.power.ctxEnergy c = Table.get 0 s.power.ctxEnergy c + dyn + (if dyn = 0 then 0 else static)) ∧
    (∀ b, b < 8 →
      (bit (s.item 6 3 0) b = true → ∃ t, exec (.vrAlert b) s = .next t ∧ (∀ d, t.dieFloor d = true) ∧
        t.power.events = min 0xFF (s.power.events + 1) ∧ t.power.seen.getLsbD b = true ∧ t.power.level.getLsbD b = true ∧
        t.power.alertAt = s.drone) ∧
      (bit (s.item 6 3 0) b = false → exec (.vrAlert b) s = .next s)) ∧
    (s.power.floorAlert = true →
      (s.power.alertAt + 100000 < s.drone → s.power.alertAt + 100000 ≤ s.time.prev → ∃ t, exec .floorExit s = .next t ∧ t.power.floorAlert = false ∧ t.power.level = 0 ∧
        ∀ d, d < 8 → (t.diePower d).lastStretch = s.drone) ∧
      (s.drone ≤ s.power.alertAt + 100000 → exec .floorExit s = .next s)) ∧
    (∀ r : ThermalReadings, ∃ t, exec (.thermalSample r) s = .next t ∧ (∀ a, t.byte a = s.byte a) ∧
      (∀ i sn c, i < 8 → r.dies[i]? = some (sn, c) → (t.diePower i).sensor = sn ∧ (t.diePower i).hottest = c ∧
        (t.diePower i).thermL = if 100 ≤ c then min 16 ((s.diePower i).thermL + 2)
          else if c ≤ 97 then (s.diePower i).thermL - 1 else (s.diePower i).thermL) ∧
      (∀ i c, i < 16 → r.hbm[i]? = some c → Table.get 0 t.power.hbm i = c ∧
        (100 ≤ c → Table.get false t.power.hbmSlow i = true) ∧ (c ≤ 95 → Table.get false t.power.hbmSlow i = false)) ∧
      (∀ i c, i < 8 → r.flash[i]? = some c → (90 ≤ c → Table.get false t.power.flashSuspended i = true) ∧
        (c ≤ 80 → Table.get false t.power.flashSuspended i = false))) ∧
    (∀ d sn c, let limit := if d < 4 ∧ 36 ≤ sn then 110 else 115
      (limit ≤ c → ∃ t, exec (.thermalTrip d sn c) s = .next t ∧ t.power.trip = true ∧ t.boot.thermtrip = true ∧
        t.log.fatal = true ∧ t.running = false) ∧
      (c < limit → exec (.thermalTrip d sn c) s = .next s))

/-- A marked unit is replayed three times and no more, and errors raise scores and poison. A check of a station that
fires on a unit of a running command that holds it: up to three times the unit is replayed, which is counted and
adds 1 to the quad's score, and the command goes on; the fourth ends the command REPLAY_EXHAUSTED and adds 16. A
control error is not replayed, an error in state that the quad's commands share is FATAL, and a check that the
station does not have changes nothing. A margin warning adds 8; a quad whose score comes to 64 is suspect. A
decay takes 1 off every score and changes nothing else. An extension's error window that closes below four
errors clears its count, and does nothing earlier. A scrub of a memory word that no cache holds: a clean one
changes nothing, a corrected one only makes a record, an uncorrectable one poisons its sector and no other and
leaves every byte; an uncorrectable error in a modified line poisons it there. What is the model's choice or
inference here: log entries 21, 58, 97 and 100. (15_resilience.md R399, 15_resilience.md R400, 15_resilience.md
R403, 15_resilience.md R404, 15_resilience.md R405, 15_resilience.md R406, 11_host_cores_and_cache.md R325.) -/
def Obligations.ChecksScoresAndScrub : Prop :=
  ∀ (q j stn unit check : Nat) (idx : Word) (c : Cmd) (s : State),
    (s.quadRuns q = true → (s.queue q j).find idx = some c → c.phase = .running → c.ran = false →
      c.held.any (fun p => decide (p.1 = stn)) = true →
      let k := stn * 2 ^ 32 + unit
      let n := Table.get 0 c.passes k
      let x := s.quad q
      (s.hasCheck stn check = true → check ≠ 5 → n < 3 → ∃ t c', exec (.replayUnit q j idx stn unit check) s = .next t ∧ (t.queue q j).find idx = some c' ∧
        Table.get 0 c'.passes k = n + 1 ∧ c'.ran = false ∧ (t.quad q).replays = min 0xFFFF (x.replays + 1) ∧
        (t.quad q).score = min 0xFFFF (x.score + 1) ∧ ∀ a, t.byte a = s.byte a) ∧
      (s.hasCheck stn check = true → check ≠ 5 → 3 ≤ n → ∃ t c', exec (.replayUnit q j idx stn unit check) s = .next t ∧ (t.queue q j).find idx = some c' ∧
        c'.ran = true ∧ c'.status = stReplayExhausted ∧ (t.quad q).exhausted = min 0xFF (x.exhausted + 1) ∧
        (t.quad q).score = min 0xFFFF (x.score + 16)) ∧
      (check = 5 → ∃ t c', exec (.replayUnit q j idx stn unit check) s = .next t ∧ (t.queue q j).find idx = some c' ∧
        c'.ran = true ∧ c'.status = stReplayExhausted ∧ (t.quad q).control = min 0xFF (x.control + 1) ∧
        (t.quad q).replays = x.replays) ∧
      (s.hasCheck stn check = false → check ≠ 6 → exec (.replayUnit q j idx stn unit check) s = .next s) ∧
      (check = 6 → ∃ t, exec (.replayUnit q j idx stn unit check) s = .next t ∧ t.log.fatal = true ∧ t.running = false)) ∧
    (s.boot.held = false →
      (s.present q = true → ∃ t, exec (.marginWarning q) s = .next t ∧ (t.quad q).score = min 0xFFFF ((s.quad q).score + 8) ∧
        ((s.quad q).score < 64 → 64 ≤ (s.quad q).score + 8 → (t.quad q).suspect = true) ∧ ∀ p, p ≠ q → t.quad p = s.quad p) ∧
      ((s.quads.map Prod.fst).Nodup → ∃ t, exec .suspicionDecay s = .next t ∧ t = { s with quads := t.quads } ∧
        ∀ p, t.quad p = { s.quad p with score := (s.quad p).score - 1 }) ∧
      (∀ pa src d u, s.holders (pa / 64) = [] → s.hbmDie pa = none → s.wordPlace pa = some (src, d, u) →
        bit (s.item 2 3 0) (scrubBit src) = false →
        exec (.scrubRead pa .clean) s = .next s ∧
        (∃ t, exec (.scrubRead pa .corrected) s = .next t ∧ t = { s with log := t.log }) ∧
        (∃ t, exec (.scrubRead pa .uncorrectable) s = .next t ∧ t.sectorPoison (pa / 64) = true ∧
          (∀ i, i ≠ pa / 64 → t.sectorPoison i = s.sectorPoison i) ∧ ∀ a, t.byte a = s.byte a)) ∧
      (∀ pa a x, s.holders (pa / 64) = [(a, x)] → x.st = .m → x.tr = .stable → bit (s.item 2 3 0) 1 = false →
        s.pinned (pa / 64) = false → ∃ t, exec (.scrubRead pa .uncorrectable) s = .next t ∧
          t.line a (pa / 64) = { x with poison := true } ∧ ∀ b, t.byte b = s.byte b)) ∧
    (∀ d w, let x := Table.get ExtWay.reset s.extWays (d * 16 + w)
      (0 < x.errors → x.errors < 4 → x.opened + s.extWindow d ≤ s.drone → ∃ t, exec (.extErrorWindowExpire d w) s = .next t ∧
        t = { s with extWays := t.extWays } ∧ Table.get ExtWay.reset t.extWays (d * 16 + w) = ExtWay.reset) ∧
      (s.drone < x.opened + s.extWindow d → exec (.extErrorWindowExpire d w) s = .next s))

/-- Staged records leave in turn and are written whole, or are counted lost by class. A merge window that has run
for 2^20 ticks closes its record. In a package not held in reset, the record next in turn is written as 64 bytes
with its index at its slot of the ring, nothing else in memory changes, it leaves its queue and the write index
moves on. With no room a CE or DUE_R record is lost and counted, and while nothing may leave, nothing changes.
By a port that may write: enabling the log with a ring that fits sets WRITE to READ and takes its size, one that
does not fit stays disabled, clearing enable disables it, and a write while it is enabled changes neither size
nor indices. A write of READ sets it. What is the model's choice or inference here: log entry 125.
(15_resilience.md R413, 15_resilience.md R414, 15_resilience.md R415, 15_resilience.md R416, 15_resilience.md
R420, 15_resilience.md Table RES-9.) -/
def Obligations.RecordsReachTheLog : Prop :=
  ∀ (d k : Nat) (p : Port) (v : Word) (r : ErrRec) (s : State),
    let l := s.log
    let n := bits v.toNat 0 5
    ((l.queue d)[k]? = some r → r.open_ = true → r.drone + 2 ^ 20 ≤ s.drone →
      exec (.ceMergeExpire d k) s = .next { s with log := l.setQueue d ((l.queue d).set k { r with open_ := false }) }) ∧
    (s.boot.held = false →
      (s.nextRecord = some (d, k, r) → s.logRoom = true → s.quietCaches → l.base.toNat % 64 = 0 → isTiered (l.slotAt l.write) = false →
        ∃ t, exec .recordToLog s = .next t ∧ t.log.write = l.write + 1 ∧ t.log.queue d = (l.queue d).eraseIdx k ∧
          t.hasBytes (l.slotAt l.write) ({ r with flags := r.flags % 8 + flag l.lostSince 3 }.bytes l.write) ∧
          t.log.lostSince = false ∧ ∀ a, a < l.slotAt l.write ∨ l.slotAt l.write + 64 ≤ a → t.byte a = s.byte a) ∧
      (s.nextRecord = some (d, k, r) → s.logRoom = false → r.cls < 2 →
        ∃ t, exec .recordToLog s = .next t ∧ t = { s with log := t.log } ∧ t.log.queue d = (l.queue d).eraseIdx k ∧
          t.log.lost = min 0xFFFFFFFF (l.lost + 1) ∧ t.log.lostSince = true) ∧
      (s.nextRecord = none → exec .recordToLog s = .next s)) ∧
    (s.mayWrite p = true →
      (bit v.toNat 31 = true → l.enable = false → 6 ≤ n → n ≤ 20 → s.logFits l.base.toNat (2 ^ n) = true →
        exec (.errLogCtrlWrite p v) s = .next { s with log := { l with log2Size := n, enable := true, write := l.read } }) ∧
      (bit v.toNat 31 = true → l.enable = false → 6 ≤ n → n ≤ 20 → s.logFits l.base.toNat (2 ^ n) = false →
        exec (.errLogCtrlWrite p v) s = .next { s with log := { l with log2Size := n } }) ∧
      (bit v.toNat 31 = true → l.enable = true → exec (.errLogCtrlWrite p v) s = .next s) ∧
      (bit v.toNat 31 = false → ∃ t, exec (.errLogCtrlWrite p v) s = .next t ∧ t.log.enable = false ∧ t.log.read = l.read ∧
        t.log.write = l.write) ∧
      exec (.errLogReadWrite p v) s = .next { s with log := { l with read := v } })

/-- Management messages answer OK with their data, or say what is wrong and change nothing. For a management port n.
GET_INFO, ATTEST with a nonce of 32 bytes and GET_CERT are answered once the package is out of reset; another
nonce is INVALID. REG_READ of 1 to 16 aligned backed words answers them, REG_WRITE by the holder writes them; a
run of another form is INVALID, an unbacked one ERROR, and without the semaphore a write is NO_SEM and changes
nothing. LOG_READ answers a record of the log by index or a die's staged records; an index that holds none is
INVALID. DEBUG is DENIED where the image does not permit it, else it reaches the hart's debug module: it reads
the CSRs that the hart holds, reads time as the Drone, ignores a write of it, and writes mtimecmp and vector
registers; what another request answers the spec leaves open. What is the model's choice or inference here: log
entries 29, 156, 158, 162 and 182. (17_configuration_and_security.md R452, 17_configuration_and_security.md
R454, 17_configuration_and_security.md R456, 17_configuration_and_security.md R458,
17_configuration_and_security.md Table CFG-6, 17_configuration_and_security.md Table CFG-7,
11_host_cores_and_cache.md R309, 11_host_cores_and_cache.md R317.) -/
def Obligations.ManagementMessagesAreAnswered : Prop :=
  ∀ (p : Port) (n : Nat) (s : State), portNo p = some n →
    let told := fun (t : State) (code : Nat) => s.onlyAnswer t ∧ (t.mgmtAnswer n).code = code
    (s.boot.held = false →
      (∃ t, exec (.getInfo p) s = .next t ∧ told t ccOk ∧
        (t.mgmtAnswer n).words = [loWord (s.pkgReg 0x00), loWord (s.pkgReg 0x04), loWord (s.pkgReg 0x08), loWord (s.pkgReg 0x500),
          loWord (s.pkgReg 0x524)]) ∧
      (∀ nonce, nonce.length = 32 → ∃ t, exec (.attest p nonce) s = .next t ∧ told t ccOk ∧
        (t.mgmtAnswer n).bytes = s.report512 nonce ++ Config.slhSign (s.report512 nonce)) ∧
      (∀ nonce, nonce.length ≠ 32 → ∃ t, exec (.attest p nonce) s = .next t ∧ told t ccInvalid) ∧
      (∃ t, exec (.getCert p) s = .next t ∧ told t ccOk ∧ (t.mgmtAnswer n).bytes = Config.identityKey ++ Config.certificate)) ∧
    (s.mayRead p = true →
      (∀ off m ws u, 0 < m → m ≤ 16 → off % 4 = 0 → cfgBacked off (4 * m) = true → s.readWords off m = (ws, u) →
        ∃ t, exec (.regRead p off m) s = .next t ∧ u.onlyAnswer t ∧ t.mgmtAnswer n = ⟨ccOk, ws, []⟩) ∧
      (∀ off m, m = 0 ∨ 16 < m ∨ off % 4 ≠ 0 → ∃ t, exec (.regRead p off m) s = .next t ∧ told t ccInvalid) ∧
      (∀ off m, 0 < m → m ≤ 16 → off % 4 = 0 → cfgBacked off (4 * m) = false →
        ∃ t, exec (.regRead p off m) s = .next t ∧ told t ccError) ∧
      (∀ d, d < 8 → ∃ t, exec (.logRead p (.staging d)) s = .next t ∧ told t ccOk ∧
        (t.mgmtAnswer n).bytes = (s.log.queue d).flatMap (fun r => r.bytes 0xFFFFFFFF)) ∧
      (∀ i, let back := (s.log.write - i).toNat
        (s.log.enable = true → 0 < back → back ≤ s.log.size → s.coh.closed = false → s.readPoison true (s.log.slotAt i) 64 = false →
          ∃ t, exec (.logRead p (.log i)) s = .next t ∧ told t ccOk ∧ (t.mgmtAnswer n).bytes = s.readPhys true (s.log.slotAt i) 64) ∧
        (s.log.enable = false ∨ back = 0 ∨ s.log.size < back → ∃ t, exec (.logRead p (.log i)) s = .next t ∧ told t ccInvalid))) ∧
    (s.mgmtOpen = true →
      (s.holdsSem p = false → (∀ off vs, ∃ t, exec (.regWrite p off vs) s = .next t ∧ told t ccNoSem) ∧
        ∀ h r, ∃ t, exec (.debug p h r) s = .next t ∧ told t ccNoSem) ∧
      (s.holdsSem p = true →
        (∀ off vs, vs ≠ [] → vs.length ≤ 16 → off % 4 = 0 → cfgBacked off (4 * vs.length) = true →
          exec (.regWrite p off vs) s = .next ((s.writeWords p off vs).replyCode p ccOk)) ∧
        (∀ off vs, vs = [] ∨ 16 < vs.length ∨ off % 4 ≠ 0 → ∃ t, exec (.regWrite p off vs) s = .next t ∧ told t ccInvalid) ∧
        (s.item 8 0x15 0 = 0 → ∀ h r, ∃ t, exec (.debug p h r) s = .next t ∧ told t ccDenied) ∧
        (s.item 8 0x15 0 ≠ 0 → ∀ h, h < 128 →
          (∀ r, ∃ t, exec (.debug p h (.module r)) s = .next t ∧ (t.mgmtAnswer n).code = ccOk ∧
            (t.mgmtAnswer n).words.length = 2 ∧ t.cfg.debug = s.cfg.debug ++ [(h, r)]) ∧
          (∀ k v, s.csr h k = some v → ∃ t, exec (.debug p h (.csrRead k)) s = .next t ∧ s.onlyAnswer t ∧
            t.mgmtAnswer n = ⟨ccOk, [loWord v, hiWord v], []⟩) ∧
          (∃ t, exec (.debug p h .timeRead) s = .next t ∧ s.onlyAnswer t ∧
            t.mgmtAnswer n = ⟨ccOk, [loWord s.drone, hiWord s.drone], []⟩) ∧
          (∀ v, (∃ t, exec (.debug p h (.timeWrite v)) s = .next t ∧ told t ccOk) ∧
            ∃ t, exec (.debug p h (.timecmpWrite v)) s = .next t ∧ (t.core h).mtimecmp = v ∧ (t.mgmtAnswer n).code = ccOk) ∧
          (∀ r bs, ∃ t, exec (.debug p h (.vecWrite r bs)) s = .next t ∧ (t.core h).vreg r = bs ∧ (t.mgmtAnswer n).code = ccOk))))

/-- The semaphore is a lease, and a transaction applies whole or leaves every item as it was. For a management port
of an open management unit. SEM_ACQUIRE of a free semaphore takes it for 10^10 ticks, of a held one answers BUSY
with the holder; SEM_RENEW by the holder starts the lease anew; its release, as its expiry, frees it, ends fault
injection on every link and rolls back the holder's open transaction. A transaction opens empty, BUSY while one
is there. Up to 8 items that may be changed are staged, each item once; other lists are refused and leave the
staged list. A commit that passes verification starts the commit phase, one that fails is rolled back, as is one
that the owner or the deadline ends, with every item as it was. When all is quiet the apply is scheduled (171
ticks, log entry 138); then the staged items are in force and the result is 1. What is the model's choice or
inference here: log entries 134, 135, 136, 137, 138, 189 and 193. (17_configuration_and_security.md R446,
17_configuration_and_security.md R447, 17_configuration_and_security.md R448, 17_configuration_and_security.md
R453, 13_axis_links_and_drone.md R373.) -/
def Obligations.TransactionsApplyWholeOrNotAtAll : Prop :=
  ∀ (p : Port) (n : Nat) (s : State), portNo p = some n →
    let c := s.cfg
    let rolled := fun (t : State) (result : Nat) => t.cfg.txnState = 0 ∧ t.cfg.txnResult = result ∧ t.cfg.staged = [] ∧
      t.cfg.items = c.items
    let freed := fun (t : State) => t.cfg.holder = 0 ∧ (∀ i, (t.link i).fiEnable = false) ∧
      (c.txnState = 1 → c.txnOwner = c.holder → rolled t 4)
    (s.mgmtOpen = true →
      (c.holder = 0 → ∃ t, exec (.semAcquire p) s = .next t ∧ t.cfg.holder = n + 1 ∧ t.cfg.leaseEnd = s.drone + 10000000000 ∧
        (t.mgmtAnswer n).code = ccOk) ∧
      (c.holder ≠ 0 → ∃ t, exec (.semAcquire p) s = .next t ∧ s.onlyAnswer t ∧ (t.mgmtAnswer n).code = ccBusy ∧
        (t.mgmtAnswer n).words.head? = some (BitVec.ofNat 32 c.holder)) ∧
      (s.holdsSem p = true →
        (∃ t, exec (.semRenew p) s = .next t ∧ t.cfg.leaseEnd = s.drone + 10000000000 ∧ t.cfg.holder = c.holder) ∧
        ((s.links.map Prod.fst).Nodup → ∃ t, exec (.semRelease p) s = .next t ∧ freed t) ∧
        (c.txnState = 0 → ∃ t, exec (.txnBegin p) s = .next t ∧ t.cfg.txnState = 1 ∧ t.cfg.txnOwner = n + 1 ∧ t.cfg.staged = []) ∧
        (c.txnState ≠ 0 → ∃ t, exec (.txnBegin p) s = .next t ∧ s.onlyAnswer t ∧ (t.mgmtAnswer n).code = ccBusy) ∧
        (c.txnState = 1 → c.txnOwner = n + 1 →
          (∀ l : List CfgItem, l ≠ [] → l.length ≤ 8 → l.all s.mayStage = true → (l.foldl stageItem c.staged).length ≤ 1024 →
            ∃ t, exec (.txnStage p l) s = .next t ∧ t.cfg.staged = l.foldl stageItem c.staged ∧ t.cfg.items = c.items ∧
              (t.mgmtAnswer n).code = ccOk) ∧
          (∀ l : List CfgItem, l ≠ [] → l.length ≤ 8 → l.all s.mayStage = false → (l.foldl stageItem c.staged).length ≤ 1024 →
            ∃ t, exec (.txnStage p l) s = .next t ∧ s.onlyAnswer t ∧ (t.mgmtAnswer n).code = ccDenied) ∧
          (s.verifyTxn = none → ∃ t, exec (.txnCommit p) s = .next t ∧ t.cfg.txnState = 2 ∧ t.cfg.staged = c.staged ∧
            t.cfg.items = c.items) ∧
          (∀ code pos, s.verifyTxn = some (code, pos) → ∃ t, exec (.txnCommit p) s = .next t ∧ rolled t 5 ∧
            t.cfg.failCode = code ∧ t.cfg.failItem = pos ∧ (t.mgmtAnswer n).code = ccDenied)) ∧
        (c.txnState ≠ 0 → c.txnOwner = n + 1 → c.applyAt = none →
          ∃ t, exec (.txnRollback p) s = .next t ∧ rolled t 2 ∧ (t.mgmtAnswer n).code = ccOk) ∧
        (c.txnState ≠ 0 → c.applyAt ≠ none → ∃ t, exec (.txnRollback p) s = .next t ∧ s.onlyAnswer t ∧ (t.mgmtAnswer n).code = ccBusy)) ∧
      (∃ t, exec (.txnRead p) s = .next t ∧ s.onlyAnswer t ∧ (t.mgmtAnswer n).bytes = c.staged.flatMap itemBytes)) ∧
    (s.boot.held = false →
      (c.holder ≠ 0 → c.leaseEnd < s.drone → c.leaseEnd ≤ s.time.prev → (s.links.map Prod.fst).Nodup → ∃ t, exec .leaseExpire s = .next t ∧ freed t) ∧
      (s.drone ≤ c.leaseEnd → exec .leaseExpire s = .next s) ∧
      (∀ x, c.txnState ≠ 0 → c.applyAt = none → c.txnDeadline = some x → x < s.drone → x ≤ s.time.prev →
        ∃ t, exec .txnAutoRollback s = .next t ∧ rolled t 3) ∧
      (c.txnState = 2 → c.applyAt = none → c.staged.all s.quietFor = true →
        ∃ t, exec .txnQuiet s = .next t ∧ t.cfg.applyAt = some (s.drone + 171) ∧ t.cfg.items = c.items) ∧
      (∀ it at_, c.applyAt = some at_ → at_ ≤ s.drone → c.staged = [it] → it.sect = 8 → it.code < 256 →
        ∃ t, exec .txnApply s = .next t ∧ t.item 8 it.code it.index = it.value.toNat ∧ t.cfg.txnState = 0 ∧ t.cfg.txnResult = 1 ∧
          t.cfg.applied = min 0xFFFF (c.applied + 1)) ∧
      (∀ at_, c.applyAt = some at_ → s.drone < at_ → exec .txnApply s = .next s))

/-- Only a checked image gets a trailer, and only signed operations change keys. By the holder of the semaphore, of
an open management unit. STORE_READ answers up to 240 bytes. STORE_ERASE of the bank that was not booted leaves
its bytes 0xFF and no other byte changed, of the booted one it is DENIED. STORE_WRITE into an erased bank
programs its bytes, without an erase it is INVALID. STORE_FINISH writes the trailer (sequence, length and check)
only of an image whose digest is the one named and that passes every check; else it is DENIED and the store
stays. A key operation that no live slot signed is DENIED. A signed one fuses a digest into an empty owner slot,
revokes a slot while another stays live, and raises the minimum version to at most 64, never lowers it; the
factory slots take no digest. What is the model's choice or inference here: log entries 141, 142, 143 and 144.
(17_configuration_and_security.md R440, 17_configuration_and_security.md R442, 17_configuration_and_security.md
R455.) -/
def Obligations.StoreAndKeysFollowTheirRules : Prop :=
  ∀ (p : Port) (n bank : Nat) (s : State), portNo p = some n → s.mgmtOpen = true → s.holdsSem p = true →
    let c := s.cfg
    let denied := fun (t : State) => (t.mgmtAnswer n).code = ccDenied ∧ t.cfg.store = c.store ∧ t.cfg.keys = c.keys ∧
      t.cfg.minSvn = c.minSvn
    (∀ off m, 0 < m → m ≤ 240 → off + m ≤ storeSize → c.meetsField off m = false →
      ∃ t, exec (.storeRead p off m) s = .next t ∧ s.onlyAnswer t ∧ t.mgmtAnswer n = ⟨ccOk, [], c.storeBytes off m⟩) ∧
    (∀ off m, m = 0 ∨ 240 < m ∨ storeSize < off + m → ∃ t, exec (.storeRead p off m) s = .next t ∧ s.onlyAnswer t ∧
      (t.mgmtAnswer n).code = ccInvalid) ∧
    (bank < 2 → c.booted = true → c.bank = bank →
      (∃ t, exec (.storeErase p bank) s = .next t ∧ denied t) ∧
      (∀ off bs, ∃ t, exec (.storeWrite p bank off bs) s = .next t ∧ denied t) ∧
      (∀ len g, ∃ t, exec (.storeFinish p bank len g) s = .next t ∧ denied t)) ∧
    (bank < 2 → (c.booted = false ∨ c.bank ≠ bank) →
      (∃ t, exec (.storeErase p bank) s = .next t ∧ (t.mgmtAnswer n).code = ccOk ∧ t.cfg.storing = some bank ∧
        (∀ a, bankBase bank ≤ a → a < bankBase bank + 0x2000000 → Table.get erased t.cfg.store a = 0xFF) ∧
        ∀ a, a < bankBase bank ∨ bankBase bank + 0x2000000 ≤ a → Table.get erased t.cfg.store a = Table.get erased c.store a) ∧
      (∀ off bs, c.storing = some bank → off + bs.length ≤ trailerOff →
        ∃ t, exec (.storeWrite p bank off bs) s = .next t ∧ (t.mgmtAnswer n).code = ccOk ∧
          t.cfg.storeBytes (bankBase bank + off) bs.length =
            List.zipWith (· &&& ·) (c.storeBytes (bankBase bank + off) bs.length) bs) ∧
      (∀ off bs, c.storing ≠ some bank → ∃ t, exec (.storeWrite p bank off bs) s = .next t ∧ (t.mgmtAnswer n).code = ccInvalid ∧
        t.cfg.store = c.store) ∧
      (∀ len g, c.storing = some bank → imageLenOk len = true →
        let img := c.imageIn bank len
        (Config.shake256 img ≠ g ∨ s.verifyImage img ≠ 0 → ∃ t, exec (.storeFinish p bank len g) s = .next t ∧ denied t) ∧
        (Config.shake256 img = g → s.verifyImage img = 0 → ∃ t, exec (.storeFinish p bank len g) s = .next t ∧
          (t.mgmtAnswer n).code = ccOk ∧ t.cfg.storeBytes (bankBase bank + 0x1FFF000) 12 =
            leBytes 4 c.nextSeq ++ leBytes 4 len ++ leBytes 4 (crc32c (img ++ leBytes 4 c.nextSeq ++ leBytes 4 len)).toNat))) ∧
    (∀ slot digest signer sig,
      (c.signedBy signer (keyMsg 0 slot digest) sig = false → ∃ t, exec (.keyFuse p slot digest signer sig) s = .next t ∧ denied t) ∧
      (c.signedBy signer (keyMsg 0 slot digest) sig = true → digest.length = 64 → c.keys.length = 4 →
        (slot < 4 → (slot < 2 ∨ (c.slot slot).digest ≠ none) → ∃ t, exec (.keyFuse p slot digest signer sig) s = .next t ∧ denied t) ∧
        (2 ≤ slot → slot < 4 → (c.slot slot).digest = none → ∃ t, exec (.keyFuse p slot digest signer sig) s = .next t ∧
          (t.mgmtAnswer n).code = ccOk ∧ (t.cfg.slot slot).digest = some digest ∧ ∀ i, i ≠ slot → t.cfg.slot i = c.slot i)) ∧
      (c.signedBy signer (keyMsg 1 slot []) sig = true → slot < 4 → c.keys.length = 4 →
        ((∃ i, i < 4 ∧ i ≠ slot ∧ (c.slot i).digest.isSome = true ∧ (c.slot i).revoked = false) →
          ∃ t, exec (.keyRevoke p slot signer sig) s = .next t ∧ (t.mgmtAnswer n).code = ccOk ∧ (t.cfg.slot slot).revoked = true ∧
            ∀ i, i ≠ slot → t.cfg.slot i = c.slot i) ∧
        ((∀ i, i < 4 → i ≠ slot → (c.slot i).digest = none ∨ (c.slot i).revoked = true) →
          ∃ t, exec (.keyRevoke p slot signer sig) s = .next t ∧ denied t))) ∧
    (∀ svn signer sig, c.signedBy signer (keyMsg 2 svn []) sig = true →
      (c.minSvn < svn → svn ≤ 64 → ∃ t, exec (.keySvnRaise p svn signer sig) s = .next t ∧ (t.mgmtAnswer n).code = ccOk ∧
        t.cfg.minSvn = svn ∧ t.cfg.keys = c.keys) ∧
      (svn ≤ c.minSvn → svn ≤ 64 → ∃ t, exec (.keySvnRaise p svn signer sig) s = .next t ∧ denied t))

/-- Each reset level clears what its table names and keeps the rest. A package reset by a pin holds the package with
queues, memory, sync objects and cores cleared; flash, board store, keys, field record and the last FATAL stay.
PWR_GOOD after a trip clears the last FATAL too. PKG_RST_CTRL resets only for a port that may manage, with no
reset running. Release samples the straps. A quad reset leaves a quad as at package reset but for its suspicion,
which an idle quad keeps. A compute-die reset zeroes the die's scratch, pool and sync objects until the die
returns. A host complex reset closes the host homes, clears cores, caches and directory, poisons owned lines,
leaves DDR5 and direct HBM as they are and counts itself, and does nothing while one runs; its release opens the
homes and, where the first stage measures as it did at boot, copies it to address 0 and starts the harts.
Clearing the after-FATAL mark clears the last FATAL and its count. What is the model's choice or inference here:
log entries 22, 127, 128, 130, 131 and 132. (18_boot_and_reset.md R464, 18_boot_and_reset.md R465,
18_boot_and_reset.md R466, 18_boot_and_reset.md R467, 18_boot_and_reset.md R471, 18_boot_and_reset.md R473,
18_boot_and_reset.md Table BRT-3, 12_coherence.md R353.) -/
def Obligations.ResetLevelsClearAndKeep : Prop :=
  ∀ (p : Port) (s : State),
    (∃ t, exec (.packageReset .pin) s = .next t ∧ t.boot.held = true ∧ t.boot.pin = true ∧ t.boot.powerOn = false ∧
      t.quads = [] ∧ t.mem = [] ∧ t.sync = [] ∧ t.cores = [] ∧ t.coh = State.reset.coh ∧ t.cfg.items = [] ∧ t.cfg.holder = 0 ∧
      t.flash = s.flash ∧ t.cfg.store = s.cfg.store ∧ t.cfg.keys = s.cfg.keys ∧ t.cfg.minSvn = s.cfg.minSvn ∧
      t.cfg.field = s.cfg.field ∧ t.log.fatalLast = s.log.fatalLast ∧ t.log.fatal = false) ∧
    (s.boot.thermtrip = true → ∃ t, exec (.packageReset .powerGood) s = .next t ∧ t.boot.held = true ∧ t.boot.powerOn = true ∧
      t.boot.thermtrip = false ∧ t.log.fatalLast = [] ∧ t.quads = [] ∧ t.mem = [] ∧ t.flash = s.flash) ∧
    (s.mayReset p = true → ∃ t, exec (.packageReset (.ctrl p)) s = .next t ∧ t.boot.held = false ∧ t.boot.mgmt = true ∧
      t.boot.stage = 1 ∧ t.boot.straps = s.boot.straps ∧ t.quads = [] ∧ t.mem = [] ∧ t.log.fatalLast = s.log.fatalLast) ∧
    (s.mayReset p = false → exec (.packageReset (.ctrl p)) s = .next s ∧ (∀ q, exec (.quadReset p q) s = .next s) ∧
      (∀ d, exec (.computeDieReset p d) s = .next s) ∧ exec (.hostComplexReset (.ctrl p)) s = .next s) ∧
    (∀ v, (s.boot.held = true → exec (.packageResetRelease v) s = .next { s with boot := { s.boot with held := false, straps := v } }) ∧
      (s.boot.held = false → exec (.packageResetRelease v) s = .next s)) ∧
    (∀ q, s.mayReset p = true → s.boot.done = true →
      (s.quadOpen q = true → ∃ t, exec (.quadReset p q) s = .next t ∧
        t.quad q = { Quad.reset with score := (t.quad q).score, suspect := (t.quad q).suspect } ∧
        ((s.quad q).queues = [] → (s.quad q).windows = [] →
          (t.quad q).score = (s.quad q).score ∧ (t.quad q).suspect = (s.quad q).suspect)) ∧
      (s.quadOpen q = false → exec (.quadReset p q) s = .next s)) ∧
    (∀ d, s.mayReset p = true → s.boot.done = true → d < 4 → s.homesBusy d = false →
      ∃ t, exec (.computeDieReset p d) s = .next t ∧ t.boot.diesInReset.contains d = true ∧
        (∀ o, 4096 * d ≤ o → o < 4096 * (d + 1) → Table.get 0 t.sync o = 0) ∧
        (∀ a, 0x180000000000 + 0x20000000 * d ≤ a → a < 0x180000000000 + 0x20000000 * (d + 1) → t.byte a = 0) ∧
        (∀ a, 0x180080000000 + 0x8000000 * d ≤ a → a < 0x180080000000 + 0x8000000 * (d + 1) → t.byte a = 0)) ∧
    (∀ d ok, (s.boot.diesInReset.contains d = true → s.boot.rewaits = [] → s.boot.heldSync = [] → s.coh.waiting = [] → ∃ t, exec (.dieResetDone d ok) s = .next t ∧
        t.boot.diesInReset = s.boot.diesInReset.filter (· ≠ d)) ∧
      (s.boot.diesInReset.contains d = false → exec (.dieResetDone d ok) s = .next s)) ∧
    (s.boot.held = false → s.boot.done = true →
      (s.coh.closed = false → s.coh.txns = [] → ∃ t, exec (.hostComplexReset .pin) s = .next t ∧ t.coh.closed = true ∧
        t.boot.hostHeld = true ∧ t.boot.hostResets = min 0xFF (s.boot.hostResets + 1) ∧ t.cores = [] ∧ t.coh.lines = [] ∧
        t.coh.dir = [] ∧ t.quads = s.quads ∧ (∀ a, isTiered a = false → t.byte a = s.byte a) ∧
        ∀ line o, (s.dirEntry line).owner = some o → t.sectorPoison line = true) ∧
      (s.coh.closed = true → exec (.hostComplexReset .pin) s = .next s ∧
        (s.coh.waiting = [] → ∃ t, exec .hostResetRelease s = .next t ∧ t.coh.closed = false ∧ t.boot.hostBusy = false ∧
          let img := s.bootImage
          let code := Config.hostFirstStage (sectionBytes img 10)
          (Config.shake256 (List.replicate 64 0 ++ Config.shake256 (img.take 16 ++ sectionBytes img 10)) = s.cfg.measure 1 →
            (∀ i, s.sectorPoison i = false) → t.boot.hostHeld = false ∧ t.hasBytes 0 code)))) ∧
    (s.mayManage p = true → exec (.rstCauseFatalClear p) s = .next
      { s with boot := { s.boot with afterFatal := false }, log := { s.log with fatalLast := [], fatalMore := 0 } }) ∧
    (s.mayManage p = false → exec (.rstCauseFatalClear p) s = .next s)

/-- Boot takes its stages in order, and a failed stage halts it. Out of reset, before boot is done or halted, and
with no FATAL: stage 1 measures the ROM, stage 2 takes a bank that passes every check, or goes to recovery,
stage 3 sets each compute die's rail and divider for the boot mode and hands on to stage 4, which with no failed
quad and no field record only goes on, stage 5 leaves memory zero and stage 6 the tier formatted as the image
says, in either order and then stage 7, at whose start every link that the image uses begins to train and which
copies the first stage to address 0 and starts the harts. A report of a stage that does not run does nothing. A
failed stage halts boot with its number and code, and a FATAL with code 8; nothing then goes on. What is the
model's choice or inference here: log entries 22, 133, 141 and 145. (18_boot_and_reset.md R468,
18_boot_and_reset.md R469, 18_boot_and_reset.md R470, 18_boot_and_reset.md Table BRT-4,
13_axis_links_and_drone.md R359, 17_configuration_and_security.md R441, 17_configuration_and_security.md R445,
17_configuration_and_security.md R457.) -/
def Obligations.BootRunsItsStages : Prop :=
  ∀ (r : BootReport) (s : State),
    let b := s.boot
    (b.failedStage ≠ 0 ∨ b.done = true ∨ b.held = true ∨ s.stageRuns r.stage = false → exec (.bootStage r) s = .next s) ∧
    (b.held = false → b.done = false → b.recovery = false → b.thermtrip = false → b.failedStage = 0 →
      s.stageRuns r.stage = true →
      let halted := fun (t : State) (err : Nat) => t.boot.failedStage = r.stage ∧ t.boot.err = err ∧ t.boot.stage = b.stage ∧
        t.boot.done = false ∧ t.boot.hostHeld = b.hostHeld ∧ t.mem = s.mem
      (s.log.fatal = true → ∃ t, exec (.bootStage r) s = .next t ∧ halted t 8) ∧
      (s.log.fatal = false → r.err ≠ 0 → ∃ t, exec (.bootStage r) s = .next t ∧ halted t r.err) ∧
      (s.log.fatal = false → r.err = 0 →
        (r.stage = 1 → ∃ t, exec (.bootStage r) s = .next t ∧ t.boot.stage = 2 ∧
          t.cfg.measure 0 = Config.shake256 (s.cfg.measure 0 ++ Config.shake256 Config.bootRom)) ∧
        (r.stage = 2 →
          (∀ k, s.chooseBank = some k → ∃ t, exec (.bootStage r) s = .next t ∧ t.boot.stage = 3 ∧ t.cfg.booted = true ∧
            t.cfg.bank = k ∧ t.cfg.seq = BitVec.ofNat 32 (s.cfg.trailer k).seq) ∧
          (s.chooseBank = none → ∃ t, exec (.bootStage r) s = .next t ∧ t.boot.stage = 2 ∧ t.boot.recovery = true ∧
            t.boot.failedStage = 2 ∧ t.cfg.booted = s.cfg.booted)) ∧
        (r.stage = 3 → ∃ t, exec (.bootStage r) s = .next t ∧ t.boot = { b with stage := 4 } ∧ t.power.cur = s.item 6 1 0 ∧
          (∀ d, d < 4 → (t.diePower d).railMv = fusedMv d (s.item 6 1 0) ∧
            (t.diePower d).divider = s.modeDivider (s.item 6 1 0)) ∧ ∀ d, 4 ≤ d → t.diePower d = s.diePower d) ∧
        (r.stage = 4 → s.cfg.field = [] → r.selfTestFailed = [] →
          exec (.bootStage r) s = .next { s with boot := { b with stage := 5 } }) ∧
        (r.stage = 5 → ∃ t, exec (.bootStage r) s = .next t ∧ (∀ a, t.byte a = 0) ∧ (∀ i, t.sectorPoison i = false) ∧
          (t.boot.stage = if b.flashDone then 7 else 5) ∧
          ∀ n, n < 6 → (t.link n).st = if b.flashDone && !s.linkUnused n then .training else (s.link n).st) ∧
        (r.stage = 6 → ∃ t, exec (.bootStage r) s = .next t ∧ t.tier.formatted = (s.item 7 1 0, s.item 7 2 0) ∧
          (s.tier.formatted = (s.item 7 1 0, s.item 7 2 0) → t.tier = { s.tier with readOnly := t.tier.readOnly } ∧ t.flash = s.flash) ∧
          (s.tier.formatted ≠ (s.item 7 1 0, s.item 7 2 0) → t.tier.tiles = [] ∧ t.flash = []) ∧
          (t.boot.stage = if b.memDone then 7 else 5) ∧
          ∀ n, n < 6 → (t.link n).st = if b.memDone && !s.linkUnused n then .training else (s.link n).st) ∧
        (r.stage = 7 → (∀ i, s.sectorPoison i = false) → ∃ t, exec (.bootStage r) s = .next t ∧ t.boot.done = true ∧ t.boot.stage = 15 ∧ t.boot.hostHeld = false ∧
          let code := Config.hostFirstStage (sectionBytes s.bootImage 10)
          t.hasBytes 0 code)))

/-- A queue pair moves as commanded, takes a legal doorbell, and starts its next request in RTS. For a pair whose
entry stands in plain populated memory. A doorbell moves the tail only within its ring and forwards, and changes
no byte of memory. A move to RESET, INIT, RTR or RTS writes the state into the entry and no other byte; RESET
empties the rings. A move to ERROR leaves nothing posted or in progress. A pair in RTS, not paused, with a
request posted whose opcode is WRITE, READ or SEND and whose rings and local range can be used now sends its
message, with the pair's addresses and packet sequence number and the data of its local range for WRITE and
SEND; the request is in progress, and of memory outside the tiered range only the sequence number of the pair's
entry changes. With nothing posted, or in another state, nothing happens. What is the model's choice or
inference here: log entries 146, 147 and 185. (14_network_and_pcie.md R383, 14_network_and_pcie.md R384,
14_network_and_pcie.md R385, 14_network_and_pcie.md Table NET-2, 14_network_and_pcie.md Table NET-4.) -/
def Obligations.QueuePairsTakeAndSendRequests : Prop :=
  ∀ (p : Port) (x qpn : Nat) (s : State), s.qpPlain x qpn →
    let e := s.qpEntry x qpn
    let y := s.qp x qpn
    let only := fun (t : State) => ∀ a, a ≠ s.qpAt x qpn → t.byte a = s.byte a
    (s.mayWrite p = true →
      (∀ v : Word, bits v.toNat 16 13 = qpn → ∃ t, exec (.ethQpDb p x v) s = .next t ∧
        t.qp x qpn = { y with tail := if doorbellOk16 (bits v.toNat 0 16) y.head y.tail (qpSize e) then bits v.toNat 0 16 else y.tail } ∧
        ∀ a, t.byte a = s.byte a) ∧
      (∀ v : Word, bits v.toNat 0 13 = qpn → bit v.toNat 31 = true → bits v.toNat 16 3 < 4 →
        ∃ t, exec (.qpMove p x v) s = .next t ∧ t.byte (s.qpAt x qpn) = BitVec.ofNat 8 (bits v.toNat 16 3) ∧ only t ∧
          t.qp x qpn = if bits v.toNat 16 3 = 0 then Qp.reset else y) ∧
      (∃ t, exec (.qpMoveError p x qpn) s = .next t ∧ (t.qp x qpn).head = y.tail ∧ (t.qp x qpn).tail = y.tail ∧
        (t.qp x qpn).busy = [] ∧ (y.busy = [] → y.posted = [] → t.byte (s.qpAt x qpn) = 4 ∧ only t))) ∧
    (let ready := fun (op w l) => qpState e = 3 ∧ y.head ≠ y.tail ∧ bit (s.eth (qpPort x e)).paused.toNat (qpPcp e) = false ∧
        s.ringsReady x e y.head = true ∧ s.wqeAt x e y.head = some w ∧ wqeOp w = op ∧
        (bit (wqeFlags w) 2 = true → s.readsOut x qpn = false) ∧ wqeLen w ≤ 2 ^ 31 ∧ s.localRange x e w (decide (op = 2)) = .ok l
      let sent := fun (t : State) w (l : _) => (t.qp x qpn).head = (y.head + 1) % 65536 ∧ (t.qp x qpn).busy = y.busy ++ [y.head] ∧
        t.out = s.out ++ [s.wqeMsg x qpn e w l] ∧
        (isTiered l.pa = false → ∀ a, a < s.qpAt x qpn + 8 ∨ s.qpAt x qpn + 11 ≤ a → t.byte a = s.byte a)
      (∀ w l, ready 1 w l → ∃ t, exec (.wqeWrite x qpn) s = .next t ∧ sent t w l) ∧
      (∀ w l, ready 2 w l → ∃ t, exec (.wqeRead x qpn) s = .next t ∧ sent t w l) ∧
      (∀ w l, ready 3 w l → ∃ t, exec (.wqeSend x qpn) s = .next t ∧ sent t w l) ∧
      (qpState e ≠ 3 ∨ y.head = y.tail →
        exec (.wqeWrite x qpn) s = .next s ∧ exec (.wqeRead x qpn) s = .next s ∧ exec (.wqeSend x qpn) s = .next s))

/-- Answers end requests with their status, and inbound messages land only in windows that take them. For a pair
whose entry stands in plain populated memory. In RTS, an answer to the oldest request ends it: the last
acknowledgement OK, a NAK with its status; its completion entry is written where it is due and can be; data of a
READ is written where the request names it. An RNR NAK or a timeout within its retries sends the request again,
and what is in progress behind it, beyond them the pair goes to ERROR. A pair that takes no packets drops them
and counts. A WRITE of one packet into a window that takes it is written there and acknowledged, one that names
no window is NAKed and counted; a READ of a readable range is answered with its bytes, a SEND lands at the
offset of the pair's entry. A pause frame sets the priorities it names, and a CNP lowers the rate of the pair
that it names once more. What is the model's choice or inference here: log entries 146, 147, 148, 149, 184 and
186. (14_network_and_pcie.md R382, 14_network_and_pcie.md R384, 14_network_and_pcie.md R386,
14_network_and_pcie.md R387, 14_network_and_pcie.md R388, 14_network_and_pcie.md R389, 14_network_and_pcie.md
Table NET-1, 14_network_and_pcie.md Table NET-4, 08_memory_model.md R246.) -/
def Obligations.AnswersAndInboundMessagesFindTheirPlace : Prop :=
  ∀ (x qpn n : Nat) (s : State), s.qpPlain x qpn →
    let e := s.qpEntry x qpn
    let y := s.qp x qpn
    let dropped := fun (t : State) (k : Nat) => (t.eth k).drop = min 0xFFFFFFFF ((s.eth k).drop + 1)
    (∀ i rest w, qpState e = 3 → y.busy = i :: rest → s.ringsReady x e i = true → s.wqeAt x e i = some w →
      let errs := fun (t : State) => (t.qp x qpn).busy = [] ∧ (t.qp x qpn).head = y.tail
      let resent := fun (t : State) (l : Extent) => (t.qp x qpn).busy = y.busy ∧ ∃ more, t.out = s.out ++ s.wqeMsg x qpn e w l :: more
      (∀ c, s.checkEth (qpPort x e) (qpCtx e) needWrite (cqVa e i) 32 = .ok c → isTiered c.pa = false →
        s.hostClosed c.pa = false → s.writePoison c.coherent c.pa 32 = false →
        let ends := fun (t : State) (status bytes : Nat) => (t.qp x qpn).busy = rest ∧ (t.qp x qpn).head = y.head ∧
          (status ≠ 0 ∨ bit (wqeFlags w) 0 = true → t.hasBytes c.pa (cqBytes w status i (qpSize e) s.drone bytes))
        (wqeOp w ≠ 2 → ∀ bs, ∃ t, exec (.rdmaResponseReceive x qpn bs) s = .next t ∧ ends t stOk (wqeLen w)) ∧
        (∃ t, exec (.rdmaNakReceive x qpn .remoteAccess) s = .next t ∧ ends t stEpochStale 0) ∧
        (∃ t, exec (.rdmaNakReceive x qpn .invalidRequest) s = .next t ∧ ends t stBadLength 0)) ∧
      (∃ t, exec (.rdmaNakReceive x qpn .remoteOperational) s = .next t ∧ errs t) ∧
      (∀ l, s.localRange x e w (decide (wqeOp w = 2)) = .ok l →
        (∀ bs, wqeOp w = 2 → bs ≠ [] → y.got + bs.length < wqeLen w → s.ethStash (qpPort x e) = .none → isTiered (l.pa + y.got) = false →
          s.writeReady l.coherent (l.pa + y.got) bs.length = true → s.writePoison l.coherent (l.pa + y.got) bs.length = false →
          ∃ t, exec (.rdmaResponseReceive x qpn bs) s = .next t ∧ (t.qp x qpn).busy = y.busy ∧
            (t.qp x qpn).got = y.got + bs.length ∧ t.hasBytes (l.pa + y.got) bs) ∧
        (y.rnr < bits (field e 0x0B 1) 4 3 → ∃ t, exec (.rdmaNakReceive x qpn .rnr) s = .next t ∧ resent t l ∧
          (t.qp x qpn).rnr = min 7 (y.rnr + 1)) ∧
        (y.retries < bits (field e 0x0B 1) 0 3 → ∃ t, exec (.rdmaAckTimeout x qpn) s = .next t ∧ resent t l ∧
          (t.qp x qpn).retries = y.retries + 1)) ∧
      (bits (field e 0x0B 1) 0 3 ≤ y.retries → ∃ t, exec (.rdmaAckTimeout x qpn) s = .next t ∧ errs t)) ∧
    (qpState e ≠ 3 → (∃ t, exec (.rdmaNakReceive x qpn .remoteAccess) s = .next t ∧ dropped t (qpPort x e) ∧ t.qps = s.qps) ∧
      ∃ t, exec (.rdmaAckTimeout x qpn) s = .next t ∧ dropped t (qpPort x e) ∧ t.qps = s.qps) ∧
    (n < 4 → n / 2 = x →
      (qpState e ≠ 2 → qpState e ≠ 3 → ∀ bs, ∃ t, exec (.rdmaSendIn n qpn bs) s = .next t ∧ dropped t n ∧ t.out = s.out) ∧
      (qpState e = 2 ∨ qpState e = 3 →
        (∀ r : RdmaIn, r.qpn = qpn → rkeyTarget r.rkey = none → ∃ t, exec (.rdmaWriteIn n r) s = .next t ∧
          t.out = s.out ++ [.ethNak n qpn .remoteAccess] ∧ dropped t n ∧ ∀ a, t.byte a = s.byte a) ∧
        (∀ (r : RdmaIn) q w epoch (g : Extent), r.qpn = qpn → rkeyTarget r.rkey = some (q, w, epoch) → s.present q = true → w < 32 →
          r.done = 0 → r.last = true → r.data ≠ [] → r.total = r.data.length → s.ethStash n = .none → (s.window q w).linkEn = false →
          (s.window q w).held = [] → s.judgeAt q w epoch r.base r.total = .accept g →
          let pa := g.pa + r.base
          let m := r.data.length
          isTiered pa = false → s.windowReady (6 + n / 2) g pa m = true → s.writePoison g.coherent pa m = false →
          (pa + m ≤ s.qpAt x qpn ∨ s.qpAt x qpn + 64 ≤ pa) →
          ∃ t, exec (.rdmaWriteIn n r) s = .next t ∧ t.hasBytes pa r.data ∧ t.out = s.out ++ [.ethAck n qpn] ∧
            (t.window q w).bytes = (s.window q w).bytes + BitVec.ofNat 48 m ∧
            ∀ a, (a < pa ∨ pa + m ≤ a) → (a < s.qpAt x qpn ∨ s.qpAt x qpn + 64 ≤ a) → t.byte a = s.byte a) ∧
        (∀ rkey q w epoch off len g, rkeyTarget rkey = some (q, w, epoch) → s.present q = true → (s.window q w).opened = true →
          (s.window q w).epoch = epoch → off + len ≤ (s.window q w).size.toNat →
          s.checkEth n (s.window q w).context needRead ((s.window q w).base.toNat + off) len = .ok g → isTiered g.pa = false →
          s.hostClosed g.pa = false → s.dieReachesAll (6 + n / 2) g.pa len = true → s.readReady g.coherent g.pa len = true → s.readPoison g.coherent g.pa len = false →
          ∃ t, exec (.rdmaReadIn n qpn rkey off len) s = .next t ∧
            t.out = s.out ++ [.eth n qpn (s.ethHead n e 0x0C) 4 off rkey len (s.readPhys g.coherent g.pa len)]) ∧
        (∀ bs g, bs ≠ [] → s.ethStash n = .none →
          let q := field e 0x10 1
          let w := field e 0x11 1
          let pa := fun (g : Extent) => g.pa + field e 0x14 4
          s.present q = true → w < 32 → (s.window q w).linkEn = false → (s.window q w).held = [] →
          s.judgeAt q w (BitVec.ofNat 16 (field e 0x12 2)) (field e 0x14 4) bs.length = .accept g →
          isTiered (pa g) = false → s.windowReady (6 + n / 2) g (pa g) bs.length = true → s.writePoison g.coherent (pa g) bs.length = false →
          (pa g + bs.length ≤ s.qpAt x qpn ∨ s.qpAt x qpn + 64 ≤ pa g) →
          ∃ t, exec (.rdmaSendIn n qpn bs) s = .next t ∧ t.hasBytes (pa g) bs ∧ t.out = s.out ++ [.ethAck n qpn]))) ∧
    (s.boot.held = false → n < 4 →
      (∀ paused mask, ∃ t, exec (.pfcPauseReceive n paused mask) s = .next t ∧ t = { s with eths := t.eths } ∧
        (t.eth n).paused = ((s.eth n).paused &&& ~~~mask) ||| (paused &&& mask)) ∧
      (n / 2 = x → ∃ t, exec (.cnpReceive n qpn) s = .next t ∧ t = { s with qps := t.qps } ∧
        t.qp x qpn = { y with rateDown := y.rateDown + 1 }))

/-- A device reaches only what it is granted, and no port rings a doorbell without authority. With every bridge on
the way passing traffic: a doorbell by a host core or management port that may not write changes nothing, by a
device without the grant only its count of denied accesses. A request of a device of a running package that no
transaction holds. A read inside an aperture, in memory that can be read now, is answered with its bytes and
changes no byte; one outside is answered unsupported and counted. A write inside an aperture lands whole and no
other byte changes; one outside changes no byte and is counted. A write of a granted queue's doorbell of a quad
that is there is that doorbell, of another is counted and changes no queue. A granted message of an identity
from 1 to 2047 pends in the hart's file; one that is not granted is counted. What is the model's choice or
inference here: log entries 151 and 157. (14_network_and_pcie.md R392, 14_network_and_pcie.md R394,
14_network_and_pcie.md Table NET-3, 17_configuration_and_security.md Table CFG-8, 11_host_cores_and_cache.md
R315, 07_commands_and_queues.md R214.) -/
def Obligations.PortsStayWithinTheirGrants : Prop :=
  (∀ (p : Port) (q j : Nat) (v : Word) (s : State), s.mayRing p q j = false →
    ∃ t, exec (.doorbell p q j v) s = .next t ∧ (∀ a b, t.queue a b = s.queue a b) ∧ (∀ a, t.byte a = s.byte a) ∧
      (match p with
       | .pcie n => (t.pciePort n).denied = min 0xFFFFFFFF ((s.pciePort n).denied + 1)
       | _ => t = s)) ∧
  ∀ (n : Nat) (s : State), s.running = true → n < 2 → s.pcieHeld n = false →
    let denied := fun (t : State) => (t.pciePort n).denied = min 0xFFFFFFFF ((s.pciePort n).denied + 1) ∧ t.quads = s.quads ∧
      t.cores = s.cores ∧ ∀ a, t.byte a = s.byte a
    (∀ pa len, (s.apertured n pa len false = false → ∃ t, exec (.pcieMemRequest n (.read pa len)) s = .next t ∧ denied t ∧
        t.out = s.out ++ [.pcieUnsupported n]) ∧
      (s.apertured n pa len false = true → isTiered pa = false → s.hostClosed pa = false → s.dieReachesAll (6 + n) pa len = true →
        s.readReady true pa len = true → s.readPoison true pa len = false → ∃ t, exec (.pcieMemRequest n (.read pa len)) s = .next t ∧
          t.out = s.out ++ [.pcieData n (s.readPhys true pa len)] ∧ ∀ a, t.byte a = s.byte a)) ∧
    (∀ pa bs, regionOf pa ≠ some .config →
      (s.apertured n pa bs.length true = false → ∃ t, exec (.pcieMemRequest n (.write pa bs)) s = .next t ∧ denied t) ∧
      (s.apertured n pa bs.length true = true → isTiered pa = false → s.hostClosed pa = false → s.dieReachesAll (6 + n) pa bs.length = true →
        s.writeReady true pa bs.length = true →
        s.writePoison true pa bs.length = false → s.quietCaches → s.item 8 0x13 n = 0 →
        ∃ t, exec (.pcieMemRequest n (.write pa bs)) s = .next t ∧ t.hasBytes pa bs ∧
          ∀ a, a < pa ∨ pa + bs.length ≤ a → t.byte a = s.byte a)) ∧
    (∀ q j bs, q < 64 → j < 16 → bs.length = 4 →
      let pa := 0x190000000000 + 0x1000000 * (q / 16 + 1) + 0x800000 + q % 16 * 0x10000 + j * 0x1000
      (s.dbGranted n (16 * q + j) = true → s.quadOpen q = true → s.pathUp (6 + n) (q / 16) (pa - 0x190000000000) = true →
        exec (.pcieMemRequest n (.write pa bs)) s =
        .next (s.modQueue q j (fun x => x.doorbell (BitVec.ofNat 32 (ofLe bs))))) ∧
      (s.dbGranted n (16 * q + j) = false → ∃ t, exec (.pcieMemRequest n (.write pa bs)) s = .next t ∧ denied t)) ∧
    (∀ hart i, (s.msiGranted n hart = true → 0 < i → i < 2048 → s.pathUp (6 + n) (4 + hart / 64) 0 = true →
        (∃ t, exec (.pcieMemRequest n (.msi hart false i)) s = .next t ∧ t = { s with cores := t.cores } ∧ i ∈ (t.core hart).irqM) ∧
        ∃ t, exec (.pcieMemRequest n (.msi hart true i)) s = .next t ∧ t = { s with cores := t.cores } ∧ i ∈ (t.core hart).irqS) ∧
      (s.msiGranted n hart = false → ∀ f, ∃ t, exec (.pcieMemRequest n (.msi hart f i)) s = .next t ∧ denied t))

/-- A low half latches its high half, an RC count clears, and a write is its register's command. For a port that may
read. A read of the low half of a latched pair answers it and latches the high half, which a read of the high
half answers; nothing else changes. The lost-record count reads its value and clears. A read of the package's
identification changes nothing. A write of a queue's doorbell page or of the mode register is that register's
command, and a write at an offset that is not aligned changes nothing. A device's access to a register is
refused and counted. What is the model's choice or inference here: log entries 27, 152, 153 and 191.
(00_scope.md R12, 00_scope.md R13, 04_matrix_array.md R133, 07_commands_and_queues.md R214,
17_configuration_and_security.md R454, 17_configuration_and_security.md Table CFG-8.) -/
def Obligations.RegistersReadAndWriteByTheirRules : Prop :=
  ∀ (p : Port) (off : Nat) (v : Word) (s : State),
    (s.mayRead p = true → off % 4 = 0 → cfgBacked off 4 = true → s.offOpen off = true →
      (∀ w, s.wideAt off = some w → isGated off = false → exec (.counterLoRead p off) s = .next
        { s with lastRead := loWord w, latches := Table.put 0 s.latches (off + 4) (hiWord w) }) ∧
      (s.wideAt off = none → s.isHi off = true → exec (.rcRegisterRead p off) s = .next { s with lastRead := Table.get 0 s.latches off }) ∧
      (∃ t, exec (.rcRegisterRead p 0x318) s = .next t ∧ t = { s with lastRead := t.lastRead, log := { s.log with lost := 0 } } ∧
        t.lastRead = BitVec.ofNat 32 s.log.lost) ∧
      (off = 0 ∨ off = 4 ∨ off = 8 → exec (.rcRegisterRead p off) s = .next { s with lastRead := loWord (s.pkgReg off) })) ∧
    (s.wideAt off = none → exec (.counterLoRead p off) s = .next s) ∧
    (∀ w, s.wideAt off = some w → exec (.rcRegisterRead p off) s = .next s) ∧
    (off % 4 ≠ 0 → exec (.registerWrite p off v) s = .next s) ∧
    ((∀ n, p ≠ .pcie n) →
      (∀ q j, q < 64 → j < 16 → exec (.registerWrite p (0x1000000 * (q / 16 + 1) + 0x800000 + q % 16 * 0x10000 + j * 0x1000) v) s =
        exec (.doorbell p q j v) s) ∧
      exec (.registerWrite p 0x400 v) s = exec (.pwrModeWrite p v) s) ∧
    (∀ n, off % 4 = 0 → ∃ t, exec (.registerWrite (.pcie n) off v) s = .next t ∧ t.quads = s.quads ∧ t.mem = s.mem ∧
      (t.pciePort n).denied = min 0xFFFFFFFF ((s.pciePort n).denied + 1))

/-- Registers of an absent quad read as zero and ignore writes, and no error is logged. For a logical quad whose bit
of PKG_QUAD_MAP0 or PKG_QUAD_MAP1 is 0, and a port that may read: a read of any aligned offset of the quad's
block, of a counter or of another register, answers 0 and changes nothing else; a write of it changes nothing.
So neither logs an error. (R35.) -/
def Obligations.AbsentQuadsReadZero : Prop :=
  ∀ (p : Port) (q o : Nat) (v : Word) (s : State), q < 64 → o < 0x10000 → o % 4 = 0 → s.mayRead p = true →
    bit (s.pkgReg (0x04 + 4 * (q / 32))) (q % 32) = false →
    let off := 0x1000000 * (q / 16 + 1) + 0x100000 + q % 16 * 0x10000 + o
    ((s.wideAt off).isSome = true → exec (.counterLoRead p off) s = .next { s with lastRead := 0 }) ∧
    (s.wideAt off = none → exec (.rcRegisterRead p off) s = .next { s with lastRead := 0 }) ∧
    exec (.registerWrite p off v) s = .next s
end

