-- ==== Sys2Proof/Laws/Table.lean ====
section
/-! SUPPORT. Laws of sparse tables: what a read finds after a write, and that every write keeps the
canonical form. -/

namespace Sys2Proof.Machine

variable {α : Type}

@[simp] theorem Table.get_nil (d : α) (i : Nat) : Table.get d [] i = d := rfl

theorem Table.get_cons (d : α) (k : Nat) (v : α) (t : Table α) (i : Nat) :
    Table.get d ((k, v) :: t) i = if k = i then v else Table.get d t i := rfl

/-- Entries of other keys may be passed over. -/
theorem Table.get_append_of_forall_ne (d : α) (l t : Table α) (i : Nat) (h : ∀ e ∈ l, e.1 ≠ i) :
    Table.get d (l ++ t) i = Table.get d t i := by
  induction l with
  | nil => rfl
  | cons e l ih =>
    obtain ⟨k, v⟩ := e
    have hk : k ≠ i := h (k, v) (by simp)
    simp only [List.cons_append, Table.get_cons, if_neg hk]
    exact ih (fun e he => h e (by simp [he]))

/-- A part of a table that keeps every entry of a key reads as the table does there. -/
theorem Table.get_filter (d : α) (p : Nat × α → Bool) (t : Table α) (i : Nat) (h : ∀ v, p (i, v) = true) :
    Table.get d (t.filter p) i = Table.get d t i := by
  induction t with
  | nil => rfl
  | cons e t ih =>
    obtain ⟨k, v⟩ := e
    by_cases hk : k = i
    · subst hk; simp [h, Table.get_cons]
    · by_cases hp : p (k, v) = true
      · simp [hp, Table.get_cons, hk, ih]
      · simp [hp, Table.get_cons, hk, ih]

theorem Table.mem_below {t : Table α} {k : Nat} {e : Nat × α} (h : e ∈ t.below k) : e ∈ t ∧ e.1 < k := by
  simpa [Table.below] using h

theorem Table.mem_from {t : Table α} {k : Nat} {e : Nat × α} (h : e ∈ t.from k) : e ∈ t ∧ k ≤ e.1 := by
  simpa [Table.from] using h

variable [DecidableEq α]

/-- An entry of a run: its key lies in the run, its value is the run's, and is no default. -/
theorem Table.mem_run {d : α} {vs : List α} {k : Nat} {e : Nat × α} (h : e ∈ Table.run d k vs) :
    k ≤ e.1 ∧ e.1 < k + vs.length ∧ e.2 ≠ d := by
  induction vs generalizing k with
  | nil => simp [Table.run] at h
  | cons v vs ih =>
    by_cases hv : v = d
    · rw [Table.run, if_pos hv] at h
      obtain ⟨h1, h2, h3⟩ := ih h
      exact ⟨by omega, by simp only [List.length_cons]; omega, h3⟩
    · rw [Table.run, if_neg hv, List.mem_cons] at h
      rcases h with rfl | h
      · exact ⟨le_refl _, by simp, hv⟩
      · obtain ⟨h1, h2, h3⟩ := ih h
        exact ⟨by omega, by simp only [List.length_cons]; omega, h3⟩

/-- What a run reads as in front of a table that starts behind it. -/
theorem Table.get_run_append (d : α) (vs : List α) (k : Nat) (t : Table α) (i : Nat) (h : ∀ e ∈ t, k + vs.length ≤ e.1)
    (hi : k ≤ i) : Table.get d (Table.run d k vs ++ t) i = if i < k + vs.length then vs.getD (i - k) d else Table.get d t i := by
  induction vs generalizing k with
  | nil =>
    have : ¬ i < k + ([] : List α).length := by simp; omega
    simp [Table.run]
    intro hlt; omega
  | cons v vs ih =>
    have h' : ∀ e ∈ t, k + 1 + vs.length ≤ e.1 := fun e he => by have := h e he; simp only [List.length_cons] at this; omega
    by_cases hik : i = k
    · subst hik
      have hlt : i < i + (v :: vs).length := by simp
      by_cases hv : v = d
      · rw [Table.run, if_pos hv]
        have hn : ∀ e ∈ Table.run d (i + 1) vs ++ t, e.1 ≠ i := by
          intro e he
          rcases List.mem_append.mp he with he | he
          · have := (Table.mem_run he).1; omega
          · have := h e he; simp at this; omega
        have := Table.get_append_of_forall_ne d _ [] i hn
        simp only [List.append_nil, Table.get_nil] at this
        rw [this, if_pos hlt]; simp [hv]
      · rw [Table.run, if_neg hv]
        simp [Table.get_cons]
    · have hi' : k + 1 ≤ i := by omega
      have hsub : i - k = (i - (k + 1)) + 1 := by omega
      have hrun : Table.get d (Table.run d k (v :: vs) ++ t) i = Table.get d (Table.run d (k + 1) vs ++ t) i := by
        by_cases hv : v = d
        · rw [Table.run, if_pos hv]
        · rw [Table.run, if_neg hv, List.cons_append, Table.get_cons, if_neg (by omega)]
      rw [hrun, ih (k + 1) h' hi', hsub]
      simp only [List.length_cons, List.getD_cons_succ]
      congr 1
      simp only [eq_iff_iff]; omega

/-- What a table reads as after a splice. -/
theorem Table.get_splice (d : α) (t : Table α) (k : Nat) (vs : List α) (i : Nat) :
    Table.get d (t.splice d k vs) i =
      if k ≤ i ∧ i < k + vs.length then vs.getD (i - k) d else Table.get d t i := by
  unfold Table.splice
  have hfrom : ∀ e ∈ t.from (k + vs.length), k + vs.length ≤ e.1 := fun e he => (Table.mem_from he).2
  by_cases hi : k ≤ i
  · rw [Table.get_append_of_forall_ne d _ _ i (fun e he => by have := (Table.mem_below he).2; omega),
      Table.get_run_append d vs k _ i hfrom hi]
    by_cases hlt : i < k + vs.length
    · rw [if_pos hlt, if_pos ⟨hi, hlt⟩]
    · rw [if_neg hlt, if_neg (fun c => hlt c.2)]
      exact Table.get_filter d _ t i (fun v => by simpa using Nat.le_of_not_lt hlt)
  · rw [if_neg (fun c => hi c.1)]
    have hrest : Table.get d (Table.run d k vs ++ t.from (k + vs.length)) i = d := by
      have hn : ∀ e ∈ Table.run d k vs ++ t.from (k + vs.length), e.1 ≠ i := by
        intro e he
        rcases List.mem_append.mp he with he | he
        · have := (Table.mem_run he).1; omega
        · have := hfrom e he; omega
      have := Table.get_append_of_forall_ne d _ [] i hn
      simpa using this
    have hlow : Table.get d (t.below k) i = Table.get d t i :=
      Table.get_filter d _ t i (fun v => by simpa using Nat.lt_of_not_le hi)
    rw [← hlow]
    generalize t.below k = b at *
    clear hlow
    induction b with
    | nil => simpa using hrest
    | cons e b ih => obtain ⟨a, v⟩ := e; simp only [List.cons_append, Table.get_cons]; split <;> simp_all

/-- What a table reads as after a write of one entry. -/
theorem Table.get_put (d : α) (t : Table α) (k : Nat) (v : α) (i : Nat) :
    Table.get d (t.put d k v) i = if i = k then v else Table.get d t i := by
  rw [Table.put, Table.get_splice]
  simp only [List.length_singleton]
  by_cases h : i = k
  · subst h; simp
  · rw [if_neg (by omega), if_neg h]

@[simp] theorem Table.get_put_same (d : α) (t : Table α) (k : Nat) (v : α) : Table.get d (t.put d k v) k = v := by
  simp [Table.get_put]

@[simp] theorem Table.get_put_ne (d : α) (t : Table α) {k i : Nat} (v : α) (h : i ≠ k) :
    Table.get d (t.put d k v) i = Table.get d t i := by simp [Table.get_put, h]

theorem Table.below_append (a b : Table α) (k : Nat) : (a ++ b : Table α).below k = a.below k ++ b.below k := List.filter_append ..
theorem Table.from_append (a b : Table α) (k : Nat) : (a ++ b : Table α).from k = a.from k ++ b.from k := List.filter_append ..

/-- The entries below a key of a table that starts at it are none. -/
theorem Table.below_of_ge {t : Table α} {k : Nat} (h : ∀ e ∈ t, k ≤ e.1) : t.below k = [] := by
  rw [Table.below, List.filter_eq_nil_iff]; intro e he; have := h e he; simp; omega
theorem Table.below_of_lt {t : Table α} {k : Nat} (h : ∀ e ∈ t, e.1 < k) : t.below k = t := by
  rw [Table.below, List.filter_eq_self]; intro e he; have := h e he; simpa using this
theorem Table.from_of_lt {t : Table α} {k : Nat} (h : ∀ e ∈ t, e.1 < k) : t.from k = [] := by
  rw [Table.from, List.filter_eq_nil_iff]; intro e he; have := h e he; simp; omega
theorem Table.from_of_ge {t : Table α} {k : Nat} (h : ∀ e ∈ t, k ≤ e.1) : t.from k = t := by
  rw [Table.from, List.filter_eq_self]; intro e he; have := h e he; simpa using this

/-- A second write of an entry is the only one that stays. -/
theorem Table.put_put (d : α) (t : Table α) (k : Nat) (v w : α) : (t.put d k v).put d k w = t.put d k w := by
  have hb : (t.put d k v).below k = t.below k := by
    rw [Table.put, Table.splice, Table.below_append, Table.below_append,
      Table.below_of_lt (fun e he => (Table.mem_below he).2),
      Table.below_of_ge (fun e he => (Table.mem_run he).1),
      Table.below_of_ge (t := t.from (k + [v].length)) (fun e he => by have := (Table.mem_from he).2; omega)]
    simp
  have hf : (t.put d k v).from (k + 1) = t.from (k + 1) := by
    rw [Table.put, Table.splice, Table.from_append, Table.from_append,
      Table.from_of_lt (fun e he => by have := (Table.mem_below he).2; omega),
      Table.from_of_lt (fun e he => by have := (Table.mem_run he).2.1; simpa using this),
      Table.from_of_ge (t := t.from (k + [v].length)) (fun e he => by simpa using (Table.mem_from he).2)]
    simp
  show (t.put d k v).below k ++ (Table.run d k [w] ++ (t.put d k v).from (k + [w].length)) = _
  rw [hb, List.length_singleton, hf]
  rfl

/-! ### The canonical form -/

theorem Table.wf_iff (d : α) (t : Table α) :
    Table.wf d t = true ↔ (t.map Prod.fst).Pairwise (· < ·) ∧ ∀ e ∈ t, e.2 ≠ d := by
  simp [Table.wf]

@[simp] theorem Table.wf_nil (d : α) : Table.wf d ([] : Table α) = true := by simp [Table.wf]

theorem Table.run_sorted (d : α) (vs : List α) (k : Nat) : ((Table.run d k vs).map Prod.fst).Pairwise (· < ·) := by
  induction vs generalizing k with
  | nil => simp [Table.run]
  | cons v vs ih =>
    by_cases hv : v = d
    · rw [Table.run, if_pos hv]; exact ih _
    · rw [Table.run, if_neg hv, List.map_cons, List.pairwise_cons]
      refine ⟨?_, ih _⟩
      intro a ha
      obtain ⟨e, he, rfl⟩ := List.mem_map.mp ha
      have := (Table.mem_run he).1
      show k < e.1
      omega

/-- A part of a canonical table is canonical. -/
theorem Table.wf_filter (d : α) (p : Nat × α → Bool) {t : Table α} (h : Table.wf d t = true) :
    Table.wf d (t.filter p) = true := by
  rw [Table.wf_iff] at h ⊢
  refine ⟨h.1.sublist ((List.filter_sublist).map _), ?_⟩
  intro e he
  exact h.2 e (List.mem_filter.mp he).1

/-- Two canonical tables, one wholly below the other, join to one. -/
theorem Table.wf_append (d : α) {a b : Table α} (k : Nat) (ha : Table.wf d a = true) (hb : Table.wf d b = true)
    (hak : ∀ e ∈ a, e.1 < k) (hbk : ∀ e ∈ b, k ≤ e.1) : Table.wf d (a ++ b) = true := by
  rw [Table.wf_iff] at ha hb ⊢
  refine ⟨?_, ?_⟩
  · rw [List.map_append, List.pairwise_append]
    refine ⟨ha.1, hb.1, ?_⟩
    intro x hx y hy
    obtain ⟨e, he, rfl⟩ := List.mem_map.mp hx
    obtain ⟨f, hf, rfl⟩ := List.mem_map.mp hy
    have h1 := hak e he
    have h2 := hbk f hf
    omega
  · intro e he
    rcases List.mem_append.mp he with he | he
    · exact ha.2 e he
    · exact hb.2 e he

/-- A splice keeps the canonical form. -/
theorem Table.wf_splice (d : α) {t : Table α} (k : Nat) (vs : List α) (h : Table.wf d t = true) :
    Table.wf d (t.splice d k vs) = true := by
  have hrun : Table.wf d (Table.run d k vs) = true :=
    (Table.wf_iff d _).mpr ⟨Table.run_sorted d vs k, fun e he => (Table.mem_run he).2.2⟩
  refine Table.wf_append d k (Table.wf_filter d _ h) ?_ (fun e he => (Table.mem_below he).2) ?_
  · exact Table.wf_append d (k + vs.length) hrun (Table.wf_filter d _ h)
      (fun e he => (Table.mem_run he).2.1) (fun e he => (Table.mem_from he).2)
  · intro e he
    rcases List.mem_append.mp he with he | he
    · exact (Table.mem_run he).1
    · have := (Table.mem_from he).2; omega

theorem Table.wf_put (d : α) {t : Table α} (k : Nat) (v : α) (h : Table.wf d t = true) :
    Table.wf d (t.put d k v) = true := Table.wf_splice d k [v] h

/-- Taking keys out keeps the canonical form. -/
theorem Table.wf_drop (d : α) {t : Table α} (k n : Nat) (h : Table.wf d t = true) :
    Table.wf d (t.drop k n) = true :=
  Table.wf_append d k (Table.wf_filter d _ h) (Table.wf_filter d _ h)
    (fun e he => (Table.mem_below he).2) (fun e he => by have := (Table.mem_from he).2; omega)

/-- A walk over a run reads the run's values. -/
theorem Table.walk_run (d : α) (ws : List α) (k m : Nat) (rest : Table α) (h : ∀ e ∈ rest, k + ws.length ≤ e.1)
    (hm : m ≤ ws.length) : Table.walk d m k (Table.run d k ws ++ rest) = ws.take m := by
  induction ws generalizing k m with
  | nil =>
    have : m = 0 := by simpa using hm
    subst this; simp [Table.walk]
  | cons v ws ih =>
    cases m with
    | zero => simp [Table.walk]
    | succ m =>
      have hr : ∀ e ∈ rest, k + 1 + ws.length ≤ e.1 := by
        intro e he; have := h e he; simp only [List.length_cons] at this; omega
      have ih' := ih (k + 1) m hr (by simpa using hm)
      simp only [Table.run]
      split
      · rename_i hv
        have hne : ∀ e ∈ (Table.run d (k + 1) ws ++ rest : Table α), e.1 ≠ k := by
          intro e he
          rcases List.mem_append.mp he with he | he
          · have := (Table.mem_run he).1; omega
          · have := hr e he; omega
        rw [List.take_succ_cons, ← ih', hv]
        generalize (Table.run d (k + 1) ws ++ rest : Table α) = t at hne
        cases t with
        | nil => rfl
        | cons e t => exact if_neg (hne e (by simp))
      · rw [List.take_succ_cons, ← ih']
        simp [Table.walk]

/-- What a run of keys inside a splice reads as. -/
theorem Table.range_splice (d : α) (t : Table α) (k : Nat) (vs : List α) (o m : Nat) (h : o + m ≤ vs.length) :
    Table.range d (t.splice d k vs) (k + o) m = (vs.drop o).take m := by
  have hrun : ∀ (vs : List α) (k o : Nat), o ≤ vs.length → (Table.run d k vs).from (k + o) = Table.run d (k + o) (vs.drop o) := by
    intro vs
    induction vs with
    | nil => intro k o ho; have : o = 0 := by simpa using ho
             subst this; rfl
    | cons v vs ih =>
      intro k o ho
      cases o with
      | zero => exact Table.from_of_ge (fun e he => (Table.mem_run he).1)
      | succ o =>
        have := ih (k + 1) o (by simpa using ho)
        rw [show k + 1 + o = k + (o + 1) by omega] at this
        simp only [Table.run, List.drop_succ_cons]
        split
        · exact this
        · rw [← this, Table.from, List.filter_cons_of_neg (by simp)]; rfl
  unfold Table.range Table.splice
  rw [Table.from_append, Table.from_append, Table.from_of_lt (fun e he => by have := (Table.mem_below he).2; omega), hrun vs k o (by omega),
    Table.from_of_ge (t := t.from (k + vs.length)) (fun e he => by have := (Table.mem_from he).2; omega), List.nil_append]
  exact Table.walk_run d (vs.drop o) (k + o) m _ (fun e he => by have := (Table.mem_from he).2; simp only [List.length_drop]; omega)
    (by simp only [List.length_drop]; omega)

end Sys2Proof.Machine
end

