-- ==== Sys2Proof/Laws/State.lean ====
section
/-! SUPPORT. One lemma for each field of the state and each modifier: a modifier changes its own field alone. Then
what the modifiers of tables leave to be read. -/

namespace Sys2Proof.Machine

/-! ### setBytes -/

section
variable (s : State) (pa : Nat) (bs : List Byte)
@[simp] theorem State.setBytes_pending : (s.setBytes pa bs).pending = s.pending := rfl
@[simp] theorem State.setBytes_free : (s.setBytes pa bs).free = s.free := rfl
@[simp] theorem State.setBytes_flash : (s.setBytes pa bs).flash = s.flash := rfl
@[simp] theorem State.setBytes_poison : (s.setBytes pa bs).poison = s.poison := rfl
@[simp] theorem State.setBytes_flashPoison : (s.setBytes pa bs).flashPoison = s.flashPoison := rfl
@[simp] theorem State.setBytes_sync : (s.setBytes pa bs).sync = s.sync := rfl
@[simp] theorem State.setBytes_regs : (s.setBytes pa bs).regs = s.regs := rfl
@[simp] theorem State.setBytes_sweepWakes : (s.setBytes pa bs).sweepWakes = s.sweepWakes := rfl
@[simp] theorem State.setBytes_quads : (s.setBytes pa bs).quads = s.quads := rfl
@[simp] theorem State.setBytes_stus : (s.setBytes pa bs).stus = s.stus := rfl
@[simp] theorem State.setBytes_coh : (s.setBytes pa bs).coh = s.coh := rfl
@[simp] theorem State.setBytes_cores : (s.setBytes pa bs).cores = s.cores := rfl
@[simp] theorem State.setBytes_hostDies : (s.setBytes pa bs).hostDies = s.hostDies := rfl
@[simp] theorem State.setBytes_routes : (s.setBytes pa bs).routes = s.routes := rfl
@[simp] theorem State.setBytes_streams : (s.setBytes pa bs).streams = s.streams := rfl
@[simp] theorem State.setBytes_extWays : (s.setBytes pa bs).extWays = s.extWays := rfl
@[simp] theorem State.setBytes_extSelfDis : (s.setBytes pa bs).extSelfDis = s.extSelfDis := rfl
@[simp] theorem State.setBytes_extLfsr : (s.setBytes pa bs).extLfsr = s.extLfsr := rfl
@[simp] theorem State.setBytes_extErr : (s.setBytes pa bs).extErr = s.extErr := rfl
@[simp] theorem State.setBytes_extHits : (s.setBytes pa bs).extHits = s.extHits := rfl
@[simp] theorem State.setBytes_extMisses : (s.setBytes pa bs).extMisses = s.extMisses := rfl
@[simp] theorem State.setBytes_ext : (s.setBytes pa bs).ext = s.ext := rfl
@[simp] theorem State.setBytes_scWays : (s.setBytes pa bs).scWays = s.scWays := rfl
@[simp] theorem State.setBytes_scTrees : (s.setBytes pa bs).scTrees = s.scTrees := rfl
@[simp] theorem State.setBytes_tier : (s.setBytes pa bs).tier = s.tier := rfl
@[simp] theorem State.setBytes_links : (s.setBytes pa bs).links = s.links := rfl
@[simp] theorem State.setBytes_time : (s.setBytes pa bs).time = s.time := rfl
@[simp] theorem State.setBytes_eths : (s.setBytes pa bs).eths = s.eths := rfl
@[simp] theorem State.setBytes_qpRegs : (s.setBytes pa bs).qpRegs = s.qpRegs := rfl
@[simp] theorem State.setBytes_qps : (s.setBytes pa bs).qps = s.qps := rfl
@[simp] theorem State.setBytes_pcie : (s.setBytes pa bs).pcie = s.pcie := rfl
@[simp] theorem State.setBytes_log : (s.setBytes pa bs).log = s.log := rfl
@[simp] theorem State.setBytes_power : (s.setBytes pa bs).power = s.power := rfl
@[simp] theorem State.setBytes_cfg : (s.setBytes pa bs).cfg = s.cfg := rfl
@[simp] theorem State.setBytes_boot : (s.setBytes pa bs).boot = s.boot := rfl
@[simp] theorem State.setBytes_fabric : (s.setBytes pa bs).fabric = s.fabric := rfl
@[simp] theorem State.setBytes_latches : (s.setBytes pa bs).latches = s.latches := rfl
@[simp] theorem State.setBytes_lastRead : (s.setBytes pa bs).lastRead = s.lastRead := rfl
@[simp] theorem State.setBytes_out : (s.setBytes pa bs).out = s.out := rfl
end

/-! ### setPoison -/

section
variable (s : State) (k : Nat) (b : Bool)
@[simp] theorem State.setPoison_pending : (s.setPoison k b).pending = s.pending := rfl
@[simp] theorem State.setPoison_free : (s.setPoison k b).free = s.free := rfl
@[simp] theorem State.setPoison_mem : (s.setPoison k b).mem = s.mem := rfl
@[simp] theorem State.setPoison_flash : (s.setPoison k b).flash = s.flash := rfl
@[simp] theorem State.setPoison_flashPoison : (s.setPoison k b).flashPoison = s.flashPoison := rfl
@[simp] theorem State.setPoison_sync : (s.setPoison k b).sync = s.sync := rfl
@[simp] theorem State.setPoison_regs : (s.setPoison k b).regs = s.regs := rfl
@[simp] theorem State.setPoison_sweepWakes : (s.setPoison k b).sweepWakes = s.sweepWakes := rfl
@[simp] theorem State.setPoison_quads : (s.setPoison k b).quads = s.quads := rfl
@[simp] theorem State.setPoison_stus : (s.setPoison k b).stus = s.stus := rfl
@[simp] theorem State.setPoison_coh : (s.setPoison k b).coh = s.coh := rfl
@[simp] theorem State.setPoison_cores : (s.setPoison k b).cores = s.cores := rfl
@[simp] theorem State.setPoison_hostDies : (s.setPoison k b).hostDies = s.hostDies := rfl
@[simp] theorem State.setPoison_routes : (s.setPoison k b).routes = s.routes := rfl
@[simp] theorem State.setPoison_streams : (s.setPoison k b).streams = s.streams := rfl
@[simp] theorem State.setPoison_extWays : (s.setPoison k b).extWays = s.extWays := rfl
@[simp] theorem State.setPoison_extSelfDis : (s.setPoison k b).extSelfDis = s.extSelfDis := rfl
@[simp] theorem State.setPoison_extLfsr : (s.setPoison k b).extLfsr = s.extLfsr := rfl
@[simp] theorem State.setPoison_extErr : (s.setPoison k b).extErr = s.extErr := rfl
@[simp] theorem State.setPoison_extHits : (s.setPoison k b).extHits = s.extHits := rfl
@[simp] theorem State.setPoison_extMisses : (s.setPoison k b).extMisses = s.extMisses := rfl
@[simp] theorem State.setPoison_ext : (s.setPoison k b).ext = s.ext := rfl
@[simp] theorem State.setPoison_scWays : (s.setPoison k b).scWays = s.scWays := rfl
@[simp] theorem State.setPoison_scTrees : (s.setPoison k b).scTrees = s.scTrees := rfl
@[simp] theorem State.setPoison_tier : (s.setPoison k b).tier = s.tier := rfl
@[simp] theorem State.setPoison_links : (s.setPoison k b).links = s.links := rfl
@[simp] theorem State.setPoison_time : (s.setPoison k b).time = s.time := rfl
@[simp] theorem State.setPoison_eths : (s.setPoison k b).eths = s.eths := rfl
@[simp] theorem State.setPoison_qpRegs : (s.setPoison k b).qpRegs = s.qpRegs := rfl
@[simp] theorem State.setPoison_qps : (s.setPoison k b).qps = s.qps := rfl
@[simp] theorem State.setPoison_pcie : (s.setPoison k b).pcie = s.pcie := rfl
@[simp] theorem State.setPoison_log : (s.setPoison k b).log = s.log := rfl
@[simp] theorem State.setPoison_power : (s.setPoison k b).power = s.power := rfl
@[simp] theorem State.setPoison_cfg : (s.setPoison k b).cfg = s.cfg := rfl
@[simp] theorem State.setPoison_boot : (s.setPoison k b).boot = s.boot := rfl
@[simp] theorem State.setPoison_fabric : (s.setPoison k b).fabric = s.fabric := rfl
@[simp] theorem State.setPoison_latches : (s.setPoison k b).latches = s.latches := rfl
@[simp] theorem State.setPoison_lastRead : (s.setPoison k b).lastRead = s.lastRead := rfl
@[simp] theorem State.setPoison_out : (s.setPoison k b).out = s.out := rfl
end

/-! ### modQuad -/

section
variable (s : State) (q : Nat) (f : Quad → Quad)
@[simp] theorem State.modQuad_pending : (s.modQuad q f).pending = s.pending := rfl
@[simp] theorem State.modQuad_free : (s.modQuad q f).free = s.free := rfl
@[simp] theorem State.modQuad_mem : (s.modQuad q f).mem = s.mem := rfl
@[simp] theorem State.modQuad_flash : (s.modQuad q f).flash = s.flash := rfl
@[simp] theorem State.modQuad_poison : (s.modQuad q f).poison = s.poison := rfl
@[simp] theorem State.modQuad_flashPoison : (s.modQuad q f).flashPoison = s.flashPoison := rfl
@[simp] theorem State.modQuad_sync : (s.modQuad q f).sync = s.sync := rfl
@[simp] theorem State.modQuad_regs : (s.modQuad q f).regs = s.regs := rfl
@[simp] theorem State.modQuad_sweepWakes : (s.modQuad q f).sweepWakes = s.sweepWakes := rfl
@[simp] theorem State.modQuad_stus : (s.modQuad q f).stus = s.stus := rfl
@[simp] theorem State.modQuad_coh : (s.modQuad q f).coh = s.coh := rfl
@[simp] theorem State.modQuad_cores : (s.modQuad q f).cores = s.cores := rfl
@[simp] theorem State.modQuad_hostDies : (s.modQuad q f).hostDies = s.hostDies := rfl
@[simp] theorem State.modQuad_routes : (s.modQuad q f).routes = s.routes := rfl
@[simp] theorem State.modQuad_streams : (s.modQuad q f).streams = s.streams := rfl
@[simp] theorem State.modQuad_extWays : (s.modQuad q f).extWays = s.extWays := rfl
@[simp] theorem State.modQuad_extSelfDis : (s.modQuad q f).extSelfDis = s.extSelfDis := rfl
@[simp] theorem State.modQuad_extLfsr : (s.modQuad q f).extLfsr = s.extLfsr := rfl
@[simp] theorem State.modQuad_extErr : (s.modQuad q f).extErr = s.extErr := rfl
@[simp] theorem State.modQuad_extHits : (s.modQuad q f).extHits = s.extHits := rfl
@[simp] theorem State.modQuad_extMisses : (s.modQuad q f).extMisses = s.extMisses := rfl
@[simp] theorem State.modQuad_ext : (s.modQuad q f).ext = s.ext := rfl
@[simp] theorem State.modQuad_scWays : (s.modQuad q f).scWays = s.scWays := rfl
@[simp] theorem State.modQuad_scTrees : (s.modQuad q f).scTrees = s.scTrees := rfl
@[simp] theorem State.modQuad_tier : (s.modQuad q f).tier = s.tier := rfl
@[simp] theorem State.modQuad_links : (s.modQuad q f).links = s.links := rfl
@[simp] theorem State.modQuad_time : (s.modQuad q f).time = s.time := rfl
@[simp] theorem State.modQuad_eths : (s.modQuad q f).eths = s.eths := rfl
@[simp] theorem State.modQuad_qpRegs : (s.modQuad q f).qpRegs = s.qpRegs := rfl
@[simp] theorem State.modQuad_qps : (s.modQuad q f).qps = s.qps := rfl
@[simp] theorem State.modQuad_pcie : (s.modQuad q f).pcie = s.pcie := rfl
@[simp] theorem State.modQuad_log : (s.modQuad q f).log = s.log := rfl
@[simp] theorem State.modQuad_power : (s.modQuad q f).power = s.power := rfl
@[simp] theorem State.modQuad_cfg : (s.modQuad q f).cfg = s.cfg := rfl
@[simp] theorem State.modQuad_boot : (s.modQuad q f).boot = s.boot := rfl
@[simp] theorem State.modQuad_fabric : (s.modQuad q f).fabric = s.fabric := rfl
@[simp] theorem State.modQuad_latches : (s.modQuad q f).latches = s.latches := rfl
@[simp] theorem State.modQuad_lastRead : (s.modQuad q f).lastRead = s.lastRead := rfl
@[simp] theorem State.modQuad_out : (s.modQuad q f).out = s.out := rfl
end

/-! ### modQueue -/

section
variable (s : State) (q j : Nat) (f : Queue → Queue)
@[simp] theorem State.modQueue_pending : (s.modQueue q j f).pending = s.pending := rfl
@[simp] theorem State.modQueue_free : (s.modQueue q j f).free = s.free := rfl
@[simp] theorem State.modQueue_mem : (s.modQueue q j f).mem = s.mem := rfl
@[simp] theorem State.modQueue_flash : (s.modQueue q j f).flash = s.flash := rfl
@[simp] theorem State.modQueue_poison : (s.modQueue q j f).poison = s.poison := rfl
@[simp] theorem State.modQueue_flashPoison : (s.modQueue q j f).flashPoison = s.flashPoison := rfl
@[simp] theorem State.modQueue_sync : (s.modQueue q j f).sync = s.sync := rfl
@[simp] theorem State.modQueue_regs : (s.modQueue q j f).regs = s.regs := rfl
@[simp] theorem State.modQueue_sweepWakes : (s.modQueue q j f).sweepWakes = s.sweepWakes := rfl
@[simp] theorem State.modQueue_stus : (s.modQueue q j f).stus = s.stus := rfl
@[simp] theorem State.modQueue_coh : (s.modQueue q j f).coh = s.coh := rfl
@[simp] theorem State.modQueue_cores : (s.modQueue q j f).cores = s.cores := rfl
@[simp] theorem State.modQueue_hostDies : (s.modQueue q j f).hostDies = s.hostDies := rfl
@[simp] theorem State.modQueue_routes : (s.modQueue q j f).routes = s.routes := rfl
@[simp] theorem State.modQueue_streams : (s.modQueue q j f).streams = s.streams := rfl
@[simp] theorem State.modQueue_extWays : (s.modQueue q j f).extWays = s.extWays := rfl
@[simp] theorem State.modQueue_extSelfDis : (s.modQueue q j f).extSelfDis = s.extSelfDis := rfl
@[simp] theorem State.modQueue_extLfsr : (s.modQueue q j f).extLfsr = s.extLfsr := rfl
@[simp] theorem State.modQueue_extErr : (s.modQueue q j f).extErr = s.extErr := rfl
@[simp] theorem State.modQueue_extHits : (s.modQueue q j f).extHits = s.extHits := rfl
@[simp] theorem State.modQueue_extMisses : (s.modQueue q j f).extMisses = s.extMisses := rfl
@[simp] theorem State.modQueue_ext : (s.modQueue q j f).ext = s.ext := rfl
@[simp] theorem State.modQueue_scWays : (s.modQueue q j f).scWays = s.scWays := rfl
@[simp] theorem State.modQueue_scTrees : (s.modQueue q j f).scTrees = s.scTrees := rfl
@[simp] theorem State.modQueue_tier : (s.modQueue q j f).tier = s.tier := rfl
@[simp] theorem State.modQueue_links : (s.modQueue q j f).links = s.links := rfl
@[simp] theorem State.modQueue_time : (s.modQueue q j f).time = s.time := rfl
@[simp] theorem State.modQueue_eths : (s.modQueue q j f).eths = s.eths := rfl
@[simp] theorem State.modQueue_qpRegs : (s.modQueue q j f).qpRegs = s.qpRegs := rfl
@[simp] theorem State.modQueue_qps : (s.modQueue q j f).qps = s.qps := rfl
@[simp] theorem State.modQueue_pcie : (s.modQueue q j f).pcie = s.pcie := rfl
@[simp] theorem State.modQueue_log : (s.modQueue q j f).log = s.log := rfl
@[simp] theorem State.modQueue_power : (s.modQueue q j f).power = s.power := rfl
@[simp] theorem State.modQueue_cfg : (s.modQueue q j f).cfg = s.cfg := rfl
@[simp] theorem State.modQueue_boot : (s.modQueue q j f).boot = s.boot := rfl
@[simp] theorem State.modQueue_fabric : (s.modQueue q j f).fabric = s.fabric := rfl
@[simp] theorem State.modQueue_latches : (s.modQueue q j f).latches = s.latches := rfl
@[simp] theorem State.modQueue_lastRead : (s.modQueue q j f).lastRead = s.lastRead := rfl
@[simp] theorem State.modQueue_out : (s.modQueue q j f).out = s.out := rfl
end

/-! ### modWindow -/

section
variable (s : State) (q w : Nat) (f : Window → Window)
@[simp] theorem State.modWindow_pending : (s.modWindow q w f).pending = s.pending := rfl
@[simp] theorem State.modWindow_free : (s.modWindow q w f).free = s.free := rfl
@[simp] theorem State.modWindow_mem : (s.modWindow q w f).mem = s.mem := rfl
@[simp] theorem State.modWindow_flash : (s.modWindow q w f).flash = s.flash := rfl
@[simp] theorem State.modWindow_poison : (s.modWindow q w f).poison = s.poison := rfl
@[simp] theorem State.modWindow_flashPoison : (s.modWindow q w f).flashPoison = s.flashPoison := rfl
@[simp] theorem State.modWindow_sync : (s.modWindow q w f).sync = s.sync := rfl
@[simp] theorem State.modWindow_regs : (s.modWindow q w f).regs = s.regs := rfl
@[simp] theorem State.modWindow_sweepWakes : (s.modWindow q w f).sweepWakes = s.sweepWakes := rfl
@[simp] theorem State.modWindow_stus : (s.modWindow q w f).stus = s.stus := rfl
@[simp] theorem State.modWindow_coh : (s.modWindow q w f).coh = s.coh := rfl
@[simp] theorem State.modWindow_cores : (s.modWindow q w f).cores = s.cores := rfl
@[simp] theorem State.modWindow_hostDies : (s.modWindow q w f).hostDies = s.hostDies := rfl
@[simp] theorem State.modWindow_routes : (s.modWindow q w f).routes = s.routes := rfl
@[simp] theorem State.modWindow_streams : (s.modWindow q w f).streams = s.streams := rfl
@[simp] theorem State.modWindow_extWays : (s.modWindow q w f).extWays = s.extWays := rfl
@[simp] theorem State.modWindow_extSelfDis : (s.modWindow q w f).extSelfDis = s.extSelfDis := rfl
@[simp] theorem State.modWindow_extLfsr : (s.modWindow q w f).extLfsr = s.extLfsr := rfl
@[simp] theorem State.modWindow_extErr : (s.modWindow q w f).extErr = s.extErr := rfl
@[simp] theorem State.modWindow_extHits : (s.modWindow q w f).extHits = s.extHits := rfl
@[simp] theorem State.modWindow_extMisses : (s.modWindow q w f).extMisses = s.extMisses := rfl
@[simp] theorem State.modWindow_ext : (s.modWindow q w f).ext = s.ext := rfl
@[simp] theorem State.modWindow_scWays : (s.modWindow q w f).scWays = s.scWays := rfl
@[simp] theorem State.modWindow_scTrees : (s.modWindow q w f).scTrees = s.scTrees := rfl
@[simp] theorem State.modWindow_tier : (s.modWindow q w f).tier = s.tier := rfl
@[simp] theorem State.modWindow_links : (s.modWindow q w f).links = s.links := rfl
@[simp] theorem State.modWindow_time : (s.modWindow q w f).time = s.time := rfl
@[simp] theorem State.modWindow_eths : (s.modWindow q w f).eths = s.eths := rfl
@[simp] theorem State.modWindow_qpRegs : (s.modWindow q w f).qpRegs = s.qpRegs := rfl
@[simp] theorem State.modWindow_qps : (s.modWindow q w f).qps = s.qps := rfl
@[simp] theorem State.modWindow_pcie : (s.modWindow q w f).pcie = s.pcie := rfl
@[simp] theorem State.modWindow_log : (s.modWindow q w f).log = s.log := rfl
@[simp] theorem State.modWindow_power : (s.modWindow q w f).power = s.power := rfl
@[simp] theorem State.modWindow_cfg : (s.modWindow q w f).cfg = s.cfg := rfl
@[simp] theorem State.modWindow_boot : (s.modWindow q w f).boot = s.boot := rfl
@[simp] theorem State.modWindow_fabric : (s.modWindow q w f).fabric = s.fabric := rfl
@[simp] theorem State.modWindow_latches : (s.modWindow q w f).latches = s.latches := rfl
@[simp] theorem State.modWindow_lastRead : (s.modWindow q w f).lastRead = s.lastRead := rfl
@[simp] theorem State.modWindow_out : (s.modWindow q w f).out = s.out := rfl
end

/-! ### modStu -/

section
variable (s : State) (u : Nat) (f : Stu → Stu)
@[simp] theorem State.modStu_pending : (s.modStu u f).pending = s.pending := rfl
@[simp] theorem State.modStu_free : (s.modStu u f).free = s.free := rfl
@[simp] theorem State.modStu_mem : (s.modStu u f).mem = s.mem := rfl
@[simp] theorem State.modStu_flash : (s.modStu u f).flash = s.flash := rfl
@[simp] theorem State.modStu_poison : (s.modStu u f).poison = s.poison := rfl
@[simp] theorem State.modStu_flashPoison : (s.modStu u f).flashPoison = s.flashPoison := rfl
@[simp] theorem State.modStu_sync : (s.modStu u f).sync = s.sync := rfl
@[simp] theorem State.modStu_regs : (s.modStu u f).regs = s.regs := rfl
@[simp] theorem State.modStu_sweepWakes : (s.modStu u f).sweepWakes = s.sweepWakes := rfl
@[simp] theorem State.modStu_quads : (s.modStu u f).quads = s.quads := rfl
@[simp] theorem State.modStu_coh : (s.modStu u f).coh = s.coh := rfl
@[simp] theorem State.modStu_cores : (s.modStu u f).cores = s.cores := rfl
@[simp] theorem State.modStu_hostDies : (s.modStu u f).hostDies = s.hostDies := rfl
@[simp] theorem State.modStu_routes : (s.modStu u f).routes = s.routes := rfl
@[simp] theorem State.modStu_streams : (s.modStu u f).streams = s.streams := rfl
@[simp] theorem State.modStu_extWays : (s.modStu u f).extWays = s.extWays := rfl
@[simp] theorem State.modStu_extSelfDis : (s.modStu u f).extSelfDis = s.extSelfDis := rfl
@[simp] theorem State.modStu_extLfsr : (s.modStu u f).extLfsr = s.extLfsr := rfl
@[simp] theorem State.modStu_extErr : (s.modStu u f).extErr = s.extErr := rfl
@[simp] theorem State.modStu_extHits : (s.modStu u f).extHits = s.extHits := rfl
@[simp] theorem State.modStu_extMisses : (s.modStu u f).extMisses = s.extMisses := rfl
@[simp] theorem State.modStu_ext : (s.modStu u f).ext = s.ext := rfl
@[simp] theorem State.modStu_scWays : (s.modStu u f).scWays = s.scWays := rfl
@[simp] theorem State.modStu_scTrees : (s.modStu u f).scTrees = s.scTrees := rfl
@[simp] theorem State.modStu_tier : (s.modStu u f).tier = s.tier := rfl
@[simp] theorem State.modStu_links : (s.modStu u f).links = s.links := rfl
@[simp] theorem State.modStu_time : (s.modStu u f).time = s.time := rfl
@[simp] theorem State.modStu_eths : (s.modStu u f).eths = s.eths := rfl
@[simp] theorem State.modStu_qpRegs : (s.modStu u f).qpRegs = s.qpRegs := rfl
@[simp] theorem State.modStu_qps : (s.modStu u f).qps = s.qps := rfl
@[simp] theorem State.modStu_pcie : (s.modStu u f).pcie = s.pcie := rfl
@[simp] theorem State.modStu_log : (s.modStu u f).log = s.log := rfl
@[simp] theorem State.modStu_power : (s.modStu u f).power = s.power := rfl
@[simp] theorem State.modStu_cfg : (s.modStu u f).cfg = s.cfg := rfl
@[simp] theorem State.modStu_boot : (s.modStu u f).boot = s.boot := rfl
@[simp] theorem State.modStu_fabric : (s.modStu u f).fabric = s.fabric := rfl
@[simp] theorem State.modStu_latches : (s.modStu u f).latches = s.latches := rfl
@[simp] theorem State.modStu_lastRead : (s.modStu u f).lastRead = s.lastRead := rfl
@[simp] theorem State.modStu_out : (s.modStu u f).out = s.out := rfl
end

/-! ### modCore -/

section
variable (s : State) (c : Nat) (f : Core → Core)
@[simp] theorem State.modCore_pending : (s.modCore c f).pending = s.pending := rfl
@[simp] theorem State.modCore_free : (s.modCore c f).free = s.free := rfl
@[simp] theorem State.modCore_mem : (s.modCore c f).mem = s.mem := rfl
@[simp] theorem State.modCore_flash : (s.modCore c f).flash = s.flash := rfl
@[simp] theorem State.modCore_poison : (s.modCore c f).poison = s.poison := rfl
@[simp] theorem State.modCore_flashPoison : (s.modCore c f).flashPoison = s.flashPoison := rfl
@[simp] theorem State.modCore_sync : (s.modCore c f).sync = s.sync := rfl
@[simp] theorem State.modCore_regs : (s.modCore c f).regs = s.regs := rfl
@[simp] theorem State.modCore_sweepWakes : (s.modCore c f).sweepWakes = s.sweepWakes := rfl
@[simp] theorem State.modCore_quads : (s.modCore c f).quads = s.quads := rfl
@[simp] theorem State.modCore_stus : (s.modCore c f).stus = s.stus := rfl
@[simp] theorem State.modCore_coh : (s.modCore c f).coh = s.coh := rfl
@[simp] theorem State.modCore_hostDies : (s.modCore c f).hostDies = s.hostDies := rfl
@[simp] theorem State.modCore_routes : (s.modCore c f).routes = s.routes := rfl
@[simp] theorem State.modCore_streams : (s.modCore c f).streams = s.streams := rfl
@[simp] theorem State.modCore_extWays : (s.modCore c f).extWays = s.extWays := rfl
@[simp] theorem State.modCore_extSelfDis : (s.modCore c f).extSelfDis = s.extSelfDis := rfl
@[simp] theorem State.modCore_extLfsr : (s.modCore c f).extLfsr = s.extLfsr := rfl
@[simp] theorem State.modCore_extErr : (s.modCore c f).extErr = s.extErr := rfl
@[simp] theorem State.modCore_extHits : (s.modCore c f).extHits = s.extHits := rfl
@[simp] theorem State.modCore_extMisses : (s.modCore c f).extMisses = s.extMisses := rfl
@[simp] theorem State.modCore_ext : (s.modCore c f).ext = s.ext := rfl
@[simp] theorem State.modCore_scWays : (s.modCore c f).scWays = s.scWays := rfl
@[simp] theorem State.modCore_scTrees : (s.modCore c f).scTrees = s.scTrees := rfl
@[simp] theorem State.modCore_tier : (s.modCore c f).tier = s.tier := rfl
@[simp] theorem State.modCore_links : (s.modCore c f).links = s.links := rfl
@[simp] theorem State.modCore_time : (s.modCore c f).time = s.time := rfl
@[simp] theorem State.modCore_eths : (s.modCore c f).eths = s.eths := rfl
@[simp] theorem State.modCore_qpRegs : (s.modCore c f).qpRegs = s.qpRegs := rfl
@[simp] theorem State.modCore_qps : (s.modCore c f).qps = s.qps := rfl
@[simp] theorem State.modCore_pcie : (s.modCore c f).pcie = s.pcie := rfl
@[simp] theorem State.modCore_log : (s.modCore c f).log = s.log := rfl
@[simp] theorem State.modCore_power : (s.modCore c f).power = s.power := rfl
@[simp] theorem State.modCore_cfg : (s.modCore c f).cfg = s.cfg := rfl
@[simp] theorem State.modCore_boot : (s.modCore c f).boot = s.boot := rfl
@[simp] theorem State.modCore_fabric : (s.modCore c f).fabric = s.fabric := rfl
@[simp] theorem State.modCore_latches : (s.modCore c f).latches = s.latches := rfl
@[simp] theorem State.modCore_lastRead : (s.modCore c f).lastRead = s.lastRead := rfl
@[simp] theorem State.modCore_out : (s.modCore c f).out = s.out := rfl
end

/-! ### modLink -/

section
variable (s : State) (n : Nat) (f : Link → Link)
@[simp] theorem State.modLink_pending : (s.modLink n f).pending = s.pending := rfl
@[simp] theorem State.modLink_free : (s.modLink n f).free = s.free := rfl
@[simp] theorem State.modLink_mem : (s.modLink n f).mem = s.mem := rfl
@[simp] theorem State.modLink_flash : (s.modLink n f).flash = s.flash := rfl
@[simp] theorem State.modLink_poison : (s.modLink n f).poison = s.poison := rfl
@[simp] theorem State.modLink_flashPoison : (s.modLink n f).flashPoison = s.flashPoison := rfl
@[simp] theorem State.modLink_sync : (s.modLink n f).sync = s.sync := rfl
@[simp] theorem State.modLink_regs : (s.modLink n f).regs = s.regs := rfl
@[simp] theorem State.modLink_sweepWakes : (s.modLink n f).sweepWakes = s.sweepWakes := rfl
@[simp] theorem State.modLink_quads : (s.modLink n f).quads = s.quads := rfl
@[simp] theorem State.modLink_stus : (s.modLink n f).stus = s.stus := rfl
@[simp] theorem State.modLink_coh : (s.modLink n f).coh = s.coh := rfl
@[simp] theorem State.modLink_cores : (s.modLink n f).cores = s.cores := rfl
@[simp] theorem State.modLink_hostDies : (s.modLink n f).hostDies = s.hostDies := rfl
@[simp] theorem State.modLink_routes : (s.modLink n f).routes = s.routes := rfl
@[simp] theorem State.modLink_streams : (s.modLink n f).streams = s.streams := rfl
@[simp] theorem State.modLink_extWays : (s.modLink n f).extWays = s.extWays := rfl
@[simp] theorem State.modLink_extSelfDis : (s.modLink n f).extSelfDis = s.extSelfDis := rfl
@[simp] theorem State.modLink_extLfsr : (s.modLink n f).extLfsr = s.extLfsr := rfl
@[simp] theorem State.modLink_extErr : (s.modLink n f).extErr = s.extErr := rfl
@[simp] theorem State.modLink_extHits : (s.modLink n f).extHits = s.extHits := rfl
@[simp] theorem State.modLink_extMisses : (s.modLink n f).extMisses = s.extMisses := rfl
@[simp] theorem State.modLink_ext : (s.modLink n f).ext = s.ext := rfl
@[simp] theorem State.modLink_scWays : (s.modLink n f).scWays = s.scWays := rfl
@[simp] theorem State.modLink_scTrees : (s.modLink n f).scTrees = s.scTrees := rfl
@[simp] theorem State.modLink_tier : (s.modLink n f).tier = s.tier := rfl
@[simp] theorem State.modLink_time : (s.modLink n f).time = s.time := rfl
@[simp] theorem State.modLink_eths : (s.modLink n f).eths = s.eths := rfl
@[simp] theorem State.modLink_qpRegs : (s.modLink n f).qpRegs = s.qpRegs := rfl
@[simp] theorem State.modLink_qps : (s.modLink n f).qps = s.qps := rfl
@[simp] theorem State.modLink_pcie : (s.modLink n f).pcie = s.pcie := rfl
@[simp] theorem State.modLink_log : (s.modLink n f).log = s.log := rfl
@[simp] theorem State.modLink_power : (s.modLink n f).power = s.power := rfl
@[simp] theorem State.modLink_cfg : (s.modLink n f).cfg = s.cfg := rfl
@[simp] theorem State.modLink_boot : (s.modLink n f).boot = s.boot := rfl
@[simp] theorem State.modLink_fabric : (s.modLink n f).fabric = s.fabric := rfl
@[simp] theorem State.modLink_latches : (s.modLink n f).latches = s.latches := rfl
@[simp] theorem State.modLink_lastRead : (s.modLink n f).lastRead = s.lastRead := rfl
@[simp] theorem State.modLink_out : (s.modLink n f).out = s.out := rfl
end

/-! ### modPower -/

section
variable (s : State) (f : Power → Power)
@[simp] theorem State.modPower_pending : (s.modPower f).pending = s.pending := rfl
@[simp] theorem State.modPower_free : (s.modPower f).free = s.free := rfl
@[simp] theorem State.modPower_mem : (s.modPower f).mem = s.mem := rfl
@[simp] theorem State.modPower_flash : (s.modPower f).flash = s.flash := rfl
@[simp] theorem State.modPower_poison : (s.modPower f).poison = s.poison := rfl
@[simp] theorem State.modPower_flashPoison : (s.modPower f).flashPoison = s.flashPoison := rfl
@[simp] theorem State.modPower_sync : (s.modPower f).sync = s.sync := rfl
@[simp] theorem State.modPower_regs : (s.modPower f).regs = s.regs := rfl
@[simp] theorem State.modPower_sweepWakes : (s.modPower f).sweepWakes = s.sweepWakes := rfl
@[simp] theorem State.modPower_quads : (s.modPower f).quads = s.quads := rfl
@[simp] theorem State.modPower_stus : (s.modPower f).stus = s.stus := rfl
@[simp] theorem State.modPower_coh : (s.modPower f).coh = s.coh := rfl
@[simp] theorem State.modPower_cores : (s.modPower f).cores = s.cores := rfl
@[simp] theorem State.modPower_hostDies : (s.modPower f).hostDies = s.hostDies := rfl
@[simp] theorem State.modPower_routes : (s.modPower f).routes = s.routes := rfl
@[simp] theorem State.modPower_streams : (s.modPower f).streams = s.streams := rfl
@[simp] theorem State.modPower_extWays : (s.modPower f).extWays = s.extWays := rfl
@[simp] theorem State.modPower_extSelfDis : (s.modPower f).extSelfDis = s.extSelfDis := rfl
@[simp] theorem State.modPower_extLfsr : (s.modPower f).extLfsr = s.extLfsr := rfl
@[simp] theorem State.modPower_extErr : (s.modPower f).extErr = s.extErr := rfl
@[simp] theorem State.modPower_extHits : (s.modPower f).extHits = s.extHits := rfl
@[simp] theorem State.modPower_extMisses : (s.modPower f).extMisses = s.extMisses := rfl
@[simp] theorem State.modPower_ext : (s.modPower f).ext = s.ext := rfl
@[simp] theorem State.modPower_scWays : (s.modPower f).scWays = s.scWays := rfl
@[simp] theorem State.modPower_scTrees : (s.modPower f).scTrees = s.scTrees := rfl
@[simp] theorem State.modPower_tier : (s.modPower f).tier = s.tier := rfl
@[simp] theorem State.modPower_links : (s.modPower f).links = s.links := rfl
@[simp] theorem State.modPower_time : (s.modPower f).time = s.time := rfl
@[simp] theorem State.modPower_eths : (s.modPower f).eths = s.eths := rfl
@[simp] theorem State.modPower_qpRegs : (s.modPower f).qpRegs = s.qpRegs := rfl
@[simp] theorem State.modPower_qps : (s.modPower f).qps = s.qps := rfl
@[simp] theorem State.modPower_pcie : (s.modPower f).pcie = s.pcie := rfl
@[simp] theorem State.modPower_log : (s.modPower f).log = s.log := rfl
@[simp] theorem State.modPower_cfg : (s.modPower f).cfg = s.cfg := rfl
@[simp] theorem State.modPower_boot : (s.modPower f).boot = s.boot := rfl
@[simp] theorem State.modPower_fabric : (s.modPower f).fabric = s.fabric := rfl
@[simp] theorem State.modPower_latches : (s.modPower f).latches = s.latches := rfl
@[simp] theorem State.modPower_lastRead : (s.modPower f).lastRead = s.lastRead := rfl
@[simp] theorem State.modPower_out : (s.modPower f).out = s.out := rfl
end

/-! ### modDiePower -/

section
variable (s : State) (d : Nat) (f : DiePower → DiePower)
@[simp] theorem State.modDiePower_pending : (s.modDiePower d f).pending = s.pending := rfl
@[simp] theorem State.modDiePower_free : (s.modDiePower d f).free = s.free := rfl
@[simp] theorem State.modDiePower_mem : (s.modDiePower d f).mem = s.mem := rfl
@[simp] theorem State.modDiePower_flash : (s.modDiePower d f).flash = s.flash := rfl
@[simp] theorem State.modDiePower_poison : (s.modDiePower d f).poison = s.poison := rfl
@[simp] theorem State.modDiePower_flashPoison : (s.modDiePower d f).flashPoison = s.flashPoison := rfl
@[simp] theorem State.modDiePower_sync : (s.modDiePower d f).sync = s.sync := rfl
@[simp] theorem State.modDiePower_regs : (s.modDiePower d f).regs = s.regs := rfl
@[simp] theorem State.modDiePower_sweepWakes : (s.modDiePower d f).sweepWakes = s.sweepWakes := rfl
@[simp] theorem State.modDiePower_quads : (s.modDiePower d f).quads = s.quads := rfl
@[simp] theorem State.modDiePower_stus : (s.modDiePower d f).stus = s.stus := rfl
@[simp] theorem State.modDiePower_coh : (s.modDiePower d f).coh = s.coh := rfl
@[simp] theorem State.modDiePower_cores : (s.modDiePower d f).cores = s.cores := rfl
@[simp] theorem State.modDiePower_hostDies : (s.modDiePower d f).hostDies = s.hostDies := rfl
@[simp] theorem State.modDiePower_routes : (s.modDiePower d f).routes = s.routes := rfl
@[simp] theorem State.modDiePower_streams : (s.modDiePower d f).streams = s.streams := rfl
@[simp] theorem State.modDiePower_extWays : (s.modDiePower d f).extWays = s.extWays := rfl
@[simp] theorem State.modDiePower_extSelfDis : (s.modDiePower d f).extSelfDis = s.extSelfDis := rfl
@[simp] theorem State.modDiePower_extLfsr : (s.modDiePower d f).extLfsr = s.extLfsr := rfl
@[simp] theorem State.modDiePower_extErr : (s.modDiePower d f).extErr = s.extErr := rfl
@[simp] theorem State.modDiePower_extHits : (s.modDiePower d f).extHits = s.extHits := rfl
@[simp] theorem State.modDiePower_extMisses : (s.modDiePower d f).extMisses = s.extMisses := rfl
@[simp] theorem State.modDiePower_ext : (s.modDiePower d f).ext = s.ext := rfl
@[simp] theorem State.modDiePower_scWays : (s.modDiePower d f).scWays = s.scWays := rfl
@[simp] theorem State.modDiePower_scTrees : (s.modDiePower d f).scTrees = s.scTrees := rfl
@[simp] theorem State.modDiePower_tier : (s.modDiePower d f).tier = s.tier := rfl
@[simp] theorem State.modDiePower_links : (s.modDiePower d f).links = s.links := rfl
@[simp] theorem State.modDiePower_time : (s.modDiePower d f).time = s.time := rfl
@[simp] theorem State.modDiePower_eths : (s.modDiePower d f).eths = s.eths := rfl
@[simp] theorem State.modDiePower_qpRegs : (s.modDiePower d f).qpRegs = s.qpRegs := rfl
@[simp] theorem State.modDiePower_qps : (s.modDiePower d f).qps = s.qps := rfl
@[simp] theorem State.modDiePower_pcie : (s.modDiePower d f).pcie = s.pcie := rfl
@[simp] theorem State.modDiePower_log : (s.modDiePower d f).log = s.log := rfl
@[simp] theorem State.modDiePower_cfg : (s.modDiePower d f).cfg = s.cfg := rfl
@[simp] theorem State.modDiePower_boot : (s.modDiePower d f).boot = s.boot := rfl
@[simp] theorem State.modDiePower_fabric : (s.modDiePower d f).fabric = s.fabric := rfl
@[simp] theorem State.modDiePower_latches : (s.modDiePower d f).latches = s.latches := rfl
@[simp] theorem State.modDiePower_lastRead : (s.modDiePower d f).lastRead = s.lastRead := rfl
@[simp] theorem State.modDiePower_out : (s.modDiePower d f).out = s.out := rfl
end

/-! ### modCfg -/

section
variable (s : State) (f : Cfg → Cfg)
@[simp] theorem State.modCfg_pending : (s.modCfg f).pending = s.pending := rfl
@[simp] theorem State.modCfg_free : (s.modCfg f).free = s.free := rfl
@[simp] theorem State.modCfg_mem : (s.modCfg f).mem = s.mem := rfl
@[simp] theorem State.modCfg_flash : (s.modCfg f).flash = s.flash := rfl
@[simp] theorem State.modCfg_poison : (s.modCfg f).poison = s.poison := rfl
@[simp] theorem State.modCfg_flashPoison : (s.modCfg f).flashPoison = s.flashPoison := rfl
@[simp] theorem State.modCfg_sync : (s.modCfg f).sync = s.sync := rfl
@[simp] theorem State.modCfg_regs : (s.modCfg f).regs = s.regs := rfl
@[simp] theorem State.modCfg_sweepWakes : (s.modCfg f).sweepWakes = s.sweepWakes := rfl
@[simp] theorem State.modCfg_quads : (s.modCfg f).quads = s.quads := rfl
@[simp] theorem State.modCfg_stus : (s.modCfg f).stus = s.stus := rfl
@[simp] theorem State.modCfg_coh : (s.modCfg f).coh = s.coh := rfl
@[simp] theorem State.modCfg_cores : (s.modCfg f).cores = s.cores := rfl
@[simp] theorem State.modCfg_hostDies : (s.modCfg f).hostDies = s.hostDies := rfl
@[simp] theorem State.modCfg_routes : (s.modCfg f).routes = s.routes := rfl
@[simp] theorem State.modCfg_streams : (s.modCfg f).streams = s.streams := rfl
@[simp] theorem State.modCfg_extWays : (s.modCfg f).extWays = s.extWays := rfl
@[simp] theorem State.modCfg_extSelfDis : (s.modCfg f).extSelfDis = s.extSelfDis := rfl
@[simp] theorem State.modCfg_extLfsr : (s.modCfg f).extLfsr = s.extLfsr := rfl
@[simp] theorem State.modCfg_extErr : (s.modCfg f).extErr = s.extErr := rfl
@[simp] theorem State.modCfg_extHits : (s.modCfg f).extHits = s.extHits := rfl
@[simp] theorem State.modCfg_extMisses : (s.modCfg f).extMisses = s.extMisses := rfl
@[simp] theorem State.modCfg_ext : (s.modCfg f).ext = s.ext := rfl
@[simp] theorem State.modCfg_scWays : (s.modCfg f).scWays = s.scWays := rfl
@[simp] theorem State.modCfg_scTrees : (s.modCfg f).scTrees = s.scTrees := rfl
@[simp] theorem State.modCfg_tier : (s.modCfg f).tier = s.tier := rfl
@[simp] theorem State.modCfg_links : (s.modCfg f).links = s.links := rfl
@[simp] theorem State.modCfg_time : (s.modCfg f).time = s.time := rfl
@[simp] theorem State.modCfg_eths : (s.modCfg f).eths = s.eths := rfl
@[simp] theorem State.modCfg_qpRegs : (s.modCfg f).qpRegs = s.qpRegs := rfl
@[simp] theorem State.modCfg_qps : (s.modCfg f).qps = s.qps := rfl
@[simp] theorem State.modCfg_pcie : (s.modCfg f).pcie = s.pcie := rfl
@[simp] theorem State.modCfg_log : (s.modCfg f).log = s.log := rfl
@[simp] theorem State.modCfg_power : (s.modCfg f).power = s.power := rfl
@[simp] theorem State.modCfg_boot : (s.modCfg f).boot = s.boot := rfl
@[simp] theorem State.modCfg_fabric : (s.modCfg f).fabric = s.fabric := rfl
@[simp] theorem State.modCfg_latches : (s.modCfg f).latches = s.latches := rfl
@[simp] theorem State.modCfg_lastRead : (s.modCfg f).lastRead = s.lastRead := rfl
@[simp] theorem State.modCfg_out : (s.modCfg f).out = s.out := rfl
end

/-! ### setItem -/

section
variable (s : State) (i : CfgItem)
@[simp] theorem State.setItem_pending : (s.setItem i).pending = s.pending := rfl
@[simp] theorem State.setItem_free : (s.setItem i).free = s.free := rfl
@[simp] theorem State.setItem_mem : (s.setItem i).mem = s.mem := rfl
@[simp] theorem State.setItem_flash : (s.setItem i).flash = s.flash := rfl
@[simp] theorem State.setItem_poison : (s.setItem i).poison = s.poison := rfl
@[simp] theorem State.setItem_flashPoison : (s.setItem i).flashPoison = s.flashPoison := rfl
@[simp] theorem State.setItem_sync : (s.setItem i).sync = s.sync := rfl
@[simp] theorem State.setItem_regs : (s.setItem i).regs = s.regs := rfl
@[simp] theorem State.setItem_sweepWakes : (s.setItem i).sweepWakes = s.sweepWakes := rfl
@[simp] theorem State.setItem_quads : (s.setItem i).quads = s.quads := rfl
@[simp] theorem State.setItem_stus : (s.setItem i).stus = s.stus := rfl
@[simp] theorem State.setItem_coh : (s.setItem i).coh = s.coh := rfl
@[simp] theorem State.setItem_cores : (s.setItem i).cores = s.cores := rfl
@[simp] theorem State.setItem_hostDies : (s.setItem i).hostDies = s.hostDies := rfl
@[simp] theorem State.setItem_routes : (s.setItem i).routes = s.routes := rfl
@[simp] theorem State.setItem_streams : (s.setItem i).streams = s.streams := rfl
@[simp] theorem State.setItem_extWays : (s.setItem i).extWays = s.extWays := rfl
@[simp] theorem State.setItem_extSelfDis : (s.setItem i).extSelfDis = s.extSelfDis := rfl
@[simp] theorem State.setItem_extLfsr : (s.setItem i).extLfsr = s.extLfsr := rfl
@[simp] theorem State.setItem_extErr : (s.setItem i).extErr = s.extErr := rfl
@[simp] theorem State.setItem_extHits : (s.setItem i).extHits = s.extHits := rfl
@[simp] theorem State.setItem_extMisses : (s.setItem i).extMisses = s.extMisses := rfl
@[simp] theorem State.setItem_ext : (s.setItem i).ext = s.ext := rfl
@[simp] theorem State.setItem_scWays : (s.setItem i).scWays = s.scWays := rfl
@[simp] theorem State.setItem_scTrees : (s.setItem i).scTrees = s.scTrees := rfl
@[simp] theorem State.setItem_tier : (s.setItem i).tier = s.tier := rfl
@[simp] theorem State.setItem_links : (s.setItem i).links = s.links := rfl
@[simp] theorem State.setItem_time : (s.setItem i).time = s.time := rfl
@[simp] theorem State.setItem_eths : (s.setItem i).eths = s.eths := rfl
@[simp] theorem State.setItem_qpRegs : (s.setItem i).qpRegs = s.qpRegs := rfl
@[simp] theorem State.setItem_qps : (s.setItem i).qps = s.qps := rfl
@[simp] theorem State.setItem_pcie : (s.setItem i).pcie = s.pcie := rfl
@[simp] theorem State.setItem_log : (s.setItem i).log = s.log := rfl
@[simp] theorem State.setItem_power : (s.setItem i).power = s.power := rfl
@[simp] theorem State.setItem_boot : (s.setItem i).boot = s.boot := rfl
@[simp] theorem State.setItem_fabric : (s.setItem i).fabric = s.fabric := rfl
@[simp] theorem State.setItem_latches : (s.setItem i).latches = s.latches := rfl
@[simp] theorem State.setItem_lastRead : (s.setItem i).lastRead = s.lastRead := rfl
@[simp] theorem State.setItem_out : (s.setItem i).out = s.out := rfl
end

/-! ### modBoot -/

section
variable (s : State) (f : Boot → Boot)
@[simp] theorem State.modBoot_pending : (s.modBoot f).pending = s.pending := rfl
@[simp] theorem State.modBoot_free : (s.modBoot f).free = s.free := rfl
@[simp] theorem State.modBoot_mem : (s.modBoot f).mem = s.mem := rfl
@[simp] theorem State.modBoot_flash : (s.modBoot f).flash = s.flash := rfl
@[simp] theorem State.modBoot_poison : (s.modBoot f).poison = s.poison := rfl
@[simp] theorem State.modBoot_flashPoison : (s.modBoot f).flashPoison = s.flashPoison := rfl
@[simp] theorem State.modBoot_sync : (s.modBoot f).sync = s.sync := rfl
@[simp] theorem State.modBoot_regs : (s.modBoot f).regs = s.regs := rfl
@[simp] theorem State.modBoot_sweepWakes : (s.modBoot f).sweepWakes = s.sweepWakes := rfl
@[simp] theorem State.modBoot_quads : (s.modBoot f).quads = s.quads := rfl
@[simp] theorem State.modBoot_stus : (s.modBoot f).stus = s.stus := rfl
@[simp] theorem State.modBoot_coh : (s.modBoot f).coh = s.coh := rfl
@[simp] theorem State.modBoot_cores : (s.modBoot f).cores = s.cores := rfl
@[simp] theorem State.modBoot_hostDies : (s.modBoot f).hostDies = s.hostDies := rfl
@[simp] theorem State.modBoot_routes : (s.modBoot f).routes = s.routes := rfl
@[simp] theorem State.modBoot_streams : (s.modBoot f).streams = s.streams := rfl
@[simp] theorem State.modBoot_extWays : (s.modBoot f).extWays = s.extWays := rfl
@[simp] theorem State.modBoot_extSelfDis : (s.modBoot f).extSelfDis = s.extSelfDis := rfl
@[simp] theorem State.modBoot_extLfsr : (s.modBoot f).extLfsr = s.extLfsr := rfl
@[simp] theorem State.modBoot_extErr : (s.modBoot f).extErr = s.extErr := rfl
@[simp] theorem State.modBoot_extHits : (s.modBoot f).extHits = s.extHits := rfl
@[simp] theorem State.modBoot_extMisses : (s.modBoot f).extMisses = s.extMisses := rfl
@[simp] theorem State.modBoot_ext : (s.modBoot f).ext = s.ext := rfl
@[simp] theorem State.modBoot_scWays : (s.modBoot f).scWays = s.scWays := rfl
@[simp] theorem State.modBoot_scTrees : (s.modBoot f).scTrees = s.scTrees := rfl
@[simp] theorem State.modBoot_tier : (s.modBoot f).tier = s.tier := rfl
@[simp] theorem State.modBoot_links : (s.modBoot f).links = s.links := rfl
@[simp] theorem State.modBoot_time : (s.modBoot f).time = s.time := rfl
@[simp] theorem State.modBoot_eths : (s.modBoot f).eths = s.eths := rfl
@[simp] theorem State.modBoot_qpRegs : (s.modBoot f).qpRegs = s.qpRegs := rfl
@[simp] theorem State.modBoot_qps : (s.modBoot f).qps = s.qps := rfl
@[simp] theorem State.modBoot_pcie : (s.modBoot f).pcie = s.pcie := rfl
@[simp] theorem State.modBoot_log : (s.modBoot f).log = s.log := rfl
@[simp] theorem State.modBoot_power : (s.modBoot f).power = s.power := rfl
@[simp] theorem State.modBoot_cfg : (s.modBoot f).cfg = s.cfg := rfl
@[simp] theorem State.modBoot_fabric : (s.modBoot f).fabric = s.fabric := rfl
@[simp] theorem State.modBoot_latches : (s.modBoot f).latches = s.latches := rfl
@[simp] theorem State.modBoot_lastRead : (s.modBoot f).lastRead = s.lastRead := rfl
@[simp] theorem State.modBoot_out : (s.modBoot f).out = s.out := rfl
end

/-! ### modLog -/

section
variable (s : State) (f : ErrLog → ErrLog)
@[simp] theorem State.modLog_pending : (s.modLog f).pending = s.pending := rfl
@[simp] theorem State.modLog_free : (s.modLog f).free = s.free := rfl
@[simp] theorem State.modLog_mem : (s.modLog f).mem = s.mem := rfl
@[simp] theorem State.modLog_flash : (s.modLog f).flash = s.flash := rfl
@[simp] theorem State.modLog_poison : (s.modLog f).poison = s.poison := rfl
@[simp] theorem State.modLog_flashPoison : (s.modLog f).flashPoison = s.flashPoison := rfl
@[simp] theorem State.modLog_sync : (s.modLog f).sync = s.sync := rfl
@[simp] theorem State.modLog_regs : (s.modLog f).regs = s.regs := rfl
@[simp] theorem State.modLog_sweepWakes : (s.modLog f).sweepWakes = s.sweepWakes := rfl
@[simp] theorem State.modLog_quads : (s.modLog f).quads = s.quads := rfl
@[simp] theorem State.modLog_stus : (s.modLog f).stus = s.stus := rfl
@[simp] theorem State.modLog_coh : (s.modLog f).coh = s.coh := rfl
@[simp] theorem State.modLog_cores : (s.modLog f).cores = s.cores := rfl
@[simp] theorem State.modLog_hostDies : (s.modLog f).hostDies = s.hostDies := rfl
@[simp] theorem State.modLog_routes : (s.modLog f).routes = s.routes := rfl
@[simp] theorem State.modLog_streams : (s.modLog f).streams = s.streams := rfl
@[simp] theorem State.modLog_extWays : (s.modLog f).extWays = s.extWays := rfl
@[simp] theorem State.modLog_extSelfDis : (s.modLog f).extSelfDis = s.extSelfDis := rfl
@[simp] theorem State.modLog_extLfsr : (s.modLog f).extLfsr = s.extLfsr := rfl
@[simp] theorem State.modLog_extErr : (s.modLog f).extErr = s.extErr := rfl
@[simp] theorem State.modLog_extHits : (s.modLog f).extHits = s.extHits := rfl
@[simp] theorem State.modLog_extMisses : (s.modLog f).extMisses = s.extMisses := rfl
@[simp] theorem State.modLog_ext : (s.modLog f).ext = s.ext := rfl
@[simp] theorem State.modLog_scWays : (s.modLog f).scWays = s.scWays := rfl
@[simp] theorem State.modLog_scTrees : (s.modLog f).scTrees = s.scTrees := rfl
@[simp] theorem State.modLog_tier : (s.modLog f).tier = s.tier := rfl
@[simp] theorem State.modLog_links : (s.modLog f).links = s.links := rfl
@[simp] theorem State.modLog_time : (s.modLog f).time = s.time := rfl
@[simp] theorem State.modLog_eths : (s.modLog f).eths = s.eths := rfl
@[simp] theorem State.modLog_qpRegs : (s.modLog f).qpRegs = s.qpRegs := rfl
@[simp] theorem State.modLog_qps : (s.modLog f).qps = s.qps := rfl
@[simp] theorem State.modLog_pcie : (s.modLog f).pcie = s.pcie := rfl
@[simp] theorem State.modLog_power : (s.modLog f).power = s.power := rfl
@[simp] theorem State.modLog_cfg : (s.modLog f).cfg = s.cfg := rfl
@[simp] theorem State.modLog_boot : (s.modLog f).boot = s.boot := rfl
@[simp] theorem State.modLog_fabric : (s.modLog f).fabric = s.fabric := rfl
@[simp] theorem State.modLog_latches : (s.modLog f).latches = s.latches := rfl
@[simp] theorem State.modLog_lastRead : (s.modLog f).lastRead = s.lastRead := rfl
@[simp] theorem State.modLog_out : (s.modLog f).out = s.out := rfl
end

/-! ### modTier -/

section
variable (s : State) (f : Tier → Tier)
@[simp] theorem State.modTier_pending : (s.modTier f).pending = s.pending := rfl
@[simp] theorem State.modTier_free : (s.modTier f).free = s.free := rfl
@[simp] theorem State.modTier_mem : (s.modTier f).mem = s.mem := rfl
@[simp] theorem State.modTier_flash : (s.modTier f).flash = s.flash := rfl
@[simp] theorem State.modTier_poison : (s.modTier f).poison = s.poison := rfl
@[simp] theorem State.modTier_flashPoison : (s.modTier f).flashPoison = s.flashPoison := rfl
@[simp] theorem State.modTier_sync : (s.modTier f).sync = s.sync := rfl
@[simp] theorem State.modTier_regs : (s.modTier f).regs = s.regs := rfl
@[simp] theorem State.modTier_sweepWakes : (s.modTier f).sweepWakes = s.sweepWakes := rfl
@[simp] theorem State.modTier_quads : (s.modTier f).quads = s.quads := rfl
@[simp] theorem State.modTier_stus : (s.modTier f).stus = s.stus := rfl
@[simp] theorem State.modTier_coh : (s.modTier f).coh = s.coh := rfl
@[simp] theorem State.modTier_cores : (s.modTier f).cores = s.cores := rfl
@[simp] theorem State.modTier_hostDies : (s.modTier f).hostDies = s.hostDies := rfl
@[simp] theorem State.modTier_routes : (s.modTier f).routes = s.routes := rfl
@[simp] theorem State.modTier_streams : (s.modTier f).streams = s.streams := rfl
@[simp] theorem State.modTier_extWays : (s.modTier f).extWays = s.extWays := rfl
@[simp] theorem State.modTier_extSelfDis : (s.modTier f).extSelfDis = s.extSelfDis := rfl
@[simp] theorem State.modTier_extLfsr : (s.modTier f).extLfsr = s.extLfsr := rfl
@[simp] theorem State.modTier_extErr : (s.modTier f).extErr = s.extErr := rfl
@[simp] theorem State.modTier_extHits : (s.modTier f).extHits = s.extHits := rfl
@[simp] theorem State.modTier_extMisses : (s.modTier f).extMisses = s.extMisses := rfl
@[simp] theorem State.modTier_ext : (s.modTier f).ext = s.ext := rfl
@[simp] theorem State.modTier_scWays : (s.modTier f).scWays = s.scWays := rfl
@[simp] theorem State.modTier_scTrees : (s.modTier f).scTrees = s.scTrees := rfl
@[simp] theorem State.modTier_links : (s.modTier f).links = s.links := rfl
@[simp] theorem State.modTier_time : (s.modTier f).time = s.time := rfl
@[simp] theorem State.modTier_eths : (s.modTier f).eths = s.eths := rfl
@[simp] theorem State.modTier_qpRegs : (s.modTier f).qpRegs = s.qpRegs := rfl
@[simp] theorem State.modTier_qps : (s.modTier f).qps = s.qps := rfl
@[simp] theorem State.modTier_pcie : (s.modTier f).pcie = s.pcie := rfl
@[simp] theorem State.modTier_log : (s.modTier f).log = s.log := rfl
@[simp] theorem State.modTier_power : (s.modTier f).power = s.power := rfl
@[simp] theorem State.modTier_cfg : (s.modTier f).cfg = s.cfg := rfl
@[simp] theorem State.modTier_boot : (s.modTier f).boot = s.boot := rfl
@[simp] theorem State.modTier_fabric : (s.modTier f).fabric = s.fabric := rfl
@[simp] theorem State.modTier_latches : (s.modTier f).latches = s.latches := rfl
@[simp] theorem State.modTier_lastRead : (s.modTier f).lastRead = s.lastRead := rfl
@[simp] theorem State.modTier_out : (s.modTier f).out = s.out := rfl
end

/-! ### modTierDie -/

section
variable (s : State) (d : Nat) (f : TierDie → TierDie)
@[simp] theorem State.modTierDie_pending : (s.modTierDie d f).pending = s.pending := rfl
@[simp] theorem State.modTierDie_free : (s.modTierDie d f).free = s.free := rfl
@[simp] theorem State.modTierDie_mem : (s.modTierDie d f).mem = s.mem := rfl
@[simp] theorem State.modTierDie_flash : (s.modTierDie d f).flash = s.flash := rfl
@[simp] theorem State.modTierDie_poison : (s.modTierDie d f).poison = s.poison := rfl
@[simp] theorem State.modTierDie_flashPoison : (s.modTierDie d f).flashPoison = s.flashPoison := rfl
@[simp] theorem State.modTierDie_sync : (s.modTierDie d f).sync = s.sync := rfl
@[simp] theorem State.modTierDie_regs : (s.modTierDie d f).regs = s.regs := rfl
@[simp] theorem State.modTierDie_sweepWakes : (s.modTierDie d f).sweepWakes = s.sweepWakes := rfl
@[simp] theorem State.modTierDie_quads : (s.modTierDie d f).quads = s.quads := rfl
@[simp] theorem State.modTierDie_stus : (s.modTierDie d f).stus = s.stus := rfl
@[simp] theorem State.modTierDie_coh : (s.modTierDie d f).coh = s.coh := rfl
@[simp] theorem State.modTierDie_cores : (s.modTierDie d f).cores = s.cores := rfl
@[simp] theorem State.modTierDie_hostDies : (s.modTierDie d f).hostDies = s.hostDies := rfl
@[simp] theorem State.modTierDie_routes : (s.modTierDie d f).routes = s.routes := rfl
@[simp] theorem State.modTierDie_streams : (s.modTierDie d f).streams = s.streams := rfl
@[simp] theorem State.modTierDie_extWays : (s.modTierDie d f).extWays = s.extWays := rfl
@[simp] theorem State.modTierDie_extSelfDis : (s.modTierDie d f).extSelfDis = s.extSelfDis := rfl
@[simp] theorem State.modTierDie_extLfsr : (s.modTierDie d f).extLfsr = s.extLfsr := rfl
@[simp] theorem State.modTierDie_extErr : (s.modTierDie d f).extErr = s.extErr := rfl
@[simp] theorem State.modTierDie_extHits : (s.modTierDie d f).extHits = s.extHits := rfl
@[simp] theorem State.modTierDie_extMisses : (s.modTierDie d f).extMisses = s.extMisses := rfl
@[simp] theorem State.modTierDie_ext : (s.modTierDie d f).ext = s.ext := rfl
@[simp] theorem State.modTierDie_scWays : (s.modTierDie d f).scWays = s.scWays := rfl
@[simp] theorem State.modTierDie_scTrees : (s.modTierDie d f).scTrees = s.scTrees := rfl
@[simp] theorem State.modTierDie_links : (s.modTierDie d f).links = s.links := rfl
@[simp] theorem State.modTierDie_time : (s.modTierDie d f).time = s.time := rfl
@[simp] theorem State.modTierDie_eths : (s.modTierDie d f).eths = s.eths := rfl
@[simp] theorem State.modTierDie_qpRegs : (s.modTierDie d f).qpRegs = s.qpRegs := rfl
@[simp] theorem State.modTierDie_qps : (s.modTierDie d f).qps = s.qps := rfl
@[simp] theorem State.modTierDie_pcie : (s.modTierDie d f).pcie = s.pcie := rfl
@[simp] theorem State.modTierDie_log : (s.modTierDie d f).log = s.log := rfl
@[simp] theorem State.modTierDie_power : (s.modTierDie d f).power = s.power := rfl
@[simp] theorem State.modTierDie_cfg : (s.modTierDie d f).cfg = s.cfg := rfl
@[simp] theorem State.modTierDie_boot : (s.modTierDie d f).boot = s.boot := rfl
@[simp] theorem State.modTierDie_fabric : (s.modTierDie d f).fabric = s.fabric := rfl
@[simp] theorem State.modTierDie_latches : (s.modTierDie d f).latches = s.latches := rfl
@[simp] theorem State.modTierDie_lastRead : (s.modTierDie d f).lastRead = s.lastRead := rfl
@[simp] theorem State.modTierDie_out : (s.modTierDie d f).out = s.out := rfl
end

/-! ### modFlashDie -/

section
variable (s : State) (d : Nat) (f : FlashDie → FlashDie)
@[simp] theorem State.modFlashDie_pending : (s.modFlashDie d f).pending = s.pending := rfl
@[simp] theorem State.modFlashDie_free : (s.modFlashDie d f).free = s.free := rfl
@[simp] theorem State.modFlashDie_mem : (s.modFlashDie d f).mem = s.mem := rfl
@[simp] theorem State.modFlashDie_flash : (s.modFlashDie d f).flash = s.flash := rfl
@[simp] theorem State.modFlashDie_poison : (s.modFlashDie d f).poison = s.poison := rfl
@[simp] theorem State.modFlashDie_flashPoison : (s.modFlashDie d f).flashPoison = s.flashPoison := rfl
@[simp] theorem State.modFlashDie_sync : (s.modFlashDie d f).sync = s.sync := rfl
@[simp] theorem State.modFlashDie_regs : (s.modFlashDie d f).regs = s.regs := rfl
@[simp] theorem State.modFlashDie_sweepWakes : (s.modFlashDie d f).sweepWakes = s.sweepWakes := rfl
@[simp] theorem State.modFlashDie_quads : (s.modFlashDie d f).quads = s.quads := rfl
@[simp] theorem State.modFlashDie_stus : (s.modFlashDie d f).stus = s.stus := rfl
@[simp] theorem State.modFlashDie_coh : (s.modFlashDie d f).coh = s.coh := rfl
@[simp] theorem State.modFlashDie_cores : (s.modFlashDie d f).cores = s.cores := rfl
@[simp] theorem State.modFlashDie_hostDies : (s.modFlashDie d f).hostDies = s.hostDies := rfl
@[simp] theorem State.modFlashDie_routes : (s.modFlashDie d f).routes = s.routes := rfl
@[simp] theorem State.modFlashDie_streams : (s.modFlashDie d f).streams = s.streams := rfl
@[simp] theorem State.modFlashDie_extWays : (s.modFlashDie d f).extWays = s.extWays := rfl
@[simp] theorem State.modFlashDie_extSelfDis : (s.modFlashDie d f).extSelfDis = s.extSelfDis := rfl
@[simp] theorem State.modFlashDie_extLfsr : (s.modFlashDie d f).extLfsr = s.extLfsr := rfl
@[simp] theorem State.modFlashDie_extErr : (s.modFlashDie d f).extErr = s.extErr := rfl
@[simp] theorem State.modFlashDie_extHits : (s.modFlashDie d f).extHits = s.extHits := rfl
@[simp] theorem State.modFlashDie_extMisses : (s.modFlashDie d f).extMisses = s.extMisses := rfl
@[simp] theorem State.modFlashDie_ext : (s.modFlashDie d f).ext = s.ext := rfl
@[simp] theorem State.modFlashDie_scWays : (s.modFlashDie d f).scWays = s.scWays := rfl
@[simp] theorem State.modFlashDie_scTrees : (s.modFlashDie d f).scTrees = s.scTrees := rfl
@[simp] theorem State.modFlashDie_links : (s.modFlashDie d f).links = s.links := rfl
@[simp] theorem State.modFlashDie_time : (s.modFlashDie d f).time = s.time := rfl
@[simp] theorem State.modFlashDie_eths : (s.modFlashDie d f).eths = s.eths := rfl
@[simp] theorem State.modFlashDie_qpRegs : (s.modFlashDie d f).qpRegs = s.qpRegs := rfl
@[simp] theorem State.modFlashDie_qps : (s.modFlashDie d f).qps = s.qps := rfl
@[simp] theorem State.modFlashDie_pcie : (s.modFlashDie d f).pcie = s.pcie := rfl
@[simp] theorem State.modFlashDie_log : (s.modFlashDie d f).log = s.log := rfl
@[simp] theorem State.modFlashDie_power : (s.modFlashDie d f).power = s.power := rfl
@[simp] theorem State.modFlashDie_cfg : (s.modFlashDie d f).cfg = s.cfg := rfl
@[simp] theorem State.modFlashDie_boot : (s.modFlashDie d f).boot = s.boot := rfl
@[simp] theorem State.modFlashDie_fabric : (s.modFlashDie d f).fabric = s.fabric := rfl
@[simp] theorem State.modFlashDie_latches : (s.modFlashDie d f).latches = s.latches := rfl
@[simp] theorem State.modFlashDie_lastRead : (s.modFlashDie d f).lastRead = s.lastRead := rfl
@[simp] theorem State.modFlashDie_out : (s.modFlashDie d f).out = s.out := rfl
end

/-! ### modChannel -/

section
variable (s : State) (c : Nat) (f : Channel → Channel)
@[simp] theorem State.modChannel_pending : (s.modChannel c f).pending = s.pending := rfl
@[simp] theorem State.modChannel_free : (s.modChannel c f).free = s.free := rfl
@[simp] theorem State.modChannel_mem : (s.modChannel c f).mem = s.mem := rfl
@[simp] theorem State.modChannel_flash : (s.modChannel c f).flash = s.flash := rfl
@[simp] theorem State.modChannel_poison : (s.modChannel c f).poison = s.poison := rfl
@[simp] theorem State.modChannel_flashPoison : (s.modChannel c f).flashPoison = s.flashPoison := rfl
@[simp] theorem State.modChannel_sync : (s.modChannel c f).sync = s.sync := rfl
@[simp] theorem State.modChannel_regs : (s.modChannel c f).regs = s.regs := rfl
@[simp] theorem State.modChannel_sweepWakes : (s.modChannel c f).sweepWakes = s.sweepWakes := rfl
@[simp] theorem State.modChannel_quads : (s.modChannel c f).quads = s.quads := rfl
@[simp] theorem State.modChannel_stus : (s.modChannel c f).stus = s.stus := rfl
@[simp] theorem State.modChannel_coh : (s.modChannel c f).coh = s.coh := rfl
@[simp] theorem State.modChannel_cores : (s.modChannel c f).cores = s.cores := rfl
@[simp] theorem State.modChannel_hostDies : (s.modChannel c f).hostDies = s.hostDies := rfl
@[simp] theorem State.modChannel_routes : (s.modChannel c f).routes = s.routes := rfl
@[simp] theorem State.modChannel_streams : (s.modChannel c f).streams = s.streams := rfl
@[simp] theorem State.modChannel_extWays : (s.modChannel c f).extWays = s.extWays := rfl
@[simp] theorem State.modChannel_extSelfDis : (s.modChannel c f).extSelfDis = s.extSelfDis := rfl
@[simp] theorem State.modChannel_extLfsr : (s.modChannel c f).extLfsr = s.extLfsr := rfl
@[simp] theorem State.modChannel_extErr : (s.modChannel c f).extErr = s.extErr := rfl
@[simp] theorem State.modChannel_extHits : (s.modChannel c f).extHits = s.extHits := rfl
@[simp] theorem State.modChannel_extMisses : (s.modChannel c f).extMisses = s.extMisses := rfl
@[simp] theorem State.modChannel_ext : (s.modChannel c f).ext = s.ext := rfl
@[simp] theorem State.modChannel_scWays : (s.modChannel c f).scWays = s.scWays := rfl
@[simp] theorem State.modChannel_scTrees : (s.modChannel c f).scTrees = s.scTrees := rfl
@[simp] theorem State.modChannel_links : (s.modChannel c f).links = s.links := rfl
@[simp] theorem State.modChannel_time : (s.modChannel c f).time = s.time := rfl
@[simp] theorem State.modChannel_eths : (s.modChannel c f).eths = s.eths := rfl
@[simp] theorem State.modChannel_qpRegs : (s.modChannel c f).qpRegs = s.qpRegs := rfl
@[simp] theorem State.modChannel_qps : (s.modChannel c f).qps = s.qps := rfl
@[simp] theorem State.modChannel_pcie : (s.modChannel c f).pcie = s.pcie := rfl
@[simp] theorem State.modChannel_log : (s.modChannel c f).log = s.log := rfl
@[simp] theorem State.modChannel_power : (s.modChannel c f).power = s.power := rfl
@[simp] theorem State.modChannel_cfg : (s.modChannel c f).cfg = s.cfg := rfl
@[simp] theorem State.modChannel_boot : (s.modChannel c f).boot = s.boot := rfl
@[simp] theorem State.modChannel_fabric : (s.modChannel c f).fabric = s.fabric := rfl
@[simp] theorem State.modChannel_latches : (s.modChannel c f).latches = s.latches := rfl
@[simp] theorem State.modChannel_lastRead : (s.modChannel c f).lastRead = s.lastRead := rfl
@[simp] theorem State.modChannel_out : (s.modChannel c f).out = s.out := rfl
end

/-! ### modTime -/

section
variable (s : State) (f : Time → Time)
@[simp] theorem State.modTime_pending : (s.modTime f).pending = s.pending := rfl
@[simp] theorem State.modTime_free : (s.modTime f).free = s.free := rfl
@[simp] theorem State.modTime_mem : (s.modTime f).mem = s.mem := rfl
@[simp] theorem State.modTime_flash : (s.modTime f).flash = s.flash := rfl
@[simp] theorem State.modTime_poison : (s.modTime f).poison = s.poison := rfl
@[simp] theorem State.modTime_flashPoison : (s.modTime f).flashPoison = s.flashPoison := rfl
@[simp] theorem State.modTime_sync : (s.modTime f).sync = s.sync := rfl
@[simp] theorem State.modTime_regs : (s.modTime f).regs = s.regs := rfl
@[simp] theorem State.modTime_sweepWakes : (s.modTime f).sweepWakes = s.sweepWakes := rfl
@[simp] theorem State.modTime_quads : (s.modTime f).quads = s.quads := rfl
@[simp] theorem State.modTime_stus : (s.modTime f).stus = s.stus := rfl
@[simp] theorem State.modTime_coh : (s.modTime f).coh = s.coh := rfl
@[simp] theorem State.modTime_cores : (s.modTime f).cores = s.cores := rfl
@[simp] theorem State.modTime_hostDies : (s.modTime f).hostDies = s.hostDies := rfl
@[simp] theorem State.modTime_routes : (s.modTime f).routes = s.routes := rfl
@[simp] theorem State.modTime_streams : (s.modTime f).streams = s.streams := rfl
@[simp] theorem State.modTime_extWays : (s.modTime f).extWays = s.extWays := rfl
@[simp] theorem State.modTime_extSelfDis : (s.modTime f).extSelfDis = s.extSelfDis := rfl
@[simp] theorem State.modTime_extLfsr : (s.modTime f).extLfsr = s.extLfsr := rfl
@[simp] theorem State.modTime_extErr : (s.modTime f).extErr = s.extErr := rfl
@[simp] theorem State.modTime_extHits : (s.modTime f).extHits = s.extHits := rfl
@[simp] theorem State.modTime_extMisses : (s.modTime f).extMisses = s.extMisses := rfl
@[simp] theorem State.modTime_ext : (s.modTime f).ext = s.ext := rfl
@[simp] theorem State.modTime_scWays : (s.modTime f).scWays = s.scWays := rfl
@[simp] theorem State.modTime_scTrees : (s.modTime f).scTrees = s.scTrees := rfl
@[simp] theorem State.modTime_tier : (s.modTime f).tier = s.tier := rfl
@[simp] theorem State.modTime_links : (s.modTime f).links = s.links := rfl
@[simp] theorem State.modTime_eths : (s.modTime f).eths = s.eths := rfl
@[simp] theorem State.modTime_qpRegs : (s.modTime f).qpRegs = s.qpRegs := rfl
@[simp] theorem State.modTime_qps : (s.modTime f).qps = s.qps := rfl
@[simp] theorem State.modTime_pcie : (s.modTime f).pcie = s.pcie := rfl
@[simp] theorem State.modTime_log : (s.modTime f).log = s.log := rfl
@[simp] theorem State.modTime_power : (s.modTime f).power = s.power := rfl
@[simp] theorem State.modTime_cfg : (s.modTime f).cfg = s.cfg := rfl
@[simp] theorem State.modTime_boot : (s.modTime f).boot = s.boot := rfl
@[simp] theorem State.modTime_fabric : (s.modTime f).fabric = s.fabric := rfl
@[simp] theorem State.modTime_latches : (s.modTime f).latches = s.latches := rfl
@[simp] theorem State.modTime_lastRead : (s.modTime f).lastRead = s.lastRead := rfl
@[simp] theorem State.modTime_out : (s.modTime f).out = s.out := rfl
end

/-! ### modCoh -/

section
variable (s : State) (f : Coh → Coh)
@[simp] theorem State.modCoh_pending : (s.modCoh f).pending = s.pending := rfl
@[simp] theorem State.modCoh_free : (s.modCoh f).free = s.free := rfl
@[simp] theorem State.modCoh_mem : (s.modCoh f).mem = s.mem := rfl
@[simp] theorem State.modCoh_flash : (s.modCoh f).flash = s.flash := rfl
@[simp] theorem State.modCoh_poison : (s.modCoh f).poison = s.poison := rfl
@[simp] theorem State.modCoh_flashPoison : (s.modCoh f).flashPoison = s.flashPoison := rfl
@[simp] theorem State.modCoh_sync : (s.modCoh f).sync = s.sync := rfl
@[simp] theorem State.modCoh_regs : (s.modCoh f).regs = s.regs := rfl
@[simp] theorem State.modCoh_sweepWakes : (s.modCoh f).sweepWakes = s.sweepWakes := rfl
@[simp] theorem State.modCoh_quads : (s.modCoh f).quads = s.quads := rfl
@[simp] theorem State.modCoh_stus : (s.modCoh f).stus = s.stus := rfl
@[simp] theorem State.modCoh_cores : (s.modCoh f).cores = s.cores := rfl
@[simp] theorem State.modCoh_hostDies : (s.modCoh f).hostDies = s.hostDies := rfl
@[simp] theorem State.modCoh_routes : (s.modCoh f).routes = s.routes := rfl
@[simp] theorem State.modCoh_streams : (s.modCoh f).streams = s.streams := rfl
@[simp] theorem State.modCoh_extWays : (s.modCoh f).extWays = s.extWays := rfl
@[simp] theorem State.modCoh_extSelfDis : (s.modCoh f).extSelfDis = s.extSelfDis := rfl
@[simp] theorem State.modCoh_extLfsr : (s.modCoh f).extLfsr = s.extLfsr := rfl
@[simp] theorem State.modCoh_extErr : (s.modCoh f).extErr = s.extErr := rfl
@[simp] theorem State.modCoh_extHits : (s.modCoh f).extHits = s.extHits := rfl
@[simp] theorem State.modCoh_extMisses : (s.modCoh f).extMisses = s.extMisses := rfl
@[simp] theorem State.modCoh_ext : (s.modCoh f).ext = s.ext := rfl
@[simp] theorem State.modCoh_scWays : (s.modCoh f).scWays = s.scWays := rfl
@[simp] theorem State.modCoh_scTrees : (s.modCoh f).scTrees = s.scTrees := rfl
@[simp] theorem State.modCoh_tier : (s.modCoh f).tier = s.tier := rfl
@[simp] theorem State.modCoh_links : (s.modCoh f).links = s.links := rfl
@[simp] theorem State.modCoh_time : (s.modCoh f).time = s.time := rfl
@[simp] theorem State.modCoh_eths : (s.modCoh f).eths = s.eths := rfl
@[simp] theorem State.modCoh_qpRegs : (s.modCoh f).qpRegs = s.qpRegs := rfl
@[simp] theorem State.modCoh_qps : (s.modCoh f).qps = s.qps := rfl
@[simp] theorem State.modCoh_pcie : (s.modCoh f).pcie = s.pcie := rfl
@[simp] theorem State.modCoh_log : (s.modCoh f).log = s.log := rfl
@[simp] theorem State.modCoh_power : (s.modCoh f).power = s.power := rfl
@[simp] theorem State.modCoh_cfg : (s.modCoh f).cfg = s.cfg := rfl
@[simp] theorem State.modCoh_boot : (s.modCoh f).boot = s.boot := rfl
@[simp] theorem State.modCoh_fabric : (s.modCoh f).fabric = s.fabric := rfl
@[simp] theorem State.modCoh_latches : (s.modCoh f).latches = s.latches := rfl
@[simp] theorem State.modCoh_lastRead : (s.modCoh f).lastRead = s.lastRead := rfl
@[simp] theorem State.modCoh_out : (s.modCoh f).out = s.out := rfl
end

/-! ### modHome -/

section
variable (s : State) (h : Nat) (f : Home → Home)
@[simp] theorem State.modHome_pending : (s.modHome h f).pending = s.pending := rfl
@[simp] theorem State.modHome_free : (s.modHome h f).free = s.free := rfl
@[simp] theorem State.modHome_mem : (s.modHome h f).mem = s.mem := rfl
@[simp] theorem State.modHome_flash : (s.modHome h f).flash = s.flash := rfl
@[simp] theorem State.modHome_poison : (s.modHome h f).poison = s.poison := rfl
@[simp] theorem State.modHome_flashPoison : (s.modHome h f).flashPoison = s.flashPoison := rfl
@[simp] theorem State.modHome_sync : (s.modHome h f).sync = s.sync := rfl
@[simp] theorem State.modHome_regs : (s.modHome h f).regs = s.regs := rfl
@[simp] theorem State.modHome_sweepWakes : (s.modHome h f).sweepWakes = s.sweepWakes := rfl
@[simp] theorem State.modHome_quads : (s.modHome h f).quads = s.quads := rfl
@[simp] theorem State.modHome_stus : (s.modHome h f).stus = s.stus := rfl
@[simp] theorem State.modHome_cores : (s.modHome h f).cores = s.cores := rfl
@[simp] theorem State.modHome_hostDies : (s.modHome h f).hostDies = s.hostDies := rfl
@[simp] theorem State.modHome_routes : (s.modHome h f).routes = s.routes := rfl
@[simp] theorem State.modHome_streams : (s.modHome h f).streams = s.streams := rfl
@[simp] theorem State.modHome_extWays : (s.modHome h f).extWays = s.extWays := rfl
@[simp] theorem State.modHome_extSelfDis : (s.modHome h f).extSelfDis = s.extSelfDis := rfl
@[simp] theorem State.modHome_extLfsr : (s.modHome h f).extLfsr = s.extLfsr := rfl
@[simp] theorem State.modHome_extErr : (s.modHome h f).extErr = s.extErr := rfl
@[simp] theorem State.modHome_extHits : (s.modHome h f).extHits = s.extHits := rfl
@[simp] theorem State.modHome_extMisses : (s.modHome h f).extMisses = s.extMisses := rfl
@[simp] theorem State.modHome_ext : (s.modHome h f).ext = s.ext := rfl
@[simp] theorem State.modHome_scWays : (s.modHome h f).scWays = s.scWays := rfl
@[simp] theorem State.modHome_scTrees : (s.modHome h f).scTrees = s.scTrees := rfl
@[simp] theorem State.modHome_tier : (s.modHome h f).tier = s.tier := rfl
@[simp] theorem State.modHome_links : (s.modHome h f).links = s.links := rfl
@[simp] theorem State.modHome_time : (s.modHome h f).time = s.time := rfl
@[simp] theorem State.modHome_eths : (s.modHome h f).eths = s.eths := rfl
@[simp] theorem State.modHome_qpRegs : (s.modHome h f).qpRegs = s.qpRegs := rfl
@[simp] theorem State.modHome_qps : (s.modHome h f).qps = s.qps := rfl
@[simp] theorem State.modHome_pcie : (s.modHome h f).pcie = s.pcie := rfl
@[simp] theorem State.modHome_log : (s.modHome h f).log = s.log := rfl
@[simp] theorem State.modHome_power : (s.modHome h f).power = s.power := rfl
@[simp] theorem State.modHome_cfg : (s.modHome h f).cfg = s.cfg := rfl
@[simp] theorem State.modHome_boot : (s.modHome h f).boot = s.boot := rfl
@[simp] theorem State.modHome_fabric : (s.modHome h f).fabric = s.fabric := rfl
@[simp] theorem State.modHome_latches : (s.modHome h f).latches = s.latches := rfl
@[simp] theorem State.modHome_lastRead : (s.modHome h f).lastRead = s.lastRead := rfl
@[simp] theorem State.modHome_out : (s.modHome h f).out = s.out := rfl
end

/-! ### modFabric -/

section
variable (s : State) (f : Fabric → Fabric)
@[simp] theorem State.modFabric_pending : (s.modFabric f).pending = s.pending := rfl
@[simp] theorem State.modFabric_free : (s.modFabric f).free = s.free := rfl
@[simp] theorem State.modFabric_mem : (s.modFabric f).mem = s.mem := rfl
@[simp] theorem State.modFabric_flash : (s.modFabric f).flash = s.flash := rfl
@[simp] theorem State.modFabric_poison : (s.modFabric f).poison = s.poison := rfl
@[simp] theorem State.modFabric_flashPoison : (s.modFabric f).flashPoison = s.flashPoison := rfl
@[simp] theorem State.modFabric_sync : (s.modFabric f).sync = s.sync := rfl
@[simp] theorem State.modFabric_regs : (s.modFabric f).regs = s.regs := rfl
@[simp] theorem State.modFabric_sweepWakes : (s.modFabric f).sweepWakes = s.sweepWakes := rfl
@[simp] theorem State.modFabric_quads : (s.modFabric f).quads = s.quads := rfl
@[simp] theorem State.modFabric_stus : (s.modFabric f).stus = s.stus := rfl
@[simp] theorem State.modFabric_coh : (s.modFabric f).coh = s.coh := rfl
@[simp] theorem State.modFabric_cores : (s.modFabric f).cores = s.cores := rfl
@[simp] theorem State.modFabric_hostDies : (s.modFabric f).hostDies = s.hostDies := rfl
@[simp] theorem State.modFabric_routes : (s.modFabric f).routes = s.routes := rfl
@[simp] theorem State.modFabric_streams : (s.modFabric f).streams = s.streams := rfl
@[simp] theorem State.modFabric_extWays : (s.modFabric f).extWays = s.extWays := rfl
@[simp] theorem State.modFabric_extSelfDis : (s.modFabric f).extSelfDis = s.extSelfDis := rfl
@[simp] theorem State.modFabric_extLfsr : (s.modFabric f).extLfsr = s.extLfsr := rfl
@[simp] theorem State.modFabric_extErr : (s.modFabric f).extErr = s.extErr := rfl
@[simp] theorem State.modFabric_extHits : (s.modFabric f).extHits = s.extHits := rfl
@[simp] theorem State.modFabric_extMisses : (s.modFabric f).extMisses = s.extMisses := rfl
@[simp] theorem State.modFabric_ext : (s.modFabric f).ext = s.ext := rfl
@[simp] theorem State.modFabric_scWays : (s.modFabric f).scWays = s.scWays := rfl
@[simp] theorem State.modFabric_scTrees : (s.modFabric f).scTrees = s.scTrees := rfl
@[simp] theorem State.modFabric_tier : (s.modFabric f).tier = s.tier := rfl
@[simp] theorem State.modFabric_links : (s.modFabric f).links = s.links := rfl
@[simp] theorem State.modFabric_time : (s.modFabric f).time = s.time := rfl
@[simp] theorem State.modFabric_eths : (s.modFabric f).eths = s.eths := rfl
@[simp] theorem State.modFabric_qpRegs : (s.modFabric f).qpRegs = s.qpRegs := rfl
@[simp] theorem State.modFabric_qps : (s.modFabric f).qps = s.qps := rfl
@[simp] theorem State.modFabric_pcie : (s.modFabric f).pcie = s.pcie := rfl
@[simp] theorem State.modFabric_log : (s.modFabric f).log = s.log := rfl
@[simp] theorem State.modFabric_power : (s.modFabric f).power = s.power := rfl
@[simp] theorem State.modFabric_cfg : (s.modFabric f).cfg = s.cfg := rfl
@[simp] theorem State.modFabric_boot : (s.modFabric f).boot = s.boot := rfl
@[simp] theorem State.modFabric_latches : (s.modFabric f).latches = s.latches := rfl
@[simp] theorem State.modFabric_lastRead : (s.modFabric f).lastRead = s.lastRead := rfl
@[simp] theorem State.modFabric_out : (s.modFabric f).out = s.out := rfl
end

/-! ### modHostDie -/

section
variable (s : State) (h : Nat) (f : HostDie → HostDie)
@[simp] theorem State.modHostDie_pending : (s.modHostDie h f).pending = s.pending := rfl
@[simp] theorem State.modHostDie_free : (s.modHostDie h f).free = s.free := rfl
@[simp] theorem State.modHostDie_mem : (s.modHostDie h f).mem = s.mem := rfl
@[simp] theorem State.modHostDie_flash : (s.modHostDie h f).flash = s.flash := rfl
@[simp] theorem State.modHostDie_poison : (s.modHostDie h f).poison = s.poison := rfl
@[simp] theorem State.modHostDie_flashPoison : (s.modHostDie h f).flashPoison = s.flashPoison := rfl
@[simp] theorem State.modHostDie_sync : (s.modHostDie h f).sync = s.sync := rfl
@[simp] theorem State.modHostDie_regs : (s.modHostDie h f).regs = s.regs := rfl
@[simp] theorem State.modHostDie_sweepWakes : (s.modHostDie h f).sweepWakes = s.sweepWakes := rfl
@[simp] theorem State.modHostDie_quads : (s.modHostDie h f).quads = s.quads := rfl
@[simp] theorem State.modHostDie_stus : (s.modHostDie h f).stus = s.stus := rfl
@[simp] theorem State.modHostDie_coh : (s.modHostDie h f).coh = s.coh := rfl
@[simp] theorem State.modHostDie_cores : (s.modHostDie h f).cores = s.cores := rfl
@[simp] theorem State.modHostDie_routes : (s.modHostDie h f).routes = s.routes := rfl
@[simp] theorem State.modHostDie_streams : (s.modHostDie h f).streams = s.streams := rfl
@[simp] theorem State.modHostDie_extWays : (s.modHostDie h f).extWays = s.extWays := rfl
@[simp] theorem State.modHostDie_extSelfDis : (s.modHostDie h f).extSelfDis = s.extSelfDis := rfl
@[simp] theorem State.modHostDie_extLfsr : (s.modHostDie h f).extLfsr = s.extLfsr := rfl
@[simp] theorem State.modHostDie_extErr : (s.modHostDie h f).extErr = s.extErr := rfl
@[simp] theorem State.modHostDie_extHits : (s.modHostDie h f).extHits = s.extHits := rfl
@[simp] theorem State.modHostDie_extMisses : (s.modHostDie h f).extMisses = s.extMisses := rfl
@[simp] theorem State.modHostDie_ext : (s.modHostDie h f).ext = s.ext := rfl
@[simp] theorem State.modHostDie_scWays : (s.modHostDie h f).scWays = s.scWays := rfl
@[simp] theorem State.modHostDie_scTrees : (s.modHostDie h f).scTrees = s.scTrees := rfl
@[simp] theorem State.modHostDie_tier : (s.modHostDie h f).tier = s.tier := rfl
@[simp] theorem State.modHostDie_links : (s.modHostDie h f).links = s.links := rfl
@[simp] theorem State.modHostDie_time : (s.modHostDie h f).time = s.time := rfl
@[simp] theorem State.modHostDie_eths : (s.modHostDie h f).eths = s.eths := rfl
@[simp] theorem State.modHostDie_qpRegs : (s.modHostDie h f).qpRegs = s.qpRegs := rfl
@[simp] theorem State.modHostDie_qps : (s.modHostDie h f).qps = s.qps := rfl
@[simp] theorem State.modHostDie_pcie : (s.modHostDie h f).pcie = s.pcie := rfl
@[simp] theorem State.modHostDie_log : (s.modHostDie h f).log = s.log := rfl
@[simp] theorem State.modHostDie_power : (s.modHostDie h f).power = s.power := rfl
@[simp] theorem State.modHostDie_cfg : (s.modHostDie h f).cfg = s.cfg := rfl
@[simp] theorem State.modHostDie_boot : (s.modHostDie h f).boot = s.boot := rfl
@[simp] theorem State.modHostDie_fabric : (s.modHostDie h f).fabric = s.fabric := rfl
@[simp] theorem State.modHostDie_latches : (s.modHostDie h f).latches = s.latches := rfl
@[simp] theorem State.modHostDie_lastRead : (s.modHostDie h f).lastRead = s.lastRead := rfl
@[simp] theorem State.modHostDie_out : (s.modHostDie h f).out = s.out := rfl
end

/-! ### modEth -/

section
variable (s : State) (n : Nat) (f : Eth → Eth)
@[simp] theorem State.modEth_pending : (s.modEth n f).pending = s.pending := rfl
@[simp] theorem State.modEth_free : (s.modEth n f).free = s.free := rfl
@[simp] theorem State.modEth_mem : (s.modEth n f).mem = s.mem := rfl
@[simp] theorem State.modEth_flash : (s.modEth n f).flash = s.flash := rfl
@[simp] theorem State.modEth_poison : (s.modEth n f).poison = s.poison := rfl
@[simp] theorem State.modEth_flashPoison : (s.modEth n f).flashPoison = s.flashPoison := rfl
@[simp] theorem State.modEth_sync : (s.modEth n f).sync = s.sync := rfl
@[simp] theorem State.modEth_regs : (s.modEth n f).regs = s.regs := rfl
@[simp] theorem State.modEth_sweepWakes : (s.modEth n f).sweepWakes = s.sweepWakes := rfl
@[simp] theorem State.modEth_quads : (s.modEth n f).quads = s.quads := rfl
@[simp] theorem State.modEth_stus : (s.modEth n f).stus = s.stus := rfl
@[simp] theorem State.modEth_coh : (s.modEth n f).coh = s.coh := rfl
@[simp] theorem State.modEth_cores : (s.modEth n f).cores = s.cores := rfl
@[simp] theorem State.modEth_hostDies : (s.modEth n f).hostDies = s.hostDies := rfl
@[simp] theorem State.modEth_routes : (s.modEth n f).routes = s.routes := rfl
@[simp] theorem State.modEth_streams : (s.modEth n f).streams = s.streams := rfl
@[simp] theorem State.modEth_extWays : (s.modEth n f).extWays = s.extWays := rfl
@[simp] theorem State.modEth_extSelfDis : (s.modEth n f).extSelfDis = s.extSelfDis := rfl
@[simp] theorem State.modEth_extLfsr : (s.modEth n f).extLfsr = s.extLfsr := rfl
@[simp] theorem State.modEth_extErr : (s.modEth n f).extErr = s.extErr := rfl
@[simp] theorem State.modEth_extHits : (s.modEth n f).extHits = s.extHits := rfl
@[simp] theorem State.modEth_extMisses : (s.modEth n f).extMisses = s.extMisses := rfl
@[simp] theorem State.modEth_ext : (s.modEth n f).ext = s.ext := rfl
@[simp] theorem State.modEth_scWays : (s.modEth n f).scWays = s.scWays := rfl
@[simp] theorem State.modEth_scTrees : (s.modEth n f).scTrees = s.scTrees := rfl
@[simp] theorem State.modEth_tier : (s.modEth n f).tier = s.tier := rfl
@[simp] theorem State.modEth_links : (s.modEth n f).links = s.links := rfl
@[simp] theorem State.modEth_time : (s.modEth n f).time = s.time := rfl
@[simp] theorem State.modEth_qpRegs : (s.modEth n f).qpRegs = s.qpRegs := rfl
@[simp] theorem State.modEth_qps : (s.modEth n f).qps = s.qps := rfl
@[simp] theorem State.modEth_pcie : (s.modEth n f).pcie = s.pcie := rfl
@[simp] theorem State.modEth_log : (s.modEth n f).log = s.log := rfl
@[simp] theorem State.modEth_power : (s.modEth n f).power = s.power := rfl
@[simp] theorem State.modEth_cfg : (s.modEth n f).cfg = s.cfg := rfl
@[simp] theorem State.modEth_boot : (s.modEth n f).boot = s.boot := rfl
@[simp] theorem State.modEth_fabric : (s.modEth n f).fabric = s.fabric := rfl
@[simp] theorem State.modEth_latches : (s.modEth n f).latches = s.latches := rfl
@[simp] theorem State.modEth_lastRead : (s.modEth n f).lastRead = s.lastRead := rfl
@[simp] theorem State.modEth_out : (s.modEth n f).out = s.out := rfl
end

/-! ### modPcie -/

section
variable (s : State) (n : Nat) (f : Pcie → Pcie)
@[simp] theorem State.modPcie_pending : (s.modPcie n f).pending = s.pending := rfl
@[simp] theorem State.modPcie_free : (s.modPcie n f).free = s.free := rfl
@[simp] theorem State.modPcie_mem : (s.modPcie n f).mem = s.mem := rfl
@[simp] theorem State.modPcie_flash : (s.modPcie n f).flash = s.flash := rfl
@[simp] theorem State.modPcie_poison : (s.modPcie n f).poison = s.poison := rfl
@[simp] theorem State.modPcie_flashPoison : (s.modPcie n f).flashPoison = s.flashPoison := rfl
@[simp] theorem State.modPcie_sync : (s.modPcie n f).sync = s.sync := rfl
@[simp] theorem State.modPcie_regs : (s.modPcie n f).regs = s.regs := rfl
@[simp] theorem State.modPcie_sweepWakes : (s.modPcie n f).sweepWakes = s.sweepWakes := rfl
@[simp] theorem State.modPcie_quads : (s.modPcie n f).quads = s.quads := rfl
@[simp] theorem State.modPcie_stus : (s.modPcie n f).stus = s.stus := rfl
@[simp] theorem State.modPcie_coh : (s.modPcie n f).coh = s.coh := rfl
@[simp] theorem State.modPcie_cores : (s.modPcie n f).cores = s.cores := rfl
@[simp] theorem State.modPcie_hostDies : (s.modPcie n f).hostDies = s.hostDies := rfl
@[simp] theorem State.modPcie_routes : (s.modPcie n f).routes = s.routes := rfl
@[simp] theorem State.modPcie_streams : (s.modPcie n f).streams = s.streams := rfl
@[simp] theorem State.modPcie_extWays : (s.modPcie n f).extWays = s.extWays := rfl
@[simp] theorem State.modPcie_extSelfDis : (s.modPcie n f).extSelfDis = s.extSelfDis := rfl
@[simp] theorem State.modPcie_extLfsr : (s.modPcie n f).extLfsr = s.extLfsr := rfl
@[simp] theorem State.modPcie_extErr : (s.modPcie n f).extErr = s.extErr := rfl
@[simp] theorem State.modPcie_extHits : (s.modPcie n f).extHits = s.extHits := rfl
@[simp] theorem State.modPcie_extMisses : (s.modPcie n f).extMisses = s.extMisses := rfl
@[simp] theorem State.modPcie_ext : (s.modPcie n f).ext = s.ext := rfl
@[simp] theorem State.modPcie_scWays : (s.modPcie n f).scWays = s.scWays := rfl
@[simp] theorem State.modPcie_scTrees : (s.modPcie n f).scTrees = s.scTrees := rfl
@[simp] theorem State.modPcie_tier : (s.modPcie n f).tier = s.tier := rfl
@[simp] theorem State.modPcie_links : (s.modPcie n f).links = s.links := rfl
@[simp] theorem State.modPcie_time : (s.modPcie n f).time = s.time := rfl
@[simp] theorem State.modPcie_eths : (s.modPcie n f).eths = s.eths := rfl
@[simp] theorem State.modPcie_qpRegs : (s.modPcie n f).qpRegs = s.qpRegs := rfl
@[simp] theorem State.modPcie_qps : (s.modPcie n f).qps = s.qps := rfl
@[simp] theorem State.modPcie_log : (s.modPcie n f).log = s.log := rfl
@[simp] theorem State.modPcie_power : (s.modPcie n f).power = s.power := rfl
@[simp] theorem State.modPcie_cfg : (s.modPcie n f).cfg = s.cfg := rfl
@[simp] theorem State.modPcie_boot : (s.modPcie n f).boot = s.boot := rfl
@[simp] theorem State.modPcie_fabric : (s.modPcie n f).fabric = s.fabric := rfl
@[simp] theorem State.modPcie_latches : (s.modPcie n f).latches = s.latches := rfl
@[simp] theorem State.modPcie_lastRead : (s.modPcie n f).lastRead = s.lastRead := rfl
@[simp] theorem State.modPcie_out : (s.modPcie n f).out = s.out := rfl
end

/-! ### modQp -/

section
variable (s : State) (x qpn : Nat) (f : Qp → Qp)
@[simp] theorem State.modQp_pending : (s.modQp x qpn f).pending = s.pending := rfl
@[simp] theorem State.modQp_free : (s.modQp x qpn f).free = s.free := rfl
@[simp] theorem State.modQp_mem : (s.modQp x qpn f).mem = s.mem := rfl
@[simp] theorem State.modQp_flash : (s.modQp x qpn f).flash = s.flash := rfl
@[simp] theorem State.modQp_poison : (s.modQp x qpn f).poison = s.poison := rfl
@[simp] theorem State.modQp_flashPoison : (s.modQp x qpn f).flashPoison = s.flashPoison := rfl
@[simp] theorem State.modQp_sync : (s.modQp x qpn f).sync = s.sync := rfl
@[simp] theorem State.modQp_regs : (s.modQp x qpn f).regs = s.regs := rfl
@[simp] theorem State.modQp_sweepWakes : (s.modQp x qpn f).sweepWakes = s.sweepWakes := rfl
@[simp] theorem State.modQp_quads : (s.modQp x qpn f).quads = s.quads := rfl
@[simp] theorem State.modQp_stus : (s.modQp x qpn f).stus = s.stus := rfl
@[simp] theorem State.modQp_coh : (s.modQp x qpn f).coh = s.coh := rfl
@[simp] theorem State.modQp_cores : (s.modQp x qpn f).cores = s.cores := rfl
@[simp] theorem State.modQp_hostDies : (s.modQp x qpn f).hostDies = s.hostDies := rfl
@[simp] theorem State.modQp_routes : (s.modQp x qpn f).routes = s.routes := rfl
@[simp] theorem State.modQp_streams : (s.modQp x qpn f).streams = s.streams := rfl
@[simp] theorem State.modQp_extWays : (s.modQp x qpn f).extWays = s.extWays := rfl
@[simp] theorem State.modQp_extSelfDis : (s.modQp x qpn f).extSelfDis = s.extSelfDis := rfl
@[simp] theorem State.modQp_extLfsr : (s.modQp x qpn f).extLfsr = s.extLfsr := rfl
@[simp] theorem State.modQp_extErr : (s.modQp x qpn f).extErr = s.extErr := rfl
@[simp] theorem State.modQp_extHits : (s.modQp x qpn f).extHits = s.extHits := rfl
@[simp] theorem State.modQp_extMisses : (s.modQp x qpn f).extMisses = s.extMisses := rfl
@[simp] theorem State.modQp_ext : (s.modQp x qpn f).ext = s.ext := rfl
@[simp] theorem State.modQp_scWays : (s.modQp x qpn f).scWays = s.scWays := rfl
@[simp] theorem State.modQp_scTrees : (s.modQp x qpn f).scTrees = s.scTrees := rfl
@[simp] theorem State.modQp_tier : (s.modQp x qpn f).tier = s.tier := rfl
@[simp] theorem State.modQp_links : (s.modQp x qpn f).links = s.links := rfl
@[simp] theorem State.modQp_time : (s.modQp x qpn f).time = s.time := rfl
@[simp] theorem State.modQp_eths : (s.modQp x qpn f).eths = s.eths := rfl
@[simp] theorem State.modQp_qpRegs : (s.modQp x qpn f).qpRegs = s.qpRegs := rfl
@[simp] theorem State.modQp_pcie : (s.modQp x qpn f).pcie = s.pcie := rfl
@[simp] theorem State.modQp_log : (s.modQp x qpn f).log = s.log := rfl
@[simp] theorem State.modQp_power : (s.modQp x qpn f).power = s.power := rfl
@[simp] theorem State.modQp_cfg : (s.modQp x qpn f).cfg = s.cfg := rfl
@[simp] theorem State.modQp_boot : (s.modQp x qpn f).boot = s.boot := rfl
@[simp] theorem State.modQp_fabric : (s.modQp x qpn f).fabric = s.fabric := rfl
@[simp] theorem State.modQp_latches : (s.modQp x qpn f).latches = s.latches := rfl
@[simp] theorem State.modQp_lastRead : (s.modQp x qpn f).lastRead = s.lastRead := rfl
@[simp] theorem State.modQp_out : (s.modQp x qpn f).out = s.out := rfl
end

/-! ### modQpReg -/

section
variable (s : State) (x : Nat) (f : QpRegs → QpRegs)
@[simp] theorem State.modQpReg_pending : (s.modQpReg x f).pending = s.pending := rfl
@[simp] theorem State.modQpReg_free : (s.modQpReg x f).free = s.free := rfl
@[simp] theorem State.modQpReg_mem : (s.modQpReg x f).mem = s.mem := rfl
@[simp] theorem State.modQpReg_flash : (s.modQpReg x f).flash = s.flash := rfl
@[simp] theorem State.modQpReg_poison : (s.modQpReg x f).poison = s.poison := rfl
@[simp] theorem State.modQpReg_flashPoison : (s.modQpReg x f).flashPoison = s.flashPoison := rfl
@[simp] theorem State.modQpReg_sync : (s.modQpReg x f).sync = s.sync := rfl
@[simp] theorem State.modQpReg_regs : (s.modQpReg x f).regs = s.regs := rfl
@[simp] theorem State.modQpReg_sweepWakes : (s.modQpReg x f).sweepWakes = s.sweepWakes := rfl
@[simp] theorem State.modQpReg_quads : (s.modQpReg x f).quads = s.quads := rfl
@[simp] theorem State.modQpReg_stus : (s.modQpReg x f).stus = s.stus := rfl
@[simp] theorem State.modQpReg_coh : (s.modQpReg x f).coh = s.coh := rfl
@[simp] theorem State.modQpReg_cores : (s.modQpReg x f).cores = s.cores := rfl
@[simp] theorem State.modQpReg_hostDies : (s.modQpReg x f).hostDies = s.hostDies := rfl
@[simp] theorem State.modQpReg_routes : (s.modQpReg x f).routes = s.routes := rfl
@[simp] theorem State.modQpReg_streams : (s.modQpReg x f).streams = s.streams := rfl
@[simp] theorem State.modQpReg_extWays : (s.modQpReg x f).extWays = s.extWays := rfl
@[simp] theorem State.modQpReg_extSelfDis : (s.modQpReg x f).extSelfDis = s.extSelfDis := rfl
@[simp] theorem State.modQpReg_extLfsr : (s.modQpReg x f).extLfsr = s.extLfsr := rfl
@[simp] theorem State.modQpReg_extErr : (s.modQpReg x f).extErr = s.extErr := rfl
@[simp] theorem State.modQpReg_extHits : (s.modQpReg x f).extHits = s.extHits := rfl
@[simp] theorem State.modQpReg_extMisses : (s.modQpReg x f).extMisses = s.extMisses := rfl
@[simp] theorem State.modQpReg_ext : (s.modQpReg x f).ext = s.ext := rfl
@[simp] theorem State.modQpReg_scWays : (s.modQpReg x f).scWays = s.scWays := rfl
@[simp] theorem State.modQpReg_scTrees : (s.modQpReg x f).scTrees = s.scTrees := rfl
@[simp] theorem State.modQpReg_tier : (s.modQpReg x f).tier = s.tier := rfl
@[simp] theorem State.modQpReg_links : (s.modQpReg x f).links = s.links := rfl
@[simp] theorem State.modQpReg_time : (s.modQpReg x f).time = s.time := rfl
@[simp] theorem State.modQpReg_eths : (s.modQpReg x f).eths = s.eths := rfl
@[simp] theorem State.modQpReg_qps : (s.modQpReg x f).qps = s.qps := rfl
@[simp] theorem State.modQpReg_pcie : (s.modQpReg x f).pcie = s.pcie := rfl
@[simp] theorem State.modQpReg_log : (s.modQpReg x f).log = s.log := rfl
@[simp] theorem State.modQpReg_power : (s.modQpReg x f).power = s.power := rfl
@[simp] theorem State.modQpReg_cfg : (s.modQpReg x f).cfg = s.cfg := rfl
@[simp] theorem State.modQpReg_boot : (s.modQpReg x f).boot = s.boot := rfl
@[simp] theorem State.modQpReg_fabric : (s.modQpReg x f).fabric = s.fabric := rfl
@[simp] theorem State.modQpReg_latches : (s.modQpReg x f).latches = s.latches := rfl
@[simp] theorem State.modQpReg_lastRead : (s.modQpReg x f).lastRead = s.lastRead := rfl
@[simp] theorem State.modQpReg_out : (s.modQpReg x f).out = s.out := rfl
end

/-! ### emit -/

section
variable (s : State) (o : Out)
@[simp] theorem State.emit_pending : (s.emit o).pending = s.pending := rfl
@[simp] theorem State.emit_free : (s.emit o).free = s.free := rfl
@[simp] theorem State.emit_mem : (s.emit o).mem = s.mem := rfl
@[simp] theorem State.emit_flash : (s.emit o).flash = s.flash := rfl
@[simp] theorem State.emit_poison : (s.emit o).poison = s.poison := rfl
@[simp] theorem State.emit_flashPoison : (s.emit o).flashPoison = s.flashPoison := rfl
@[simp] theorem State.emit_sync : (s.emit o).sync = s.sync := rfl
@[simp] theorem State.emit_regs : (s.emit o).regs = s.regs := rfl
@[simp] theorem State.emit_sweepWakes : (s.emit o).sweepWakes = s.sweepWakes := rfl
@[simp] theorem State.emit_quads : (s.emit o).quads = s.quads := rfl
@[simp] theorem State.emit_stus : (s.emit o).stus = s.stus := rfl
@[simp] theorem State.emit_coh : (s.emit o).coh = s.coh := rfl
@[simp] theorem State.emit_cores : (s.emit o).cores = s.cores := rfl
@[simp] theorem State.emit_hostDies : (s.emit o).hostDies = s.hostDies := rfl
@[simp] theorem State.emit_routes : (s.emit o).routes = s.routes := rfl
@[simp] theorem State.emit_streams : (s.emit o).streams = s.streams := rfl
@[simp] theorem State.emit_extWays : (s.emit o).extWays = s.extWays := rfl
@[simp] theorem State.emit_extSelfDis : (s.emit o).extSelfDis = s.extSelfDis := rfl
@[simp] theorem State.emit_extLfsr : (s.emit o).extLfsr = s.extLfsr := rfl
@[simp] theorem State.emit_extErr : (s.emit o).extErr = s.extErr := rfl
@[simp] theorem State.emit_extHits : (s.emit o).extHits = s.extHits := rfl
@[simp] theorem State.emit_extMisses : (s.emit o).extMisses = s.extMisses := rfl
@[simp] theorem State.emit_ext : (s.emit o).ext = s.ext := rfl
@[simp] theorem State.emit_scWays : (s.emit o).scWays = s.scWays := rfl
@[simp] theorem State.emit_scTrees : (s.emit o).scTrees = s.scTrees := rfl
@[simp] theorem State.emit_tier : (s.emit o).tier = s.tier := rfl
@[simp] theorem State.emit_links : (s.emit o).links = s.links := rfl
@[simp] theorem State.emit_time : (s.emit o).time = s.time := rfl
@[simp] theorem State.emit_eths : (s.emit o).eths = s.eths := rfl
@[simp] theorem State.emit_qpRegs : (s.emit o).qpRegs = s.qpRegs := rfl
@[simp] theorem State.emit_qps : (s.emit o).qps = s.qps := rfl
@[simp] theorem State.emit_pcie : (s.emit o).pcie = s.pcie := rfl
@[simp] theorem State.emit_log : (s.emit o).log = s.log := rfl
@[simp] theorem State.emit_power : (s.emit o).power = s.power := rfl
@[simp] theorem State.emit_cfg : (s.emit o).cfg = s.cfg := rfl
@[simp] theorem State.emit_boot : (s.emit o).boot = s.boot := rfl
@[simp] theorem State.emit_fabric : (s.emit o).fabric = s.fabric := rfl
@[simp] theorem State.emit_latches : (s.emit o).latches = s.latches := rfl
@[simp] theorem State.emit_lastRead : (s.emit o).lastRead = s.lastRead := rfl
end

/-! ### What is read after a modifier -/

theorem State.quad_modQuad (s : State) (q q' : Nat) (f : Quad → Quad) :
    (s.modQuad q f).quad q' = if q' = q then f (s.quad q) else s.quad q' := by
  show Table.get _ (Table.put _ _ _ _) _ = _
  rw [Table.get_put]; rfl

@[simp] theorem State.quad_modQuad_same (s : State) (q : Nat) (f : Quad → Quad) :
    (s.modQuad q f).quad q = f (s.quad q) := by simp [State.quad_modQuad]

@[simp] theorem State.quad_modQuad_ne (s : State) {q q' : Nat} (f : Quad → Quad) (h : q' ≠ q) :
    (s.modQuad q f).quad q' = s.quad q' := by simp [State.quad_modQuad, h]

theorem State.stu_modStu (s : State) (u u' : Nat) (f : Stu → Stu) :
    (s.modStu u f).stu u' = if u' = u then f (s.stu u) else s.stu u' := by
  show Table.get _ (Table.put _ _ _ _) _ = _
  rw [Table.get_put]; rfl

@[simp] theorem State.stu_modStu_same (s : State) (u : Nat) (f : Stu → Stu) :
    (s.modStu u f).stu u = f (s.stu u) := by simp [State.stu_modStu]

@[simp] theorem State.stu_modStu_ne (s : State) {u u' : Nat} (f : Stu → Stu) (h : u' ≠ u) :
    (s.modStu u f).stu u' = s.stu u' := by simp [State.stu_modStu, h]

theorem State.core_modCore (s : State) (c c' : Nat) (f : Core → Core) :
    (s.modCore c f).core c' = if c' = c then f (s.core c) else s.core c' := by
  show Table.get _ (Table.put _ _ _ _) _ = _
  rw [Table.get_put]; rfl

@[simp] theorem State.core_modCore_same (s : State) (c : Nat) (f : Core → Core) :
    (s.modCore c f).core c = f (s.core c) := by simp [State.core_modCore]

@[simp] theorem State.core_modCore_ne (s : State) {c c' : Nat} (f : Core → Core) (h : c' ≠ c) :
    (s.modCore c f).core c' = s.core c' := by simp [State.core_modCore, h]

theorem State.link_modLink (s : State) (n n' : Nat) (f : Link → Link) :
    (s.modLink n f).link n' = if n' = n then f (s.link n) else s.link n' := by
  show Table.get _ (Table.put _ _ _ _) _ = _
  rw [Table.get_put]; rfl

@[simp] theorem State.link_modLink_same (s : State) (n : Nat) (f : Link → Link) :
    (s.modLink n f).link n = f (s.link n) := by simp [State.link_modLink]

@[simp] theorem State.link_modLink_ne (s : State) {n n' : Nat} (f : Link → Link) (h : n' ≠ n) :
    (s.modLink n f).link n' = s.link n' := by simp [State.link_modLink, h]

theorem State.hostDie_modHostDie (s : State) (k k' : Nat) (f : HostDie → HostDie) :
    (s.modHostDie k f).hostDie k' = if k' = k then f (s.hostDie k) else s.hostDie k' := by
  show Table.get _ (Table.put _ _ _ _) _ = _
  rw [Table.get_put]; rfl

@[simp] theorem State.hostDie_modHostDie_same (s : State) (k : Nat) (f : HostDie → HostDie) :
    (s.modHostDie k f).hostDie k = f (s.hostDie k) := by simp [State.hostDie_modHostDie]

@[simp] theorem State.hostDie_modHostDie_ne (s : State) {k k' : Nat} (f : HostDie → HostDie) (h : k' ≠ k) :
    (s.modHostDie k f).hostDie k' = s.hostDie k' := by simp [State.hostDie_modHostDie, h]

theorem State.eth_modEth (s : State) (n n' : Nat) (f : Eth → Eth) :
    (s.modEth n f).eth n' = if n' = n then f (s.eth n) else s.eth n' := by
  show Table.get _ (Table.put _ _ _ _) _ = _
  rw [Table.get_put]; rfl

@[simp] theorem State.eth_modEth_same (s : State) (n : Nat) (f : Eth → Eth) :
    (s.modEth n f).eth n = f (s.eth n) := by simp [State.eth_modEth]

@[simp] theorem State.eth_modEth_ne (s : State) {n n' : Nat} (f : Eth → Eth) (h : n' ≠ n) :
    (s.modEth n f).eth n' = s.eth n' := by simp [State.eth_modEth, h]

theorem State.pciePort_modPcie (s : State) (n n' : Nat) (f : Pcie → Pcie) :
    (s.modPcie n f).pciePort n' = if n' = n then f (s.pciePort n) else s.pciePort n' := by
  show Table.get _ (Table.put _ _ _ _) _ = _
  rw [Table.get_put]; rfl

@[simp] theorem State.pciePort_modPcie_same (s : State) (n : Nat) (f : Pcie → Pcie) :
    (s.modPcie n f).pciePort n = f (s.pciePort n) := by simp [State.pciePort_modPcie]

@[simp] theorem State.pciePort_modPcie_ne (s : State) {n n' : Nat} (f : Pcie → Pcie) (h : n' ≠ n) :
    (s.modPcie n f).pciePort n' = s.pciePort n' := by simp [State.pciePort_modPcie, h]

theorem State.qpReg_modQpReg (s : State) (x x' : Nat) (f : QpRegs → QpRegs) :
    (s.modQpReg x f).qpReg x' = if x' = x then f (s.qpReg x) else s.qpReg x' := by
  show Table.get _ (Table.put _ _ _ _) _ = _
  rw [Table.get_put]; rfl

@[simp] theorem State.qpReg_modQpReg_same (s : State) (x : Nat) (f : QpRegs → QpRegs) :
    (s.modQpReg x f).qpReg x = f (s.qpReg x) := by simp [State.qpReg_modQpReg]

@[simp] theorem State.qpReg_modQpReg_ne (s : State) {x x' : Nat} (f : QpRegs → QpRegs) (h : x' ≠ x) :
    (s.modQpReg x f).qpReg x' = s.qpReg x' := by simp [State.qpReg_modQpReg, h]

theorem State.diePower_modDiePower (s : State) (d d' : Nat) (f : DiePower → DiePower) :
    (s.modDiePower d f).diePower d' = if d' = d then f (s.diePower d) else s.diePower d' := by
  show Table.get _ (Table.put _ _ _ _) _ = _
  rw [Table.get_put]; rfl

@[simp] theorem State.diePower_modDiePower_same (s : State) (d : Nat) (f : DiePower → DiePower) :
    (s.modDiePower d f).diePower d = f (s.diePower d) := by simp [State.diePower_modDiePower]

@[simp] theorem State.diePower_modDiePower_ne (s : State) {d d' : Nat} (f : DiePower → DiePower) (h : d' ≠ d) :
    (s.modDiePower d f).diePower d' = s.diePower d' := by simp [State.diePower_modDiePower, h]

@[simp] theorem Quad.queue_modQueue_same (x : Quad) (j : Nat) (f : Queue → Queue) : (x.modQueue j f).queue j = f (x.queue j) := by
  simp [Quad.modQueue, Quad.queue]

@[simp] theorem Quad.queue_modQueue_ne (x : Quad) {j j' : Nat} (f : Queue → Queue) (h : j' ≠ j) :
    (x.modQueue j f).queue j' = x.queue j' := by
  simp [Quad.modQueue, Quad.queue, h]

@[simp] theorem State.queue_modQueue_same (s : State) (q j : Nat) (f : Queue → Queue) :
    (s.modQueue q j f).queue q j = f (s.queue q j) := by
  simp [State.modQueue, State.queue]

theorem State.queue_modQueue_ne (s : State) {q j q' j' : Nat} (f : Queue → Queue) (h : q' ≠ q ∨ j' ≠ j) :
    (s.modQueue q j f).queue q' j' = s.queue q' j' := by
  by_cases hq : q' = q
  · subst hq
    rcases h with h | h
    · exact absurd rfl h
    · simp [State.modQueue, State.queue, h]
  · simp [State.modQueue, State.queue, hq]

@[simp] theorem State.window_modWindow_same (s : State) (q w : Nat) (f : Window → Window) :
    (s.modWindow q w f).window q w = f (s.window q w) := by
  simp [State.modWindow, State.window, Quad.window]

@[simp] theorem State.byte_modQuad (s : State) (q : Nat) (f : Quad → Quad) (a : Nat) : (s.modQuad q f).byte a = s.byte a := rfl

/-- What a byte reads as after the one write of memory. -/
theorem State.byte_setBytes (s : State) (pa : Nat) (bs : List Byte) (a : Nat) :
    (s.setBytes pa bs).byte a = if pa ≤ a ∧ a < pa + bs.length then bs.getD (a - pa) memDefault else s.byte a :=
  Table.get_splice memDefault s.mem pa bs a

/-- The one write of memory keeps its canonical form. -/
theorem State.setBytes_wf (s : State) (pa : Nat) (bs : List Byte) (h : Memory.wf s.mem = true) :
    Memory.wf (s.setBytes pa bs).mem = true := Table.wf_splice memDefault pa bs h

end Sys2Proof.Machine
end

