-- ==== Sys2Proof/Laws/Errors.lean ====
section
/-! SUPPORT. What recording an error and raising an interrupt change: the error log and the event messages; one core's
pending interrupts. -/

namespace Sys2Proof.Machine

theorem State.sendEventTo_frame (s : State) (p : Nat) (e : Event) :
    s.sendEventTo p e = { s with cfg := (s.sendEventTo p e).cfg } := rfl

theorem State.sendEvent_frame (s : State) (e : Event) : s.sendEvent e = { s with cfg := (s.sendEvent e).cfg } := rfl

/-- Sending an event changes the event queues and their losses alone. -/
theorem State.sendEventTo_cfg (s : State) (p : Nat) (e : Event) :
    (s.sendEventTo p e).cfg = { s.cfg with
      events := (s.sendEventTo p e).cfg.events, lostA := (s.sendEventTo p e).cfg.lostA, lostB := (s.sendEventTo p e).cfg.lostB } := by
  simp only [State.sendEventTo, State.modCfg]
  split
  · rfl
  · split <;> rfl

theorem State.sendEvent_cfg (s : State) (e : Event) :
    (s.sendEvent e).cfg = { s.cfg with
      events := (s.sendEvent e).cfg.events, lostA := (s.sendEvent e).cfg.lostA, lostB := (s.sendEvent e).cfg.lostB } := by
  have h1 := State.sendEventTo_cfg s 0 e
  have h2 := State.sendEventTo_cfg (s.sendEventTo 0 e) 1 e
  simp only [State.sendEvent]
  rw [h1] at h2
  exact h2

/-- Recording an error changes the error log, the event queues and their losses alone. -/
theorem State.logErr_frame (s : State) (r : ErrRec) :
    ∃ ev a b l, s.logErr r = { s with cfg := { s.cfg with events := ev, lostA := a, lostB := b }, log := l } := by
  unfold State.logErr
  have h1 : ∀ (b : Prop) [Decidable b] (e : Event), ∃ ev x y,
      (if b then s.sendEvent e else s) = { s with cfg := { s.cfg with events := ev, lostA := x, lostB := y } } := by
    intro b _ e
    split
    · exact ⟨_, _, _, by rw [State.sendEvent_frame, State.sendEvent_cfg]⟩
    · exact ⟨s.cfg.events, s.cfg.lostA, s.cfg.lostB, rfl⟩
  have h2 : ∀ (x : State) (b : Prop) [Decidable b] (f : ErrLog → ErrLog), ∃ l, (if b then x.modLog f else x) = { x with log := l } := by
    intro x b _ f
    split
    · exact ⟨_, rfl⟩
    · exact ⟨x.log, rfl⟩
  obtain ⟨ev, x, y, hc⟩ := h1 (r.cls ≥ 2) (.record (({ r with drone := s.drone, open_ := decide (r.cls = 0) } : ErrRec).bytes 0xFFFFFFFF))
  obtain ⟨l, hl⟩ := h2 { s with cfg := { s.cfg with events := ev, lostA := x, lostB := y } } (r.cls = 3)
    (·.takeFatal { r with drone := s.drone, open_ := decide (r.cls = 0) })
  exact ⟨ev, x, y, _, by simp only [hc, hl]; rfl⟩

@[simp] theorem State.logErr_pending (s : State) (r : ErrRec) : (s.logErr r).pending = s.pending := by
  obtain ⟨_, _, _, _, h⟩ := State.logErr_frame s r; rw [h]
@[simp] theorem State.logErr_free (s : State) (r : ErrRec) : (s.logErr r).free = s.free := by
  obtain ⟨_, _, _, _, h⟩ := State.logErr_frame s r; rw [h]
@[simp] theorem State.logErr_mem (s : State) (r : ErrRec) : (s.logErr r).mem = s.mem := by
  obtain ⟨_, _, _, _, h⟩ := State.logErr_frame s r; rw [h]
@[simp] theorem State.logErr_flash (s : State) (r : ErrRec) : (s.logErr r).flash = s.flash := by
  obtain ⟨_, _, _, _, h⟩ := State.logErr_frame s r; rw [h]
@[simp] theorem State.logErr_poison (s : State) (r : ErrRec) : (s.logErr r).poison = s.poison := by
  obtain ⟨_, _, _, _, h⟩ := State.logErr_frame s r; rw [h]
@[simp] theorem State.logErr_flashPoison (s : State) (r : ErrRec) : (s.logErr r).flashPoison = s.flashPoison := by
  obtain ⟨_, _, _, _, h⟩ := State.logErr_frame s r; rw [h]
@[simp] theorem State.logErr_sync (s : State) (r : ErrRec) : (s.logErr r).sync = s.sync := by
  obtain ⟨_, _, _, _, h⟩ := State.logErr_frame s r; rw [h]
@[simp] theorem State.logErr_regs (s : State) (r : ErrRec) : (s.logErr r).regs = s.regs := by
  obtain ⟨_, _, _, _, h⟩ := State.logErr_frame s r; rw [h]
@[simp] theorem State.logErr_sweepWakes (s : State) (r : ErrRec) : (s.logErr r).sweepWakes = s.sweepWakes := by
  obtain ⟨_, _, _, _, h⟩ := State.logErr_frame s r; rw [h]
@[simp] theorem State.logErr_quads (s : State) (r : ErrRec) : (s.logErr r).quads = s.quads := by
  obtain ⟨_, _, _, _, h⟩ := State.logErr_frame s r; rw [h]
@[simp] theorem State.logErr_stus (s : State) (r : ErrRec) : (s.logErr r).stus = s.stus := by
  obtain ⟨_, _, _, _, h⟩ := State.logErr_frame s r; rw [h]
@[simp] theorem State.logErr_coh (s : State) (r : ErrRec) : (s.logErr r).coh = s.coh := by
  obtain ⟨_, _, _, _, h⟩ := State.logErr_frame s r; rw [h]
@[simp] theorem State.logErr_cores (s : State) (r : ErrRec) : (s.logErr r).cores = s.cores := by
  obtain ⟨_, _, _, _, h⟩ := State.logErr_frame s r; rw [h]
@[simp] theorem State.logErr_hostDies (s : State) (r : ErrRec) : (s.logErr r).hostDies = s.hostDies := by
  obtain ⟨_, _, _, _, h⟩ := State.logErr_frame s r; rw [h]
@[simp] theorem State.logErr_routes (s : State) (r : ErrRec) : (s.logErr r).routes = s.routes := by
  obtain ⟨_, _, _, _, h⟩ := State.logErr_frame s r; rw [h]
@[simp] theorem State.logErr_streams (s : State) (r : ErrRec) : (s.logErr r).streams = s.streams := by
  obtain ⟨_, _, _, _, h⟩ := State.logErr_frame s r; rw [h]
@[simp] theorem State.logErr_extWays (s : State) (r : ErrRec) : (s.logErr r).extWays = s.extWays := by
  obtain ⟨_, _, _, _, h⟩ := State.logErr_frame s r; rw [h]
@[simp] theorem State.logErr_extSelfDis (s : State) (r : ErrRec) : (s.logErr r).extSelfDis = s.extSelfDis := by
  obtain ⟨_, _, _, _, h⟩ := State.logErr_frame s r; rw [h]
@[simp] theorem State.logErr_extLfsr (s : State) (r : ErrRec) : (s.logErr r).extLfsr = s.extLfsr := by
  obtain ⟨_, _, _, _, h⟩ := State.logErr_frame s r; rw [h]
@[simp] theorem State.logErr_extErr (s : State) (r : ErrRec) : (s.logErr r).extErr = s.extErr := by
  obtain ⟨_, _, _, _, h⟩ := State.logErr_frame s r; rw [h]
@[simp] theorem State.logErr_extHits (s : State) (r : ErrRec) : (s.logErr r).extHits = s.extHits := by
  obtain ⟨_, _, _, _, h⟩ := State.logErr_frame s r; rw [h]
@[simp] theorem State.logErr_extMisses (s : State) (r : ErrRec) : (s.logErr r).extMisses = s.extMisses := by
  obtain ⟨_, _, _, _, h⟩ := State.logErr_frame s r; rw [h]
@[simp] theorem State.logErr_ext (s : State) (r : ErrRec) : (s.logErr r).ext = s.ext := by
  obtain ⟨_, _, _, _, h⟩ := State.logErr_frame s r; rw [h]
@[simp] theorem State.logErr_scWays (s : State) (r : ErrRec) : (s.logErr r).scWays = s.scWays := by
  obtain ⟨_, _, _, _, h⟩ := State.logErr_frame s r; rw [h]
@[simp] theorem State.logErr_scTrees (s : State) (r : ErrRec) : (s.logErr r).scTrees = s.scTrees := by
  obtain ⟨_, _, _, _, h⟩ := State.logErr_frame s r; rw [h]
@[simp] theorem State.logErr_tier (s : State) (r : ErrRec) : (s.logErr r).tier = s.tier := by
  obtain ⟨_, _, _, _, h⟩ := State.logErr_frame s r; rw [h]
@[simp] theorem State.logErr_links (s : State) (r : ErrRec) : (s.logErr r).links = s.links := by
  obtain ⟨_, _, _, _, h⟩ := State.logErr_frame s r; rw [h]
@[simp] theorem State.logErr_time (s : State) (r : ErrRec) : (s.logErr r).time = s.time := by
  obtain ⟨_, _, _, _, h⟩ := State.logErr_frame s r; rw [h]
@[simp] theorem State.logErr_eths (s : State) (r : ErrRec) : (s.logErr r).eths = s.eths := by
  obtain ⟨_, _, _, _, h⟩ := State.logErr_frame s r; rw [h]
@[simp] theorem State.logErr_qpRegs (s : State) (r : ErrRec) : (s.logErr r).qpRegs = s.qpRegs := by
  obtain ⟨_, _, _, _, h⟩ := State.logErr_frame s r; rw [h]
@[simp] theorem State.logErr_qps (s : State) (r : ErrRec) : (s.logErr r).qps = s.qps := by
  obtain ⟨_, _, _, _, h⟩ := State.logErr_frame s r; rw [h]
@[simp] theorem State.logErr_pcie (s : State) (r : ErrRec) : (s.logErr r).pcie = s.pcie := by
  obtain ⟨_, _, _, _, h⟩ := State.logErr_frame s r; rw [h]
@[simp] theorem State.logErr_power (s : State) (r : ErrRec) : (s.logErr r).power = s.power := by
  obtain ⟨_, _, _, _, h⟩ := State.logErr_frame s r; rw [h]
@[simp] theorem State.logErr_boot (s : State) (r : ErrRec) : (s.logErr r).boot = s.boot := by
  obtain ⟨_, _, _, _, h⟩ := State.logErr_frame s r; rw [h]
@[simp] theorem State.logErr_fabric (s : State) (r : ErrRec) : (s.logErr r).fabric = s.fabric := by
  obtain ⟨_, _, _, _, h⟩ := State.logErr_frame s r; rw [h]
@[simp] theorem State.logErr_latches (s : State) (r : ErrRec) : (s.logErr r).latches = s.latches := by
  obtain ⟨_, _, _, _, h⟩ := State.logErr_frame s r; rw [h]
@[simp] theorem State.logErr_lastRead (s : State) (r : ErrRec) : (s.logErr r).lastRead = s.lastRead := by
  obtain ⟨_, _, _, _, h⟩ := State.logErr_frame s r; rw [h]
@[simp] theorem State.logErr_out (s : State) (r : ErrRec) : (s.logErr r).out = s.out := by
  obtain ⟨_, _, _, _, h⟩ := State.logErr_frame s r; rw [h]

/-- Recording an error leaves the key slots and the fused floor. -/
theorem State.logErr_keys (s : State) (r : ErrRec) : (s.logErr r).cfg.keys = s.cfg.keys ∧ (s.logErr r).cfg.minSvn = s.cfg.minSvn := by
  obtain ⟨_, _, _, _, h⟩ := State.logErr_frame s r
  rw [h]
  exact ⟨rfl, rfl⟩

/-- Raising an interrupt changes the cores alone. -/
theorem State.raiseIrq_frame (s : State) (n : Nat) : ∃ c, s.raiseIrq n = { s with cores := c } := by
  unfold State.raiseIrq
  dsimp only
  split
  · exact ⟨_, rfl⟩
  · exact ⟨s.cores, rfl⟩

@[simp] theorem State.raiseIrq_pending (s : State) (n : Nat) : (s.raiseIrq n).pending = s.pending := by
  obtain ⟨c, h⟩ := State.raiseIrq_frame s n; rw [h]
@[simp] theorem State.raiseIrq_free (s : State) (n : Nat) : (s.raiseIrq n).free = s.free := by
  obtain ⟨c, h⟩ := State.raiseIrq_frame s n; rw [h]
@[simp] theorem State.raiseIrq_mem (s : State) (n : Nat) : (s.raiseIrq n).mem = s.mem := by
  obtain ⟨c, h⟩ := State.raiseIrq_frame s n; rw [h]
@[simp] theorem State.raiseIrq_flash (s : State) (n : Nat) : (s.raiseIrq n).flash = s.flash := by
  obtain ⟨c, h⟩ := State.raiseIrq_frame s n; rw [h]
@[simp] theorem State.raiseIrq_poison (s : State) (n : Nat) : (s.raiseIrq n).poison = s.poison := by
  obtain ⟨c, h⟩ := State.raiseIrq_frame s n; rw [h]
@[simp] theorem State.raiseIrq_flashPoison (s : State) (n : Nat) : (s.raiseIrq n).flashPoison = s.flashPoison := by
  obtain ⟨c, h⟩ := State.raiseIrq_frame s n; rw [h]
@[simp] theorem State.raiseIrq_sync (s : State) (n : Nat) : (s.raiseIrq n).sync = s.sync := by
  obtain ⟨c, h⟩ := State.raiseIrq_frame s n; rw [h]
@[simp] theorem State.raiseIrq_regs (s : State) (n : Nat) : (s.raiseIrq n).regs = s.regs := by
  obtain ⟨c, h⟩ := State.raiseIrq_frame s n; rw [h]
@[simp] theorem State.raiseIrq_sweepWakes (s : State) (n : Nat) : (s.raiseIrq n).sweepWakes = s.sweepWakes := by
  obtain ⟨c, h⟩ := State.raiseIrq_frame s n; rw [h]
@[simp] theorem State.raiseIrq_quads (s : State) (n : Nat) : (s.raiseIrq n).quads = s.quads := by
  obtain ⟨c, h⟩ := State.raiseIrq_frame s n; rw [h]
@[simp] theorem State.raiseIrq_stus (s : State) (n : Nat) : (s.raiseIrq n).stus = s.stus := by
  obtain ⟨c, h⟩ := State.raiseIrq_frame s n; rw [h]
@[simp] theorem State.raiseIrq_coh (s : State) (n : Nat) : (s.raiseIrq n).coh = s.coh := by
  obtain ⟨c, h⟩ := State.raiseIrq_frame s n; rw [h]
@[simp] theorem State.raiseIrq_hostDies (s : State) (n : Nat) : (s.raiseIrq n).hostDies = s.hostDies := by
  obtain ⟨c, h⟩ := State.raiseIrq_frame s n; rw [h]
@[simp] theorem State.raiseIrq_routes (s : State) (n : Nat) : (s.raiseIrq n).routes = s.routes := by
  obtain ⟨c, h⟩ := State.raiseIrq_frame s n; rw [h]
@[simp] theorem State.raiseIrq_streams (s : State) (n : Nat) : (s.raiseIrq n).streams = s.streams := by
  obtain ⟨c, h⟩ := State.raiseIrq_frame s n; rw [h]
@[simp] theorem State.raiseIrq_extWays (s : State) (n : Nat) : (s.raiseIrq n).extWays = s.extWays := by
  obtain ⟨c, h⟩ := State.raiseIrq_frame s n; rw [h]
@[simp] theorem State.raiseIrq_extSelfDis (s : State) (n : Nat) : (s.raiseIrq n).extSelfDis = s.extSelfDis := by
  obtain ⟨c, h⟩ := State.raiseIrq_frame s n; rw [h]
@[simp] theorem State.raiseIrq_extLfsr (s : State) (n : Nat) : (s.raiseIrq n).extLfsr = s.extLfsr := by
  obtain ⟨c, h⟩ := State.raiseIrq_frame s n; rw [h]
@[simp] theorem State.raiseIrq_extErr (s : State) (n : Nat) : (s.raiseIrq n).extErr = s.extErr := by
  obtain ⟨c, h⟩ := State.raiseIrq_frame s n; rw [h]
@[simp] theorem State.raiseIrq_extHits (s : State) (n : Nat) : (s.raiseIrq n).extHits = s.extHits := by
  obtain ⟨c, h⟩ := State.raiseIrq_frame s n; rw [h]
@[simp] theorem State.raiseIrq_extMisses (s : State) (n : Nat) : (s.raiseIrq n).extMisses = s.extMisses := by
  obtain ⟨c, h⟩ := State.raiseIrq_frame s n; rw [h]
@[simp] theorem State.raiseIrq_ext (s : State) (n : Nat) : (s.raiseIrq n).ext = s.ext := by
  obtain ⟨c, h⟩ := State.raiseIrq_frame s n; rw [h]
@[simp] theorem State.raiseIrq_scWays (s : State) (n : Nat) : (s.raiseIrq n).scWays = s.scWays := by
  obtain ⟨c, h⟩ := State.raiseIrq_frame s n; rw [h]
@[simp] theorem State.raiseIrq_scTrees (s : State) (n : Nat) : (s.raiseIrq n).scTrees = s.scTrees := by
  obtain ⟨c, h⟩ := State.raiseIrq_frame s n; rw [h]
@[simp] theorem State.raiseIrq_tier (s : State) (n : Nat) : (s.raiseIrq n).tier = s.tier := by
  obtain ⟨c, h⟩ := State.raiseIrq_frame s n; rw [h]
@[simp] theorem State.raiseIrq_links (s : State) (n : Nat) : (s.raiseIrq n).links = s.links := by
  obtain ⟨c, h⟩ := State.raiseIrq_frame s n; rw [h]
@[simp] theorem State.raiseIrq_time (s : State) (n : Nat) : (s.raiseIrq n).time = s.time := by
  obtain ⟨c, h⟩ := State.raiseIrq_frame s n; rw [h]
@[simp] theorem State.raiseIrq_eths (s : State) (n : Nat) : (s.raiseIrq n).eths = s.eths := by
  obtain ⟨c, h⟩ := State.raiseIrq_frame s n; rw [h]
@[simp] theorem State.raiseIrq_qpRegs (s : State) (n : Nat) : (s.raiseIrq n).qpRegs = s.qpRegs := by
  obtain ⟨c, h⟩ := State.raiseIrq_frame s n; rw [h]
@[simp] theorem State.raiseIrq_qps (s : State) (n : Nat) : (s.raiseIrq n).qps = s.qps := by
  obtain ⟨c, h⟩ := State.raiseIrq_frame s n; rw [h]
@[simp] theorem State.raiseIrq_pcie (s : State) (n : Nat) : (s.raiseIrq n).pcie = s.pcie := by
  obtain ⟨c, h⟩ := State.raiseIrq_frame s n; rw [h]
@[simp] theorem State.raiseIrq_log (s : State) (n : Nat) : (s.raiseIrq n).log = s.log := by
  obtain ⟨c, h⟩ := State.raiseIrq_frame s n; rw [h]
@[simp] theorem State.raiseIrq_power (s : State) (n : Nat) : (s.raiseIrq n).power = s.power := by
  obtain ⟨c, h⟩ := State.raiseIrq_frame s n; rw [h]
@[simp] theorem State.raiseIrq_cfg (s : State) (n : Nat) : (s.raiseIrq n).cfg = s.cfg := by
  obtain ⟨c, h⟩ := State.raiseIrq_frame s n; rw [h]
@[simp] theorem State.raiseIrq_boot (s : State) (n : Nat) : (s.raiseIrq n).boot = s.boot := by
  obtain ⟨c, h⟩ := State.raiseIrq_frame s n; rw [h]
@[simp] theorem State.raiseIrq_fabric (s : State) (n : Nat) : (s.raiseIrq n).fabric = s.fabric := by
  obtain ⟨c, h⟩ := State.raiseIrq_frame s n; rw [h]
@[simp] theorem State.raiseIrq_latches (s : State) (n : Nat) : (s.raiseIrq n).latches = s.latches := by
  obtain ⟨c, h⟩ := State.raiseIrq_frame s n; rw [h]
@[simp] theorem State.raiseIrq_lastRead (s : State) (n : Nat) : (s.raiseIrq n).lastRead = s.lastRead := by
  obtain ⟨c, h⟩ := State.raiseIrq_frame s n; rw [h]
@[simp] theorem State.raiseIrq_out (s : State) (n : Nat) : (s.raiseIrq n).out = s.out := by
  obtain ⟨c, h⟩ := State.raiseIrq_frame s n; rw [h]

end Sys2Proof.Machine
end

