-- ==== Sys2Proof/Laws/Coherence.lean ====
section
/-! SUPPORT. What the shared operations of the coherence protocol change: messages taken in order, lines of a cache,
and the replacement trees. -/

namespace Sys2Proof.Machine

/-- The oldest message is taken when it is the one looked for and no bridge on its way retrains. -/
theorem takeMsg_head (s : State) (f : Msg → Bool) (m : Msg) (ms : List Msg) (h : s.coh.msgs = m :: ms) (hf : f m = true)
    (hu : s.msgUp m = true) : s.takeMsg f = some (m, { s with coh := { s.coh with msgs := ms } }) := by
  simp [State.takeMsg, h, hf, hu, State.modCoh]

/-- Nothing is taken where nothing fits. -/
theorem takeMsg_none (s : State) (f : Msg → Bool) (h : ∀ m ∈ s.coh.msgs, f m = false) : s.takeMsg f = none := by
  have : s.coh.msgs.find? f = none := List.find?_eq_none.mpr (fun x hx => by simp [h x hx])
  simp [State.takeMsg, this]

/-- With no install on the way nothing is settled. -/
theorem settle_none (s : State) (a line : Nat) (h : ∀ x, Msg.datInstall a line x ∉ s.coh.msgs) : s.settleInstall a line = s := by
  unfold State.settleInstall
  rw [takeMsg_none]
  intro m hm
  cases m with
  | datInstall b l x =>
    by_contra hc
    simp only [isInstall, Bool.not_eq_false, Bool.and_eq_true, decide_eq_true_eq] at hc
    obtain ⟨rfl, rfl⟩ := hc
    exact h x hm
  | _ => rfl

/-- A line reads as it was written. -/
theorem line_setLine (s : State) (a l : Nat) (x : Line) : (s.setLine a l x).line a l = x := by
  simp [State.setLine, State.line, State.modCoh]

/-- A touch changes the replacement trees alone. -/
theorem scTouch_trees (s : State) (h line : Nat) (b : Bool) (i : Nat) : ∃ z, s.scTouch h line b i = { s with scTrees := z } := ⟨_, rfl⟩

/-- A hit changes the replacement trees alone. -/
theorem scHit_trees (s : State) (h line : Nat) : ∃ z, s.scHit h line = { s with scTrees := z } := by
  unfold State.scHit
  split
  · exact ⟨_, rfl⟩
  · split
    · exact ⟨_, rfl⟩
    · exact ⟨_, rfl⟩

/-- Taking a line out of the L1 caches changes the cores alone, and of them neither a reservation nor a delayed snoop nor
a tally. -/
theorem dropL1_frame (s : State) (a line : Nat) : ∃ z, s.dropL1 a line = { s with cores := z } ∧
    ∀ c, ((s.dropL1 a line).core c).reservation = (s.core c).reservation ∧
      ((s.dropL1 a line).core c).snoopHeld = (s.core c).snoopHeld ∧
      ((s.dropL1 a line).core c).missStash = (s.core c).missStash := by
  unfold State.dropL1
  split
  · refine ⟨_, rfl, fun c => ?_⟩
    by_cases h : c = a
    · subst h; simp
    · simp [h]
  · exact ⟨s.cores, rfl, fun c => ⟨rfl, rfl, rfl⟩⟩

/-- Where a dirty copy stands in its writeback, a snoop of any kind is answered so. -/
theorem answerSnoop_inWb (s : State) (k : Snp) (a line : Nat) (who : Requester)
    (h : (s.line a line).tr = .miWb ∨ (s.line a line).tr = .oiWb) (hi : (s.line a line).st = .i) :
    s.answerSnoop k a line who = s.post (.rspInwb a line) := by
  unfold State.answerSnoop
  simp only [hi, ne_eq, not_true_eq_false, and_false, if_false]
  rw [if_pos h]

/-- What an agent does not hold it answers as I. -/
theorem answerSnoop_none (s : State) (k : Snp) (a line : Nat) (who : Requester) (h : s.line a line = Line.none) :
    s.answerSnoop k a line who = s.post (.rspState .i a line false) := by
  unfold State.answerSnoop
  cases k <;> simp [h, Line.none]

/-- The messages that answer a snoop of a line held in a state (Table COH-3). -/
def snoopAnswer (k : Snp) (st : LState) (a line b : Nat) (d : List Byte) (p : Bool) : List Msg :=
  let dirty := decide (st = .m) || decide (st = .o)
  match k with
  | .shr =>
    let st' : LState := if dirty then .o else .s
    [.datFwd a b line .s d p, .rspState st' a line true]
  | .own => if st = .s then [.rspState .i a line false] else [.datFwd a b line .m d p, .rspState .i a line true]
  | .inv => (if dirty then [Msg.datSnp a line d p] else []) ++ [.rspState .i a line false]
  | .once => [.datSnp a line d p]
  | .cln => [.datSnp a line d p]

/-- The state in which a snoop leaves a line held in a state. -/
def snoopLeaves (k : Snp) (st : LState) : LState :=
  match k with
  | .shr => if st = .m then .o else if st = .e then .s else st
  | .own => .i
  | .inv => .i
  | .once => st
  | .cln => if st = .m then .e else if st = .o then .s else st

/-- What the answer to a snoop of a held line does: the line goes to its state, the messages of its answer are in flight,
and nothing else changes but the replacement trees and, of the cores, their L1 caches. -/
theorem answerSnoop_held (s : State) (k : Snp) (a line b : Nat) (st : LState) (d : List Byte) (p : Bool)
    (h : s.line a line = ⟨st, .stable, d, p⟩) (hi : st ≠ .i) :
    ∃ t, s.answerSnoop k a line (.agent b) = t ∧ (∀ x, t.byte x = s.byte x) ∧
      t.coh.msgs = s.coh.msgs ++ snoopAnswer k st a line b d p ∧
      t.line a line = (if snoopLeaves k st = .i then Line.none else ⟨snoopLeaves k st, .stable, d, p⟩) ∧
      (t.core a).reservation = (s.core a).reservation ∧ (t.core a).snoopHeld = (s.core a).snoopHeld := by
  have hz : ∃ z, (if a ≥ 128 ∧ st ≠ .i then s.scHit (a - 128) line else s) = { s with scTrees := z } := by
    split
    · exact scHit_trees ..
    · exact ⟨s.scTrees, rfl⟩
  obtain ⟨z, hz⟩ := hz
  refine ⟨_, rfl, ?_⟩
  unfold State.answerSnoop
  simp only [h, hz]
  generalize hw : ({ s with scTrees := z } : State) = w
  have wb : ∀ x, w.byte x = s.byte x := by subst hw; intro x; rfl
  have wm : w.coh.msgs = s.coh.msgs := by subst hw; rfl
  have wl : w.line a line = ⟨st, .stable, d, p⟩ := by subst hw; exact h
  have wc : w.core a = s.core a := by subst hw; rfl
  have gone : ∀ x : Line, x.tr = .stable → ∃ t, ((w.setLine a line x.gone).dropL1 a line) = t ∧ (∀ x, t.byte x = s.byte x) ∧
      t.coh.msgs = s.coh.msgs ∧ t.line a line = Line.none ∧ (t.core a).reservation = (s.core a).reservation ∧
      (t.core a).snoopHeld = (s.core a).snoopHeld := by
    intro x hx
    obtain ⟨c, hc, hr⟩ := dropL1_frame (w.setLine a line x.gone) a line
    refine ⟨_, rfl, ?_, ?_, ?_, ?_, ?_⟩
    · intro y; rw [hc]; exact wb y
    · rw [hc]; exact wm
    · rw [hc]
      exact (line_setLine ..).trans (by simp [Line.gone, hx, Line.none])
    · rw [(hr a).1]; exact congrArg _ wc
    · rw [(hr a).2.1]; exact congrArg _ wc
  obtain ⟨g, hg, gb, gm, gl, gr, gs⟩ := gone ⟨st, .stable, d, p⟩ rfl
  have hl : ∀ (v : State) (m : Msg), (v.post m).line a line = v.line a line := fun _ _ => rfl
  have hb : ∀ (v : State) (m : Msg) x, (v.post m).byte x = v.byte x := fun _ _ _ => rfl
  have hm : ∀ (v : State) (m : Msg), (v.post m).coh.msgs = v.coh.msgs ++ [m] := fun _ _ => rfl
  have hc : ∀ (v : State) (m : Msg), (v.post m).core a = v.core a := fun _ _ => rfl
  have sb : ∀ (x : Line) y, (w.setLine a line x).byte y = s.byte y := fun _ y => wb y
  have sm : ∀ x : Line, (w.setLine a line x).coh.msgs = s.coh.msgs := fun _ => wm
  have sc : ∀ x : Line, (w.setLine a line x).core a = s.core a := fun _ => wc
  cases k <;> cases st <;>
    simp_all [snoopAnswer, snoopLeaves, line_setLine, Line.none]

/-! ### Transactions at a home -/

/-- A change of an open transaction. -/
theorem modTxn_some (s : State) (line : Nat) (t : Txn) (f : Txn → Txn) (h : s.txn line = some t) :
    s.modTxn line f = s.setTxn line (some (f t)) := by
  simp [State.modTxn, h]

/-- The transaction of a line reads as it was written. -/
theorem txn_setTxn (s : State) (line : Nat) (t : Option Txn) : (s.setTxn line t).txn line = t := by
  simp [State.txn, State.setTxn, State.modCoh]

/-- The last of two writes of a line's transaction stands. -/
theorem setTxn_setTxn (s : State) (line : Nat) (t u : Option Txn) : (s.setTxn line t).setTxn line u = s.setTxn line u := by
  simp [State.setTxn, State.modCoh, Table.put_put]

/-- An entry that names a holder reads as it was written. -/
theorem dirEntry_setDir (s : State) (line : Nat) (e : DirEntry) (h : e.st ≠ .di) (hp : e.ptrs ≠ []) :
    (s.setDir line e).dirEntry line = e := by
  simp [State.dirEntry, State.setDir, State.modCoh, h, hp]

/-- Where nothing waits at a home nothing is woken. -/
theorem wakeHomes_none (s : State) (h : s.coh.waiting = []) : s.wakeHomes = s := by
  simp [State.wakeHomes, h, State.servePasses]

/-- Without retried requests a transaction just closes. -/
theorem closeTxn_none (s : State) (line : Nat) (h : s.coh.retryQ = []) : s.closeTxn line = s.setTxn line none := by
  have : (s.setTxn line none).coh.retryQ = [] := h
  simp [State.closeTxn, State.grantNext, this]

/-- A transaction that waits for nothing is served. -/
theorem finish_served (s : State) (line : Nat) (t : Txn) (h : s.txn line = some t) (hw : t.waits = []) (ha : t.awaitWb = [])
    (hn : t.answered = false) (hd : s.datComing line = false) :
    s.finish line = if (s.serve line t).1 || t.acked then (s.serve line t).2.closeTxn line
      else (s.serve line t).2.modTxn line (fun t => { t with answered := true }) := by
  unfold State.finish
  simp [h, hw, ha, hn, hd]

/-- A transaction with a snoop out is not served. -/
theorem finish_waits (s : State) (line : Nat) (t : Txn) (h : s.txn line = some t) (hw : t.waits ≠ []) : s.finish line = s := by
  unfold State.finish
  simp [h, hw]

/-- An access of the extension changes its lines and counters alone. -/
theorem extLookup_frame (s : State) (pa n : Nat) (w : Bool) :
    ∃ e h m, s.extLookup pa n w = { s with ext := e, extHits := h, extMisses := m } := by
  unfold State.extLookup
  split
  · exact ⟨s.ext, s.extHits, s.extMisses, rfl⟩
  · rename_i d _
    split
    · cases w
      · exact ⟨s.ext, _, _, rfl⟩
      · have : ∀ (l : List Nat) (s : State), ∃ e, l.foldl (fun s l => s.extSet d l true) s = { s with ext := e } := by
          intro l
          induction l with
          | nil => exact fun s => ⟨s.ext, rfl⟩
          | cons x xs ih =>
            intro s
            obtain ⟨e, he⟩ : ∃ e, s.extSet d x true = { s with ext := e } := by
              unfold State.extSet; split
              · exact ⟨_, rfl⟩
              · exact ⟨s.ext, rfl⟩
            obtain ⟨f, hf⟩ := ih (s.extSet d x true)
            exact ⟨f, by rw [List.foldl_cons, hf, he]⟩
        obtain ⟨e, he⟩ := this (sectorsOf pa n) s
        exact ⟨e, _, _, by simp only [if_true, he]; rfl⟩
    · exact ⟨s.ext, s.extHits, s.extMisses, rfl⟩

/-- A read of memory outside the tiered range changes the extension's counters alone. -/
theorem didRead_frame (s : State) (pa n : Nat) (h : isTiered pa = false) :
    ∃ e x m, s.didRead pa n = { s with ext := e, extHits := x, extMisses := m } := by
  unfold State.didRead
  simpa [h] using extLookup_frame s pa n false

/-- Losing reservations changes the cores alone. -/
theorem dropReservations_frame (s : State) (line : Nat) (who : Requester) : ∃ z, s.dropReservations line who = { s with cores := z } := by
  unfold State.dropReservations
  generalize s.cores.filter _ = l
  induction l generalizing s with
  | nil => exact ⟨s.cores, rfl⟩
  | cons x xs ih =>
    obtain ⟨z, hz⟩ := ih (s.modCore x.1 (fun c => { c with reservation := none }))
    exact ⟨z, hz⟩

/-! ### Evictions and places -/

/-- A full-line write at a detector changes the detectors alone. -/
theorem streamWrite_frame (s : State) (det line : Nat) : ∃ z, (s.streamWrite det line).2 = { s with streams := z } := by
  unfold State.streamWrite
  split
  · exact ⟨_, rfl⟩
  · exact ⟨s.streams, rfl⟩

/-- A write of part of a line at a detector changes the detectors alone. -/
theorem streamPart_frame (s : State) (det line : Nat) : ∃ z, s.streamPart det line = { s with streams := z } := by
  unfold State.streamPart
  split
  · exact ⟨_, rfl⟩
  · exact ⟨s.streams, rfl⟩

/-- What passes an L2's output changes the detectors and the cores' events alone. -/
theorem passOut_frame (s : State) (a line : Nat) : ∃ z c, (s.passOut a line).2 = { s with streams := z, cores := c } := by
  unfold State.passOut
  obtain ⟨z, hz⟩ := streamWrite_frame s a line
  dsimp only
  split
  · split
    · exact ⟨z, _, by rw [hz]; rfl⟩
    · exact ⟨z, s.cores, by rw [hz]⟩
  · exact ⟨s.streams, s.cores, rfl⟩

/-- What making room in a cache can change: the free counter, cores, detectors, the ways and trees of the system caches,
and of the protocol the lines held and the messages in flight. -/
def State.roomOnly (s t : State) : Prop :=
  t = { s with free := t.free, cores := t.cores, streams := t.streams, scWays := t.scWays, scTrees := t.scTrees,
               coh := { s.coh with lines := t.coh.lines, msgs := t.coh.msgs } }

/-- One such change after another is one. -/
theorem State.roomOnly_trans {a b c : State} (h : a.roomOnly b) (k : b.roomOnly c) : a.roomOnly c := by
  unfold State.roomOnly at *
  rw [h] at k
  exact k

/-- A state is such a change of itself. -/
theorem State.roomOnly_refl (s : State) : s.roomOnly s := rfl

/-- The parts of a state that making room leaves as they are. -/
theorem State.roomOnly_parts {s t : State} (h : s.roomOnly t) : t.mem = s.mem ∧ t.poison = s.poison ∧ t.coh.dir = s.coh.dir ∧
    t.coh.txns = s.coh.txns ∧ t.coh.waiting = s.coh.waiting ∧ t.coh.retryQ = s.coh.retryQ ∧ t.coh.reserved = s.coh.reserved ∧
    t.coh.dead = s.coh.dead ∧ t.coh.stamp = s.coh.stamp ∧ t.coh.homes = s.coh.homes ∧ t.time = s.time ∧ t.cfg = s.cfg ∧
    t.tier = s.tier ∧ t.ext = s.ext ∧ t.boot = s.boot ∧ t.fabric = s.fabric ∧ t.coh.closed = s.coh.closed := by
  rw [h]
  exact ⟨rfl, rfl, rfl, rfl, rfl, rfl, rfl, rfl, rfl, rfl, rfl, rfl, rfl, rfl, rfl, rfl, rfl⟩

/-- A writeback's sending. -/
theorem sendWb_room (s : State) (a line : Nat) : s.roomOnly (s.sendWb a line) := by
  unfold State.sendWb
  obtain ⟨z, hz, _⟩ := dropL1_frame s a line
  simp only [hz]
  split <;> rfl

/-- An eviction. -/
theorem evictLine_room (s : State) (a line : Nat) : s.roomOnly (s.evictLine a line) := by
  unfold State.evictLine
  split
  · obtain ⟨z, c, hz⟩ := passOut_frame s a line
    rw [hz]
    exact State.roomOnly_trans (b := { s with streams := z, cores := c }) rfl (sendWb_room _ a line)
  · rfl

/-- A handover. -/
theorem sendMove_room (s : State) (a line : Nat) : s.roomOnly (s.sendMove a line) := by
  unfold State.sendMove
  split
  · obtain ⟨z, c, hz⟩ := passOut_frame s a line
    split
    · rename_i v hv
      have : v = (s.passOut a line).2 := by rw [hv]
      rw [this, hz]
      exact State.roomOnly_trans (b := { s with streams := z, cores := c }) rfl (sendWb_room _ a line)
    · rename_i v hv
      have : v = (s.passOut a line).2 := by rw [hv]
      rw [this, hz]
      dsimp only
      generalize hx : State.setLine _ a line _ = w
      obtain ⟨q, hq, _⟩ := dropL1_frame w a line
      rw [hq]
      subst hx
      rfl
  · rfl

/-- Making room for a line. -/
theorem cacheRoom_room {s u : State} {a line : Nat} {b : Bool} (h : s.cacheRoom a line b = some u) : s.roomOnly u := by
  unfold State.cacheRoom at h
  split at h
  · unfold State.l2Room at h
    dsimp only at h
    split at h
    · exact (Option.some.inj h) ▸ rfl
    · split at h
      · exact (Option.some.inj h) ▸ rfl
      · split at h
        · rw [← Option.some.inj h]
          exact State.roomOnly_trans (b := { s with free := s.free + 1 }) rfl (sendMove_room _ _ _)
        · cases h
  · unfold State.scFill at h
    split at h
    · obtain ⟨z, hz⟩ := scHit_trees s (a - 128) line
      rw [← Option.some.inj h, hz]; rfl
    · dsimp only at h
      split at h
      · cases h
      · split at h
        · cases h
        · rw [← Option.some.inj h]
          refine State.roomOnly_trans (b := if s.scWay (a - 128) line _ = 0 then s else s.evictLine (128 + (a - 128)) (s.scWay (a - 128) line _ - 1)) ?_ rfl
          split
          · rfl
          · exact evictLine_room _ _ _

/-- Writing one line of an agent leaves its others. -/
theorem line_setLine_ne (s : State) (a l m : Nat) (x : Line) (h : m ≠ l) : (s.setLine a l x).line a m = s.line a m := by
  have : lineKey a m ≠ lineKey a l := by unfold lineKey; omega
  simp [State.setLine, State.line, State.modCoh, this]

/-- A writeback of one line of an agent leaves its others. -/
theorem sendWb_line_ne (s : State) (a l m : Nat) (h : m ≠ l) : (s.sendWb a l).line a m = s.line a m := by
  unfold State.sendWb
  obtain ⟨z, hz, _⟩ := dropL1_frame s a l
  simp only [hz]
  split
  · exact line_setLine_ne _ a l m _ h
  · exact line_setLine_ne _ a l m _ h
  · exact line_setLine_ne _ a l m _ h
  · exact line_setLine_ne _ a l m _ h
  · rfl

/-- So does its eviction. -/
theorem evictLine_line_ne (s : State) (a l m : Nat) (h : m ≠ l) : (s.evictLine a l).line a m = s.line a m := by
  unfold State.evictLine
  split
  · obtain ⟨z, c, hz⟩ := passOut_frame s a l
    rw [sendWb_line_ne _ a l m h, hz]; rfl
  · rfl

/-- And its handover. -/
theorem sendMove_line_ne (s : State) (a l m : Nat) (h : m ≠ l) : (s.sendMove a l).line a m = s.line a m := by
  unfold State.sendMove
  split
  · obtain ⟨z, c, hz⟩ := passOut_frame s a l
    split
    · rename_i v hv
      have : v = (s.passOut a l).2 := by rw [hv]
      rw [sendWb_line_ne _ a l m h, this, hz]; rfl
    · rename_i v hv
      have : v = (s.passOut a l).2 := by rw [hv]
      rw [this, hz]
      dsimp only
      generalize hx : State.setLine _ a l _ = w
      obtain ⟨q, hq, _⟩ := dropL1_frame w a l
      rw [hq]
      subst hx
      exact line_setLine_ne _ a l m _ h
  · rfl

/-- Making room for a line that has no place yet leaves what the agent notes of it. -/
theorem cacheRoom_line {s u : State} {a line : Nat} {b : Bool} (h : s.cacheRoom a line b = some u)
    (hp : (s.line a line).placed = false) : u.line a line = s.line a line := by
  unfold State.cacheRoom at h
  split at h
  · unfold State.l2Room at h
    dsimp only at h
    split at h
    · exact (Option.some.inj h) ▸ rfl
    · split at h
      · exact (Option.some.inj h) ▸ rfl
      · split at h
        · rename_i e he
          rw [← Option.some.inj h]
          have hm := List.mem_of_getElem? he
          simp only [List.mem_filter, Bool.and_eq_true, decide_eq_true_eq] at hm
          exact sendMove_line_ne _ a _ line (fun hx => hm.1.1.2.2 hx.symm)
        · cases h
  · rename_i ha
    have ha2 : 128 + (a - 128) = a := by omega
    unfold State.scFill at h
    split at h
    · obtain ⟨z, hz⟩ := scHit_trees s (a - 128) line
      rw [← Option.some.inj h, hz]; rfl
    · dsimp only at h
      split at h
      · cases h
      · rename_i w hw
        split at h
        · cases h
        · rw [← Option.some.inj h]
          show (if s.scWay (a - 128) line w = 0 then s else s.evictLine (128 + (a - 128)) (s.scWay (a - 128) line w - 1)).line a line = _
          split
          · rfl
          · rename_i hv
            rw [ha2]
            refine evictLine_line_ne _ a _ line ?_
            intro hx
            have hne : s.scWay (a - 128) line w ≠ 0 := hv
            have : (s.line (128 + (a - 128)) (s.scWay (a - 128) line w - 1)).placed = true := by
              unfold State.scWay at hne ⊢
              dsimp only at hne ⊢
              split at hne
              · exact absurd rfl hne
              · rename_i hh
                rw [if_neg hh]
                simp only [not_or] at hh
                simpa using hh.2
            rw [ha2, ← hx, hp] at this
            cases this

/-- Counting an event leaves every other field of a core than its counters and tallies; of event 9 the tally of stashes
grows. -/
theorem countEvent_missStash (s : State) (a n : Nat) : ((s.countEvent a 0x0009 n).core a).missStash = (s.core a).missStash + n := by
  have hc : ∀ (x : Core) (k n : Nat), (x.count k n).missStash = x.missStash := by
    intro x k n; unfold Core.count; dsimp only; split <;> rfl
  have hf : ∀ (l : Table Dword) (x : Core), (l.foldl (fun x e => x.count e.1 n) x).missStash = x.missStash := by
    intro l
    induction l with
    | nil => exact fun _ => rfl
    | cons e t ih => intro x; rw [List.foldl_cons, ih, hc]
  simp only [State.countEvent, State.core_modCore_same, Core.event]
  rw [hf]
  rfl

/-- A home agent reads as it was changed. -/
theorem home_modHome (s : State) (h : Nat) (f : Home → Home) : (s.modHome h f).coh.home h = f (s.coh.home h) := by
  simp [State.modHome, State.modCoh, Coh.home]

/-! ### Opening a transaction -/

/-- A way that is in use by the line, or a free one, needs no recall. -/
theorem dirRoom_space (s : State) (line : Nat) (h : s.dirEntry line ≠ DirEntry.none ∨ s.dirSpace line = true) :
    s.dirRoom line = some s := by
  unfold State.dirRoom
  rcases h with h | h
  · rw [if_pos (Or.inl h)]
  · split
    · rfl
    · dsimp only
      rw [if_pos]
      simpa only [State.dirSpace, decide_eq_true_eq] using h

/-- A request at a home that can take it up opens at once. -/
theorem request_opens (s : State) (line : Nat) (who : Requester) (req : Req) (hd : s.coh.dead = []) (hw : s.coh.waiting = [])
    (ht : s.txn line = none) (ho : s.openAt (s.homeOf line) < 512) (hT : isTiered (line * 64) = false)
    (hr : req.allocates = true → s.dirRoom line = some s) : s.request line who req = s.openTxn line who req := by
  have h1 : ∀ a, s.isDead a = false := by intro a; simp [State.isDead, hd]
  have h2 : s.lineReady line req = true := by
    cases req <;> simp [State.lineReady, State.readReady, State.writeReady, hT]
  have h3 : s.accept line who req = some (s.openTxn line who req) := by
    unfold State.accept
    have : ¬ 512 ≤ s.openAt (s.homeOf line) := by omega
    simp only [ht, h2, this, Option.isSome_none, decide_false, Bool.false_and, Bool.or_self, Bool.not_true, Bool.false_eq_true, if_false]
    split
    · rename_i ha
      rw [hr ha]
    · rfl
  unfold State.request
  simp only [hw, List.any_nil, Bool.false_eq_true, if_false, h3]
  cases who <;> simp [h1]

/-- The snoops of a transaction, where no agent is dead. -/
theorem snoop_eq (s : State) (line : Nat) (who : Requester) (l : List (Nat × Snp)) (t : Txn) (hd : s.coh.dead = [])
    (ht : s.txn line = some t) :
    s.snoop line who l = { s with coh := { s.coh with
      msgs := s.coh.msgs ++ l.map (fun p => .snp p.2 p.1 line who),
      txns := Table.put none s.coh.txns line (some { t with waits := t.waits ++ l.map (fun p => (p.1, p.2, s.drone + snoopTime)) }) } } := by
  have h1 : ∀ a, s.isDead a = false := by intro a; simp [State.isDead, hd]
  have hf : ∀ (l : List (Nat × Snp)) (s : State), l.foldl (fun s p => s.post (.snp p.2 p.1 line who)) s =
      { s with coh := { s.coh with msgs := s.coh.msgs ++ l.map (fun p => .snp p.2 p.1 line who) } } := by
    intro l
    induction l with
    | nil => intro s; simp
    | cons p t ih => intro s; rw [List.foldl_cons, ih]; simp [State.post, State.modCoh]
  unfold State.snoop
  simp only [h1, Bool.not_false, List.filter_true, hf]
  rw [modTxn_some _ line t _ (by exact ht)]
  rfl

/-- What opening a transaction is, where no agent is dead: the transaction is noted, the snoops go out, and it is served
where none does. -/
theorem openTxn_eq (s : State) (line : Nat) (who : Requester) (req : Req) (hd : s.coh.dead = []) (hT : isTiered (line * 64) = false)
    (hu : req = .upgrade → ((s.dirEntry line).bcast || (s.dirEntry line).ptrs.any (fun a => decide (Requester.agent a = who))) = true) :
    ∃ rs e x m, s.openTxn line who req =
      (({ s with ext := e, extHits := x, extMisses := m, coh := { s.coh with
          reserved := rs, txns := Table.put none s.coh.txns line (some (Txn.fresh who req)),
          homes := (if (snoopsFor (s.dirEntry line) who req).any (fun p => decide (p.2 = .inv)) then s.countBcast line else s).coh.homes } } : State).snoop
        line who (snoopsFor (s.dirEntry line) who req)).finish line := by
  unfold State.openTxn
  generalize hrs : s.coh.reserved.filter _ = rs
  have hdd : (s.modCoh (fun c => { c with reserved := rs })).dropDead line = s.modCoh (fun c => { c with reserved := rs }) := by
    unfold State.dropDead
    have : (s.modCoh (fun c => { c with reserved := rs })).isDead = fun _ => false := by
      funext a; simp [State.isDead, State.modCoh, hd]
    simp [this]
  have hreq : (if req = .upgrade ∧ ¬ ((s.dirEntry line).bcast || (s.dirEntry line).ptrs.any (fun a => decide (Requester.agent a = who))) = true then Req.rdOwn else req) = req := by
    rw [if_neg]; rintro ⟨h, k⟩; exact k (hu h)
  have hrs' : (s.modCoh (fun c => { c with reserved := c.reserved.filter (fun e => !(decide (Requester.agent e.1 = who) && decide (e.2 = line))) })) =
      s.modCoh (fun c => { c with reserved := rs }) := by rw [← hrs]; rfl
  simp only [hrs', hdd]
  have he : (s.modCoh (fun c => { c with reserved := rs })).dirEntry line = s.dirEntry line := rfl
  simp only [he, hreq]
  generalize hl : snoopsFor (s.dirEntry line) who req = l
  have hcb : (if (l.any (fun p => decide (p.2 = .inv))) = true then ((s.modCoh (fun c => { c with reserved := rs })).setTxn line (some (Txn.fresh who req))).countBcast line
      else (s.modCoh (fun c => { c with reserved := rs })).setTxn line (some (Txn.fresh who req))) =
      { s with coh := { s.coh with
          reserved := rs, txns := Table.put none s.coh.txns line (some (Txn.fresh who req)),
          homes := (if l.any (fun p => decide (p.2 = .inv)) then s.countBcast line else s).coh.homes } } := by
    split
    · unfold State.countBcast
      have : ((s.modCoh (fun c => { c with reserved := rs })).setTxn line (some (Txn.fresh who req))).dirEntry line = s.dirEntry line := rfl
      rw [this]
      split <;> rfl
    · rfl
  rw [hcb]
  split
  · obtain ⟨e, x, m, h⟩ := didRead_frame ({ s with coh := { s.coh with
          reserved := rs, txns := Table.put none s.coh.txns line (some (Txn.fresh who req)),
          homes := (if l.any (fun p => decide (p.2 = .inv)) then s.countBcast line else s).coh.homes } } : State) (line * 64) 64 hT
    exact ⟨rs, e, x, m, by rw [h]⟩
  · exact ⟨rs, s.ext, s.extHits, s.extMisses, rfl⟩

/-- A home that can take up a request, as the protocol's own fields say it: no agent is dead, nothing waits, the line has
no transaction, a slot is free, and the line is none of the tiered range. -/
def State.takesUp (s : State) (line : Nat) : Prop :=
  s.coh.dead = [] ∧ s.coh.waiting = [] ∧ s.txn line = none ∧ s.openAt (s.homeOf line) < 512 ∧ isTiered (line * 64) = false

/-- A home that is free can take up a request. -/
theorem State.homeFree_takesUp {s : State} {line : Nat} (h : s.homeFree line) : s.takesUp line := by
  obtain ⟨_, h2, h3, h4, _, h6, _, h8⟩ := h
  exact ⟨h6, h4, h2, h3, h8⟩

/-- A request that meets holders sends its snoops, and waits for their answers. -/
theorem request_snoops (s : State) (line : Nat) (who : Requester) (req : Req) (h : s.takesUp line)
    (hr : req.allocates = true → s.dirRoom line = some s)
    (hu : req = .upgrade → ((s.dirEntry line).bcast || (s.dirEntry line).ptrs.any (fun a => decide (Requester.agent a = who))) = true)
    (hl : snoopsFor (s.dirEntry line) who req ≠ []) :
    ∃ rs e x m, s.request line who req = { s with ext := e, extHits := x, extMisses := m, coh := { s.coh with
      reserved := rs,
      homes := (if (snoopsFor (s.dirEntry line) who req).any (fun p => decide (p.2 = .inv)) then s.countBcast line else s).coh.homes,
      msgs := s.coh.msgs ++ (snoopsFor (s.dirEntry line) who req).map (fun p => .snp p.2 p.1 line who),
      txns := Table.put none s.coh.txns line (some { Txn.fresh who req with
        waits := (snoopsFor (s.dirEntry line) who req).map (fun p => (p.1, p.2, s.drone + snoopTime)) }) } } := by
  obtain ⟨h1, h2, h3, h4, h5⟩ := h
  obtain ⟨rs, e, x, m, ho⟩ := openTxn_eq s line who req h1 h5 hu
  refine ⟨rs, e, x, m, ?_⟩
  rw [request_opens s line who req h1 h2 h3 h4 h5 hr, ho]
  rw [snoop_eq _ line who _ (Txn.fresh who req) (by exact h1) (by simp [State.txn])]
  generalize snoopsFor (s.dirEntry line) who req = l at hl
  rw [finish_waits _ line { Txn.fresh who req with waits := l.map (fun p => (p.1, p.2, s.drone + snoopTime)) }]
  · simp only [Txn.fresh, List.nil_append, Table.put_put]
    rfl
  · simp only [State.txn, Txn.fresh, List.nil_append, Table.get_put_same]
    rfl
  · simpa using hl

/-- A request that meets no holder is served at once. -/
theorem request_served (s : State) (line : Nat) (who : Requester) (req : Req) (h : s.takesUp line)
    (hr : req.allocates = true → s.dirRoom line = some s)
    (hu : req = .upgrade → ((s.dirEntry line).bcast || (s.dirEntry line).ptrs.any (fun a => decide (Requester.agent a = who))) = true)
    (hl : snoopsFor (s.dirEntry line) who req = []) (hd : s.datComing line = false) :
    ∃ rs e x m, ∃ w : State, w = { s with ext := e, extHits := x, extMisses := m, coh := { s.coh with
        reserved := rs, txns := Table.put none s.coh.txns line (some (Txn.fresh who req)) } } ∧
      s.request line who req = if (w.serve line (Txn.fresh who req)).1 then (w.serve line (Txn.fresh who req)).2.closeTxn line
        else (w.serve line (Txn.fresh who req)).2.modTxn line (fun t => { t with answered := true }) := by
  obtain ⟨h1, h2, h3, h4, h5⟩ := h
  obtain ⟨rs, e, x, m, ho⟩ := openTxn_eq s line who req h1 h5 hu
  refine ⟨rs, e, x, m, _, rfl, ?_⟩
  rw [request_opens s line who req h1 h2 h3 h4 h5 hr, ho, hl]
  rw [snoop_eq _ line who _ (Txn.fresh who req) (by exact h1) (by simp [State.txn])]
  simp only [List.any_nil, Bool.false_eq_true, if_false, List.map_nil, List.append_nil, Table.put_put]
  rw [finish_served _ line (Txn.fresh who req) (by simp [State.txn]) rfl rfl rfl (by exact hd)]
  rw [show (Txn.fresh who req).acked = false from rfl, Bool.or_false]
  rfl

/-- A write request's passing of a detector changes the detectors alone. -/
theorem passStream_frame (s : State) (r : Requester) (line : Nat) (full : Bool) : ∃ z, s.passStream r line full = { s with streams := z } := by
  unfold State.passStream
  split
  · split
    · cases full
      · exact streamPart_frame ..
      · exact streamWrite_frame ..
    · exact ⟨s.streams, rfl⟩
  · exact ⟨s.streams, rfl⟩

/-- A home that can take up a request still can when a cache has made room. -/
theorem State.takesUp_room {s u : State} {line : Nat} (h : s.takesUp line) (hr : s.roomOnly u) : u.takesUp line := by
  have : u.openAt (u.homeOf line) = s.openAt (s.homeOf line) := by rw [hr]; rfl
  obtain ⟨_, _, hd, ht, hw, _, _, hx, _⟩ := State.roomOnly_parts hr
  obtain ⟨h1, h2, h3, h4, h5⟩ := h
  exact ⟨hx.trans h1, hw.trans h2, by unfold State.txn; rw [ht]; exact h3, by rw [this]; exact h4, h5⟩

/-- A request of an agent that holds nothing of a line keeps a place for it and asks. -/
theorem askFor_room (s u : State) (a line : Nat) (tr : Transient) (req : Req) (h1 : s.asks (.agent a) line = true)
    (h2 : s.agentFree a line = true) (h3 : (s.line a line).st = .i) (h4 : s.cacheRoom a line false = some u) :
    s.askFor a line tr req = (u.setLine a line { Line.none with tr := tr }).request line (.agent a) req := by
  simp [State.askFor, h1, h2, h3, h4]

end Sys2Proof.Machine
end

