-- ==== Sys2Proof/Laws/Frames.lean ====
section
/-! SUPPORT. What the shared operations over quads, queues, windows, translation units and sync objects change, and
that they change nothing else. -/

namespace Sys2Proof.Machine

/-- A change of one quad changes that quad alone. -/
theorem onlyQuad_modQuad (s : State) (q : Nat) (f : Quad → Quad) : s.onlyQuad q (s.modQuad q f) :=
  ⟨rfl, fun p h => by simp [h]⟩

/-- Changes of one quad add up. -/
theorem onlyQuad_trans {q : Nat} {a b c : State} (h : a.onlyQuad q b) (k : b.onlyQuad q c) : a.onlyQuad q c := by
  obtain ⟨h1, h2⟩ := h; obtain ⟨k1, k2⟩ := k
  refine ⟨?_, fun p hp => (k2 p hp).trans (h2 p hp)⟩
  rw [k1, h1]

/-- A change of one queue changes that queue alone. -/
theorem onlyQueue_modQueue (s : State) (q j : Nat) (f : Queue → Queue) : s.onlyQueue q j (s.modQueue q j f) := by
  refine ⟨onlyQuad_modQuad .., ?_, ?_⟩
  · simp [State.modQueue, Quad.modQueue]
  · intro i h; exact State.queue_modQueue_ne s f (Or.inr h)

/-- Changes of one queue add up. -/
theorem onlyQueue_trans {q j : Nat} {a b c : State} (h : a.onlyQueue q j b) (k : b.onlyQueue q j c) : a.onlyQueue q j c := by
  obtain ⟨h1, h2, h3⟩ := h; obtain ⟨k1, k2, k3⟩ := k
  refine ⟨onlyQuad_trans h1 k1, ?_, fun i hi => (k3 i hi).trans (h3 i hi)⟩
  rw [k2, h2]

/-- A change of one translation unit changes that unit alone. -/
theorem onlyStu_mod (s : State) (u : Nat) (f : Stu → Stu) : s.onlyStu u (s.modStu u f) :=
  ⟨rfl, fun p h => by simp [h]⟩

/-- Changes of one translation unit add up. -/
theorem onlyStu_trans {q : Nat} {a b c : State} (h : a.onlyStu q b) (k : b.onlyStu q c) : a.onlyStu q c := by
  obtain ⟨h1, h2⟩ := h; obtain ⟨k1, k2⟩ := k
  refine ⟨?_, fun p hp => (k2 p hp).trans (h2 p hp)⟩
  rw [k1, h1]

/-- Two changes of one translation unit are one. -/
theorem modStu_modStu (s : State) (u : Nat) (f g : Stu → Stu) : (s.modStu u f).modStu u g = s.modStu u (fun x => g (f x)) := by
  unfold State.modStu State.stu
  simp only [Table.get_put_same]
  rw [Table.put_put]

/-- A change of one window changes that window alone. -/
theorem onlyWindow_mod (s : State) (q w : Nat) (f : Window → Window) : s.onlyWindow q w (s.modWindow q w f) := by
  refine ⟨onlyQuad_modQuad .., ?_, ?_⟩
  · simp [State.modWindow]
  · intro i h; simp [State.modWindow, State.window, Quad.window, h]

/-- Changes of one window add up. -/
theorem onlyWindow_trans {q j : Nat} {a b c : State} (h : a.onlyWindow q j b) (k : b.onlyWindow q j c) : a.onlyWindow q j c := by
  obtain ⟨h1, h2, h3⟩ := h; obtain ⟨k1, k2, k3⟩ := k
  refine ⟨onlyQuad_trans h1 k1, ?_, fun i hi => (k3 i hi).trans (h3 i hi)⟩
  rw [k2, h2]

/-- A bit of a word, read from its number. -/
theorem getLsbD_bit (v : Word) (i : Nat) : v.getLsbD i = bit v.toNat i := by
  simp [bit, BitVec.getLsbD, Nat.testBit, Nat.shiftRight_eq_div_pow]

/-- A refused device access changes no queue and no memory, and is counted. -/
theorem pcieDeny_facts (s : State) (n : Nat) : (∀ a b, (s.pcieDeny n).queue a b = s.queue a b) ∧ (∀ a, (s.pcieDeny n).byte a = s.byte a) ∧
    ((s.pcieDeny n).pciePort n).denied = min 0xFFFFFFFF ((s.pciePort n).denied + 1) := by
  refine ⟨fun a b => ?_, fun a => ?_, ?_⟩
  · simp [State.pcieDeny, State.queue, State.quad]
  · simp [State.pcieDeny, State.byte]
  · simp [State.pcieDeny, State.pciePort, State.modPcie, satAdd]

/-- A FATAL record makes the log fatal. -/
theorem takeFatal_fatal (l : ErrLog) (r : ErrRec) : (l.takeFatal r).fatal = true := by
  unfold ErrLog.takeFatal; split <;> rfl

/-- Sending wakes changes quads alone. -/
theorem wakes_quads (l : List Reg) (s : State) : ∃ z, l.foldl State.wake s = { s with quads := z } := by
  induction l generalizing s with
  | nil => exact ⟨s.quads, rfl⟩
  | cons a l ih => obtain ⟨z, hz⟩ := ih (s.wake a); exact ⟨z, hz⟩

/-- Sending wakes changes no registration, object or sweep. -/
theorem wakes_frame (l : List Reg) (s : State) : (l.foldl State.wake s).regs = s.regs ∧ (l.foldl State.wake s).sync = s.sync ∧ (l.foldl State.wake s).sweepWakes = s.sweepWakes := by
  obtain ⟨z, hz⟩ := wakes_quads l s; rw [hz]; exact ⟨rfl, rfl, rfl⟩

/-- One operation that reaches an object's home changes its value and no other, and no memory. -/
theorem syncArrive_one (obj : Nat) (o : SyncOp) (s : State) (h : s.boot.diesInReset.contains (objDie obj) = false) :
    (s.syncArrive obj o).syncVal obj = applySync o (s.syncVal obj) ∧ (∀ y, y ≠ obj → (s.syncArrive obj o).syncVal y = s.syncVal y) ∧
    (∀ a, (s.syncArrive obj o).byte a = s.byte a) ∧ (s.syncArrive obj o).boot = s.boot := by
  have he : s.syncArrive obj o = s.syncOne obj o := by unfold State.syncArrive; rw [h]; rfl
  rw [he]
  unfold State.syncOne
  obtain ⟨z, hz⟩ := wakes_quads ((s.regsOf (objDie obj)).filter (fun (r : Reg) => decide (r.cond.obj = obj) && r.cond.met (applySync o (s.syncVal obj)) && scopeHasQuad o.scope o.agent r.q))
    { s with sync := Table.put 0 s.sync obj (applySync o (s.syncVal obj)), regs := Table.put [] s.regs (objDie obj) ((s.regsOf (objDie obj)).filter (fun r => !(decide (r.cond.obj = obj) && r.cond.met (applySync o (s.syncVal obj)) && scopeHasQuad o.scope o.agent r.q))) }
  rw [hz]
  refine ⟨?_, ?_, fun _ => rfl, rfl⟩
  · simp [State.syncVal]
  · intro y hy; simp [State.syncVal, hy]

/-- An operation whose way is open reaches its object. -/
theorem syncOp_open (obj : Nat) (o : SyncOp) (s : State) (h : s.syncWay obj o = true) : s.syncOp obj o = s.syncArrive obj o := by
  unfold State.syncOp; rw [h]; rfl

/-- Operations that reach one object apply one after another. -/
theorem syncArrive_all (obj : Nat) (ops : List SyncOp) (s : State) (h : s.boot.diesInReset.contains (objDie obj) = false) :
    (ops.foldl (fun s o => s.syncArrive obj o) s).syncVal obj =
      ops.foldl (fun v o => if o.isSet then o.value else v + o.value) (s.syncVal obj) ∧
    (∀ y, y ≠ obj → (ops.foldl (fun s o => s.syncArrive obj o) s).syncVal y = s.syncVal y) ∧
    ∀ a, (ops.foldl (fun s o => s.syncArrive obj o) s).byte a = s.byte a := by
  induction ops generalizing s with
  | nil => exact ⟨rfl, fun _ _ => rfl, fun _ => rfl⟩
  | cons o ops ih =>
    obtain ⟨a, b, c, d⟩ := syncArrive_one obj o s h
    obtain ⟨i1, i2, i3⟩ := ih (s.syncArrive obj o) (by rw [d]; exact h)
    simp only [List.foldl_cons] at *
    refine ⟨?_, ?_, ?_⟩
    · rw [i1, a]; rfl
    · intro y hy; rw [i2 y hy, b y hy]
    · intro x; rw [i3 x, c x]

/-- Moving out of a wait slot changes quads alone. -/
theorem promoteOne_frame (s : State) (q j : Nat) : ∃ z, s.promoteOne q j = { s with quads := z } := by
  unfold State.promoteOne
  split
  · split
    · exact ⟨_, rfl⟩
    · exact ⟨s.quads, rfl⟩
  · exact ⟨s.quads, rfl⟩

/-- As promoteOne_frame, for every queue. -/
theorem promoteAll_frame (s : State) (q : Nat) : ∃ z, s.promoteAll q = { s with quads := z } := by
  unfold State.promoteAll
  generalize List.range 16 = l
  induction l generalizing s with
  | nil => exact ⟨s.quads, rfl⟩
  | cons a l ih =>
    obtain ⟨z, hz⟩ := promoteOne_frame s q a
    obtain ⟨y, hy⟩ := ih (s.promoteOne q a)
    exact ⟨y, by simp only [List.foldl_cons]; rw [hy, hz]⟩

/-- With no wait slot taken, nothing moves out of one. -/
theorem promoteAll_none (s : State) (q : Nat) (h : ∀ i, (s.queue q i).slot = none) : s.promoteAll q = s := by
  unfold State.promoteAll
  generalize List.range 16 = l
  induction l with
  | nil => rfl
  | cons a l ih => simp only [List.foldl_cons]; rw [show s.promoteOne q a = s by simp [State.promoteOne, h a]]; exact ih

/-- What the end of the one command of a queue leaves, where it asks for no completion entry, interrupt or signal. -/
theorem complete_plain (q j : Nat) (c : Cmd) (s : State) (h1 : (s.queue q j).cmds = [c]) (h2 : (s.queue q j).slot = none)
    (h3 : (s.queue q j).done = c.idx) (h4 : (s.queue q j).ended = []) (h5 : (s.queue q j).state = .running) (h6 : c.status = stOk)
    (h7 : dCpl c.desc = false) (h8 : dIrq c.desc = false) (h9 : signalsOf q c.desc = []) (h10 : ∀ i, (s.queue q i).slot = none) :
    s.onlyQuad q (s.endCmd q j c c.status c.detail) ∧ ((s.endCmd q j c c.status c.detail).queue q j).cmds = [] ∧
    ((s.endCmd q j c c.status c.detail).queue q j).done = c.idx + 1 ∧
    ((s.endCmd q j c c.status c.detail).queue q j).state = .running ∧
    ∀ i, i ≠ j → (s.endCmd q j c c.status c.detail).queue q i = s.queue q i := by
  obtain ⟨r, hr⟩ : ∃ r, s.modQuad q (fun x =>
    { x.modQueue j (fun y => (y.remove c.idx).finish c.idx) with
      reservation := if x.reservation = some (j, c.idx) then none else x.reservation }) = r := ⟨_, rfl⟩
  have hq : r.queue q j = { s.queue q j with cmds := [], done := c.idx + 1, ended := [] } := by
    have hz : r.queue q j = ((s.queue q j).remove c.idx).finish c.idx := by
      rw [← hr]; simp [State.queue, Quad.queue, Quad.modQueue]
    rw [hz]
    simp [Queue.remove, Queue.finish, h1, h2, h3, h4, advanceDone]
  have ho : ∀ i, i ≠ j → r.queue q i = s.queue q i := by
    intro i hi; rw [← hr]; simp [State.queue, Quad.queue, Quad.modQueue, hi]
  have hn : ∀ i, (r.queue q i).slot = none := by
    intro i; by_cases hi : i = j
    · subst hi; rw [hq]; exact h2
    · rw [ho i hi]; exact h10 i
  have he : s.endCmd q j c c.status c.detail = r.modQueue q j Queue.settle := by
    simp [State.endCmd, State.finishCmd, hr, h6, h7, h8, h9, State.syncAll, promoteAll_none r q hn, State.recordFault, stOk, stAborted]
  rw [he]
  refine ⟨onlyQuad_trans (hr ▸ onlyQuad_modQuad ..) (onlyQueue_modQueue ..).1, ?_, ?_, ?_, ?_⟩
  · simp [Queue.settle, hq, h5]
  · simp [Queue.settle, hq, h5]
  · simp [Queue.settle, hq, h5]
  · intro i hi; rw [State.queue_modQueue_ne _ _ (Or.inr hi), ho i hi]

/-- The end of a command with one signal and nothing else applies that signal. -/
theorem endCmd_signal (q j : Nat) (c : Cmd) (s : State) (obj : Nat) (o : SyncOp) (hc : dCpl c.desc = false) (hi : dIrq c.desc = false)
    (hs : signalsOf q c.desc = [(obj, o)]) (hd : s.boot.diesInReset.contains (objDie obj) = false) (hw : s.syncWay obj o = true) :
    (s.endCmd q j c stOk 0).syncVal obj = applySync o (s.syncVal obj) ∧
      (∀ x, x ≠ obj → (s.endCmd q j c stOk 0).syncVal x = s.syncVal x) ∧ ∀ a, (s.endCmd q j c stOk 0).byte a = s.byte a := by
  obtain ⟨r, hr⟩ : ∃ r, s.modQuad q (fun x =>
    { x.modQueue j (fun y => (y.remove c.idx).finish c.idx) with
      reservation := if x.reservation = some (j, c.idx) then none else x.reservation }) = r := ⟨_, rfl⟩
  have hrd : r.boot.diesInReset.contains (objDie obj) = false := by rw [← hr]; exact hd
  have hrw : r.syncWay obj o = true := by rw [← hr]; exact hw
  obtain ⟨a, b, d, _⟩ := syncArrive_one obj o r hrd
  rw [← syncOp_open obj o r hrw] at a b d
  obtain ⟨z, hz⟩ := promoteAll_frame (r.syncOp obj o) q
  have he : s.endCmd q j c stOk 0 = ({ r.syncOp obj o with quads := z } : State).modQueue q j Queue.settle := by
    rw [← hz]
    simp [State.endCmd, State.finishCmd, hr, hc, hi, hs, State.syncAll, State.recordFault, stOk, stAborted]
  rw [he]
  have h1 : ∀ x, r.syncVal x = s.syncVal x := by intro x; rw [← hr]; rfl
  have h2 : ∀ x, r.byte x = s.byte x := by intro x; rw [← hr]; rfl
  refine ⟨?_, ?_, ?_⟩
  · rw [← h1]; exact a
  · intro x hx; rw [← h1]; exact b x hx
  · intro x; rw [← h2]; exact d x

end Sys2Proof.Machine
end

