-- ==== Sys2Proof/Laws/Memory.lean ====
section
/-! SUPPORT. Laws of memory: a read after a write, that a write leaves every other byte alone, and that every memory
operation keeps the canonical form. -/

namespace Sys2Proof.Machine

/-- The bytes of a range inside what was written. -/
theorem State.bytes_setBytes (s : State) (pa : Nat) (bs : List Byte) (o n : Nat) (h : o + n ≤ bs.length) :
    (s.setBytes pa bs).bytes (pa + o) n = (bs.drop o).take n := Table.range_splice memDefault s.mem pa bs o n h

/-- A write leaves every other byte alone. -/
theorem State.byte_setBytes_ne (s : State) (pa : Nat) (bs : List Byte) {a : Nat} (h : a < pa ∨ pa + bs.length ≤ a) :
    (s.setBytes pa bs).byte a = s.byte a := by
  rw [State.byte_setBytes, if_neg (by omega)]

@[simp] theorem State.byte_setPoison (s : State) (i : Nat) (b : Bool) (a : Nat) : (s.setPoison i b).byte a = s.byte a := rfl

/-- Clearing poison changes no byte. -/
@[simp] theorem State.mem_clearWhole (s : State) (pa n : Nat) : (s.clearWhole pa n).mem = s.mem := by
  simp only [State.clearWhole]; split <;> rfl

/-- Every write keeps the canonical form. -/
theorem State.wf_setBytes {s : State} (pa : Nat) (bs : List Byte) (h : Memory.wf s.mem = true) :
    Memory.wf (s.setBytes pa bs).mem = true := Table.wf_splice memDefault pa bs h

theorem State.wf_clearWhole {s : State} (pa n : Nat) (h : Memory.wf s.mem = true) :
    Memory.wf (s.clearWhole pa n).mem = true := by rw [State.mem_clearWhole]; exact h

/-- A write cut at sector ends keeps the canonical form. -/
theorem State.wf_writeMem {s : State} (pa : Nat) (bs : List Byte) (h : Memory.wf s.mem = true) :
    Memory.wf (s.writeMem pa bs).mem = true := by
  unfold State.writeMem
  dsimp only
  split
  · split
    · exact h
    · exact State.wf_setBytes _ _ (State.wf_clearWhole _ _ h)
  · have h1 := State.wf_setBytes (ceilDiv pa 64 * 64)
      ((bs.drop (ceilDiv pa 64 * 64 - pa)).take ((pa + bs.length) / 64 * 64 - ceilDiv pa 64 * 64))
      (State.wf_clearWhole (ceilDiv pa 64 * 64) ((pa + bs.length) / 64 * 64 - ceilDiv pa 64 * 64) h)
    split <;> split <;> first | exact h1 | exact State.wf_setBytes _ _ h1 | exact State.wf_setBytes _ _ (State.wf_setBytes _ _ h1)

/-- Making a range undefined keeps the canonical form. -/
theorem State.wf_scramble {s : State} (pa n : Nat) (h : Memory.wf s.mem = true) :
    Memory.wf (s.scramble pa n).mem = true := State.wf_setBytes _ _ h

/-- Zeroing a range keeps the canonical form. -/
theorem State.wf_zeroMem {s : State} (pa n : Nat) (h : Memory.wf s.mem = true) :
    Memory.wf (s.zeroMem pa n).mem = true := Table.wf_drop memDefault pa n h

/-- Filling a tile keeps the canonical form. -/
theorem State.wf_fillZero {s : State} (t : Nat) (h : Memory.wf s.mem = true) :
    Memory.wf (s.fillZero t).mem = true := Table.wf_drop memDefault _ _ h

theorem State.wf_fillFromFlash {s : State} (t : Nat) (h : Memory.wf s.mem = true) :
    Memory.wf (s.fillFromFlash t).mem = true := State.wf_setBytes _ _ h

/-- The boot fill leaves the canonical form. -/
theorem State.wf_fillMemory (s : State) : Memory.wf s.fillMemory.mem = true := rfl

/-- A slice put in place of what stood there keeps the canonical form. -/
theorem Table.wf_patch {α : Type} [DecidableEq α] (d : α) {t p : Table α} (lo n : Nat) (h : Table.wf d t = true)
    (hp : Table.wf d p = true) (hb : ∀ e ∈ p, lo ≤ e.1 ∧ e.1 < lo + n) : Table.wf d (t.patch lo n p) = true := by
  refine Table.wf_append d lo (Table.wf_filter d _ h) (Table.wf_append d (lo + n) hp (Table.wf_filter d _ h)
    (fun e he => (hb e he).2) (fun e he => (Table.mem_from he).2)) (fun e he => (Table.mem_below he).2) ?_
  intro e he
  rcases List.mem_append.mp he with he | he
  · exact (hb e he).1
  · have := (Table.mem_from he).2; omega

end Sys2Proof.Machine
end

