-- ==== Sys2Proof/Laws/Runs.lean ====
section
/-! SUPPORT. What a run of a command's body leaves, by what its parts answer. -/

namespace Sys2Proof.Machine

/-- The number of chunks. -/
theorem chunks_len {α : Type} (k n : Nat) (l : List α) : (chunks k n l).length = n := by
  induction n generalizing l with
  | zero => rfl
  | succ n ih => simp [chunks, ih]

/-- A chunk of a list. -/
theorem chunks_get {α : Type} (k n i : Nat) (l : List α) (h : i < n) : (chunks k n l)[i]? = some ((l.drop (k * i)).take k) := by
  induction n generalizing l i with
  | zero => omega
  | succ n ih =>
    cases i with
    | zero => simp [chunks]
    | succ i => simp [chunks]; rw [ih i _ (by omega)]; simp [List.drop_drop, Nat.mul_add, Nat.add_comm]

/-- The chunks of a list make the list. -/
theorem chunks_flatten {α : Type} (k n : Nat) (l : List α) (h : l.length ≤ k * n) : (chunks k n l).flatten = l := by
  induction n generalizing l with
  | zero => simp at h; subst h; rfl
  | succ n ih => simp [chunks]; rw [ih _ (by simp; rw [Nat.mul_succ] at h; omega)]; simp

/-- The valid bytes of a synthesised record. -/
theorem field_synth (f v i : Nat) (h : v ≤ 4096) : field (synthRec f v i) 4 2 = v := by
  have hl : (leBytes 1 f ++ leBytes 1 0x20 ++ leBytes 1 (tileH f) ++ leBytes 1 (tileW f)).length = 4 := by simp [leBytes]
  simp [field, synthRec, withCrc, recBody, leBytes, ofLe]
  omega

/-- A synthesised record keeps all its data. -/
theorem valid_synth (f i : Nat) (d : List Byte) (h : d.length ≤ 4096) : d.take (field (synthRec f d.length i) 4 2) = d := by
  rw [field_synth _ _ _ h]; simp

/-- Tiles with synthesised records carry their data. -/
theorem pairs_eq (f : Nat) (l : List (List Byte)) (h : ∀ x ∈ l, x.length ≤ 4096) :
    (l.zipIdx.map (fun (p : List Byte × Nat) => Tile0.mk (synthRec f p.1.length p.2) p.1 [])).map (fun t => t.pair.1) = l := by
  rw [List.map_map]
  have : ∀ p ∈ l.zipIdx, ((fun (t : Tile0) => t.pair.1) ∘ (fun (p : List Byte × Nat) => Tile0.mk (synthRec f p.1.length p.2) p.1 [])) p = p.1 := by
    intro p hp
    have hm : p.1 ∈ l := by
      have := List.mem_zipIdx hp; rw [this.2.2]; exact List.getElem_mem _
    simp [Tile0.pair, Tile0.valid, valid_synth, h _ hm]
  rw [List.map_congr_left this]; simp

/-- All chunks but the last are whole. -/
theorem chunks_full (n : Nat) (l : List Byte) (_h : True) (hn : 4096 * (n - 1) ≤ l.length) :
    ((chunks 4096 n l).dropLast).all (fun t => decide (t.length = 4096)) = true := by
  induction n generalizing l with
  | zero => rfl
  | succ n ih =>
    cases n with
    | zero => rfl
    | succ n =>
      have := ih (l.drop 4096) (by simp; omega)
      simp only [chunks, List.dropLast_cons_of_ne_nil (List.cons_ne_nil _ _), List.all_cons] at this ⊢
      simp only [this, Bool.and_true, decide_eq_true_eq, List.length_take]
      omega

/-- What a move without the Crook and without records carries. -/
theorem moved_plain (q j : Nat) (c : Cmd) (a : Extent) (s : State) (hr : onRoute c.desc stCrook = false) (e0 : c.ext 0 = some a)
    (e8 : c.ext 8 = none) (r4 : s.readPoison a.coherent a.pa a.len = false) :
    ∃ ts, RunIn.moved ⟨q, j, c, none⟩ s = .ok ts (s.didRead a.pa a.len) ∧
      ts.map Prod.fst = chunks 4096 (((s.readPhys a.coherent a.pa a.len).length + 4095) / 4096) (s.readPhys a.coherent a.pa a.len) := by
  refine ⟨_, by simp [RunIn.moved, RunIn.d, hr, RunIn.tiles, e0, e8, RunIn.readExt, r4, Run.andThen]; rfl, ?_⟩
  have := pairs_eq (mFmt c.desc) (cutTiles (s.readPhys a.coherent a.pa a.len)) (by
    intro x hx
    obtain ⟨i, hi⟩ := List.mem_iff_getElem?.mp hx
    have hlt : i < ceilDiv (s.readPhys a.coherent a.pa a.len).length 4096 := by
      have h2 := List.getElem?_eq_some_iff.mp hi
      obtain ⟨h3, _⟩ := h2
      simpa [cutTiles, chunks_len] using h3
    rw [cutTiles, chunks_get _ _ _ _ hlt] at hi
    simp at hi; subst hi; simp)
  simpa [List.map_map, Function.comp_def, cutTiles, ceilDiv] using this

/-- Steps that each leave the state leave it together. -/
theorem runAll_same {α β : Type} (f : α → State → Run β) (l : List α) (s : State) {b : β} (h : ∀ i ∈ l, f i s = .ok b s) : ∃ u, runAll f l s = .ok u s := by
  induction l with
  | nil => exact ⟨[], rfl⟩
  | cons a l ih =>
    obtain ⟨u, hu⟩ := ih (fun i hi => h i (by simp [hi]))
    exact ⟨b :: u, by simp [runAll, h a (by simp), Run.andThen, hu]⟩

/-- Extents that are ready need no wait. -/
theorem askAll_ok (r : RunIn) (ask : RunIn → Extent → State → Run Unit) (l : List Nat) (s : State)
    (h : ∀ o ∈ l, ∀ e, r.c.ext o = some e → ask r e s = .ok () s) : ∃ u, r.askAll ask l s = .ok u s := by
  refine runAll_same _ _ s (b := ()) (fun e he => ?_)
  obtain ⟨o, ho, hx⟩ := List.mem_filterMap.mp he
  exact h o ho e hx

/-- Sources and destinations that are ready need no wait. -/
theorem askBoth_ready (r : RunIn) (a b : List Nat) (s : State) (h : r.allReady a b s) : ∃ u, r.askBoth a b s = .ok u s := by
  obtain ⟨u, hu⟩ := askAll_ok r RunIn.askRead a s (fun o ho e he => by
    obtain ⟨h1, h2, h3⟩ := h.1 o ho e he; simp [RunIn.askRead, h1, h2, h3])
  obtain ⟨v, hv⟩ := askAll_ok r RunIn.askWrite b s (fun o ho e he => by
    obtain ⟨h1, h2, h3⟩ := h.2 o ho e he; simp [RunIn.askWrite, h1, h2, h3])
  exact ⟨v, by simp [RunIn.askBoth, hu, Run.andThen, hv]⟩

/-- A command whose body answers a result leaves its stations by it. -/
theorem runCmd_ok {q j : Nat} {idx : Word} {op : Nat} {c : Cmd} {s u : State} {f : RunIn → State → Run RunOut} {o : RunOut}
    (h : s.underway q j idx op c) (hf : f ⟨q, j, c, none⟩ s = .ok o u) : s.runCmd q j idx op f = (u.doneCmd q j c o).pump q := by
  obtain ⟨h1, h2, h3, h4, h5⟩ := h
  simp [State.runCmd, h1, h2, h3, h4, h5, hf]

/-- A command whose body fails breaks its run. -/
theorem runCmd_fail {q j : Nat} {idx : Word} {op : Nat} {c : Cmd} {s u : State} {f : RunIn → State → Run RunOut} {st : Nat} {det : Dword}
    (h : s.underway q j idx op c) (hf : f ⟨q, j, c, none⟩ s = .fail u st det) : s.runCmd q j idx op f = u.breakRun q j c f st det := by
  obtain ⟨h1, h2, h3, h4, h5⟩ := h
  simp [State.runCmd, h1, h2, h3, h4, h5, hf]

/-- A run without a limit leaves all of what it writes. -/
@[simp] theorem leave_all (r : RunIn) (order : List Nat) (ps : List (List Byte)) (s : State) (h : r.limit = none) :
    r.leave order ps s = (ps, s) := by simp [RunIn.leave, h]

/-- A run without a limit does all of an amount. -/
@[simp] theorem part_all (r : RunIn) (n : Nat) (s : State) (h : r.limit = none) : r.part n s = (n, s) := by
  simp [RunIn.part, h]

/-- All tiles leave a run without a limit. -/
@[simp] theorem gone_all {α : Type} (r : RunIn) (order : List Nat) (ts : List α) (h : r.limit = none) : r.gone order ts = ts := by
  simp [RunIn.gone, h]

/-- All tiles that leave a run without a limit count. -/
@[simp] theorem left_all (r : RunIn) (n : Nat) (h : r.limit = none) : r.left n = n := by simp [RunIn.left, h]

/-- What follows the tiles is written whole by a run without a limit. -/
@[simp] theorem side_all (r : RunIn) (off : Nat) (bs : List Byte) (s : State) (h : r.limit = none) : r.side off bs s = r.write off bs s := by
  simp [RunIn.side, h]

/-- A result that lands at the Bell. -/
theorem sink_bell (r : RunIn) (order : List Nat) (a b : Nat) (ts : List (OutTile × List Byte)) (s : State) (e : Extent)
    (hn : r.limit = none) (hb : toBell r.c.desc = true) (h : r.c.ext a = some e) (h2 : r.c.ext b = none) (hl : s.canLand e ts) :
    r.sink order a b ts s = .ok [] (s.writeHinted (r.q / 16) (stashOf r.c.stash) e.coherent e.pa ((tileBytesOf ts).take e.len)) := by
  have hb' : toBell r.d = true := hb
  have hf : (ts.map (fun p => p.1.data)).flatten = tileBytesOf ts := by simp [tileBytesOf, List.flatMap]
  have hl' : s.writePoison e.coherent e.pa ((tileBytesOf ts).take e.len).length = false := hl
  simp only [RunIn.sink, hb', if_true, leave_all _ _ _ _ hn, RunIn.write, h, h2, RunIn.writeExt, hn, hf, hl',
    Bool.and_false, Bool.false_eq_true, if_false, Run.andThen]

/-- A product without a Reed lands at the Bell. -/
theorem finish_plain (r : RunIn) (fc m n : Nat) (vecs grads : Bool) (x : Int) (p : List (List (Fp × Bool))) (a b : Nat)
    (counts : List (Nat × Nat)) (s : State) (e : Extent) (hn : r.limit = none) (hb : toBell r.c.desc = true)
    (hr : reedOf r.c.desc = none)
    (h : r.c.ext a = some e) (h2 : r.c.ext b = none) (ts : List (OutTile × List Byte))
    (ht : (if vecs then r.packVectors fc (p.map (List.map (fun y => y.1.scale x))) (p.map (List.map Prod.snd)) s
           else r.packMatrix fc m n (p.map (List.map (fun y => y.1.scale x))) (p.map (List.map Prod.snd)) s) = ts)
    (hl : (if grads then s.countGrads r.q (ts.map Prod.fst) else s).canLand e ts) :
    r.finish fc m n vecs grads x p a b counts s = .ok ⟨ts.length, [], counts ++ [(stBell, ts.length)]⟩
      ((if grads then s.countGrads r.q (ts.map Prod.fst) else s).writeHinted (r.q / 16) (stashOf r.c.stash) e.coherent e.pa
        ((tileBytesOf ts).take e.len)) := by
  have hb' : toBell r.d = true := hb
  have hr' : reedOf r.d = none := hr
  simp only [RunIn.finish, RunIn.throughReed, hr', Run.andThen, ht, gone_all _ _ _ hn, sink_bell r _ a b ts _ e hn hb h h2 hl, RunIn.atSink,
    left_all _ _ hn, bellCount, hb', if_true, List.append_nil]

/-- What a command leaves whose tiles land. -/
theorem landed_ex {q j : Nat} {idx : Word} {op : Nat} {c : Cmd} {s v : State} {f : RunIn → State → Run RunOut} {e : Extent}
    {ts : List (OutTile × List Byte)} (h : s.underway q j idx op c)
    (hf : ∃ counts, f ⟨q, j, c, none⟩ s = .ok ⟨ts.length, [], counts⟩
      (v.writeHinted (q / 16) (stashOf c.stash) e.coherent e.pa ((tileBytesOf ts).take e.len))) :
    ∃ counts, (Host.Outcome.next (s.runCmd q j idx op f) : Host.Outcome State Fault Refusal) = .next (RunIn.landed ⟨q, j, c, none⟩ e ts counts v) := by
  obtain ⟨counts, hf⟩ := hf
  exact ⟨counts, congrArg _ (runCmd_ok h hf)⟩

/-- What a command leaves whose body has no destination. -/
theorem fin_ex {q j : Nat} {idx : Word} {op : Nat} {c : Cmd} {s v : State} {f : RunIn → State → Run RunOut} {n : Nat} (h : s.underway q j idx op c)
    (hf : ∃ counts, f ⟨q, j, c, none⟩ s = .ok ⟨n, [], counts⟩ v) :
    ∃ counts, (Host.Outcome.next (s.runCmd q j idx op f) : Host.Outcome State Fault Refusal) = .next ((v.doneCmd q j c ⟨n, [], counts⟩).pump q) := by
  obtain ⟨counts, hf⟩ := hf
  exact ⟨counts, congrArg _ (runCmd_ok h hf)⟩

end Sys2Proof.Machine
end

