-- ==== Sys2Proof/Tests/Slice0.lean ====
section
/-! SUPPORT. Tests: the smoke test of the well-formedness checks, decoding, one step of every kind, and for every
statement with hypotheses a concrete state and operands that meet them. -/

open Sys2Proof Sys2Proof.Machine

namespace Sys2Proof.Tests

set_option Elab.async false

/-! ### States to test on -/

/-- A package whose boot is done. -/
def up : State := { State.reset with boot := { Boot.reset with done := true, stage := 15, hostHeld := false } }

/-- A package whose boot is done and whose management semaphore MGMT_A holds. -/
def held : State := up.modCfg (fun c => { c with holder := 1, leaseEnd := 10000000000 })

/-- A descriptor from fields: offset, bytes, value. -/
def desc (l : List (Nat × Nat × Nat)) : List Byte :=
  l.foldl (fun d f => d.take f.1 ++ leBytes f.2.1 f.2.2 ++ d.drop (f.1 + f.2.1)) (List.replicate 128 0)

/-- An extent of direct HBM, not coherent. -/
def ext (pa len : Nat) : Extent := ⟨0, pa, len, false, 1, 0, 0, 0⟩

/-- A command of index 0 that has started. -/
def cmd (d : List Byte) (exts : Table Extent) : Cmd :=
  { idx := 0, desc := d, stamp := 0, phase := .running, exts := exts, prog := [], dest := .reset, stash := 0, conds := [],
    deadline := none, late := false, held := [(stIntake, 1)], ran := false, status := 0, detail := 0, tiles := 0, unsent := [],
    passes := [], redecode := false, withdrawn := false, migrating := [], failedAt := none }

/-- A package whose queue 0 of quad 0 runs commands. -/
def withCmds (l : List Cmd) : State := up.modQueue 0 0 (fun x => { x with enable := true, state := .running, cmds := l })

/-- The first byte of die C0's direct HBM. -/
def hbm0 : Nat := 0x080000000000

/-- A segment of context 0 over die C0's direct HBM: 2 MiB at virtual address 0, read and write. -/
def seg0 : Seg := { valid := true, vbase := 0, pbase := hbm0, len2m := 1, attr := 3, gen := 1 }

/-- A package with that segment. -/
def mapped : State := up.modStu 0 (fun t => t.setSeg 0 0 seg0)

/-- What a command left, or the state before it. -/
def ran (c : Instr) (s : State) : State := s.after (exec c s)

/-! ### Well-formedness: terms at the edge of every range, and for every check a term that it refuses -/

/-- A packet from its fields, with n bytes of data and r bytes of record. -/
def packetOf (tag : Nat) (dest src : Coords) (dq w off sq n r : Nat) : Packet :=
  ⟨.data, .n, false, false, tag, dest, src, dq, w, 7, off, sq, 0, List.replicate n 0, List.replicate r 0⟩

theorem test_wf_edges_0 : ([.doorbell (.core 127) 63 15 0,
    .queueCtrlWrite (.core 127) 63 15 0,
    .queueHeadWrite (.core 127) 63 15 0,
    .queueAbort (.core 127) 63 15,
    .queueResume (.core 127) 63 15,
    .descriptorFetch 63,
    .commandDecode 63 15,
    .segLookupMiss 63 4095 281474976710655,
    .commandStart 63,
    .stationRelease 63 15 0 9,
    .commandComplete 63 15 0,
    .move 63 15 0,
    .gemm 63 15 0,
    .gemmT 63 15 0,
    .gemv 63 15 0,
    .gatherPool 63 15 0,
    .scatterAdd 63 15 0,
    .vecop 63 15 0,
    .normBack 63 15 0,
    .softmaxBack 63 15 0,
    .send 63 15 0,
    .inlineSend 63 15 0,
    .signal 63 15 0,
    .wait 63 15 0,
    .fence 63 15 0] : List Instr).all Instr.wf = true := by decide +kernel

theorem test_wf_edges_1 : ([.prefetchHint 63 15 0,
    .migrate 63 15 0,
    .wakeArrive 63 15 0,
    .waitTimeout 63 15 0,
    .sweepWake 3,
    .syncObjectOp 3 4095 [],
    .dieSyncAdd (.core 127) 3 4095 .dword 0,
    .dieSyncSet (.core 127) 3 4095 .dword 0,
    .replayUnit 63 15 0 9 0 6,
    .sectorAdd ⟨63, 15, 0, 2 ^ 48 - 1⟩ 255 0 [] false,
    .segRead (.core 127) 1 4095 15,
    .segInstall (.core 127) 1 4095 15,
    .segWithdraw (.core 127) 1 4095 15,
    .segOpDone 1,
    .withdrawDrained 1,
    .faultRetry (.core 127) 1 63,
    .faultFail (.core 127) 1 63,
    .windowCtrlWrite (.core 127) 63 31 0,
    .windowCounterWrite (.core 127) 63 31 .bytesLo 0,
    .packetDeliver (packetOf 65535 ⟨1023, 1023, 1023⟩ ⟨0, 0, 0⟩ 255 31 0xFFFFFFFFFFFF 255 0 0),
    .packetForward 6 (packetOf 65535 ⟨1023, 1023, 1023⟩ ⟨0, 0, 0⟩ 255 31 0xFFFFFFFFFFFF 255 0 0),
    .ackReceive 63 65535,
    .nackReceive 63 65535 0,
    .packetDeadline 63 65535,
    .flitReceive 5 ⟨15, 15, 4095, 4095, 15, 255, List.replicate 245 0, 0⟩] : List Instr).all Instr.wf = true := by decide +kernel

theorem test_wf_edges_2 : ([.replayRequest 5,
    .replayTimeout 5,
    .linkLaneFail 5 .tx 16,
    .linkRetrainTimeout 5,
    .linkTrainRetry 5,
    .linkTrained 5 ⟨1023, 1023, 1023⟩ 6,
    .axlFiCtrlWrite (.core 127) 5 0,
    .bridgeLaneFail 11 false,
    .bridgeRetrainStart 11,
    .bridgeRetrainDone 11,
    .bridgeRetrainLong 11,
    .bridgeLost 11,
    .clockFault .refLost,
    .rdShared 129 4398046511103,
    .rdOwn 129 4398046511103,
    .upgrade 129 4398046511103,
    .rdOnce (.agent 129) 4398046511103,
    .wrFull (.agent 129) 4398046511103 (List.replicate 64 0) (.l2 127),
    .wrPart (.agent 129) 4398046511103 0 (List.replicate 64 0),
    .atomic (.agent 129) 4398046511103 (.amo 56 true .add 0),
    .cmo (.agent 129) 4398046511103 .clean,
    .snpShr 129 4398046511103,
    .snpOwn 129 4398046511103,
    .snpInv 129 4398046511103,
    .snpOnce 129 4398046511103] : List Instr).all Instr.wf = true := by decide +kernel

theorem test_wf_edges_3 : ([.snpCln 129 4398046511103,
    .rspState 129 4398046511103,
    .rspInwb 129 4398046511103,
    .cmp (.agent 129) 4398046511103,
    .cmpAck 129 4398046511103,
    .retry 129 4398046511103,
    .grant 129 4398046511103,
    .wbAck 129 4398046511103,
    .datHome (.agent 129) 4398046511103,
    .datFwd 129 4398046511103,
    .datSnp 129 4398046511103,
    .datInstall 129 4398046511103,
    .wbDirty 129 4398046511103,
    .wbClean 129 4398046511103,
    .wbMove 129 4398046511103,
    .snoopTimeout 129 4398046511103,
    .amo 127 ⟨2 ^ 48 - 1, .pma⟩ false .add 0,
    .amocas 127 ⟨2 ^ 48 - 1, .pma⟩ 16 0 0,
    .lr 127 ⟨2 ^ 48 - 1, .pma⟩ false,
    .sc 127 ⟨2 ^ 48 - 1, .pma⟩ false 0,
    .lrReservationExpire 127,
    .cboClean 127 281474976710655 .pma,
    .cboFlush 127 281474976710655 .pma,
    .cboInval 127 281474976710655 .pma none,
    .cboZero 127 281474976710655 .pma] : List Instr).all Instr.wf = true := by decide +kernel

theorem test_wf_edges_4 : ([.prefetchR 127 281474976710655 .pma,
    .prefetchW 127 281474976710655 .pma,
    .timerCompare 127,
    .streamRunTimeout 143 3,
    .extErrorWindowExpire 3 15,
    .scrubRead 281474976710655 .clean,
    .promotionLands ⟨2 ^ 31 - 1, 9⟩,
    .writeGroupTimeout 63,
    .pageProgrammed 63,
    .programFailure 63,
    .garbageCollection ⟨63, true⟩,
    .mapCheckpoint 1,
    .objectTableWrite (.core 127) 4095 0,
    .objectEvictDone,
    .schedEnableWrite (.core 127) 0,
    .schedTailWrite (.core 127) 0,
    .schedEntryActivate,
    .protectionExpire 2147483647,
    .regionLoad (.core 127) 2047,
    .regionErase (.core 127) 2047,
    .regionOpDone [(63, 3)],
    .droneSyncExchange 0 0 0 0,
    .droneLoad 0 0 0 0,
    .rootElection [],
    .droneFreeRun] : List Instr).all Instr.wf = true := by decide +kernel

theorem test_wf_edges_5 : ([.stepBoundaryPush (.core 127) 0,
    .stepBoundary [],
    .suspicionDecay,
    .pwrModeWrite (.core 127) 0,
    .modeStep 3,
    .modeChangeAbandon,
    .energyInterval [],
    .droopTrip 7,
    .droopRelease 7,
    .vrAlert 7,
    .floorExit,
    .thermalSample ⟨List.replicate 8 (0, 0), List.replicate 16 0, List.replicate 8 0⟩,
    .thermalTrip 7 255 255,
    .ceMergeExpire 7 63,
    .recordToLog,
    .errLogCtrlWrite (.core 127) 0,
    .errLogReadWrite (.core 127) 0,
    .getInfo (.core 127),
    .regRead (.core 127) 4294967295 0,
    .regWrite (.core 127) 4294967295 [],
    .semAcquire (.core 127),
    .semRenew (.core 127),
    .semRelease (.core 127),
    .leaseExpire,
    .txnBegin (.core 127)] : List Instr).all Instr.wf = true := by decide +kernel

theorem test_wf_edges_6 : ([.txnStage (.core 127) [⟨255, 255, 65535, 0⟩],
    .txnRead (.core 127),
    .txnCommit (.core 127),
    .txnRollback (.core 127),
    .txnAutoRollback,
    .txnQuiet,
    .txnApply,
    .storeRead (.core 127) 4294967295 0,
    .storeErase (.core 127) 1,
    .storeWrite (.core 127) 1 4294967295 [],
    .storeFinish (.core 127) 1 0 (List.replicate 64 0),
    .logRead (.core 127) (.staging 7),
    .attest (.core 127) (List.replicate 32 0),
    .getCert (.core 127),
    .keyFuse (.core 127) 3 (List.replicate 64 0) 3 [],
    .keyRevoke (.core 127) 3 3 [],
    .keySvnRaise (.core 127) 64 3 [],
    .debug (.core 127) 127 (.csrWrite 4095 0),
    .packageReset (.ctrl (.pcie 1)),
    .computeDieReset (.core 127) 3,
    .hostComplexReset (.ctrl .mgmtA),
    .hostResetRelease,
    .quadReset (.core 127) 63,
    .dieResetDone 3 (List.replicate 18 true),
    .bootStage ⟨15, 255, [71]⟩] : List Instr).all Instr.wf = true := by decide +kernel

theorem test_wf_edges_7 : ([.rstCauseFatalClear (.core 127),
    .ethQpDb (.core 127) 1 0,
    .qpMove (.core 127) 1 0,
    .qpMoveError (.core 127) 1 8191,
    .wqeWrite 1 8191,
    .wqeRead 1 8191,
    .wqeSend 1 8191,
    .rdmaNakReceive 1 8191 .remoteAccess,
    .rdmaWriteIn 3 ⟨8191, 0, 0, 0x80000000, 0, [], true⟩,
    .rdmaReadIn 3 8191 0 4294967295 0,
    .rdmaSendIn 3 8191 [],
    .pcieMemRequest 1 (.msi 127 true 2047),
    .counterLoRead (.core 127) 4294967295,
    .rcRegisterRead (.core 127) 4294967295,
    .registerWrite (.core 127) 4294967295 0,
    .packageResetRelease 0,
    .hostLoad 127 ⟨2 ^ 48 - 1, .pma⟩ 64 ⟨.scalar, none⟩,
    .hostStore 127 281474976710655 (.bytes (List.replicate 64 0)) .pma,
    .marginWarning 63,
    .lrSnoopDelayEnd 127,
    .rdmaResponseReceive 1 8191 [],
    .rdmaAckTimeout 1 8191,
    .pfcPauseReceive 3 0 0,
    .cnpReceive 3 8191,
    .bypassReadDone ⟨2 ^ 31 - 1, 9⟩] : List Instr).all Instr.wf = true := by decide +kernel

theorem test_wf_refuses_0 : ([.doorbell (.core 128) 63 15 0,
    .doorbell (.core 127) 64 15 0,
    .doorbell (.core 127) 63 16 0,
    .queueCtrlWrite (.core 128) 63 15 0,
    .queueCtrlWrite (.core 127) 64 15 0,
    .queueCtrlWrite (.core 127) 63 16 0,
    .queueHeadWrite (.core 128) 63 15 0,
    .queueHeadWrite (.core 127) 64 15 0,
    .queueHeadWrite (.core 127) 63 16 0,
    .queueAbort (.core 128) 63 15,
    .queueAbort (.core 127) 64 15,
    .queueAbort (.core 127) 63 16,
    .queueResume (.core 128) 63 15,
    .queueResume (.core 127) 64 15,
    .queueResume (.core 127) 63 16,
    .descriptorFetch 64,
    .commandDecode 64 15,
    .commandDecode 63 16,
    .segLookupMiss 64 4095 281474976710655,
    .segLookupMiss 63 4096 281474976710655,
    .segLookupMiss 63 4095 281474976710656,
    .commandStart 64,
    .stationRelease 64 15 0 9,
    .stationRelease 63 16 0 9,
    .stationRelease 63 15 0 10] : List Instr).any Instr.wf = false := by decide +kernel

theorem test_wf_refuses_1 : ([.commandComplete 64 15 0,
    .commandComplete 63 16 0,
    .move 64 15 0,
    .move 63 16 0,
    .gemm 64 15 0,
    .gemm 63 16 0,
    .gemmT 64 15 0,
    .gemmT 63 16 0,
    .gemv 64 15 0,
    .gemv 63 16 0,
    .gatherPool 64 15 0,
    .gatherPool 63 16 0,
    .scatterAdd 64 15 0,
    .scatterAdd 63 16 0,
    .vecop 64 15 0,
    .vecop 63 16 0,
    .normBack 64 15 0,
    .normBack 63 16 0,
    .softmaxBack 64 15 0,
    .softmaxBack 63 16 0,
    .send 64 15 0,
    .send 63 16 0,
    .inlineSend 64 15 0,
    .inlineSend 63 16 0,
    .signal 64 15 0] : List Instr).any Instr.wf = false := by decide +kernel

theorem test_wf_refuses_2 : ([.signal 63 16 0,
    .wait 64 15 0,
    .wait 63 16 0,
    .fence 64 15 0,
    .fence 63 16 0,
    .prefetchHint 64 15 0,
    .prefetchHint 63 16 0,
    .migrate 64 15 0,
    .migrate 63 16 0,
    .wakeArrive 64 15 0,
    .wakeArrive 63 16 0,
    .waitTimeout 64 15 0,
    .waitTimeout 63 16 0,
    .sweepWake 4,
    .syncObjectOp 4 4095 [],
    .syncObjectOp 3 4096 [],
    .dieSyncAdd (.core 128) 3 4095 .dword 0,
    .dieSyncAdd (.core 127) 4 4095 .dword 0,
    .dieSyncAdd (.core 127) 3 4096 .dword 0,
    .dieSyncSet (.core 128) 3 4095 .dword 0,
    .dieSyncSet (.core 127) 4 4095 .dword 0,
    .dieSyncSet (.core 127) 3 4096 .dword 0,
    .replayUnit 64 15 0 9 0 6,
    .replayUnit 63 16 0 9 0 6,
    .replayUnit 63 15 0 10 0 6] : List Instr).any Instr.wf = false := by decide +kernel

theorem test_wf_refuses_3 : ([.replayUnit 63 15 0 9 0 7,
    .sectorAdd ⟨64, 0, 0, 0⟩ 255 0 [] false,
    .sectorAdd ⟨63, 15, 0, 2 ^ 48 - 1⟩ 256 0 [] false,
    .segRead (.core 128) 1 4095 15,
    .segRead (.core 127) 2 4095 15,
    .segRead (.core 127) 1 4096 15,
    .segRead (.core 127) 1 4095 16,
    .segInstall (.core 128) 1 4095 15,
    .segInstall (.core 127) 2 4095 15,
    .segInstall (.core 127) 1 4096 15,
    .segInstall (.core 127) 1 4095 16,
    .segWithdraw (.core 128) 1 4095 15,
    .segWithdraw (.core 127) 2 4095 15,
    .segWithdraw (.core 127) 1 4096 15,
    .segWithdraw (.core 127) 1 4095 16,
    .segOpDone 2,
    .withdrawDrained 2,
    .faultRetry (.core 128) 1 63,
    .faultRetry (.core 127) 2 63,
    .faultRetry (.core 127) 1 64,
    .faultFail (.core 128) 1 63,
    .faultFail (.core 127) 2 63,
    .faultFail (.core 127) 1 64,
    .windowCtrlWrite (.core 128) 63 31 0,
    .windowCtrlWrite (.core 127) 64 31 0] : List Instr).any Instr.wf = false := by decide +kernel

theorem test_wf_refuses_4 : ([.windowCtrlWrite (.core 127) 63 32 0,
    .windowCounterWrite (.core 128) 63 31 .bytesLo 0,
    .windowCounterWrite (.core 127) 64 31 .bytesLo 0,
    .windowCounterWrite (.core 127) 63 32 .bytesLo 0,
    .packetDeliver (packetOf 65535 ⟨1023, 1023, 1023⟩ ⟨0, 0, 0⟩ 255 32 0xFFFFFFFFFFFF 255 0 0),
    .packetForward 7 (packetOf 65535 ⟨1023, 1023, 1023⟩ ⟨0, 0, 0⟩ 255 31 0xFFFFFFFFFFFF 255 0 0),
    .packetForward 6 (packetOf 65535 ⟨1023, 1023, 1023⟩ ⟨0, 0, 0⟩ 255 32 0xFFFFFFFFFFFF 255 0 0),
    .ackReceive 64 65535,
    .ackReceive 63 65536,
    .nackReceive 64 65535 0,
    .nackReceive 63 65536 0,
    .packetDeadline 64 65535,
    .packetDeadline 63 65536,
    .flitReceive 6 ⟨15, 15, 4095, 4095, 15, 255, List.replicate 245 0, 0⟩,
    .flitReceive 5 ⟨16, 15, 4095, 4095, 15, 255, List.replicate 245 0, 0⟩,
    .replayRequest 6,
    .replayTimeout 6,
    .linkLaneFail 6 .tx 16,
    .linkLaneFail 5 .tx 17,
    .linkRetrainTimeout 6,
    .linkTrainRetry 6,
    .linkTrained 6 ⟨1023, 1023, 1023⟩ 6,
    .linkTrained 5 ⟨1024, 0, 0⟩ 6,
    .linkTrained 5 ⟨1023, 1023, 1023⟩ 7,
    .axlFiCtrlWrite (.core 128) 5 0] : List Instr).any Instr.wf = false := by decide +kernel

theorem test_wf_refuses_5 : ([.axlFiCtrlWrite (.core 127) 6 0,
    .bridgeLaneFail 12 false,
    .bridgeRetrainStart 12,
    .bridgeRetrainDone 12,
    .bridgeRetrainLong 12,
    .bridgeLost 12,
    .rdShared 130 4398046511103,
    .rdShared 129 4398046511104,
    .rdOwn 130 4398046511103,
    .rdOwn 129 4398046511104,
    .upgrade 130 4398046511103,
    .upgrade 129 4398046511104,
    .rdOnce (.agent 130) 4398046511103,
    .rdOnce (.agent 129) 4398046511104,
    .wrFull (.agent 130) 4398046511103 (List.replicate 64 0) (.l2 127),
    .wrFull (.agent 129) 4398046511104 (List.replicate 64 0) (.l2 127),
    .wrFull (.agent 129) 4398046511103 [] (.l2 127),
    .wrFull (.agent 129) 4398046511103 (List.replicate 64 0) (.l2 128),
    .wrPart (.agent 130) 4398046511103 0 (List.replicate 64 0),
    .wrPart (.agent 129) 4398046511104 0 (List.replicate 64 0),
    .wrPart (.agent 129) 4398046511103 0 [],
    .atomic (.agent 130) 4398046511103 (.amo 56 true .add 0),
    .atomic (.agent 129) 4398046511104 (.amo 56 true .add 0),
    .atomic (.agent 129) 4398046511103 (.amo 60 true .add 0),
    .cmo (.agent 130) 4398046511103 .clean] : List Instr).any Instr.wf = false := by decide +kernel

theorem test_wf_refuses_6 : ([.cmo (.agent 129) 4398046511104 .clean,
    .snpShr 130 4398046511103,
    .snpShr 129 4398046511104,
    .snpOwn 130 4398046511103,
    .snpOwn 129 4398046511104,
    .snpInv 130 4398046511103,
    .snpInv 129 4398046511104,
    .snpOnce 130 4398046511103,
    .snpOnce 129 4398046511104,
    .snpCln 130 4398046511103,
    .snpCln 129 4398046511104,
    .rspState 130 4398046511103,
    .rspState 129 4398046511104,
    .rspInwb 130 4398046511103,
    .rspInwb 129 4398046511104,
    .cmp (.agent 130) 4398046511103,
    .cmp (.agent 129) 4398046511104,
    .cmpAck 130 4398046511103,
    .cmpAck 129 4398046511104,
    .retry 130 4398046511103,
    .retry 129 4398046511104,
    .grant 130 4398046511103,
    .grant 129 4398046511104,
    .wbAck 130 4398046511103,
    .wbAck 129 4398046511104] : List Instr).any Instr.wf = false := by decide +kernel

theorem test_wf_refuses_7 : ([.datHome (.agent 130) 4398046511103,
    .datHome (.agent 129) 4398046511104,
    .datFwd 130 4398046511103,
    .datFwd 129 4398046511104,
    .datSnp 130 4398046511103,
    .datSnp 129 4398046511104,
    .datInstall 130 4398046511103,
    .datInstall 129 4398046511104,
    .wbDirty 130 4398046511103,
    .wbDirty 129 4398046511104,
    .wbClean 130 4398046511103,
    .wbClean 129 4398046511104,
    .wbMove 130 4398046511103,
    .wbMove 129 4398046511104,
    .snoopTimeout 130 4398046511103,
    .snoopTimeout 129 4398046511104,
    .amo 128 ⟨2 ^ 48 - 1, .pma⟩ false .add 0,
    .amo 127 ⟨2 ^ 48, .pma⟩ false .add 0,
    .amocas 128 ⟨2 ^ 48 - 1, .pma⟩ 16 0 0,
    .amocas 127 ⟨2 ^ 48, .pma⟩ 16 0 0,
    .lr 128 ⟨2 ^ 48 - 1, .pma⟩ false,
    .lr 127 ⟨2 ^ 48, .pma⟩ false,
    .sc 128 ⟨2 ^ 48 - 1, .pma⟩ false 0,
    .sc 127 ⟨2 ^ 48, .pma⟩ false 0,
    .lrReservationExpire 128] : List Instr).any Instr.wf = false := by decide +kernel

theorem test_wf_refuses_8 : ([.cboClean 128 281474976710655 .pma,
    .cboClean 127 281474976710656 .pma,
    .cboFlush 128 281474976710655 .pma,
    .cboFlush 127 281474976710656 .pma,
    .cboInval 128 281474976710655 .pma none,
    .cboInval 127 281474976710656 .pma none,
    .cboZero 128 281474976710655 .pma,
    .cboZero 127 281474976710656 .pma,
    .prefetchR 128 281474976710655 .pma,
    .prefetchR 127 281474976710656 .pma,
    .prefetchW 128 281474976710655 .pma,
    .prefetchW 127 281474976710656 .pma,
    .timerCompare 128,
    .streamRunTimeout 144 3,
    .streamRunTimeout 143 4,
    .extErrorWindowExpire 4 15,
    .extErrorWindowExpire 3 16,
    .scrubRead 281474976710656 .clean,
    .promotionLands ⟨2 ^ 31, 0⟩,
    .writeGroupTimeout 64,
    .pageProgrammed 64,
    .programFailure 64,
    .garbageCollection ⟨64, true⟩,
    .mapCheckpoint 2,
    .objectTableWrite (.core 128) 4095 0] : List Instr).any Instr.wf = false := by decide +kernel

theorem test_wf_refuses_9 : ([.objectTableWrite (.core 127) 4096 0,
    .schedEnableWrite (.core 128) 0,
    .schedTailWrite (.core 128) 0,
    .protectionExpire 2147483648,
    .regionLoad (.core 128) 2047,
    .regionLoad (.core 127) 2048,
    .regionErase (.core 128) 2047,
    .regionErase (.core 127) 2048,
    .stepBoundaryPush (.core 128) 0,
    .pwrModeWrite (.core 128) 0,
    .modeStep 4,
    .droopTrip 8,
    .droopRelease 8,
    .vrAlert 8,
    .thermalSample ⟨[], List.replicate 16 0, List.replicate 8 0⟩,
    .thermalTrip 8 255 255,
    .thermalTrip 7 256 255,
    .thermalTrip 7 255 256,
    .ceMergeExpire 8 63,
    .ceMergeExpire 7 64,
    .errLogCtrlWrite (.core 128) 0,
    .errLogReadWrite (.core 128) 0,
    .getInfo (.core 128),
    .regRead (.core 128) 4294967295 0,
    .regRead (.core 127) 4294967296 0] : List Instr).any Instr.wf = false := by decide +kernel

theorem test_wf_refuses_10 : ([.regWrite (.core 128) 4294967295 [],
    .regWrite (.core 127) 4294967296 [],
    .semAcquire (.core 128),
    .semRenew (.core 128),
    .semRelease (.core 128),
    .txnBegin (.core 128),
    .txnStage (.core 128) [⟨255, 255, 65535, 0⟩],
    .txnRead (.core 128),
    .txnCommit (.core 128),
    .txnRollback (.core 128),
    .storeRead (.core 128) 4294967295 0,
    .storeRead (.core 127) 4294967296 0,
    .storeErase (.core 128) 1,
    .storeErase (.core 127) 2,
    .storeWrite (.core 128) 1 4294967295 [],
    .storeWrite (.core 127) 2 4294967295 [],
    .storeWrite (.core 127) 1 4294967296 [],
    .storeFinish (.core 128) 1 0 (List.replicate 64 0),
    .storeFinish (.core 127) 2 0 (List.replicate 64 0),
    .storeFinish (.core 127) 1 0 [],
    .logRead (.core 128) (.staging 7),
    .logRead (.core 127) (.staging 8),
    .attest (.core 128) (List.replicate 32 0),
    .attest (.core 127) [],
    .getCert (.core 128)] : List Instr).any Instr.wf = false := by decide +kernel

theorem test_wf_refuses_11 : ([.keyFuse (.core 128) 3 (List.replicate 64 0) 3 [],
    .keyFuse (.core 127) 4 (List.replicate 64 0) 3 [],
    .keyFuse (.core 127) 3 [] 3 [],
    .keyFuse (.core 127) 3 (List.replicate 64 0) 4 [],
    .keyRevoke (.core 128) 3 3 [],
    .keyRevoke (.core 127) 4 3 [],
    .keyRevoke (.core 127) 3 4 [],
    .keySvnRaise (.core 128) 64 3 [],
    .keySvnRaise (.core 127) 65 3 [],
    .keySvnRaise (.core 127) 64 4 [],
    .debug (.core 128) 127 (.csrWrite 4095 0),
    .debug (.core 127) 128 (.csrWrite 4095 0),
    .debug (.core 127) 127 (.csrRead 4096),
    .packageReset (.ctrl (.pcie 2)),
    .computeDieReset (.core 128) 3,
    .computeDieReset (.core 127) 4,
    .hostComplexReset (.ctrl (.core 128)),
    .quadReset (.core 128) 63,
    .quadReset (.core 127) 64,
    .dieResetDone 4 (List.replicate 18 true),
    .dieResetDone 3 [],
    .rstCauseFatalClear (.core 128),
    .ethQpDb (.core 128) 1 0,
    .ethQpDb (.core 127) 2 0,
    .qpMove (.core 128) 1 0] : List Instr).any Instr.wf = false := by decide +kernel

theorem test_wf_refuses_12 : ([.qpMove (.core 127) 2 0,
    .qpMoveError (.core 128) 1 8191,
    .qpMoveError (.core 127) 2 8191,
    .qpMoveError (.core 127) 1 8192,
    .wqeWrite 2 8191,
    .wqeWrite 1 8192,
    .wqeRead 2 8191,
    .wqeRead 1 8192,
    .wqeSend 2 8191,
    .wqeSend 1 8192,
    .rdmaNakReceive 2 8191 .remoteAccess,
    .rdmaNakReceive 1 8192 .remoteAccess,
    .rdmaWriteIn 4 ⟨8191, 0, 0, 0x80000000, 0, [], true⟩,
    .rdmaWriteIn 3 ⟨8192, 0, 0, 0, 0, [], true⟩,
    .rdmaReadIn 4 8191 0 4294967295 0,
    .rdmaReadIn 3 8192 0 4294967295 0,
    .rdmaReadIn 3 8191 0 4294967296 0,
    .rdmaSendIn 4 8191 [],
    .rdmaSendIn 3 8192 [],
    .pcieMemRequest 2 (.msi 127 true 2047),
    .pcieMemRequest 1 (.msi 128 true 1),
    .counterLoRead (.core 128) 4294967295,
    .counterLoRead (.core 127) 4294967296,
    .rcRegisterRead (.core 128) 4294967295,
    .rcRegisterRead (.core 127) 4294967296] : List Instr).any Instr.wf = false := by decide +kernel

theorem test_wf_refuses_13 : ([.registerWrite (.core 128) 4294967295 0,
    .registerWrite (.core 127) 4294967296 0,
    .hostLoad 128 ⟨2 ^ 48 - 1, .pma⟩ 64 ⟨.scalar, none⟩,
    .hostLoad 127 ⟨2 ^ 48, .pma⟩ 64 ⟨.scalar, none⟩,
    .hostStore 128 281474976710655 (.bytes (List.replicate 64 0)) .pma,
    .hostStore 127 281474976710656 (.bytes (List.replicate 64 0)) .pma,
    .hostStore 127 281474976710655 (.bytes []) .pma,
    .marginWarning 64,
    .lrSnoopDelayEnd 128,
    .rdmaResponseReceive 2 8191 [],
    .rdmaResponseReceive 1 8192 [],
    .rdmaAckTimeout 2 8191,
    .rdmaAckTimeout 1 8192,
    .pfcPauseReceive 4 0 0,
    .cnpReceive 4 8191,
    .cnpReceive 3 8192,
    .bypassReadDone ⟨2 ^ 31, 0⟩,
    .sectorAdd ⟨0, 0, 0, 0⟩ 0 0 (List.replicate 33 0) false,
    .sectorAdd ⟨0, 16, 0, 0⟩ 0 0 [] false,
    .sectorAdd ⟨0, 0, 0, 2 ^ 48⟩ 0 0 [] false,
    .promotionLands ⟨0, 10⟩,
    .hostLoad 0 ⟨0, .pma⟩ 64 ⟨.vector 32, none⟩,
    .amocas 0 ⟨0, .pma⟩ 5 0 0,
    .rootElection [⟨⟨1024, 0, 0⟩, 0, true, 0⟩],
    .rootElection [⟨⟨0, 0, 0⟩, 256, true, 0⟩]] : List Instr).any Instr.wf = false := by decide +kernel

theorem test_wf_refuses_14 : ([.stepBoundary [⟨8, 0, 0, 0⟩],
    .energyInterval [⟨8, 0, 0, 0, 0, []⟩],
    .energyInterval [⟨0, 0, 0, 0, 0, [⟨some 4096, []⟩]⟩],
    .thermalSample ⟨List.replicate 8 (0, 0), List.replicate 15 0, List.replicate 8 0⟩,
    .thermalSample ⟨List.replicate 8 (0, 0), List.replicate 16 0, List.replicate 9 0⟩,
    .txnStage .mgmtA [⟨256, 0, 0, 0⟩],
    .txnStage .mgmtA [⟨0, 256, 0, 0⟩],
    .txnStage .mgmtA [⟨0, 0, 65536, 0⟩],
    .bootStage ⟨16, 0, []⟩,
    .bootStage ⟨0, 256, []⟩,
    .bootStage ⟨0, 0, [72]⟩,
    .hostLoad 0 ⟨0, .pma⟩ 0 ⟨.scalar, none⟩,
    .hostLoad 0 ⟨0, .pma⟩ 65 ⟨.scalar, none⟩,
    .hostLoad 0 ⟨0, .pma⟩ 65 ⟨.fetch false, none⟩,
    .hostLoad 0 ⟨0, .pma⟩ 257 ⟨.vector 0, none⟩,
    .hostLoad 0 ⟨0, .pma⟩ 256 ⟨.vector 25, none⟩,
    .hostStore 0 0 (.bytes (List.replicate 65 0)) .pma,
    .hostStore 0 0 (.vector 0 257) .pma,
    .hostStore 0 0 (.vector 25 256) .pma,
    .debug .mgmtA 0 (.vecRead 32),
    .debug .mgmtA 0 (.vecWrite 0 []),
    .debug .mgmtA 0 (.csrWrite 4096 0),
    .regionOpDone [(64, 0)],
    .regionOpDone [(0, 4)],
    .atomic (.agent 0) 0 (.amo 64 true .add 0)] : List Instr).any Instr.wf = false := by decide +kernel

theorem test_wf_refuses_15 : ([.atomic (.agent 0) 0 (.cas 64 false 0 0),
    .atomic (.agent 0) 0 (.cas 6 false 0 0),
    .atomic (.agent 0) 0 (.floatAdd 256 0 []),
    .atomic (.agent 0) 0 (.floatAdd 0 0 (List.replicate 33 0)),
    .pcieMemRequest 0 (.read 0x1000000000000 1),
    .pcieMemRequest 0 (.read 0 4097),
    .pcieMemRequest 0 (.write 0x1000000000000 []),
    .pcieMemRequest 0 (.msi 0 true 0),
    .pcieMemRequest 0 (.msi 0 true 2048),
    .rdmaWriteIn 0 ⟨0, 0, 0, 0x80000001, 0, [], true⟩,
    .rdmaWriteIn 0 ⟨0, 0, 0, 1, 1, [0], true⟩,
    .packetDeliver (packetOf 65536 ⟨1023, 1023, 1023⟩ ⟨0, 0, 0⟩ 255 31 0xFFFFFFFFFFFF 255 0 0),
    .packetDeliver (packetOf 65535 ⟨0, 1024, 0⟩ ⟨0, 0, 0⟩ 255 31 0xFFFFFFFFFFFF 255 0 0),
    .packetDeliver (packetOf 65535 ⟨1023, 1023, 1023⟩ ⟨0, 0, 1024⟩ 255 31 0xFFFFFFFFFFFF 255 0 0),
    .packetDeliver (packetOf 65535 ⟨1023, 1023, 1023⟩ ⟨0, 0, 0⟩ 256 31 0xFFFFFFFFFFFF 255 0 0),
    .packetDeliver (packetOf 65535 ⟨1023, 1023, 1023⟩ ⟨0, 0, 0⟩ 255 31 0x1000000000000 255 0 0),
    .packetDeliver (packetOf 65535 ⟨1023, 1023, 1023⟩ ⟨0, 0, 0⟩ 255 31 0xFFFFFFFFFFFF 256 0 0),
    .packetDeliver (packetOf 65535 ⟨1023, 1023, 1023⟩ ⟨0, 0, 0⟩ 255 31 0xFFFFFFFFFFFF 255 0 63),
    .flitReceive 0 ⟨15, 16, 4095, 4095, 15, 255, List.replicate 245 0, 0⟩,
    .flitReceive 0 ⟨15, 15, 4096, 4095, 15, 255, List.replicate 245 0, 0⟩,
    .flitReceive 0 ⟨15, 15, 4095, 4096, 15, 255, List.replicate 245 0, 0⟩,
    .flitReceive 0 ⟨15, 15, 4095, 4095, 16, 255, List.replicate 245 0, 0⟩,
    .flitReceive 0 ⟨15, 15, 4095, 4095, 15, 256, List.replicate 245 0, 0⟩,
    .flitReceive 0 ⟨15, 15, 4095, 4095, 15, 255, List.replicate 244 0, 0⟩] : List Instr).any Instr.wf = false := by decide +kernel

theorem test_wf_long_data :
    Instr.wf (.packetDeliver (packetOf 0 ⟨0, 0, 0⟩ ⟨0, 0, 0⟩ 0 0 0 0 4096 0)) = true ∧
    Instr.wf (.packetDeliver (packetOf 0 ⟨0, 0, 0⟩ ⟨0, 0, 0⟩ 0 0 0 0 4097 0)) = false ∧
    Instr.wf (.packetDeliver (packetOf 0 ⟨0, 0, 0⟩ ⟨0, 0, 0⟩ 0 0 0 0 4096 64)) = true ∧
    Instr.wf (.packetDeliver (packetOf 0 ⟨0, 0, 0⟩ ⟨0, 0, 0⟩ 0 0 0 0 4096 320)) = true ∧
    Instr.wf (.pcieMemRequest 0 (.write 0 (List.replicate 512 0))) = true ∧
    Instr.wf (.pcieMemRequest 0 (.write 0 (List.replicate 513 0))) = false := by decide +kernel

/-- The table gives no row bits, so no word spells a command. -/
theorem test_decode_none : decodeTableWord 32 0 = none ∧ decodeTableWord 0 0 = none ∧
    State.reset.withFetchWord 32 0xFFFFFFFF = State.reset := ⟨rfl, rfl, rfl⟩

/-- A store write of more than 32 MiB. -/
theorem test_wf_store_write (bs : List Byte) (h : 2 ^ 25 < bs.length) : Instr.wf (.storeWrite .mgmtA 0 0 bs) = false := by
  simp only [Instr.wf, Bool.and_eq_false_iff, decide_eq_false_iff_not]
  exact .inr (by omega)

/-! ### The spec's worked examples -/

/-- The FP32 value 0x40490FDB. -/
def pi32 : Fp := fp32.decode 0x40490FDB

/-- The worked conversion of 03_formats.md. -/
theorem test_conversions :
    (g16.conv none pi32).code = 0x4025 ∧ (g16.conv (some 0x1C00) pi32).code = 0x4024 ∧ (g16.conv (some 0x9A3F) pi32).code = 0x4025 ∧
    (bf16.conv none pi32).code = 0x4049 ∧ (e4m3.conv none pi32).code = 0x45 ∧ (e5m2.conv none pi32).code = 0x42 ∧
    (intConv 8 pi32).code = 3 ∧ (quantise [pi32]).1 = 0x7E ∧ (quantise [pi32]).2.1 = [7] := by decide +kernel

/-- The worked seed of 03_formats.md, before its 32 steps. -/
theorem test_seed : srSeed 5 0x1234 3 2 = lfsrSteps 32 0x02520836 := by decide +kernel

/-- The two quad maps of ZD4-56 and of ZD4-64 (00_scope.md). -/
theorem test_quad_maps :
    (up.modCfg (fun c => { c with orderingCode := 1 })).pkgReg 4 = 0x3FFF3FFF ∧
    (up.modCfg (fun c => { c with orderingCode := 1 })).pkgReg 8 = 0x3FFF3FFF ∧ up.pkgReg 4 = 0xFFFFFFFF ∧ up.pkgReg 8 = 0xFFFFFFFF := by
  decide +kernel

/-- The worked tier share of 01_package.md: 108 GiB of direct HBM on each die. -/
theorem test_direct_hbm :
    up.backed 0x081AFFFFFFC0 64 = some (.hbm 0) ∧ up.backed 0x081B00000000 1 = none ∧ up.backed 0x0840_0000_0000 64 = some (.hbm 1) ∧
    up.backed 0x085AFFFFFFFF 1 = some (.hbm 1) ∧ up.backed 0x085B00000000 1 = none := by decide +kernel

/-- The slots of 09_memory_tiers.md Table TIR-2 with s = 8. -/
theorem test_tier_slots : (up.setItem ⟨7, 2, 0, 8⟩).tierSlots = 4612096 := by decide +kernel

/-- The header of the worked command F1U (07_commands_and_queues.md). -/
def f1u : List Byte :=
  desc [(0x00, 4, 0x0031E002), (0x04, 4, 0x14000831), (0x08, 4, 0x00060005), (0x10, 4, 1), (0x18, 4, 1), (0x50, 4, 0x00070003),
    (0x54, 4, 0x0101000F), (0x58, 4, 1)]

theorem test_f1u : opcodeOf f1u = opGemm ∧ dRelu f1u = true ∧ dWaitEn f1u = true ∧ dSigEn f1u = true ∧ dCpl f1u = false ∧ dTag f1u = 0x31 ∧
    routeOf (dRoute f1u) = [stIntake, stArray0, stBell] ∧ dTimeout f1u = 20 ∧ dWaitObj f1u = 5 ∧ dSigObj f1u = 6 ∧
    dWaitScope f1u = scopeOf 0 ∧ dSigScope f1u = scopeOf 0 ∧ dWaitValue f1u = 1 ∧ dSigValue f1u = 1 ∧
    matTiles fE4m3 256 512 = 32 ∧ matTiles fE4m3 512 1024 = 128 ∧ matTiles fE4m3 256 1024 = 64 := by decide +kernel

/-- The worked segment of 10_segments.md, its words staged. -/
def staged3 : State := up.modStu 1 (fun t => { t with stage := [(0, 0x40000000), (3, 0x840), (4, 0x8000), (5, 0x17)] })

theorem test_segment_install :
    ((ran (.segInstall (.core 0) 1 2050 3) staged3).stu 1).seg 2050 3 =
      { valid := true, vbase := 0x40000000, pbase := 0x084000000000, len2m := 0x8000, attr := 0x17, gen := 1 } := by decide +kernel

/-- The worked victims of 11_host_cores_and_cache.md: ways 0, 3, 2 and 5. -/
theorem test_victims :
    (let t1 := plruTouch 16 0 0 6 0
     let t2 := plruTouch 16 t1 0 6 3
     let t3 := plruTouch 16 t2 0 6 2
     plruVictim 0 16 0 6 = 0 ∧ plruVictim t1 16 0 6 = 3 ∧ plruVictim t2 16 0 6 = 2 ∧ plruVictim t3 16 0 6 = 5) := by decide +kernel

/-- The worked tree distance of 13_axis_links_and_drone.md. -/
theorem test_tree_hops :
    ((((up.setItem ⟨4, 2, 0, 7 + 7 * 1024 + 7 * 1048576⟩)).treeHops ⟨5, 3, 2⟩ ⟨0, 0, 0⟩) = 8) := by decide +kernel

/-- The worked key of 14_network_and_pcie.md: window 4 of quad 9, epoch 3. -/
theorem test_rkey : rkeyTarget 0x00030904 = some (9, 4, 3) := by decide +kernel

/-- Two adds of 1 to 7 leave 9, and meet a wait for 8 and one for 9 (08_memory_model.md R236). -/
theorem test_sync_adds :
    (ran (.syncObjectOp 3 4095 [⟨.core 0, .package, false, 1⟩, ⟨.core 0, .package, false, 1⟩])
      { up with sync := [(16383, 7)] }).syncVal 16383 = 9 := by decide +kernel

/-! ### Steps -/

/-- The command at the front of the queue runs, and leaves it. -/
theorem test_step_front : step { up with pending := [.suspicionDecay, .doorbell (.core 0) 0 0 1] } =
    exec .suspicionDecay { up with pending := [.doorbell (.core 0) 0 0 1] } := rfl

/-- With nothing commanded a Drone tick passes. -/
theorem test_step_idle : (up.after (step up)).time.drone = 1 := by decide +kernel

/-- An 8-byte host store is read back, and a byte above it is not touched. -/
theorem test_host_store :
    let s := ran (.hostStore 0 0x1000 (.bytes [1, 2, 3, 4, 5, 6, 7, 8]) .nc) up
    s.byte 0x1007 = 8 ∧ s.byte 0x1008 = 0 ∧ s.byte 0xFFF = 0 := by decide +kernel

/-- A doorbell beyond the ring is ignored with db_error set; one within it moves TAIL (07 R214). -/
theorem test_doorbell :
    ((ran (.doorbell (.core 0) 0 0 0x80000000) up).queue 0 0).tail = 0 ∧ ((ran (.doorbell (.core 0) 0 0 0x80000000) up).queue 0 0).dbError = true ∧
    ((ran (.doorbell (.core 0) 0 0 1) up).queue 0 0).tail = 1 ∧ ((ran (.doorbell (.core 0) 0 0 1) up).queue 0 0).dbError = false := by
  decide +kernel
/-! ### Witnesses: queues -/

theorem witness_StepRunsFrontCommand : ({ up with pending := [.getInfo .mgmtA] } : State).pending = .getInfo .mgmtA :: [] := rfl

theorem witness_IdleStepIsOneDroneTick :
    up.pending = [] ∧ up.boot.held = false ∧ up.time.loaded = false := by decide +kernel

theorem witness_CommandsLeaveTheQueue : ∃ t, exec (.getInfo .mgmtA) up = .next t := ⟨_, rfl⟩

theorem witness_StepKeepsMemoryForm : up.memWf = true ∧ ∃ t, step up = .next t := ⟨by decide +kernel, _, rfl⟩

theorem witness_FusedKeysAndFloorStand : ∃ t, exec (.getInfo .mgmtA) up = .next t ∧
    (∀ p n d g x, Instr.getInfo .mgmtA ≠ .keyFuse p n d g x) ∧ (∀ p n g x, Instr.getInfo .mgmtA ≠ .keyRevoke p n g x) ∧
    (∀ p n g x, Instr.getInfo .mgmtA ≠ .keySvnRaise p n g x) :=
  ⟨_, rfl, by simp, by simp, by simp⟩

theorem witness_DoorbellMovesTail :
    up.mayRing (.core 0) 63 15 = true ∧ up.quadOpen 63 = true ∧ (held.mayRing .mgmtA 0 0 = true) ∧ up.mayRing (.pcie 1) 0 0 = false ∧
    ({ up with pending := [.doorbell (.core 0) 63 15 17, .doorbell (.core 0) 63 15 1] } : State).pending =
      .doorbell (.core 0) 63 15 17 :: .doorbell (.core 0) 63 15 1 :: [] := by
  decide +kernel

/-- A package whose queue 0 of quad 0 is in a state. -/
def queueIn (st : QState) : State := up.modQueue 0 0 (fun x => { x with state := st })

theorem witness_QueueControlWrites :
    up.mayWrite (.core 127) = true ∧ up.quadOpen 0 = true ∧
    (up.queue 0 0).state = .disabled ∧ (0x80000010 : Word).getLsbD 31 = true ∧
    ((queueIn .stopped).queue 0 0).state = .stopped ∧ (queueIn .stopped).mayWrite (.core 0) = true ∧
    (0x40000010 : Word).getLsbD 31 = false ∧
    ((queueIn .running).queue 0 0).state = .running ∧ ((queueIn .running).queue 0 0).slot = none ∧
    ((queueIn .running).queue 0 0).cmds = [] ∧ ((queueIn .running).queue 0 0).thenDisabled = false := by decide +kernel

/-- A package with a ring of one posted descriptor. -/
def posted : State := mapped.modQueue 0 0 (fun x => { x with enable := true, state := .running, tail := 1 })

theorem witness_FetchTakesTheNextDescriptor :
    posted.quadRuns 0 = true ∧ (posted.quad 0).fetchFrom = some 0 ∧
    (match posted.checkDirect 0 needRead 0 128 with
     | .ok e => decide (e.len = 128) && !posted.hostClosed e.pa && posted.reachesAll 0 e.pa e.len &&
         posted.readReady e.coherent e.pa e.len && !posted.readPoison e.coherent e.pa e.len
     | _ => false) = true := by decide +kernel

/-- A package that has fetched a descriptor. -/
def fetchedOne (d : List Byte) : State := mapped.modQueue 0 0 (fun x => { x with enable := true, state := .running, fetched := [⟨0, d, 0⟩] })
/-- A SIGNAL without a condition. -/
def signalD : List Byte := desc [(0, 1, 12), (1, 1, 0x80), (10, 2, 5), (24, 4, 3)]

theorem witness_DecodeChecksAndAdmits :
    (fetchedOne signalD).quadRuns 0 = true ∧ ((fetchedOne signalD).queue 0 0).state = .running ∧
    ((fetchedOne signalD).queue 0 0).slot = none ∧ ((fetchedOne signalD).quad 0).readyCount < 4 ∧
    staticCheck (desc [(0, 1, 0)]) ≠ stOk ∧ staticCheck signalD = stOk ∧
    ((fetchedOne signalD).checkDest 0 0 signalD).isSome = true ∧ condsOf signalD = [] ∧
    (match (fetchedOne signalD).checkMemory 0 0 ((fetchedOne signalD).freshCmd ⟨0, signalD, 0⟩) with
     | (.granted exts prog, u) => (u.modQueue 0 0 (fun x => { x with fetched := [] })).orderMet 0 0
         { (fetchedOne signalD).freshCmd ⟨0, signalD, 0⟩ with exts := exts, prog := prog }
     | _ => false) = true ∧
    (let d := desc [(0, 1, 10), (4, 3, 0x91), (32, 8, 2 ^ 63), (64, 4, 4096), (81, 1, 0)]
     (fetchedOne d).checkDest 0 0 d = none) := by decide +kernel

/-- A MOVE from one page of HBM to another. -/
def moveD : List Byte := desc [(0, 1, 1), (4, 3, 0x81), (32, 8, 2 ^ 63), (48, 8, 2 ^ 63 + 4096)]

theorem witness_StartClaimsTheWholeSet :
    let c := { cmd moveD [] with phase := .ready, held := [] }
    (withCmds [c]).quadRuns 0 = true ∧ ((withCmds [c]).quad 0).readyList = [(0, 0)] ∧ ((withCmds [c]).queue 0 0).find 0 = some c ∧
    claimsOf moveD = [(stIntake, 1), (stBell, 1)] ∧ fits (((withCmds [c]).quad 0).claims ++ ((withCmds [c]).quad 0).kept 0 0) (claimsOf moveD) = true ∧
    (withCmds [c]).claimHeld 0 (claimsOf moveD) = false ∧ fits [(stBell, 2)] (claimsOf moveD) = false ∧
    claimsOf signalD = [] := by decide +kernel

theorem witness_StationsReleaseAndCommandsComplete :
    let c := { cmd moveD [] with ran := true, held := [] }
    (withCmds [c]).quadRuns 0 = true ∧ ((withCmds [c]).queue 0 0).find 0 = some c ∧ c.unsent = [] ∧
    ((withCmds [c]).quad 0).awaits 0 0 = false ∧ c.withdrawn = false ∧ c.status = stOk ∧ dCpl c.desc = false ∧ dIrq c.desc = false ∧
    signalsOf 0 c.desc = [] ∧ ((withCmds [c]).queue 0 0).cmds = [c] ∧ ((withCmds [c]).queue 0 0).slot = none ∧
    ((withCmds [c]).queue 0 0).done = 0 ∧ ((withCmds [c]).queue 0 0).ended = [] := by decide +kernel

/-! ### Witnesses: stations -/

theorem witness_MovesCarryTheirBytes :
    (let c := cmd moveD [(0, ext hbm0 4096), (0x10, ext (hbm0 + 4096) 4096)]
     let s := withCmds [c]
     s.underway 0 0 0 opMove c ∧ onRoute c.desc stCrook = false ∧ c.ext 0 = some (ext hbm0 4096) ∧ c.ext 8 = none ∧
     c.ext 0x10 = some (ext (hbm0 + 4096) 4096) ∧ c.ext 0x18 = none ∧ s.canRead 0 (ext hbm0 4096) ∧
     s.canWrite 0 (ext (hbm0 + 4096) 4096) ∧ s.hintReady (stashOf c.stash) false (hbm0 + 4096) 4096 = true ∧ (s.didRead hbm0 4096).writePoison false (hbm0 + 4096) 4096 = false) ∧
    (let c := cmd (desc [(0, 1, 10), (4, 3, 0x91)]) [(0, ext hbm0 4096)]
     (withCmds [c]).underway 0 0 0 opSend c ∧ onRoute c.desc stCrook = false ∧ present c.desc 8 = false) ∧
    (let c := cmd (desc [(0, 1, 11)]) []
     (withCmds [c]).underway 0 0 0 opInline c) := by
  unfold State.underway State.canRead State.canWrite
  decide +kernel

/-- No sector of a package is poisoned: results may land anywhere in a page of direct HBM. -/
theorem land_of_clean (s : State) (n : Nat) (ts : List (OutTile × List Byte)) (h : s.poison = []) (hn : n ≤ 2 ^ 30) :
    s.canLand (ext hbm0 n) ts := by
  have hr : ∀ k, k ≤ 2 ^ 30 → isTiered ((hbm0 + k) / 64 * 64) = false := by
    intro k hk
    have h1 : 0x080000000000 ≤ (hbm0 + k) / 64 * 64 := by simp only [hbm0]; omega
    have h2 : (hbm0 + k) / 64 * 64 < 0x090000000000 := by simp only [hbm0]; omega
    simp [isTiered, regionOf, h1, h2, Nat.not_lt.mpr (Nat.le_trans (by decide : 0x040000000000 ≤ 0x080000000000) h1)]
  have h0 := hr 0 (by decide)
  have h1 := hr ((tileBytesOf ts).take n).length (Nat.le_trans (List.length_take_le ..) hn)
  simp [State.canLand, State.writePoison, State.basePoison, State.sectorPoison, h, Table.get, ext] at h0 h1 ⊢
  simp [h0, h1]

/-- A command with no operands in memory, whose result goes to a page of HBM. -/
def toPage (d : List Byte) (off : Nat) : Cmd := cmd d [(off, ext hbm0 0x10000)]

/-- Whether a part of a run went through and left no poison. -/
def okClean {α : Type} : Run α → Bool
  | .ok _ u => u.poison.isEmpty
  | _ => false

theorem ran_ok {α : Type} (r : Run α) (h : okClean r = true) : ∃ x u, r = .ok x u ∧ u.poison = [] := by
  cases r <;> simp_all [okClean]

/-- Whether two parts of a run, one after the other, went through and left no poison. -/
def okThen {α β : Type} (r : Run α) (f : α → State → Run β) : Bool :=
  match r with
  | .ok x u => okClean (f x u)
  | _ => false

theorem ran_ok_then {α β : Type} (r : Run α) (f : α → State → Run β) (h : okThen r f = true) :
    ∃ x w u v, r = .ok x u ∧ f x u = .ok w v ∧ v.poison = [] := by
  cases r with
  | ok x u =>
    obtain ⟨w, v, hw⟩ := ran_ok _ h
    exact ⟨x, w, u, v, rfl, hw⟩
  | _ => simp [okThen] at h

theorem witness_ProductsWriteTheirTiles :
    (let c := toPage (desc [(0, 1, 2), (4, 3, 0x831)]) 0x20
     let s := withCmds [c]
     (s.underway 0 0 0 opGemm c ∧ toBell c.desc = true ∧ reedOf c.desc = none ∧ c.ext 0x20 = some (ext hbm0 0x10000) ∧
       c.ext 0x28 = none ∧ RunIn.allReady ⟨0, 0, c, none⟩ gemmReads gemmWrites s) ∧
     ∃ x u, RunIn.factors ⟨0, 0, c, none⟩ 0 0 64 64 64 false s = .ok x u ∧ u.poison = []) ∧
    (let c := toPage (desc [(0, 1, 3), (4, 3, 0x831)]) 0x20
     let s := withCmds [c]
     (s.underway 0 0 0 opGemmT c ∧ toBell c.desc = true ∧ reedOf c.desc = none) ∧
     ∃ x u, RunIn.factors ⟨0, 0, c, none⟩ 0 0 64 64 64 (decide (gMode c.desc = 1)) s = .ok x u ∧ u.poison = []) ∧
    (let c := toPage (desc [(0, 1, 4), (4, 3, 0x851)]) 0x20
     let s := withCmds [c]
     (s.underway 0 0 0 opGemv c ∧ toBell c.desc = true ∧ reedOf c.desc = none) ∧
     ∃ x w u v, RunIn.vectors ⟨0, 0, c, none⟩ 0 0 64 0 8 s = .ok x u ∧
       RunIn.matrix ⟨0, 0, c, none⟩ 0 64 64 0x10 0x18 u = .ok w v ∧ v.poison = []) := by
  unfold State.underway RunIn.allReady
  refine ⟨⟨by decide +kernel, ?_⟩, ⟨by decide +kernel, ?_⟩, by decide +kernel, ?_⟩
  · exact ran_ok _ (by decide +kernel)
  · exact ran_ok _ (by decide +kernel)
  · exact ran_ok_then _ (fun x u => RunIn.matrix _ 0 64 64 0x10 0x18 u) (by decide +kernel)

theorem fused_ok (r : RunIn) (b : Bool) (s : State)
    (h : okThen (r.fusedProduct s) (fun _ u => r.fusedOperand b 64 64 u) = true) :
    ∃ y u g x v, r.fusedProduct s = .ok y u ∧ r.fusedOperand b 64 64 u = .ok (g, x) v ∧ v.poison = [] := by
  obtain ⟨y, w, u, v, h1, h2⟩ := ran_ok_then (r.fusedProduct s) (fun _ u => r.fusedOperand b 64 64 u) h
  exact ⟨y, u, w.1, w.2, v, h1, h2⟩

/-- A VECOP of one step over zeros. -/
def vecC : Cmd := toPage (desc [(0, 1, 7), (4, 3, 0x861), (32 + 0x3E, 2, 0x20)]) 0x18

theorem witness_KernelsWriteTheirTiles :
    (let c := vecC
     let s := withCmds [c]
     (s.underway 0 0 0 opVecop c ∧ toBell c.desc = true ∧ (vctlOf c.desc).reduce = 0 ∧ c.ext 0x18 = some (ext hbm0 0x10000) ∧
       c.ext 0x20 = none ∧ RunIn.allReady ⟨0, 0, c, none⟩ [0, 8, 0x10] [0x18, 0x20, 0x28, 0x30] s) ∧
     ∃ x u o w, RunIn.matrix ⟨0, 0, c, none⟩ 0 64 64 0 8 s = .ok x u ∧
       RunIn.vecKernel ⟨0, 0, c, none⟩ (vctlOf c.desc) 64 64 (toFp32 x) u = .ok o w ∧ w.poison = []) ∧
    (let c := toPage (desc [(0, 1, 9), (4, 3, 0x8631)]) 0x20
     let s := withCmds [c]
     (s.underway 0 0 0 opSoftmaxBack c ∧ toBell c.desc = true ∧ RunIn.allReady ⟨0, 0, c, none⟩ fusedReads fusedWrites s) ∧
     ∃ y u g x v, RunIn.fusedProduct ⟨0, 0, c, none⟩ s = .ok y u ∧
       RunIn.fusedOperand ⟨0, 0, c, none⟩ false 64 64 u = .ok (g, x) v ∧ v.poison = []) ∧
    (let c := cmd (desc [(0, 1, 8), (4, 3, 0x8631), (32 + 0x5C, 1, 0xC0)]) [(0x20, ext hbm0 0x10000), (0x38, ext (hbm0 + 0x10000) 0x2000)]
     let s := withCmds [c]
     (s.underway 0 0 0 opNormBack c ∧ toBell c.desc = true ∧ nRecompute c.desc = true ∧
       RunIn.allReady ⟨0, 0, c, none⟩ fusedReads fusedWrites s ∧ c.ext 0x38 = some (ext (hbm0 + 0x10000) 0x2000)) ∧
     ∃ y u g x v, RunIn.fusedProduct ⟨0, 0, c, none⟩ s = .ok y u ∧
       RunIn.fusedOperand ⟨0, 0, c, none⟩ true 64 64 u = .ok (g, x) v ∧ v.poison = []) := by
  unfold State.underway RunIn.allReady
  refine ⟨⟨by decide +kernel, ?_⟩, ⟨by decide +kernel, ?_⟩, by decide +kernel, ?_⟩
  · obtain ⟨x, o, u, w, h⟩ := ran_ok_then _ (fun x u => RunIn.vecKernel ⟨0, 0, vecC, none⟩ (vctlOf vecC.desc) 64 64 (toFp32 x) u)
      (by decide +kernel : okThen (RunIn.matrix ⟨0, 0, vecC, none⟩ 0 64 64 0 8 (withCmds [vecC])) _ = true)
    exact ⟨x, u, o, w, h⟩
  · exact fused_ok _ _ _ (by decide +kernel)
  · exact fused_ok _ _ _ (by decide +kernel)

/-- A GATHER_POOL or SCATTER_ADD of one bag of one row of 32 bytes, FP32, from a table of a number of rows. -/
def gatherD (op route rows : Nat) : List Byte :=
  desc [(0, 1, op), (4, 3, route), (32 + 0x30, 4, rows), (32 + 0x39, 1, fFp32), (32 + 0x3A, 1, fFp32), (32 + 0x40, 4, 1)]
/-- Its command: the table at the start of HBM, its list of one index after it. -/
def gatherC (op route rows : Nat) : Cmd :=
  cmd (gatherD op route rows) [(0, ext hbm0 64), (8, ext (hbm0 + 0x1000) 4), (0x18, ext (hbm0 + 0x2000) 0x10000)]

theorem witness_GatherAndScatterWalkTheList :
    (let c := gatherC 5 0x87 1
     let s := withCmds [c]
     s.underway 0 0 0 opGather c ∧ toBell c.desc = true ∧ reedOf c.desc = none ∧ c.ext 0 = some (ext hbm0 64) ∧
     c.ext 0x18 = some (ext (hbm0 + 0x2000) 0x10000) ∧ c.ext 0x20 = none ∧
     RunIn.allReady ⟨0, 0, c, none⟩ [8, 0x10] [0x18, 0x20] s ∧
     (match RunIn.walk ⟨0, 0, c, none⟩ (gatherOf c.desc) s with
      | .ok (ps, none) _ => decide (ps.flatMap PoolRows.rows = [0])
      | _ => false) = true ∧
     (match RunIn.askRead ⟨0, 0, c, none⟩ (rowExt (ext hbm0 64) 32 0) s with | .ok () _ => true | _ => false) = true) ∧
    (let c := gatherC 5 0x87 0
     (match RunIn.walk ⟨0, 0, c, none⟩ (gatherOf c.desc) (withCmds [c]) with
      | .ok (_, some (st, pos)) _ => decide (st = stSegLimit) && decide (pos = 0)
      | _ => false) = true) ∧
    (let c := gatherC 6 0x71 1
     let s := withCmds [c]
     s.underway 0 0 0 opScatter c ∧ reedOf c.desc = none ∧ RunIn.allReady ⟨0, 0, c, none⟩ [8, 0x10, 0x18, 0x20] [] s ∧
     (match RunIn.askWrite ⟨0, 0, c, none⟩ (rowExt (ext hbm0 64) 32 0) s with | .ok () _ => true | _ => false) = true) := by
  unfold State.underway RunIn.allReady
  decide +kernel

/-- A package with one poisoned sector, the first of die C0's direct HBM. -/
def poisoned : State := up.setPoison (hbm0 / 64) true

/-- A package whose first tile stands in flash. -/
def inFlash : State := up.modTier (fun z => { z with tiles := [(0, { Tile.fresh with st := .f, inFlash := true })] })

theorem witness_SectorAddIsOneReadModifyWrite :
    up.running = true ∧ up.addable hbm0 = true ∧ up.addable (hbm0 + 9 * 12 * 2 ^ 30 - 64) = true ∧ up.writeReady true hbm0 64 = true ∧
    up.readPoison true hbm0 64 = false ∧ poisoned.readPoison true hbm0 64 = true ∧ poisoned.writeReady true hbm0 64 = true ∧
    inFlash.addable 0x100000000000 = true ∧ inFlash.writeReady true 0x100000000000 64 = false := by decide +kernel

/-! ### Witnesses: synchronisation -/

/-- A SIGNAL that has started: it adds 3 to object 5. -/
def signalC : Cmd := cmd (desc [(0, 1, 12), (1, 1, 0x80), (10, 2, 0x8005), (24, 4, 3)]) []

theorem witness_PlainCommandsComplete :
    (withCmds [signalC]).underway 0 0 0 opSignal signalC ∧
    (withCmds [cmd (desc [(0, 1, 13)]) []]).underway 0 0 0 opWait (cmd (desc [(0, 1, 13)]) []) ∧
    (withCmds [cmd (desc [(0, 1, 14)]) []]).underway 0 0 0 opFence (cmd (desc [(0, 1, 14)]) []) ∧
    dCpl signalC.desc = false ∧ dIrq signalC.desc = false ∧ signalC.late = false ∧
    signalsOf 0 signalC.desc = [(5, ⟨.quad 0, .package, false, 3⟩)] ∧ up.boot.diesInReset.contains (objDie 5) = false := by
  simp only [State.underway]
  decide +kernel

theorem witness_SyncObjectsTakeOperations :
    up.running = true ∧ up.boot.diesInReset.contains 0 = false ∧ up.boot.diesInReset.contains 3 = false := by decide +kernel

theorem witness_RegisterWritesReachSyncObjects :
    up.running = true ∧ up.mayWrite (.core 0) = true ∧ held.mayWrite .mgmtA = true ∧ up.mayWrite .mgmtB = false ∧
    up.syncGranted 0 0 = false ∧
    (up.setItem ⟨8, 0x12, 0, 0x80003FFF⟩).syncGranted 0 16383 = true := by decide +kernel

/-- A WAIT on object 7 reaching 1, with a deadline, in the wait slot of queue 0 of quad 0. -/
def waiter : Cmd := { cmd (desc [(0, 1, 13)]) [] with phase := .waitCond, held := [], conds := [⟨7, .package, false, 1⟩], deadline := some 10 }
/-- A package with that waiter and a wake of it. -/
def waiting : State := (up.modQueue 0 0 (fun x => { x with enable := true, state := .running, slot := some waiter })).modQuad 0
  (fun x => { x with wakes := [⟨0, 0, 7⟩] })

theorem witness_WaitsEndByWakeOrTimeout :
    waiting.quadRuns 0 = true ∧ (waiting.quad 0).wakes = [⟨0, 0, 7⟩] ∧ (waiting.queue 0 0).slot = some waiter ∧ waiting.drone ≤ 10 ∧
    ((waiting.modQuad 0 (fun x => { x with wakes := [] })).modQueue 0 0 (fun x => { x with slot := none })).orderMet 0 0
      { waiter with conds := [] } = true ∧
    ((up.modQuad 0 (fun x => { x with wakes := [⟨0, 0, 7⟩] })).quad 0).wakes = [⟨0, 0, 7⟩] ∧
    ({ waiting with time := { waiting.time with drone := 10 } } : State).drone = 10 ∧
    up.homeUp 0 = true ∧ up.homeUp 3 = true := by decide +kernel

/-! ### Witnesses: segments -/

/-- A unit whose staging words name 2 MiB of direct HBM at virtual address 0, read and write. -/
def staged : State := up.modStu 0 (fun t => { t with stage := [(3, 0x800), (4, 1), (5, 3)] })

theorem witness_SegmentInstallFollowsTheRules :
    staged.mayWrite (.core 0) = true ∧ (staged.stu 0).running = none ∧ ((staged.stu 0).seg 2047 15).valid = false ∧
    (staged.stu 0).staged.len2m ≠ 0 ∧ (staged.stu 0).staged.vbase + (staged.stu 0).staged.len ≤ 2 ^ 48 ∧
    (List.range 16).all (fun i => !((staged.stu 0).seg 2047 i).valid) = true ∧
    (staged.backed (staged.stu 0).staged.pbase (staged.stu 0).staged.len).bind tierOf = some 1 ∧
    attrOk 1 (staged.stu 0).staged = true ∧ ((mapped.stu 0).seg 0 0).valid = true ∧ (mapped.stu 0).running = none ∧
    ((mapped.modStu 0 (fun t => { t with running := some (.read 0 0) })).stu 0).running ≠ none ∧ 2048 / 2048 ≠ 0 := by decide +kernel

theorem witness_SegmentReadAndWithdraw :
    mapped.mayWrite (.core 0) = true ∧ (mapped.stu 0).running = none ∧ ((mapped.stu 0).seg 0 0).valid = true ∧
    ((mapped.stu 0).seg 2047 15).valid = false ∧
    ((mapped.modStu 0 (fun t => { t with running := some (.read 0 0) })).stu 0).running = some (.read 0 0) ∧
    ((mapped.modStu 0 (fun t => { t with running := some (.install 0 1) })).stu 0).running = some (.install 0 1) ∧
    ((mapped.modStu 0 (fun t => { t with running := some (.withdraw 0 0 2) })).stu 0).running = some (.withdraw 0 0 2) := by decide +kernel

/-- A package with a fault record. -/
def faulted : State := up.modStu 0 (fun t => t.setFault 63 ⟨true, 0, 0, 0, 0, 0⟩)

theorem witness_LookupsAndFaultsResolve :
    mapped.quadRuns 0 = true ∧ (mapped.quad 0).segCopy = [] ∧ ((mapped.stu 0).lookup 0 0x1FFFFF).isSome = true ∧
    ((mapped.stu 0).lookup 0 0x200000) = none ∧ ((faulted.stu 0).fault 63).valid = true ∧ faulted.waitersOf 0 63 = [] ∧
    ((faulted.stu 0).fault 0).valid = false ∧ faulted.mayWrite (.core 0) = true := by decide +kernel

/-! ### Witnesses: windows, packets, links and bridges -/

/-- A package at a later tick. -/
def at_ (n : Nat) (s : State) : State := s.modTime (fun t => { t with drone := n })

/-- A package at a later tick, the tick before it over. -/
def late (n : Nat) (s : State) : State := s.modTime (fun t => { t with drone := n, prev := n - 1 })

/-- An open window of 4 KiB of HBM at quad 0. -/
def winOpen : State := mapped.modWindow 0 31 (fun x => { x with size := 4096, opened := true, ext := some (ext hbm0 4096), epoch := 7 })

theorem witness_WindowRegistersOpenAndCount :
    mapped.mayWrite (.core 0) = true ∧ mapped.quadOpen 0 = true ∧ (mapped.window 0 31).held = [] ∧ (mapped.window 0 31).opened = false ∧
    (0x80000007 : Word).getLsbD 31 = true ∧
    ((mapped.modWindow 0 31 (fun x => { x with size := 4096 })).windowExts
      { (mapped.window 0 31) with size := 4096, epoch := 7, context := 0 } 0).isSome = true ∧
    mapped.windowExts (mapped.window 0 31) 0 = none ∧
    (winOpen.window 0 31).opened = true ∧ (winOpen.window 0 31).held = [] ∧ (0x7FFFFFFF : Word).getLsbD 31 = false := by decide +kernel

/-- A packet of a number of bytes for window 31 of quad 0 of this package. -/
def packet (epoch : Half) (offset n : Nat) : Packet :=
  { kind := .data, stage := .n, pastDateline := false, sideMinus := false, tag := 0, dest := ⟨0, 0, 0⟩, src := ⟨0, 0, 0⟩,
    dquad := 0, window := 31, epoch := epoch, offset := offset, squad := 0, status := 0, data := List.replicate n 1, rcd := [] }

/-- The open window of quad 0 with its die C0 held in reset: its memory is out of reach. -/
def away : State := winOpen.modBoot (fun b => { b with diesInReset := [0] })

/-- A page of the tiered range. -/
def tierExt : Extent := { ext 0x100000000000 4096 with tier := 2 }

/-- A window over a tiered page of a package whose tier is read-only. -/
def tierShut : State := (winOpen.modTier (fun z => { z with readOnly := true })).modWindow 0 31 (fun x => { x with ext := some tierExt })

theorem witness_PacketsAreJudgedByTheirWindow :
    winOpen.running = true ∧ isResponse (packet 7 0 64) = false ∧ (packet 7 0 64).dest = winOpen.self ∧ winOpen.present 0 = true ∧
    (winOpen.window 0 31).opened = true ∧ (winOpen.window 0 31).ext = some (ext hbm0 4096) ∧ (winOpen.window 0 31).epoch = 7 ∧
    winOpen.windowShut (winOpen.window 0 31) = false ∧ (winOpen.window 0 31).held = [] ∧
    (packet 7 4032 64).offset + 64 ≤ (winOpen.window 0 31).size.toNat ∧
    (winOpen.window 0 31).size.toNat < (packet 7 4033 64).offset + 64 ∧
    (winOpen.window 0 31).bytes.toNat + 64 ≤ (winOpen.window 0 31).limit.toNat ∧
    (let z := winOpen.modWindow 0 31 (fun x => { x with held := [] })
     z.packetReady 0 (z.window 0 31) (ext hbm0 4096) (packet 7 4032 64) = true ∧
     (away.modWindow 0 31 (fun x => { x with held := [] })).packetReady 0 (z.window 0 31) (ext hbm0 4096) (packet 7 4032 64) = false) ∧
    (away.window 0 31).opened = true ∧
    (let x := (winOpen.modWindow 0 31 (fun x => { x with limit := 63 })).window 0 31
     x.limit ≠ 0xFFFFFFFFFFFF ∧ x.limit.toNat < x.bytes.toNat + 64) ∧
    (mapped.window 0 31).opened = false ∧ (7 : Half) ≠ 8 ∧ (up.setItem ⟨2, 1, 15, 16⟩).present 15 = false ∧
    tierShut.tierReadOnly = true ∧ (tierShut.window 0 31).ext = some tierExt ∧ tierExt.tier = 2 := by decide +kernel

/-- A package whose quad 0 has a packet on the way for its started SEND, due at tick 100. -/
def sent : State := (withCmds [cmd moveD []]).modQuad 0 (fun x => { x with outstanding := [⟨9, 0, 0, 64, 100⟩] })

theorem witness_ResponsesAndDeadlines :
    sent.quadRuns 0 = true ∧ (sent.quad 0).outstanding.find? (fun x => decide (x.tag = 9)) = some ⟨9, 0, 0, 64, 100⟩ ∧
    (at_ 100 sent).drone ≤ 100 ∧ 100 < (late 101 sent).drone ∧ 100 ≤ (late 101 sent).time.prev ∧ (at_ 101 sent).time.prev < 100 ∧
    (sent.queue 0 0).find 0 = some (cmd moveD []) ∧ (cmd moveD []).status < 0x10 ∧ (cmd moveD []).failedAt = none := by decide +kernel

/-- A package at (3, 0, 0) of a torus of 8 × 4 × 1, whose links are up. -/
def torus : State :=
  let s := ((up.setItem ⟨4, 1, 0, 3⟩).setItem ⟨4, 2, 0, 7 + 3 * 1024⟩).setItem ⟨4, 3, 0, 0⟩
  (List.range 6).foldl (fun s n => s.modLink n (fun l => { l with st := .up })) s

theorem witness_PacketsTakeTheShorterWay :
    torus.boot.held = false ∧ onAxis torus.self 0 = 3 ∧ torus.ringLen 0 = 8 ∧ torus.ringLen 1 = 4 ∧ torus.linkUsable 0 = true ∧
    torus.linkUsable 1 = true ∧ torus.linkUsable 2 = true ∧ torus.linkUsable 3 = true ∧
    onAxis torus.self 0 ≠ onAxis (⟨7, 0, 0⟩ : Coords) 0 ∧ onAxis torus.self 0 = onAxis (⟨3, 2, 0⟩ : Coords) 0 ∧
    onAxis torus.self 1 ≠ onAxis (⟨3, 2, 0⟩ : Coords) 1 ∧ torus.self = ⟨3, 0, 0⟩ := by decide +kernel

/-- A control flit of a sequence number, whose check is not filled in. -/
def bare (seq : Nat) : Flit := ⟨0, 0, seq, 0, 0, 0, List.replicate 245 0, 0⟩
/-- A control flit with its check. -/
def flit (seq : Nat) : Flit := { bare seq with crc := flitCrc (bare seq) }

/-- A link that waits for an acknowledgement of one flit sent at tick 0. -/
def unacked : State := torus.modLink 5 (fun l => { l with replayBuf := [(flit 0, 0)] })

theorem flitCrc_crc (f : Flit) (x : Word) : flitCrc { f with crc := x } = flitCrc f := rfl

theorem good_flit (seq : Nat) : badFlit (flit seq) = false := by
  have h : flitCrc (flit seq) = flitCrc (bare seq) := flitCrc_crc _ _
  have h2 : (flit seq).crc = flitCrc (bare seq) := rfl
  have h3 : (flit seq).payload.length = 245 := List.length_replicate ..
  have h4 : (flit seq).type = 0 := rfl
  simp [badFlit, h, h2, h3, h4]

theorem witness_FlitsInOrderOrReplayed :
    ((∃ f : Flit, badFlit f = true) ∧ badFlit (flit 0) = false ∧ badFlit (flit 4095) = false) ∧
    ((unacked.link 5).replayBuf = [(flit 0, 0)] ∧ (torus.link 0).st = .up ∧ torus.boot.held = false) ∧
    (bare 0).seq = (torus.link 0).rxSeq ∧ (bare 4095).seq ≠ (torus.link 0).rxSeq ∧ (bare 0).type ≠ 1 ∧ (torus.link 0).txWait = [] ∧
    (torus.link 0).replayBuf = [] ∧ (unacked.link 5).st = .up ∧ (unacked.link 5).inRow ≠ 8 ∧
    ((unacked.modLink 5 (fun l => { l with inRow := 8 })).link 5).inRow = 8 ∧ 0 + 2000 < (late 2001 unacked).drone ∧
    0 + 2000 ≤ (late 2001 unacked).time.prev ∧ (at_ 2000 unacked).drone ≤ 0 + 2000 ∧ (at_ 2001 unacked).time.prev < 0 + 2000 :=
  ⟨⟨⟨⟨3, 0, 0, 0, 0, 0, [], 0⟩, by simp [badFlit]⟩, good_flit 0, good_flit 4095⟩, ⟨rfl, by decide +kernel⟩, by decide +kernel⟩

theorem witness_LinksFailAndTrain :
    torus.boot.held = false ∧ (torus.link 5).st = .up ∧ (torus.link 0).failedTx = [] ∧ (torus.link 0).failedRx = [] ∧
    (torus.link 0).spareTx = false ∧ (torus.link 0).spareRx = false ∧ (torus.link 0).width8 = false ∧ (torus.link 0).txWait = [] ∧
    ((torus.modLink 0 (fun l => { l with st := .retraining })).link 0).st = .retraining ∧
    (torus.link 0).since + 1000000 ≤ (at_ 1000000 torus).drone ∧ torus.linkUnused 0 = false ∧ torus.linkUnused 4 = true ∧
    ((torus.modLink 0 (fun l => { l with st := .down })).link 0).st = .down ∧
    (torus.link 0).since + 100000000 ≤ (at_ 100000000 torus).drone ∧
    ((torus.modLink 0 (fun l => { l with st := .training })).link 0).st = .training ∧ torus.neighbour 0 = ⟨4, 0, 0⟩ ∧
    torus.neighbour 3 = ⟨3, 3, 0⟩ := by decide +kernel

theorem witness_FaultInjectionIsKeptForTheHolder :
    held.mayManage .mgmtA = true ∧ held.drone < held.cfg.leaseEnd ∧ held.mayManage .mgmtB = false ∧ held.hostRuns = true ∧
    held.mgmtOpen = true ∧ held.holdsSem .mgmtB = false ∧ held.cfg.leaseEnd ≤ (at_ 10000000000 held).drone := by decide +kernel

/-- A package whose bridge 11 went down at tick 0. -/
def bridgeDown : State := up.modFabric (fun f => { f with up := 0x7FF, downAt := [(11, 0)] })

/-- That bridge with an addition to object 16383 of die C3 held before it. -/
def bridgeHolds : State := (bridgeDown.modBoot (fun b => { b with heldSync := [(16383, ⟨.quad 0, .package, false, 1⟩)] }))

theorem witness_BridgesRetrainAndFail :
    up.boot.held = false ∧ up.fabric.up.getLsbD 0 = true ∧ up.fabric.up.getLsbD 11 = true ∧ bridgeDown.fabric.up.getLsbD 11 = false ∧
    Table.get 0 bridgeDown.fabric.downAt 11 + 50000 < (late 50001 bridgeDown).drone ∧
    Table.get 0 bridgeDown.fabric.downAt 11 + 50000 ≤ (late 50001 bridgeDown).time.prev ∧
    bridgeDown.fabric.passedLong.getLsbD 11 = false ∧ bridgeDown.coh.txns = [] ∧
    Table.get 0 bridgeDown.fabric.downAt 11 + 10000000 ≤ (at_ 10000000 bridgeDown).drone ∧ bridgeDown.fabric.lost.getLsbD 11 = false ∧
    (List.range 6).all (fun n => decide ((bridgeHolds.link n).st ≠ .up) && decide ((bridgeHolds.link n).st ≠ .retraining)) = true ∧
    bridgeHolds.boot.diesInReset = [] ∧ (ran (.bridgeRetrainDone 11) bridgeHolds).pathUp (syncFrom (.quad 0)) (objDie 16383) 0 = true ∧
    (ran (.bridgeRetrainDone 11) bridgeHolds).syncVal 16383 = 1 := by decide +kernel

theorem witness_ClockFaultsStopTheDevice : up.boot.held = false ∧ up.running = true := by decide +kernel

/-! ### Witnesses: coherence and cores -/

/-- A package whose directory names agent o owner of line 0, which holds it in a state. -/
def owned (o : Nat) (st : LState) : State :=
  (up.modCoh (fun c => { c with dir := [(0, ⟨.dx, [o], false, 0⟩)] })).setLine o 0 ⟨st, .stable, List.replicate 64 9, false⟩

/-- A package with messages in flight. -/
def sending (l : List Msg) (s : State) : State := s.modCoh (fun c => { c with msgs := l })

theorem witness_ColdLinesAreServedFromMemory :
    up.homeFree 0 ∧ up.homeFree (hbm0 / 64) ∧ up.dirEntry 0 = DirEntry.none ∧ up.agentFree 129 0 = true ∧ (up.line 129 0).st = .i ∧
    up.asks (.agent 129) 0 = true ∧ (up.cacheRoom 129 0 false).isSome = true ∧ (up.cacheRoom 0 0 false).isSome = true ∧
    up.dirSpace 0 = true ∧ up.asks (.agent 0) 0 = true ∧ up.mayAsk (.agent 0) = true ∧ up.asks (.cacheless 0) 0 = true ∧
    up.mayAsk (.cacheless 0) = true ∧ up.sectorPoison 0 = false ∧ up.stashTo (.l2 5) = some 5 ∧
    (up.setPoison 0 true).homeFree 0 ∧ (up.setPoison 0 true).sectorPoison 0 = true := by
  unfold State.homeFree
  decide +kernel

theorem witness_HeldLinesAreSnooped :
    (owned 5 .m).homeFree 0 ∧ (owned 5 .m).dirEntry 0 = ⟨.dx, [5], false, 0⟩ ∧ (owned 5 .m).agentFree 0 0 = true ∧
    ((owned 5 .m).line 0 0).st = .i ∧ (owned 5 .m).asks (.agent 0) 0 = true ∧ ((owned 5 .m).cacheRoom 0 0 false).isSome = true ∧
    (owned 5 .m).mayAsk (.cacheless 0) = true ∧ (owned 5 .m).asks (.cacheless 0) 0 = true ∧
    (let s := (up.modCoh (fun c => { c with dir := [(0, ⟨.ds, [0, 5], false, 0⟩)] })).setLine 0 0 ⟨.s, .stable, [], false⟩
     s.homeFree 0 ∧ s.asks (.agent 0) 0 = true ∧ s.agentFree 0 0 = true ∧ (s.line 0 0).st = .s ∧ s.dirEntry 0 = ⟨.ds, [0, 5], false, 0⟩) ∧
    (let s := (up.modCoh (fun c => { c with dir := [(0, ⟨.ds, [0], false, 0⟩)] })).setLine 0 0 ⟨.s, .stable, [], false⟩
     s.homeFree 0 ∧ s.asks (.agent 0) 0 = true ∧ s.dirEntry 0 = ⟨.ds, [0], false, 0⟩ ∧ s.sectorPoison 0 = false) ∧
    (let s := (up.modCoh (fun c => { c with dir := [(0, ⟨.ds, [], true, 0⟩)] })).setLine 0 0 ⟨.s, .stable, [], false⟩
     s.homeFree 0 ∧ s.asks (.agent 0) 0 = true ∧ s.dirEntry 0 = ⟨.ds, [], true, 0⟩) := by
  unfold State.homeFree
  decide +kernel

/-- A package whose core 1 holds line 0 in a state and has a snoop of it to take. -/
def snooped (st : LState) (k : Snp) : State := sending [.snp k 1 0 (.agent 2)] (owned 1 st)

theorem witness_SnoopsAreAnswered :
    (snooped .m .shr).line 1 0 = ⟨.m, .stable, List.replicate 64 9, false⟩ ∧ (snooped .m .shr).coh.msgs = [.snp .shr 1 0 (.agent 2)] ∧
    (snooped .m .shr).msgUp (.snp .shr 1 0 (.agent 2)) = true ∧ (snooped .e .inv).msgUp (.snp .inv 1 0 (.agent 2)) = true ∧
    (snooped .o .own).coh.msgs = [.snp .own 1 0 (.agent 2)] ∧ (snooped .s .inv).line 1 0 = ⟨.s, .stable, List.replicate 64 9, false⟩ ∧
    (snooped .e .cln).coh.msgs = [.snp .cln 1 0 (.agent 2)] ∧ ((snooped .m .own).core 1).reservation ≠ some 0 ∧
    (let s := sending [.snp .shr 1 0 (.agent 2)] (up.setLine 1 0 ⟨.i, .miWb, [], false⟩)
     (s.line 1 0).tr = .miWb ∧ (s.line 1 0).st = .i ∧ s.msgUp (.snp .shr 1 0 (.agent 2)) = true) ∧
    (let s := sending [.snp .once 1 0 (.agent 2)] up
     s.line 1 0 = Line.none ∧ s.msgUp (.snp .once 1 0 (.agent 2)) = true) ∧
    (let s := (snooped .e .inv).modCore 1 (fun x => { x with reservation := some 0 })
     (s.core 1).reservation = some 0 ∧ (s.core 1).snoopHeld = none ∧
     ((ran (.snpInv 1 0) s).core 1).snoopHeld = some (.inv, .agent 2, 0) ∧
     (ran (.snpInv 1 0) s).line 1 0 = ⟨.e, .stable, List.replicate 64 9, false⟩) := by decide +kernel

/-- A transaction open at the home of line 0 with one snoop out to agent 5, due at tick 10. -/
def openTx (who : Requester) (req : Req) (k : Snp) : Txn := ⟨who, req, [(5, k, 10)], [], [], none, false, false, false, false⟩

/-- A package with that transaction and messages in flight. -/
def opened (who : Requester) (req : Req) (k : Snp) (ms : List Msg) : State :=
  sending ms ((owned 5 .m).modCoh (fun c => { c with txns := [(0, some (openTx who req k))] }))

/-- A package whose RD_OWN of agent 2 awaits its CMP_ACK, its snoops answered or not. -/
def acking (answered : Bool) : State :=
  sending [.cmpAck 2 0] ((owned 5 .m).modCoh (fun c => { c with txns := [(0, some { Txn.fresh (.agent 2) .rdOwn with answered := answered })] }))

theorem witness_AnswersCompleteTransactions :
    (let s := opened (.agent 2) .rdShared .shr [.rspState .o 5 0 true]
     s.coh.waiting = [] ∧ s.coh.retryQ = [] ∧ s.isDead 5 = false ∧ isTiered (0 * 64) = false ∧ s.datComing 0 = false ∧
     s.msgUp (.rspState .o 5 0 true) = true ∧ s.dirEntry 0 = ⟨.dx, [5], false, 0⟩ ∧ s.txn 0 = some (openTx (.agent 2) .rdShared .shr) ∧
     (at_ 10 s).drone ≤ 10 ∧ 10 < (late 11 s).drone ∧ 10 ≤ (late 11 s).time.prev ∧ (late 11 s).msgUp (.rspState .o 5 0 true) = true ∧
     (late 11 s).datComing 0 = false ∧ (late 11 s).running = true) ∧
    (let s := opened (.agent 2) .rdOwn .own [.rspInwb 5 0, .wbDirty 5 0 [] false]
     s.msgUp (.rspInwb 5 0) = true ∧ ([Msg.wbDirty 5 0 [] false] : List Msg).any (isWb 5 0) = true) ∧
    (opened (.agent 2) .rdOwn .own [.rspState .i 5 0 true]).msgUp (.rspState .i 5 0 true) = true ∧
    (opened (.cacheless 0) .rdOnce .once [.datSnp 5 0 [] false]).msgUp (.datSnp 5 0 [] false) = true ∧
    ((acking true).txn 0).any (fun x => x.answered) = true ∧ ((acking false).txn 0).any (fun x => !x.answered) = true ∧
    (acking true).msgUp (.cmpAck 2 0) = true ∧ (acking false).msgUp (.cmpAck 2 0) = true := by decide +kernel

theorem witness_AgentsTakeWhatTheyAreSent :
    (sending [.datHome (.agent 127) 0 .e [] false] up).msgUp (.datHome (.agent 127) 0 .e [] false) = true ∧
    (sending [.datFwd 5 127 0 .s [] false] up).msgUp (.datFwd 5 127 0 .s [] false) = true ∧
    (sending [.datHome (.cacheless 3) 0 .s [] false] up).msgUp (.datHome (.cacheless 3) 0 .s [] false) = true ∧
    (let s := sending [.cmp (.agent 0) 0 false 0] (up.setLine 0 0 ⟨.s, .smA, [], false⟩)
     (s.line 0 0).tr = .smA ∧ s.msgUp (.cmp (.agent 0) 0 false 0) = true) ∧
    (let s := sending [.datInstall 3 0 []] up
     s.msgUp (.datInstall 3 0 []) = true ∧ s.isDead 3 = false ∧
     ((s.modCoh (fun c => { c with msgs := [] })).cacheRoom 3 0 true).isSome = true) ∧
    (let s := sending [.wbAck 0 0] (up.setLine 0 0 ⟨.i, .miWb, [], false⟩)
     (s.line 0 0).tr = .miWb ∧ s.msgUp (.wbAck 0 0) = true ∧ (sending [.retry 0 0] s).msgUp (.retry 0 0) = true ∧
     (sending [.grant 0 0] s).msgUp (.grant 0 0) = true) ∧
    (owned 0 .m).wbCredit 0 0 = true ∧ ((owned 0 .m).line 0 0).tr = .stable ∧ ((owned 0 .m).line 0 0).st = .m ∧
    ((owned 0 .e).line 0 0).st = .e ∧ (owned 0 .m).coh.waiting = [] ∧ (owned 0 .m).txn 0 = none ∧
    (let s := sending [.wbMove 0 0 .m [] false] ((owned 0 .m).setLine 0 0 Line.none)
     s.dirEntry 0 = ⟨.dx, [0], false, 0⟩ ∧ (s.line 0 0).st = .i ∧ s.msgUp (.wbMove 0 0 .m [] false) = true ∧
     s.msgUp (.wbDirty 0 0 [] false) = true ∧ s.msgUp (.wbClean 0 0) = true ∧ s.line 128 0 = Line.none ∧ s.isDead 128 = false ∧
     ((s.modCoh (fun c => { c with msgs := [] })).cacheRoom 128 0 false).isSome = true) := by decide +kernel

/-- A core's access of an address of DDR5 where nothing stands in its way. -/
def mayDdr (s : State) (c pa n : Nat) : Bool :=
  s.hostRuns && decide (c < 128) && decide (s.backed pa n = some .ddr) && s.lineOpen c (pa / 64) && s.coh.msgs.isEmpty &&
  s.coh.dead.isEmpty && decide (0 < n) && decide (pa / 64 = (pa + n - 1) / 64) && s.coh.lines.all (fun e => !decide (e.1 % 2 ^ 42 = pa / 64) || decide (e.2.tr = .stable))

/-- A hart in M-mode with no PMP entry written. -/
theorem unguarded_m (s : State) (c : Nat) (h : (s.core c).pmpCfg = []) (hm : (s.core c).priv = .m) : s.unguarded c := by
  intro pa n use _ _
  simp [Core.pmpOk, Core.pmpMatch, h, hm]

/-- A hart whose first PMP entry gives every use of everything. -/
theorem unguarded_open (s : State) (c : Nat) (h : (s.core c).pmpCfg = [(0, 0x1F)])
    (ha : (s.core c).pmpAddr = [(0, 0x3FFFFFFFFFFFFF)]) : s.unguarded c := by
  intro pa n use h0 h1
  have hr : (s.core c).pmpRange 0 = some (0, 2 ^ 57) := by
    unfold Core.pmpRange; rw [h, ha]; decide +kernel
  have hm : (s.core c).pmpMatch pa n = some (0, 0, 2 ^ 57) := by
    have hl : List.range 16 = 0 :: (List.range 15).map (· + 1) := by decide
    unfold Core.pmpMatch; rw [hl, h]
    simp only [List.isEmpty_cons, List.findSome?_cons, hr, Option.bind_some]
    rw [if_pos (by omega : 0 < pa + n ∧ pa < 2 ^ 57 ∧ 0 < 2 ^ 57)]; simp
  have e1 : decide (pa + n ≤ 2 ^ 57) = true := decide_eq_true (by omega)
  have e2 : (Table.get (0 : Byte) (s.core c).pmpCfg 0) = 0x1F := by rw [h]; rfl
  have e0 : decide (0 ≤ pa) = true := decide_eq_true (Nat.zero_le _)
  unfold Core.pmpOk
  simp only [hm, e0, e1, e2]
  cases use <;> cases (s.core c).priv <;> decide

theorem coreMay_of (s : State) (c pa n : Nat) (h : mayDdr s c pa n = true) (hu : s.unguarded c) : s.coreMay c pa n := by
  simp only [mayDdr, Bool.and_eq_true, decide_eq_true_eq, List.isEmpty_iff, List.all_eq_true, Bool.or_eq_true, Bool.not_eq_true',
    decide_eq_false_iff_not] at h
  obtain ⟨⟨⟨⟨⟨⟨⟨⟨h1, h2⟩, h3⟩, h4⟩, h5⟩, h6⟩, h7⟩, h8⟩, h11⟩ := h
  exact ⟨h1, h2, .inl h3, h4, h5, h6, h7, h8, hu, fun e he hl => (h11 e he).resolve_left (fun hn => hn hl)⟩

/-- As `coreMay_of`, for a hart in M-mode with no PMP entry written. -/
theorem coreMay_m (s : State) (c pa n : Nat)
    (h : (mayDdr s c pa n && (s.core c).pmpCfg.isEmpty && decide ((s.core c).priv = .m)) = true) : s.coreMay c pa n := by
  simp only [Bool.and_eq_true, decide_eq_true_eq, List.isEmpty_iff] at h
  exact coreMay_of s c pa n h.1.1 (unguarded_m s c h.1.2 h.2)

theorem witness_AtomicsActOnTheNewestBytes :
    (up.coreMay 127 8 8 ∧ (owned 0 .e).coreMay 0 56 8) ∧
    8 / 16 = (8 + 7) / 16 ∧ (up.newest 0).1.length = 64 ∧ (up.newest 0).2 = false ∧ up.hostRuns = true ∧ up.sectorPoison 0 = false ∧
    (up.backed 0x180000000000 8 = some (.scratch 0) ∧ Region.amoOk (.scratch 0) = false) ∧
    (((owned 0 .e).line 0 0).serves true = true ∧ ((owned 0 .e).line 0 0).poison = false ∧
      ((owned 0 .e).line 0 0).data.length = 64 ∧
      (((owned 0 .e).modCore 0 (fun x => { x with reservation := some 0 })).core 0).reservation = some 0) ∧
    (up.dirEntry 0 = DirEntry.none ∧ up.coh.lines = [] ∧ up.coh.dir = [] ∧ up.coh.txns = []) ∧ up.dirSpace 0 = true ∧
    (up.cacheRoom 127 0 false).isSome = true ∧ (up.core 0).reservation ≠ some 0 ∧ up.fabric.up = 0xFFF ∧ up.boot.diesInReset = [] :=
  ⟨⟨coreMay_m _ _ _ _ (by decide +kernel), coreMay_m _ _ _ _ (by decide +kernel)⟩, by decide +kernel⟩

/-- Hart 0 in S-mode, given everything by its PMP, with a CBIE. -/
def superOf (k : Nat) (s : State) : State :=
  s.modCore 0 (fun x => { x with priv := .s, pmpCfg := [(0, 0x1F)], pmpAddr := [(0, 0x3FFFFFFFFFFFFF)],
                                 menvcfg := BitVec.ofNat 64 (16 * k) })

theorem witness_CacheBlockOperationsAndTimers :
    ((owned 129 .m).coreMay 0 0 1 ∧ up.coreMay 0 0 64 ∧ up.coreMay 0 63 1 ∧ (superOf 1 (owned 129 .m)).coreMay 0 0 1 ∧
      (superOf 3 (owned 129 .m)).coreMay 0 0 1) ∧ up.unguarded 0 ∧
    ((superOf 1 (owned 129 .m)).core 0).cbie = 1 ∧ ((superOf 3 (owned 129 .m)).core 0).cbie = 3 ∧
    ((superOf 2 up).core 0).cbie = 2 ∧ (up.core 0).cbie = 3 ∧
    (owned 129 .m).dirEntry 0 = ⟨.dx, [129], false, 0⟩ ∧
    (owned 129 .m).holders 0 = [(129, ⟨.m, .stable, List.replicate 64 9, false⟩)] ∧ (up.cacheRoom 0 0 false).isSome = true ∧
    up.dirSpace 0 = true ∧ up.backed 0x180000000000 1 = some (.scratch 0) ∧ up.hostRuns = true :=
  ⟨⟨coreMay_m _ _ _ _ (by decide +kernel), coreMay_m _ _ _ _ (by decide +kernel), coreMay_m _ _ _ _ (by decide +kernel),
      coreMay_of _ _ _ _ (by decide +kernel) (unguarded_open _ _ (by decide +kernel) (by decide +kernel)),
      coreMay_of _ _ _ _ (by decide +kernel) (unguarded_open _ _ (by decide +kernel) (by decide +kernel))⟩,
    unguarded_m _ _ (by decide +kernel) (by decide +kernel), by decide +kernel⟩

/-- A core whose PMP forbids every access in user mode. -/
def guarded : State := up.modCore 0 (fun x => { x with priv := .u, pmpCfg := [(0, 0x18)], pmpAddr := [(0, 0x3FFFFFFFFFFFFF)] })

theorem witness_CoresLoadAndStore :
    (up.coreMay 0 56 8 ∧ (owned 0 .m).coreMay 0 56 8) ∧ up.unguarded 0 ∧
    up.hostRuns = true ∧ regionOf 0x050000000000 ≠ some .config ∧ up.backed 0x050000000000 8 = none ∧
    up.backed (0x040000000000 - 4) 8 = none ∧ regionOf 0x190000000000 = some .config ∧ cfgAccessOk 2 4 = false ∧
    cfgAccessOk 0 3 = false ∧ cfgAccessOk 8 8 = true ∧ cfgAccessOk 4 8 = false ∧ placeOf 8 = .pkg 8 ∧ up.cfgReaches 0 8 = true ∧
    (guarded.core 0).pmpOk 0 8 .read = false ∧ (guarded.core 0).pmpOk 0 8 .write = false ∧
    ((owned 0 .m).line 0 0).serves false = true ∧ ((owned 0 .m).line 0 0).poison = false ∧
    (up.coh.lines = [] ∧ up.coh.dir = [] ∧ up.coh.txns = []) ∧ up.sectorPoison 0 = false ∧ up.fabric.up = 0xFFF ∧
    up.boot.diesInReset = [] ∧ ((owned 0 .m).line 0 0).data.length = 64 ∧ (up.cacheRoom 0 0 false).isSome = true ∧
    Table.get [] ((up.modCore 0 (fun x => { x with l1i := [(0, List.replicate 64 1)] })).core 0).l1i 0 ≠ [] ∧
    ((up.core 0).group 31 32).length = 32 :=
  ⟨⟨coreMay_m _ _ _ _ (by decide +kernel), coreMay_m _ _ _ _ (by decide +kernel)⟩, unguarded_m _ _ (by decide +kernel) (by decide +kernel),
    by decide +kernel⟩
/-! ### Witnesses: the tier -/

/-- A package whose tile 0 is in a state. -/
def tile0 (st : TileSt) : State := up.modTier (fun z => { z with tiles := [(0, { Tile.fresh with st := st, inFlash := true })] })
/-- A package whose channel 0 has a write group open since tick 0, and one to be programmed. -/
def grouped : State := (tile0 .w).modChannel 0 (fun c => { c with open_ := [0], programming := [[0]] })

theorem witness_TilesMoveBetweenFlashAndSlots :
    (tile0 .p).memWf = true ∧ (tile0 .p).tierQuiet ∧ grouped.tierQuiet ∧ grouped.memWf = true ∧ (tile0 .p).running = true ∧
    ((tile0 .p).tile 0).st = .p ∧
    (((tile0 .f).setTile 0 { (tile0 .f).tile 0 with bypass := .asked }).tile 0).bypass = .asked ∧
    ((tile0 .f).setTile 0 { (tile0 .f).tile 0 with bypass := .asked }).tileSt 0 = .f ∧
    (grouped.tier.channel 0).open_ ≠ [] ∧ (grouped.tier.channel 0).firstAt + 100000 ≤ (at_ 100000 grouped).drone ∧
    (grouped.tier.channel 0).programming = [0] :: [] ∧ grouped.flashHeld 0 = false ∧ ([0] : List Nat).Nodup ∧
    (grouped.tile 0).wanted = none ∧ grouped.boot.held = false ∧ 64 ≤ (up.tier.channel 0).free ∧ (up.tier.channel 0).blockErases = [] ∧ up.striped = false ∧
    262144 ≤ Table.get 0 (up.modTier (fun z => { z with checkpoints := [(0, 262144)] })).tier.checkpoints 0 := by
  unfold State.tierQuiet
  decide +kernel

/-- A MIGRATE of one tile, to HBM or to flash. -/
def migrateC (back : Nat) (moving : List Nat) : Cmd :=
  { cmd (desc [(0, 1, 16), (32 + 0x0C, 1, back)]) [(0, ext 0x100000000000 4096)] with passes := [(0, 1)], migrating := moving }
/-- A package that runs a command, with tile 0 in a state. -/
def tiered (c : Cmd) (st : TileSt) : State :=
  (withCmds [c]).modTier (fun z => { z with tiles := [(0, { Tile.fresh with st := st, inFlash := true })] })
/-- A PREFETCH_HINT of one tile. -/
def hintC : Cmd := cmd (desc [(0, 1, 15)]) [(0, ext 0x100000000000 4096)]

/-- A package whose hint queue and flash reads of one I/O die are full. -/
def hintsFull : State := (withCmds [hintC]).modTier (fun z =>
  { z with hintQ := List.replicate 4096 0, tiles := List.replicate 8192 (0, { Tile.fresh with st := .p, inFlash := true }) })

theorem witness_MigrationsAndHintsActOnTheirTiles :
    (tiered (migrateC 0 []) .r).underway 0 0 0 opMigrate (migrateC 0 []) ∧ (migrateC 0 []).passes ≠ [] ∧
    body (migrateC 0 []).desc 0x0C 1 = 0 ∧ (migrateC 0 []).tileRange = [0] ∧ ((tiered (migrateC 0 []) .r).tile 0).st = .r ∧
    ((tiered (migrateC 0 []) .f).tile 0).st = .f ∧
    (match (tiered (migrateC 0 []) .f).takeSlot (0 / 4) with | .got _ => true | _ => false) = true ∧
    body (migrateC 1 [0]).desc 0x0C 1 ≠ 0 ∧ (migrateC 1 [0]).migrating = [0] ∧ (migrateC 1 []).migrating = [] ∧
    ((tiered (migrateC 1 [0]) .r).tile 0).inFlash = true ∧ (tiered (migrateC 1 [0]) .r).coh.lines = [] ∧
    (withCmds [hintC]).underway 0 0 0 opPrefetch hintC ∧ hintC.passes = [] ∧ hintC.tileRange = [0] ∧
    (withCmds [hintC]).tier.hintQ = [] ∧ (withCmds [hintC]).flashReads (ioOf (tileChannel 0)) < 8192 ∧
    (withCmds [hintC]).nextRead (ioOf (tileChannel 0)) = none ∧ (tiered (migrateC 1 [0]) .r).quietCaches ∧
    (tiered (migrateC 0 []) .f).tileSt 0 = .f ∧ (tiered (migrateC 1 [0]) .r).coh.waiting = [] := by
  unfold State.underway State.quietCaches
  decide +kernel

theorem witness_HintsWait : (∀ y ∈ hintsFull.tier.hintQ, 8192 ≤ hintsFull.flashReads (ioOf (tileChannel y))) ∧
    hintsFull.hintsAt (ioOf (tileChannel 0)) = 4096 ∧ hintsFull.underway 0 0 0 opPrefetch hintC := by
  refine ⟨?_, ?_, ?_⟩
  · intro y hy
    have h : y = 0 := List.eq_of_mem_replicate hy
    subst h
    have ht : hintsFull.tier.tiles = List.replicate 8192 (0, { Tile.fresh with st := .p, inFlash := true }) := rfl
    rw [State.flashReads, ht, List.filter_replicate]
    rw [if_pos (by decide), List.length_replicate]
  · have hq : hintsFull.tier.hintQ = List.replicate 4096 0 := rfl
    rw [State.hintsAt, hq, List.filter_replicate, if_pos (by decide), List.length_replicate]
  · exact ⟨rfl, rfl, rfl, rfl, by decide +kernel⟩

/-- A package with placement object 0 valid over units 0 to 7. -/
def objected : State := up.modTier (fun z => { z with objects := [(0, { TObj.reset with size := 8, valid := true })] })
/-- A STRIPED package. -/
def striped : State := up.setItem ⟨7, 1, 0, 1⟩

theorem witness_ObjectsScheduleAndRegionsFollowTheirRules :
    up.mayWrite (.core 0) = true ∧ (up.tier.object 1023).valid = false ∧ (objected.tier.object 0).valid = true ∧
    bit (0x84000000 : Word).toNat 31 = true ∧ bits (0x84000000 : Word).toNat 28 2 < 3 ∧ bits (0x84000000 : Word).toNat 24 3 ≤ 4 ∧
    (let s := up.setObject 1 { TObj.reset with base := 0x3FFFFF, size := 1 }
     s.tierUnits < (s.tier.object 1).base + (s.tier.object 1).size) ∧
    (let s := objected.setObject 1 { TObj.reset with base := 7, size := 1 }
     (s.tier.object 1).base + (s.tier.object 1).size ≤ s.tierUnits ∧ (s.tier.object 0).overlaps (s.tier.object 1) = true) ∧
    (let s := objected.setObject 1 { TObj.reset with base := 8, size := 1 }
     s.objectError 1 { TObj.reset with base := 8, size := 1, valid := true } 4 = 0) ∧
    (let s := objected.modTier (fun z => { z with schedEnable := true, schedTail := 1 })
     s.tier.schedEnable = true ∧ s.tier.schedHead ≠ s.tier.schedTail ∧ s.tier.active.length < 64 ∧ isTiered 0 = false ∧
     s.hostClosed 0 = false ∧ s.readReady true 0 32 = true ∧ s.readPoison true 0 32 = false ∧ (s.tier.object (field (s.readPhys true 0 32) 0 2)).valid = true) ∧
    (let s := (objected.modTier (fun z => { z with schedEnable := true, schedTail := 1 })).setBytes 0 [0, 0, 1, 0, 0, 0, 0, 0, 1]
     let bs := s.readPhys true 0 32
     field bs 0 2 ≤ 1023 ∧ field bs 4 4 + field bs 8 4 ≤ 8 * 512 ∧ field bs 2 1 = 1 ∧ field bs 8 4 ≠ 0 ∧
     field bs 0x10 8 ≤ s.time.step + field bs 3 1 ∧ 0 + 0 < field ((s.setBytes 16 [1]).readPhys true 0 32) 0x10 8) ∧
    (let s := up.setTile 5 { Tile.fresh with protTill := some 1 }
     (s.tile 5).protTill.isSome = true ∧ (s.tile 5).protAt + 2 ^ 24 ≤ (at_ (2 ^ 24) s).drone) ∧
    up.striped = false ∧ striped.striped = true ∧ striped.tier.regionOp = none ∧ striped.sourceOk = true ∧ (1983 : Nat) < 1984 ∧
    (striped.modTier (fun z => { z with regionOp := some (1983, true, 0) })).tier.regionOp.isSome = true ∧
    striped.boot.held = false ∧ striped.tierQuiet ∧ striped.coh.lines = [] ∧ (striped.failBlocks 1983 []).1 = true ∧
    (striped.failBlocks 1983 [(0, 0)]).1 = true ∧
    ((striped.modTier (fun z => { z with channels := [(0, { Channel.reset with retired := (List.range 64).map (1984 + ·) })] })).failBlocks 1983 [(0, 0)]).1 = false := by
  unfold State.tierQuiet
  decide +kernel

/-! ### Witnesses: time, power and heat -/

/-- A package of the torus with a parent on link 0. -/
def child : State := torus.modTime (fun t => { t with parent := 0 })
/-- A candidate for root at (7, 0, 0). -/
def rootFar : Candidate := ⟨⟨7, 0, 0⟩, 5, true, 0⟩
/-- A package with one queued boundary at tick 10. -/
def bounded : State := up.modTime (fun t => { t with bounds := [10] })

theorem witness_TimeFollowsTheTorus :
    up.boot.held = false ∧ child.time.loaded = false ∧ child.hasParent = true ∧
    ((child.modTime (fun t => { t with loaded := true })).time.loaded = true) ∧
    child.time.lastExchange + 1024 ≤ (at_ 1024 child).drone ∧ 0 < (up.setItem ⟨4, 4, 0, 1⟩).item 4 4 0 ∧ up.item 4 4 0 = 0 ∧
    rootFar.at_ ≠ torus.self ∧ 0 < rootFar.priority ∧ torus.parentFor [torus.selfCandidate, rootFar] rootFar.at_ = some 0 ∧
    up.time.isRoot = false ∧ up.mayWrite (.core 0) = true ∧ up.time.bounds.length < 4 ∧ 4 ≤ [1, 2, 3, 4].length ∧
    (∀ x ∈ bounded.time.bounds, x < 11) ∧ (∃ x ∈ bounded.time.bounds, 10 ≤ x) ∧ bounded.time.bounds = [10] ∧ 10 ≤ (at_ 10 bounded).drone ∧
    (at_ 9 bounded).drone < 10 ∧ up.boot.diesInReset.contains (objDie bounded.time.linkObj) = false ∧
    bounded.pathUp (syncFrom .stepUnit) (objDie bounded.time.linkObj) 0 = true ∧ (at_ 10 bounded).tierQuiet := by
  unfold State.tierQuiet
  decide +kernel

/-- A package whose compute dies go to a mode. -/
def changing (m : Nat) : State :=
  (up.modPower (fun p => { p with target := m, transition := true })).modDiePower 3 (fun x => { x with stepDone := false })

/-- Compute die 0 at a divider and a rail in a change to a mode. -/
def dieAt (m divider mv : Nat) : State :=
  (changing m).modDiePower 0 (fun x => { x with divider := divider, railMv := mv, stepDone := false })

theorem witness_ModesChangeStepByStep :
    (up.mayWrite (.core 0) = true ∧ bits (0x40000000 : Word).toNat 30 2 = 1 ∧ up.power.cur = 0 ∧ up.power.transition = false ∧
      bits (0xC0000000 : Word).toNat 30 2 = 3 ∧ (changing 1).power.transition = true ∧ ((changing 1).diePower 3).stepDone = false ∧
      ((changing 1).diePower 3).nextRamp ≤ (changing 1).drone ∧ (changing 1).stretched 3 = false ∧
      ((changing 1).diePower 3).lastStretch = 0) ∧
    (((dieAt 0 6 0).modeDivider 0 < ((dieAt 0 6 0).diePower 0).divider ∧ ((dieAt 0 6 0).diePower 0).stepDone = false ∧
      ((dieAt 1 4 0).diePower 0).divider < (dieAt 1 4 0).modeDivider 1 ∧ ((dieAt 2 6 750).diePower 0).divider = (dieAt 2 6 750).modeDivider 2) ∧
    ((dieAt 0 6 0).diePower 0).railMv < fusedMv 0 0 ∧ ((dieAt 0 6 (fusedMv 0 0)).diePower 0).railMv = fusedMv 0 0 ∧
      fusedMv 0 2 < ((dieAt 2 6 750).diePower 0).railMv) ∧
    ((let s := (changing 0).modDiePower 0 (fun x => { x with droop := true, divider := 6 })
      s.stretched 0 = true ∧ (s.diePower 0).divider ≠ s.modeDivider 0) ∧
     (let s := (changing 0).modDiePower 3 (fun x => { x with deferredAt := some 0 })
      s.power.queuedReq = none ∧ (s.diePower 3).deferredAt = some 0 ∧ 0 + 2000 < (at_ 2001 s).drone) ∧
     (up.diePower 7).droop = false ∧ ((up.modDiePower 7 (fun x => { x with droop := true })).diePower 7).droop = true) := by
  refine ⟨by decide +kernel, ⟨by decide +kernel, ?_, rfl, ?_⟩, by decide +kernel⟩
  · exact Nat.lt_of_lt_of_le (by decide) (Nat.le_add_right 720 _)
  · show 580 + Config.fusedRail 0 2 % 61 < 750
    omega

theorem witness_EnergyAlertsAndHeatSetTheLevels :
    up.boot.held = false ∧ (up.modPower (fun p => { p with cur := 1 })).power.cur ≠ 0 ∧ up.power.cur = 0 ∧ up.anyFloor = false ∧
    up.power.capL ≤ 16 ∧ up.cap * 1000000 < (up.modPower (fun p => { p with history := [up.cap * 1000000 + 1] })).power.history.sum ∧
    (up.modPower (fun p => { p with floorAlert := true })).anyFloor = true ∧ up.power.calModes = [] ∧
    bit (up.item 6 3 0) 7 = true ∧ bit ((up.setItem ⟨6, 3, 0, 0x7F⟩).item 6 3 0) 7 = false ∧
    (up.modPower (fun p => { p with floorAlert := true })).power.alertAt + 100000 < (late 100001 up).drone ∧
    up.power.alertAt + 100000 ≤ (late 100001 up).time.prev ∧ (at_ 100000 up).drone ≤ up.power.alertAt + 100000 ∧
    (at_ 0 up).anyFloor = false := by decide +kernel

/-! ### Witnesses: errors and the log -/

/-- A command that holds an array, with a number of passes of unit 3. -/
def markedC (n : Nat) : Cmd := { cmd (desc [(0, 1, 2), (4, 3, 0x831)]) [] with held := [(stArray0, 1)], passes := if n = 0 then [] else [(3 * 2 ^ 32 + 3, n)] }
/-- A staged record that may leave. -/
def staged0 (cls : Nat) (op : Bool) : ErrRec := { errRec cls 0x18 4 6 0xFF with open_ := op }
/-- A package with a record staged at X0. -/
def logged (cls : Nat) (op : Bool) : State := up.modLog (fun l => l.setQueue 6 [staged0 cls op])

theorem witness_ChecksScoresAndScrub :
    (withCmds [markedC 2]).quadRuns 0 = true ∧ ((withCmds [markedC 2]).queue 0 0).find 0 = some (markedC 2) ∧
    up.hasCheck stArray0 0 = true ∧ up.hasCheck stReed 2 = false ∧ (markedC 2).phase = .running ∧ (markedC 2).ran = false ∧
    (markedC 2).held.any (fun p => decide (p.1 = stArray0)) = true ∧ Table.get 0 (markedC 2).passes (stArray0 * 2 ^ 32 + 3) < 3 ∧
    3 ≤ Table.get 0 (markedC 3).passes (stArray0 * 2 ^ 32 + 3) ∧ up.boot.held = false ∧ up.present 63 = true ∧
    ((up.modQuad 0 (fun x => { x with score := 63 })).quad 0).score < 64 ∧ 64 ≤ 63 + 8 ∧
    ((up.modQuad 0 (fun x => { x with score := 63 })).quads.map Prod.fst).Nodup ∧
    up.holders 0 = [] ∧ up.hbmDie 0 = none ∧ (up.wordPlace 0).isSome = true ∧ bit (up.item 2 3 0) 3 = false ∧
    (owned 0 .m).holders 0 = [(0, ⟨.m, .stable, List.replicate 64 9, false⟩)] ∧ bit (up.item 2 3 0) 1 = false ∧
    (owned 0 .m).pinned 0 = false ∧ (0 < (3 : Nat) ∧ (3 : Nat) < 4) ∧ 0 + up.extWindow 0 ≤ (at_ 10000000000 up).drone := by decide +kernel

theorem witness_RecordsReachTheLog :
    ((logged 0 true).log.queue 6)[0]? = some (staged0 0 true) ∧ (staged0 0 true).drone + 2 ^ 20 ≤ (at_ (2 ^ 20) (logged 0 true)).drone ∧
    (let s := (logged 2 false).modLog (fun l => { l with enable := true, log2Size := 6 })
     s.nextRecord = some (6, 0, staged0 2 false) ∧ s.logRoom = true ∧ s.log.base.toNat % 64 = 0 ∧ isTiered (s.log.slotAt s.log.write) = false) ∧
    (logged 1 false).nextRecord = some (6, 0, staged0 1 false) ∧ (logged 1 false).logRoom = false ∧ (staged0 1 false).cls < 2 ∧
    up.nextRecord = none ∧ up.mayWrite (.core 0) = true ∧ bit (0x80000014 : Word).toNat 31 = true ∧ bits (0x80000014 : Word).toNat 0 5 ≤ 20 ∧
    up.logFits 0 (2 ^ 20) = true ∧ up.logFits (0x040000000000 - 64) 64 = false := by decide +kernel

theorem witness_QuietCaches : (logged 2 false).quietCaches := ⟨rfl, rfl, rfl, rfl⟩

/-! ### Witnesses: management -/

theorem witness_ManagementMessagesAreAnswered :
    portNo .mgmtA = some 0 ∧ portNo .mgmtB = some 1 ∧ up.boot.held = false ∧ up.mayRead .mgmtA = true ∧ cfgBacked 0xFFC0 64 = true ∧
    cfgBacked 0xFFC4 64 = false ∧ (List.replicate 32 (0 : Byte)).length = 32 ∧
    (let s := up.modLog (fun l => { l with enable := true, log2Size := 6, write := 1 })
     0 < (s.log.write - 0).toNat ∧ (s.log.write - 0).toNat ≤ s.log.size ∧ s.coh.closed = false ∧ s.readPoison true (s.log.slotAt 0) 64 = false) ∧
    up.log.enable = false ∧ up.mgmtOpen = true ∧ up.holdsSem .mgmtA = false ∧ held.holdsSem .mgmtA = true ∧ held.item 8 0x15 0 = 0 ∧
    (held.setItem ⟨8, 0x15, 0, 1⟩).item 8 0x15 0 ≠ 0 := by decide +kernel

/-- A package whose holder has a transaction open, with staged items. -/
def staging (st : Nat) (l : List CfgItem) : State :=
  held.modCfg (fun c => { c with txnState := st, txnOwner := 1, txnDeadline := some 10000000000, staged := l })

theorem witness_TransactionsApplyWholeOrNotAtAll :
    up.mgmtOpen = true ∧ up.cfg.holder = 0 ∧ held.cfg.holder ≠ 0 ∧ held.holdsSem .mgmtA = true ∧ (held.links.map Prod.fst).Nodup ∧
    held.cfg.txnState = 0 ∧ (staging 1 []).cfg.txnState = 1 ∧ (staging 1 []).cfg.txnOwner = 0 + 1 ∧
    ([⟨8, 0x11, 0, 0x80000000⟩] : List CfgItem).all (staging 1 []).mayStage = true ∧
    ([⟨2, 1, 0, 0⟩] : List CfgItem).all (staging 1 []).mayStage = false ∧
    (staging 1 [⟨8, 0x11, 0, 0x80000000⟩]).verifyTxn = none ∧ (staging 1 [⟨8, 0x11, 128, 0⟩]).verifyTxn = some (2, 0) ∧
    (staging 1 []).cfg.applyAt = none ∧ up.boot.held = false ∧
    (let s := late 10000000001 (staging 1 [])
     s.cfg.leaseEnd < s.drone ∧ s.cfg.leaseEnd ≤ s.time.prev ∧ s.cfg.txnDeadline = some 10000000000 ∧ 10000000000 < s.drone ∧
     10000000000 ≤ s.time.prev) ∧ held.drone ≤ held.cfg.leaseEnd ∧
    (staging 2 [⟨8, 0x11, 0, 0x80000000⟩]).cfg.staged.all (staging 2 [⟨8, 0x11, 0, 0x80000000⟩]).quietFor = true ∧
    ((staging 2 [⟨8, 0x11, 0, 5⟩]).modCfg (fun c => { c with applyAt := some 171 })).cfg.applyAt = some 171 ∧
    171 ≤ (at_ 171 (staging 2 [⟨8, 0x11, 0, 5⟩])).drone := by decide +kernel

/-- Signatures and digests are opaque, so no state is shown on which a signature or an image passes its check. -/
theorem witness_StoreAndKeysFollowTheirRules :
    held.mgmtOpen = true ∧ held.holdsSem .mgmtA = true ∧ 0 + 240 ≤ storeSize ∧ held.cfg.meetsField 0 240 = false ∧
    storeSize < storeSize - 239 + 240 ∧ (held.modCfg (fun c => { c with booted := true, bank := 1 })).cfg.bank = 1 ∧
    held.cfg.booted = false ∧ (held.modCfg (fun c => { c with storing := some 0 })).cfg.storing = some 0 ∧ held.cfg.storing ≠ some 0 ∧
    imageLenOk 4096 = true ∧ imageLenOk trailerOff = true ∧ imageLenOk 4095 = false ∧ held.cfg.keys.length = 4 ∧
    (held.cfg.slot 2).digest = none ∧ (held.cfg.slot 3).digest = none ∧ held.cfg.liveKey 3 = none ∧ held.cfg.signedBy 3 [] [] = false := by
  decide +kernel

/-! ### Witnesses: resets, boot, Ethernet and PCIe -/

theorem witness_ResetLevelsClearAndKeep :
    (up.modBoot (fun b => { b with thermtrip := true })).boot.thermtrip = true ∧ held.mayReset .mgmtA = true ∧
    held.mayReset (.core 0) = false ∧ (up.modBoot (fun b => { b with held := true })).boot.held = true ∧ held.boot.held = false ∧
    held.boot.done = true ∧ held.quadOpen 63 = true ∧ (held.setItem ⟨2, 1, 15, 16⟩).quadOpen 15 = false ∧ (held.quad 63).queues = [] ∧
    (held.quad 63).windows = [] ∧ held.homesBusy 3 = false ∧
    (held.modBoot (fun b => { b with diesInReset := [3] })).boot.diesInReset.contains 3 = true ∧ held.boot.rewaits = [] ∧
    held.boot.heldSync = [] ∧ held.coh.waiting = [] ∧ held.boot.diesInReset.contains 3 = false ∧ held.coh.closed = false ∧
    held.coh.txns = [] ∧ (held.modCoh (fun c => { c with closed := true })).coh.closed = true ∧ held.mayManage .mgmtA = true ∧
    held.mayManage .mgmtB = false ∧ ((owned 0 .m).dirEntry 0).owner = some 0 := by decide +kernel

/-- A package whose homes hold nothing poisoned. -/
theorem nothing_poisoned (i : Nat) : held.sectorPoison i = false := rfl

/-- A package in a stage of boot. -/
def booting (stage : Nat) : State := State.reset.modBoot (fun b => { b with stage := stage })

/-- Digests are opaque, so no bank's choice is shown; either answer of chooseBank meets one of the statement's clauses. -/
theorem witness_BootRunsItsStages :
    up.boot.done = true ∧ (booting 1).stageRuns 2 = false ∧ (booting 1).boot.held = false ∧ (booting 1).boot.done = false ∧
    (booting 1).boot.recovery = false ∧ (booting 1).boot.thermtrip = false ∧ (booting 1).boot.failedStage = 0 ∧
    (booting 1).stageRuns 1 = true ∧ (booting 2).stageRuns 2 = true ∧ (booting 3).stageRuns 3 = true ∧ (booting 4).stageRuns 4 = true ∧
    (booting 5).stageRuns 5 = true ∧ (booting 5).stageRuns 6 = true ∧ (booting 7).stageRuns 7 = true ∧ (booting 5).log.fatal = false ∧
    ((booting 5).modLog (fun l => { l with fatal := true })).log.fatal = true ∧ (booting 4).cfg.field = [] ∧
    (booting 6).tier.formatted = ((booting 6).item 7 1 0, (booting 6).item 7 2 0) ∧
    (((booting 5).setItem ⟨7, 1, 0, 1⟩).tier.formatted ≠
      (((booting 5).setItem ⟨7, 1, 0, 1⟩).item 7 1 0, ((booting 5).setItem ⟨7, 1, 0, 1⟩).item 7 2 0)) := by decide +kernel

/-- A package at the end of stages 0x5 and 0x6, its X rings of length 2 and no link masked. -/
def joining : State :=
  ((booting 5).modBoot (fun b => { b with memDone := true, flashDone := true })).setItem ⟨4, 2, 0, 1⟩ |>.setItem ⟨4, 3, 0, 0⟩

/-- Stage 0x7 starts the training of X+, and not of Y+, whose axis has length 1 (R359, R361). -/
theorem test_links_start_training :
    (joining.joinStages.link 0).st = .training ∧ (joining.joinStages.link 2).st = .down := by decide +kernel

/-- An entry of queue pair 0 of EX0 in a state: 16 slots, its rings at virtual addresses 0 and 0x1000 of context 0, two
retries, window 0 of quad 0 for SEND. -/
def entry (st : Nat) : List Byte := (desc [(0, 1, st), (7, 1, 3), (0x0B, 1, 0x22), (0x0F, 1, 4), (0x20, 4, 0x1000)]).take 64
/-- A work request of an opcode: 64 bytes at virtual address 0x2000, signalled. -/
def wqe (op : Nat) : List Byte := (desc [(0, 1, op), (1, 1, 1), (4, 4, 64), (8, 8, 0x8000000000002000)]).take 64
/-- A package whose queue pair 0 is in a state, with one request posted. -/
def paired (st op : Nat) : State :=
  ((mapped.writePhys true 0 (entry st)).writePhys false hbm0 (wqe op)).modQp 0 0 (fun y => { y with tail := 1 })
/-- The same with the request sent. -/
def sentOff (op : Nat) : State := (paired 3 op).modQp 0 0 (fun y => { y with head := 1, busy := [0] })

theorem qpPlain_of (s : State) (h : s.qpReady 0 0 = true ∧ s.qpBacked 0 0 = true ∧ (s.qpReg 0).base.toNat % 64 = 0)
    (hl : s.coh = State.reset.coh) : s.qpPlain 0 0 := by
  unfold State.qpPlain State.quietCaches
  rw [hl]
  exact ⟨h.1, h.2.1, h.2.2, rfl, rfl, rfl, rfl⟩

theorem witness_QpPlain : (paired 3 1).qpPlain 0 0 ∧ (paired 0 1).qpPlain 0 0 ∧ (sentOff 1).qpPlain 0 0 :=
  ⟨qpPlain_of _ (by decide +kernel) rfl, qpPlain_of _ (by decide +kernel) rfl, qpPlain_of _ (by decide +kernel) rfl⟩

/-- Whether a request's local range can be used. -/
def localOk (s : State) (write : Bool) (w : List Byte) : Bool :=
  match s.localRange 0 (s.qpEntry 0 0) w write with
  | .ok _ => true
  | _ => false

/-- The place of a checked range. -/
def placed (s : State) (need va len : Nat) : Option Nat :=
  match s.checkEth 0 0 need va len with
  | .ok c => some c.pa
  | _ => none

theorem witness_QueuePairsTakeAndSendRequests :
    (paired 3 1).mayWrite (.core 0) = true ∧ bits (0x00000001 : Word).toNat 16 13 = 0 ∧ bits (0x80010000 : Word).toNat 0 13 = 0 ∧
    bit (0x80010000 : Word).toNat 31 = true ∧ bits (0x80030000 : Word).toNat 16 3 = 3 ∧ ((paired 3 1).qp 0 0).busy = [] ∧
    (((paired 3 1).modQp 0 0 (fun y => { y with tail := 0 })).qp 0 0).posted = [] ∧ qpState ((paired 3 1).qpEntry 0 0) = 3 ∧ ((paired 3 1).qp 0 0).head ≠ ((paired 3 1).qp 0 0).tail ∧
    (paired 3 1).wqeAt 0 ((paired 3 1).qpEntry 0 0) 0 = some (wqe 1) ∧ (paired 3 2).wqeAt 0 ((paired 3 2).qpEntry 0 0) 0 = some (wqe 2) ∧
    (paired 3 3).wqeAt 0 ((paired 3 3).qpEntry 0 0) 0 = some (wqe 3) ∧ wqeOp (wqe 3) = 3 ∧ wqeLen (wqe 1) ≤ 2 ^ 31 ∧
    localOk (paired 3 1) false (wqe 1) = true ∧ localOk (paired 3 2) true (wqe 2) = true ∧ (paired 3 2).readsOut 0 0 = false ∧
    (let s := paired 3 1
     s.ringsReady 0 (s.qpEntry 0 0) 0 = true ∧ bit (s.eth (qpPort 0 (s.qpEntry 0 0))).paused.toNat (qpPcp (s.qpEntry 0 0)) = false ∧
     (s.qp 0 0).head = 0) ∧
    qpState ((paired 0 1).qpEntry 0 0) ≠ 3 := by decide +kernel

theorem witness_AnswersAndInboundMessagesFindTheirPlace :
    (sentOff 1).ringsReady 0 ((sentOff 1).qpEntry 0 0) 0 = true ∧ (sentOff 1).ethStash (qpPort 0 ((sentOff 1).qpEntry 0 0)) = .none ∧
    localOk (sentOff 2) true (wqe 2) = true ∧ qpState ((sentOff 1).qpEntry 0 0) = 3 ∧ ((sentOff 1).qp 0 0).busy = [0] ∧ (sentOff 1).wqeAt 0 ((sentOff 1).qpEntry 0 0) 0 = some (wqe 1) ∧
    placed (sentOff 1) needWrite 0x1000 32 = some (hbm0 + 0x1000) ∧ isTiered (hbm0 + 0x1000) = false ∧
    (sentOff 1).hostClosed (hbm0 + 0x1000) = false ∧ (sentOff 1).writePoison false (hbm0 + 0x1000) 32 = false ∧
    bit (wqeFlags (wqe 1)) 1 = false ∧ wqeOp (wqe 1) ≠ 2 ∧ localOk (sentOff 1) false (wqe 1) = true ∧
    ((sentOff 1).qp 0 0).rnr < bits (field ((sentOff 1).qpEntry 0 0) 0x0B 1) 4 3 ∧
    ((sentOff 1).qp 0 0).retries < bits (field ((sentOff 1).qpEntry 0 0) 0x0B 1) 0 3 ∧
    bits (field ((sentOff 1).qpEntry 0 0) 0x0B 1) 0 3 ≤ (((sentOff 1).modQp 0 0 (fun y => { y with retries := 7 })).qp 0 0).retries := by
  decide +kernel

/-- Queue pair 0 ready to receive, beside an open window 0 of 4 KiB of HBM at quad 0. -/
def receiving : State := (paired 2 1).modWindow 0 0 (fun x => { x with size := 4096, opened := true, ext := some (ext hbm0 4096) })

/-- A message of one packet for that window. -/
def inbound (rkey : Word) : RdmaIn := { qpn := 0, rkey := rkey, base := 0, done := 0, total := 4, last := true, data := [1, 2, 3, 4] }

theorem witness_AnswersAndInboundMessagesFindTheirPlace_inbound :
    qpState ((paired 0 1).qpEntry 0 0) ≠ 2 ∧ qpState (receiving.qpEntry 0 0) = 2 ∧ rkeyTarget 0x20 = none ∧
    rkeyTarget 0 = some (0, 0, 0) ∧ receiving.present 0 = true ∧ receiving.ethStash 0 = .none ∧ (receiving.window 0 0).linkEn = false ∧
    (match receiving.judgeAt 0 0 0 0 4 with
     | .accept g => decide (g = ext hbm0 4096)
     | _ => false) = true ∧ isTiered hbm0 = false ∧ receiving.windowReady 6 (ext hbm0 4096) hbm0 4 = true ∧
    (receiving.window 0 0).held = [] ∧ receiving.dieReachesAll 6 hbm0 4 = true ∧ receiving.hostClosed hbm0 = false ∧
    receiving.writePoison false hbm0 4 = false ∧ receiving.qpAt 0 0 + 64 ≤ hbm0 ∧ (receiving.window 0 0).opened = true ∧
    (receiving.window 0 0).epoch = 0 ∧ 0 + 4 ≤ (receiving.window 0 0).size.toNat ∧ placed receiving needRead 0 4 = some hbm0 ∧
    receiving.readReady false hbm0 4 = true ∧ receiving.readPoison false hbm0 4 = false ∧
    field (receiving.qpEntry 0 0) 0x10 1 = 0 ∧ field (receiving.qpEntry 0 0) 0x11 1 = 0 ∧
    BitVec.ofNat 16 (field (receiving.qpEntry 0 0) 0x12 2) = (receiving.window 0 0).epoch ∧ (inbound 0).data ≠ [] ∧
    (inbound 0).total = (inbound 0).data.length := by decide +kernel

/-- Port 1's aperture 7 open over 2 MiB of DDR5 from address 0, its doorbell of queue 15 of quad 63 and hart 127 granted. -/
def granted : State :=
  (((up.setItem ⟨8, 0x10, 60, 3⟩).setItem ⟨8, 0x10, 62, 512⟩).setItem ⟨8, 0x11, 127, 0x80000000 + 1023⟩).setItem ⟨8, 0x14, 7, 0x80000000⟩

theorem witness_PortsStayWithinTheirGrants :
    up.mayRing (.pcie 1) 63 15 = false ∧ granted.running = true ∧ granted.pcieHeld 1 = false ∧ granted.apertured 1 0 64 false = true ∧
    granted.apertured 1 0 64 true = true ∧ granted.apertured 1 0x200000 64 false = false ∧ granted.apertured 1 0x1FFFC0 64 true = true ∧
    isTiered 0 = false ∧ granted.hostClosed 0 = false ∧ granted.readReady true 0 64 = true ∧ granted.readPoison true 0 64 = false ∧
    granted.writeReady true 0 64 = true ∧ granted.writePoison true 0 64 = false ∧ granted.item 8 0x13 1 = 0 ∧ (regionOf 0 ≠ some .config) ∧
    granted.dbGranted 1 1023 = true ∧ granted.dbGranted 0 1023 = false ∧ granted.quadOpen 63 = true ∧ granted.msiGranted 1 127 = true ∧
    granted.msiGranted 1 126 = false ∧ granted.dieReachesAll 7 0 64 = true ∧
    granted.pathUp 7 3 (0x3800000 + 15 * 0x10000 + 15 * 0x1000) = true ∧ granted.pathUp 7 5 0 = true := by decide +kernel

theorem witness_GrantedCachesAreQuiet : granted.quietCaches := ⟨rfl, rfl, rfl, rfl⟩

theorem witness_RegistersReadAndWriteByTheirRules :
    up.mayRead (.core 0) = true ∧ cfgBacked 0x10000 4 = false ∧ cfgBacked 0x1100810 4 = true ∧ up.offOpen 0x1100810 = true ∧
    up.wideAt 0x1100810 = some 0 ∧ isGated 0x1100810 = false ∧ isGated 0x1100618 = true ∧ up.wideAt 0x1100814 = none ∧ up.isHi 0x1100814 = true ∧
    up.wideAt 0 = none ∧ cfgBacked 0xFFFC 4 = true ∧ 0xFFFE % 4 ≠ 0 := by decide +kernel

/-- A package whose quad 15 is absent. -/
def absent15 : State := up.setItem ⟨2, 1, 15, 16⟩

theorem witness_AbsentQuadsReadZero :
    absent15.mayRead .mgmtB = true ∧ bit (absent15.pkgReg (0x04 + 4 * (15 / 32))) (15 % 32) = false ∧
    (absent15.wideAt (0x1000000 * (15 / 16 + 1) + 0x100000 + 15 % 16 * 0x10000 + 0x810)).isSome = true ∧
    absent15.wideAt (0x1000000 * (15 / 16 + 1) + 0x100000 + 15 % 16 * 0x10000 + 0xFFFC) = none := by decide +kernel

end Sys2Proof.Tests
end

namespace Sys2Proof.Machine

/-! ### FATAL records -/

/-- A record of class 3 sets ERR_STATUS.fatal, whether it is then staged, merged or lost (15_resilience.md R417). -/
theorem State.logErr_fatal (s : State) (r : ErrRec) (h : r.cls = 3) : (s.logErr r).log.fatal = true := by
  unfold State.logErr
  simp only [h, ge_iff_le, Nat.reduceLeDiff, if_true, State.modLog]
  split
  · exact takeFatal_fatal ..
  · split
    · exact takeFatal_fatal ..
    · exact takeFatal_fatal ..

@[simp] theorem State.fatal_log_fatal (s : State) (source code die unit : Nat) :
    (s.fatal source code die unit).log.fatal = true := State.logErr_fatal _ _ rfl

@[simp] theorem State.fatal_fabric (s : State) (source code die unit : Nat) :
    (s.fatal source code die unit).fabric = s.fabric := State.logErr_fabric ..

/-- After a FATAL record the device no longer runs (15_resilience.md R417). -/
@[simp] theorem State.fatal_running (s : State) (source code die unit : Nat) :
    (s.fatal source code die unit).running = false := by
  simp [State.running]

@[simp] theorem State.fatal_byte (s : State) (source code die unit a : Nat) :
    (s.fatal source code die unit).byte a = s.byte a := by
  unfold State.byte State.fatal
  rw [State.logErr_mem]

/-- What a FATAL record leaves: the device stopped, every byte of memory and the fabric as they were. -/
theorem State.fatal_stops (s : State) (source code die unit : Nat) :
    (s.fatal source code die unit).log.fatal = true ∧ (s.fatal source code die unit).running = false ∧
    (∀ a, (s.fatal source code die unit).byte a = s.byte a) ∧ (s.fatal source code die unit).fabric = s.fabric :=
  ⟨State.fatal_log_fatal .., State.fatal_running .., State.fatal_byte s source code die unit, State.fatal_fabric ..⟩

/-! ### Clocks -/

theorem exec_clockFault (k : ClockFaultKind) (s : State) : exec (.clockFault k) s = execClockFault k s := rfl

/-- Settles O34: every kind of clock fault changes at most its own clock bit, then makes a FATAL record. -/
theorem clockFaultsStopTheDevice : Obligations.ClockFaultsStopTheDevice := by
  unfold Obligations.ClockFaultsStopTheDevice
  intro k s hheld
  simp only [exec_clockFault, execClockFault, hheld, Bool.false_eq_true, if_false]
  cases k with
  | refLost => exact ⟨_, rfl, State.fatal_stops ..⟩
  | rootUnlocked d => exact ⟨_, rfl, State.fatal_stops ..⟩
  | crossingFifo d => exact ⟨_, rfl, State.fatal_stops ..⟩

/-! ### Bridges: lanes, loss and a long retrain -/

theorem exec_bridgeLaneFail (b : Nat) (repaired : Bool) (s : State) :
    exec (.bridgeLaneFail b repaired) s = execBridgeLaneFail b repaired s := rfl

theorem exec_bridgeRetrainStart (b : Nat) (s : State) : exec (.bridgeRetrainStart b) s = execBridgeRetrainStart b s := rfl

theorem exec_bridgeRetrainDone (b : Nat) (s : State) : exec (.bridgeRetrainDone b) s = execBridgeRetrainDone b s := rfl

theorem exec_bridgeRetrainLong (b : Nat) (s : State) : exec (.bridgeRetrainLong b) s = execBridgeRetrainLong b s := rfl

theorem exec_bridgeLost (b : Nat) (s : State) : exec (.bridgeLost b) s = execBridgeLost b s := rfl

/-- When a bridge has been down for a time (01_package.md R25). -/
theorem State.downFor_iff (s : State) (b ticks : Nat) :
    s.downFor b ticks = true ↔
      b < 12 ∧ s.fabric.up.getLsbD b = false ∧ Table.get 0 s.fabric.downAt b + ticks ≤ s.drone := by
  simp [State.downFor, and_assoc]

/-- When the deciding cycle of a deadline has passed. -/
theorem State.inTime_eq_false_iff (s : State) (deadline : Nat) :
    s.inTime deadline = false ↔ deadline < s.drone ∧ deadline ≤ s.time.prev := by
  simp [State.inTime]

/-- A bridge that passes traffic and starts to retrain is down from now. -/
theorem exec_bridgeRetrainStart_of_up (b : Nat) (s : State) (hheld : s.boot.held = false)
    (hup : s.fabric.up.getLsbD b = true) :
    exec (.bridgeRetrainStart b) s = .next (s.modFabric (fun f =>
      { f with up := f.up &&& ~~~bridgeBit b, downAt := Table.put 0 f.downAt b s.drone,
               passedLong := f.passedLong &&& ~~~bridgeBit b })) := by
  rw [exec_bridgeRetrainStart, execBridgeRetrainStart, if_pos (by rw [hheld, hup]; rfl)]

/-- A bridge that has trained is up, its retrain is seen, and what it held goes on. -/
theorem exec_bridgeRetrainDone_of_down (b : Nat) (s : State) (hheld : s.boot.held = false) (hb : b < 12)
    (hdown : s.fabric.up.getLsbD b = false) :
    exec (.bridgeRetrainDone b) s = .next (s.modFabric (fun f =>
      { f with up := f.up ||| bridgeBit b, retrainSeen := f.retrainSeen ||| bridgeBit b,
               downAt := Table.put 0 f.downAt b 0 })).bridgePasses := by
  rw [exec_bridgeRetrainDone, execBridgeRetrainDone, if_pos (by rw [hheld, hdown, decide_eq_true hb]; rfl)]

/-- A bridge 50 µs down with no transaction open: noting the retrain breaks no transaction (12_coherence.md R352). -/
theorem exec_bridgeRetrainLong_of_no_txns (b : Nat) (s : State) (hheld : s.boot.held = false)
    (hdown : s.downFor b 50000 = true) (hlate : s.inTime (Table.get 0 s.fabric.downAt b + 50000) = false)
    (hpass : s.fabric.passedLong.getLsbD b = false) (htxns : s.coh.txns = []) :
    exec (.bridgeRetrainLong b) s = .next (s.modFabric (fun f =>
      { f with retrainLong := f.retrainLong ||| bridgeBit b, passedLong := f.passedLong ||| bridgeBit b })).wakeHomes := by
  simp [exec_bridgeRetrainLong, execBridgeRetrainLong, hheld, hdown, hlate, hpass, htxns]

/-- A bridge 10 ms down is lost, by a FATAL record (01_package.md R25). -/
theorem exec_bridgeLost_of_downFor (b : Nat) (s : State) (hheld : s.boot.held = false)
    (hdown : s.downFor b 10000000 = true) (hlost : s.fabric.lost.getLsbD b = false) :
    exec (.bridgeLost b) s = .next ((s.modFabric (fun f => { f with lost := f.lost ||| bridgeBit b })).fatal
      0x0C 0x0031 (bridgeDie b) b) := by
  simp [exec_bridgeLost, execBridgeLost, hheld, hdown, hlost]

/-! ### Bridges: what goes on after a retrain -/

/-- A link that is neither up nor retraining sends nothing (13_axis_links_and_drone.md R358). -/
theorem State.drainLink_of_not_up (s : State) (n : Nat) (hup : (s.link n).st ≠ .up) (hre : (s.link n).st ≠ .retraining) :
    s.drainLink n = s := by
  simp [State.drainLink, hup, hre]

/-- Links that are neither up nor retraining send nothing, in any order. -/
theorem State.foldl_drainLink_of_not_up (s : State) (ns : List Nat)
    (h : ∀ n ∈ ns, (s.link n).st ≠ .up ∧ (s.link n).st ≠ .retraining) :
    ns.foldl (fun s n => s.drainLink n) s = s := by
  induction ns with
  | nil => rfl
  | cons n ns ih =>
    obtain ⟨hup, hre⟩ := h n (by simp)
    rw [List.foldl_cons, State.drainLink_of_not_up s n hup hre]
    exact ih (fun m hm => h m (by simp [hm]))

/-- An operation that arrives at its home changes no link. -/
@[simp] theorem State.syncArrive_links (s : State) (obj : Nat) (o : SyncOp) : (s.syncArrive obj o).links = s.links := by
  unfold State.syncArrive
  split
  · rfl
  · unfold State.syncOne
    obtain ⟨z, hz⟩ := wakes_quads _ _
    rw [hz]

/-- With no operation held, there is none to release. -/
theorem State.releaseSync_of_none_held (s : State) (h : s.boot.heldSync = []) : s.releaseSync = s := by
  have hboot : { s.boot with heldSync := [] } = s.boot := by rw [← h]
  simp [State.releaseSync, State.modBoot, State.syncAll, h, hboot]

/-- The one held operation, its way open and its home out of reset, arrives at its object. -/
theorem State.releaseSync_of_one_held (s : State) (obj : Nat) (o : SyncOp) (h : s.boot.heldSync = [(obj, o)])
    (hway : s.syncWay obj o = true) (hdies : s.boot.diesInReset = []) :
    s.releaseSync = (s.modBoot (fun b => { b with heldSync := [] })).syncArrive obj o := by
  have hone : s.releaseSync = (s.modBoot (fun b => { b with heldSync := [] })).syncOp obj o := by
    simp [State.releaseSync, State.modBoot, State.syncAll, h, hway, hdies]
  exact hone.trans (syncOp_open obj o _ hway)

/-- No link carries flits: each of the six is neither up nor retraining. -/
def State.linksDown (s : State) : Prop := ∀ n, n < 6 → (s.link n).st ≠ .up ∧ (s.link n).st ≠ .retraining

/-- With no link in use, only held operations of sync objects go on. -/
theorem State.bridgePasses_of_linksDown (s : State) (h : s.releaseSync.linksDown) : s.bridgePasses = s.releaseSync :=
  State.foldl_drainLink_of_not_up _ _ (fun n hn => h n (List.mem_range.mp hn))

/-- Nothing goes on where nothing was held. -/
theorem State.bridgePasses_of_none_held (s : State) (hlinks : s.linksDown) (h : s.boot.heldSync = []) :
    s.bridgePasses = s := by
  have hr := State.releaseSync_of_none_held s h
  rw [State.bridgePasses_of_linksDown s (by rwa [hr]), hr]

/-- The one held operation reaches its object, and is held no more (01_package.md R25). -/
theorem State.bridgePasses_of_one_held (s : State) (obj : Nat) (o : SyncOp) (hlinks : s.linksDown)
    (h : s.boot.heldSync = [(obj, o)]) (hway : s.syncWay obj o = true) (hdies : s.boot.diesInReset = []) :
    s.bridgePasses.syncVal obj = applySync o (s.syncVal obj) ∧ s.bridgePasses.boot.heldSync = [] := by
  have hr := State.releaseSync_of_one_held s obj o h hway hdies
  have hlink : ∀ n, s.releaseSync.link n = s.link n := fun n => by
    rw [hr]; unfold State.link; rw [State.syncArrive_links]; rfl
  have hpass : s.bridgePasses = s.releaseSync :=
    State.bridgePasses_of_linksDown s (fun n hn => by rw [hlink]; exact hlinks n hn)
  have hopen : (s.modBoot (fun b => { b with heldSync := [] })).boot.diesInReset.contains (objDie obj) = false := by
    simp [State.modBoot, hdies]
  obtain ⟨hval, -, -, hboot⟩ := syncArrive_one obj o _ hopen
  rw [hpass, hr]
  exact ⟨hval, by rw [hboot]; rfl⟩

/-- Settles O33: each event of a bridge by its own lemma; after a retrain no link sends, so what goes on is what
`releaseSync` lets go. -/
theorem bridgesRetrainAndFail : Obligations.BridgesRetrainAndFail := by
  unfold Obligations.BridgesRetrainAndFail
  intro b s hheld hb bb f
  refine ⟨?repaired, ?degraded, ?start, ?done, ?long, ?lost⟩
  case repaired => simp [exec_bridgeLaneFail, execBridgeLaneFail, hheld, bridgeRec]
  case degraded => simp [exec_bridgeLaneFail, execBridgeLaneFail, hheld, bridgeRec, State.modFabric, bb, f]
  case start =>
    intro hup
    exact ⟨_, exec_bridgeRetrainStart_of_up b s hheld hup, rfl, rfl, Table.get_put_same .., rfl, rfl⟩
  case done =>
    intro hdown v
    refine ⟨exec_bridgeRetrainDone_of_down b s hheld hb hdown, ?_⟩
    intro l hlinks hl hdies
    refine ⟨fun hnil => ?_, fun obj o hone hway => ?_⟩
    · exact State.bridgePasses_of_none_held v hlinks (hl.trans hnil)
    · exact State.bridgePasses_of_one_held v obj o hlinks (hl.trans hone) hway hdies
  case long =>
    intro hdown hdrone hprev hpass htxns
    have hfor := (State.downFor_iff s b 50000).mpr ⟨hb, hdown, hdrone.le⟩
    have hlate := (State.inTime_eq_false_iff s _).mpr ⟨hdrone, hprev⟩
    exact exec_bridgeRetrainLong_of_no_txns b s hheld hfor hlate hpass htxns
  case lost =>
    intro hdown hdrone hlost
    have hfor := (State.downFor_iff s b 10000000).mpr ⟨hb, hdown, hdrone⟩
    refine ⟨_, exec_bridgeLost_of_downFor b s hheld hfor hlost, ?_⟩
    obtain ⟨hfatal, hstop, -, hfabric⟩ := State.fatal_stops
      (s.modFabric (fun f => { f with lost := f.lost ||| bridgeBit b })) 0x0C 0x0031 (bridgeDie b) b
    exact ⟨hfatal, hstop, by rw [hfabric]; rfl, by rw [hfabric]; rfl⟩

/-! ### Absent quads -/

theorem bit_eq_testBit (v i : Nat) : bit v i = v.testBit i := by
  rw [bit, Nat.testBit_eq_decide_div_mod_eq]; rfl

/-- A map of flags, one at each position below n. -/
def flagMap (p : Nat → Bool) (n : Nat) : Nat := ((List.range n).map (fun q => flag (p q) q)).foldl (· + ·) 0

theorem flagMap_succ (p : Nat → Bool) (n : Nat) : flagMap p (n + 1) = flagMap p n + flag (p n) n := by
  simp [flagMap, List.range_succ]

theorem flagMap_lt (p : Nat → Bool) (n : Nat) : flagMap p n < 2 ^ n := by
  induction n with
  | zero => simp [flagMap]
  | succ n ih =>
    have hflag : flag (p n) n ≤ 2 ^ n := by unfold flag; split <;> simp
    rw [flagMap_succ, pow_succ]; omega

/-- A bit of a map of flags is the flag at its position. -/
theorem testBit_flagMap (p : Nat → Bool) {n k : Nat} (hk : k < n) : (flagMap p n).testBit k = p k := by
  induction n with
  | zero => omega
  | succ n ih =>
    have hlt := flagMap_lt p n
    rw [flagMap_succ, flag, Nat.add_comm]
    rcases Nat.lt_succ_iff_lt_or_eq.mp hk with hk | rfl
    · cases hp : p n with
      | true => rw [if_pos rfl, Nat.testBit_two_pow_add_gt hk, ih hk]
      | false => rw [if_neg (by simp), Nat.zero_add, ih hk]
    · cases hp : p k with
      | true => rw [if_pos rfl, Nat.testBit_two_pow_add_eq, Nat.testBit_lt_two_pow hlt]; rfl
      | false => rw [if_neg (by simp), Nat.zero_add, Nat.testBit_lt_two_pow hlt]

theorem State.quadMap_eq_flagMap (s : State) : s.quadMap = flagMap s.present 64 := rfl

theorem State.pkgReg_quadMap0 (s : State) : s.pkgReg 0x04 = s.quadMap % 2 ^ 32 := rfl

theorem State.pkgReg_quadMap1 (s : State) : s.pkgReg 0x08 = s.quadMap / 2 ^ 32 := rfl

/-- The bit of a logical quad in PKG_QUAD_MAP0 or PKG_QUAD_MAP1 says whether it is present (00_scope.md Table SCP-4). -/
theorem State.bit_quadMap (s : State) {q : Nat} (hq : q < 64) :
    bit (s.pkgReg (0x04 + 4 * (q / 32))) (q % 32) = s.present q := by
  rw [bit_eq_testBit, ← testBit_flagMap s.present hq, ← State.quadMap_eq_flagMap]
  rcases Nat.lt_or_ge q 32 with h | h
  · have hdiv : q / 32 = 0 := by omega
    have hmod : q % 32 = q := by omega
    rw [hdiv, hmod, State.pkgReg_quadMap0, Nat.testBit_mod_two_pow, decide_eq_true h, Bool.true_and]
  · have hdiv : q / 32 = 1 := by omega
    have hmod : q % 32 + 32 = q := by omega
    rw [hdiv, State.pkgReg_quadMap1, Nat.testBit_div_two_pow, hmod]

/-- An absent quad takes no accesses (01_package.md R35). -/
theorem State.quadOpen_of_absent (s : State) (q : Nat) (h : s.present q = false) : s.quadOpen q = false := by
  simp [State.quadOpen, h]

/-- The block of an offset of a quad takes accesses when the quad does. -/
theorem State.offOpen_of_quad (s : State) {off q o : Nat} (hplace : placeOf off = .quad q o) :
    s.offOpen off = s.quadOpen q := by
  simp [State.offOpen, hplace]

/-- The offset of a register in a logical quad's block (01_package.md R34). -/
def quadOff (q o : Nat) : Nat := 0x1000000 * (q / 16 + 1) + 0x100000 + q % 16 * 0x10000 + o

theorem diePlace_quad {d j o : Nat} (hd : d < 4) (hj : j < 16) (ho : o < 0x10000) :
    diePlace d (0x100000 + j * 0x10000 + o) = .quad (16 * d + j) o := by
  have hblock : (0x100000 + j * 0x10000 + o - 0x100000) / 0x10000 = j := by omega
  have hoff : (0x100000 + j * 0x10000 + o) % 0x10000 = o := by omega
  rw [diePlace, if_pos hd, if_pos (by omega), hblock, hoff]

theorem placeOf_quadOff {q o : Nat} (hq : q < 64) (ho : o < 0x10000) : placeOf (quadOff q o) = .quad q o := by
  have hdie : quadOff q o / 0x1000000 - 1 = q / 16 := by unfold quadOff; omega
  have hoff : quadOff q o % 0x1000000 = 0x100000 + q % 16 * 0x10000 + o := by unfold quadOff; omega
  have hlow : ¬ quadOff q o < 0x10000 := by unfold quadOff; omega
  have hin : ¬ (quadOff q o < 0x1000000 ∨ 0x9000000 ≤ quadOff q o) := by unfold quadOff; omega
  rw [placeOf, if_neg hlow, if_neg hin, hdie, hoff, diePlace_quad (by omega) (by omega) ho]
  congr 1; omega

theorem cfgBacked_quadOff {q o : Nat} (hq : q < 64) (ho : o < 0x10000) (hal : o % 4 = 0) :
    cfgBacked (quadOff q o) 4 = true := by
  unfold cfgBacked quadOff
  simp only [Bool.or_eq_true, Bool.and_eq_true, decide_eq_true_eq]
  omega

theorem quadOff_aligned {q o : Nat} (hal : o % 4 = 0) : quadOff q o % 4 = 0 := by unfold quadOff; omega

/-- A port that may read is no PCIe device (17_configuration_and_security.md Table CFG-8). -/
theorem State.not_pcie_of_mayRead {s : State} {p : Port} (h : s.mayRead p = true) (n : Nat) : p ≠ .pcie n := by
  rintro rfl
  simp [State.mayRead] at h

/-- A word of a block that takes no accesses reads 0, and the read changes nothing (01_package.md R35). -/
theorem State.readWord_of_not_offOpen (s : State) (off : Nat) (h : s.offOpen off = false) : s.readWord off = (0, s) := by
  simp [State.readWord, h]

/-- A port that may read finds the word of an aligned, backed offset in `lastRead`. -/
theorem State.portRead_of_mayRead (s : State) (p : Port) (off : Nat) (hp : s.mayRead p = true) (hal : off % 4 = 0)
    (hback : cfgBacked off 4 = true) :
    s.portRead p off = { (s.readWord off).2 with lastRead := (s.readWord off).1 } := by
  cases p with
  | pcie n => exact absurd rfl (State.not_pcie_of_mayRead hp n)
  | core c => simp [State.portRead, hp, hal, hback]
  | mgmtA => simp [State.portRead, hp, hal, hback]
  | mgmtB => simp [State.portRead, hp, hal, hback]

/-- A write into the block of a quad that takes no accesses is ignored, whoever sends it but a PCIe device
(01_package.md R35). -/
theorem State.writeWord_of_not_quadOpen (s : State) (p : Port) (off q o : Nat) (v : Word) (hp : ∀ n, p ≠ .pcie n)
    (hplace : placeOf off = .quad q o) (h : s.quadOpen q = false) : s.writeWord p off v = s := by
  cases p with
  | pcie n => exact absurd rfl (hp n)
  | core c => simp [State.writeWord, hplace, h]
  | mgmtA => simp [State.writeWord, hplace, h]
  | mgmtB => simp [State.writeWord, hplace, h]

theorem exec_counterLoRead (p : Port) (off : Nat) (s : State) : exec (.counterLoRead p off) s = execCounterLoRead p off s := rfl

theorem exec_rcRegisterRead (p : Port) (off : Nat) (s : State) : exec (.rcRegisterRead p off) s = execRcRegisterRead p off s := rfl

theorem exec_registerWrite (p : Port) (off : Nat) (v : Word) (s : State) :
    exec (.registerWrite p off v) s = execRegisterWrite p off v s := rfl

/-- Settles O60: the quad's bit of the map says that it is absent, so its block takes no accesses. -/
theorem absentQuadsReadZero : Obligations.AbsentQuadsReadZero := by
  unfold Obligations.AbsentQuadsReadZero
  intro p q o v s hq ho hal hp hbit off
  have hoff : off = quadOff q o := rfl
  clear_value off
  subst hoff
  have hplace : placeOf (quadOff q o) = .quad q o := placeOf_quadOff hq ho
  have hclosed : s.quadOpen q = false := State.quadOpen_of_absent s q ((State.bit_quadMap s hq).symm.trans hbit)
  have hread : s.portRead p (quadOff q o) = { s with lastRead := 0 } := by
    have hblock : s.offOpen (quadOff q o) = false := (State.offOpen_of_quad s hplace).trans hclosed
    rw [State.portRead_of_mayRead s p _ hp (quadOff_aligned hal) (cfgBacked_quadOff hq ho hal),
      State.readWord_of_not_offOpen s _ hblock]
  refine ⟨fun hwide => ?_, fun hwide => ?_, ?_⟩
  · rw [exec_counterLoRead, execCounterLoRead, if_pos hwide, hread]
  · rw [exec_rcRegisterRead, execRcRegisterRead, if_neg (by simp [hwide]), hread]
  · rw [exec_registerWrite, execRegisterWrite, if_pos (quadOff_aligned hal),
      State.writeWord_of_not_quadOpen s p _ q o v (State.not_pcie_of_mayRead hp) hplace hclosed]

end Sys2Proof.Machine

namespace Sys2Proof.Machine

/-! ### Stations: the start of a command -/

theorem exec_commandStart (q : Nat) (s : State) : exec (.commandStart q) s = execCommandStart q s := rfl

theorem State.onlyQueue_setCmd (s : State) (q j : Nat) (c : Cmd) : s.onlyQueue q j (s.setCmd q j c) :=
  onlyQueue_modQueue ..

theorem State.onlyQuad_setCmd (s : State) (q j : Nat) (c : Cmd) : s.onlyQuad q (s.setCmd q j c) :=
  (State.onlyQueue_setCmd s q j c).1

@[simp] theorem State.queue_setCmd_same (s : State) (q j : Nat) (c : Cmd) :
    (s.setCmd q j c).queue q j = (s.queue q j).setCmd c := State.queue_modQueue_same ..

/-- A change of a quad that leaves its queues changes no queue. -/
theorem State.queue_modQuad_of_queues (s : State) (q j : Nat) (f : Quad → Quad)
    (h : (f (s.quad q)).queues = (s.quad q).queues) : (s.modQuad q f).queue q j = s.queue q j := by
  simp [State.queue, Quad.queue, h]

/-- The command as it runs once it has taken its set, with the stash target of that time (11_host_cores_and_cache.md
Table HST-8). -/
def Cmd.started (c : Cmd) (need : List (Nat × Nat)) (stash : Word) : Cmd :=
  { c with phase := .running, held := need, stash := stash, redecode := false }

/-- A win changes the quad alone. -/
theorem Arb.onlyQuad_win (a : Arb) (q j : Nat) (c : Cmd) (need : List (Nat × Nat)) :
    a.s.onlyQuad q (a.win q j c need).s := by
  unfold Arb.win
  split
  · exact State.onlyQuad_setCmd ..
  · dsimp only
    exact onlyQuad_trans (State.onlyQuad_setCmd ..) (onlyQuad_modQuad ..)

/-- A win puts the started command in its place; the arbiter's pointer and reservation stand in no queue. -/
theorem Arb.queue_win (a : Arb) (q j : Nat) (c : Cmd) (need : List (Nat × Nat)) :
    (a.win q j c need).s.queue q j = (a.s.queue q j).setCmd (c.started need (a.s.queue q j).stash) := by
  unfold Arb.win
  split
  · exact State.queue_setCmd_same ..
  · exact (State.queue_modQuad_of_queues _ q j _ rfl).trans (State.queue_setCmd_same ..)

/-- A set of stations is free for a command: it needs none, or all of them fit beside what is held and reserved and no
configuration transaction holds the claim (02_stations_and_routes.md R60, R62). -/
def State.setFree (s : State) (q j : Nat) (c : Cmd) : Prop :=
  claimsOf c.desc = [] ∨
    fits ((s.quad q).claims ++ (s.quad q).kept j c.idx) (claimsOf c.desc) = true ∧ s.claimHeld q (claimsOf c.desc) = false

/-- A claim of a free set wins it whole. -/
theorem Arb.claim_of_setFree (a : Arb) (q j : Nat) (c : Cmd) (h : a.s.setFree q j c) :
    a.claim q j c = a.win q j c (claimsOf c.desc) := by
  unfold Arb.claim
  rcases h with hnone | ⟨hfits, hheld⟩
  · simp [hnone]
  · simp [hfits, hheld]

/-- A claim of a set that does not fit takes nothing; only the pass notes who was passed over. -/
theorem Arb.claim_of_not_fits (a : Arb) (q j : Nat) (c : Cmd) (hneed : claimsOf c.desc ≠ [])
    (hfits : fits ((a.s.quad q).claims ++ (a.s.quad q).kept j c.idx) (claimsOf c.desc) = false) :
    (a.claim q j c).s = a.s := by
  simp [Arb.claim, hneed, hfits]

/-- With one command ready and its translations standing, a pass of the arbiter is that command's claim. -/
theorem execCommandStart_of_single_ready {q j : Nat} {c : Cmd} {s : State} (hruns : s.quadRuns q = true)
    (hlist : (s.quad q).readyList = [(j, c.idx)]) (hfind : (s.queue q j).find c.idx = some c)
    (hready : c.phase = .ready) (hstands : c.redecode = false) :
    execCommandStart q s = .next (Arb.claim ⟨s, none⟩ q j c).s := by
  simp [execCommandStart, hruns, State.arbitrate, hlist, Arb.step, hfind, hready, hstands]

/-- Settles O12: the arbiter's pass is the one command's claim, which wins its whole set or leaves the state alone. -/
theorem startClaimsTheWholeSet : Obligations.StartClaimsTheWholeSet := by
  unfold Obligations.StartClaimsTheWholeSet
  intro q j c s hruns hlist hfind hready hstands
  rw [exec_commandStart, execCommandStart_of_single_ready hruns hlist hfind hready hstands]
  refine ⟨fun hfree => ?_, fun hneed hfits => ?_⟩
  · rw [Arb.claim_of_setFree ⟨s, none⟩ q j c hfree]
    exact ⟨_, rfl, Arb.onlyQuad_win .., Arb.queue_win ..⟩
  · rw [Arb.claim_of_not_fits ⟨s, none⟩ q j c hneed hfits]

/-! ### Stations: release and completion -/

theorem exec_stationRelease (q j : Nat) (idx : Word) (stn : Nat) (s : State) :
    exec (.stationRelease q j idx stn) s = execStationRelease q j idx stn s := rfl

theorem exec_commandComplete (q j : Nat) (idx : Word) (s : State) :
    exec (.commandComplete q j idx) s = execCommandComplete q j idx s := rfl

/-- The first entry of the station gives up a lane, or goes with its last one. -/
theorem dropLane_first {stn : Nat} {pre : List (Nat × Nat)} (n : Nat) (post : List (Nat × Nat))
    (hpre : ∀ p ∈ pre, p.1 ≠ stn) :
    dropLane stn (pre ++ (stn, n) :: post) = pre ++ (if n ≤ 1 then post else (stn, n - 1) :: post) := by
  induction pre with
  | nil => simp [dropLane]
  | cons p pre ih =>
    obtain ⟨hp, htail⟩ := List.forall_mem_cons.mp hpre
    simp [dropLane, hp, ih htail]

/-- When a station of a command has emptied (02_stations_and_routes.md R63, R54). -/
theorem Cmd.emptied_iff (c : Cmd) (stn : Nat) :
    c.emptied stn = true ↔ c.ran = true ∧ (stn ≠ stPort ∨ c.unsent = []) := by
  simp [Cmd.emptied]

/-- When a command has completed (02_stations_and_routes.md R63). -/
theorem State.complete_iff (s : State) (q j : Nat) (c : Cmd) :
    s.complete q j c = true ↔
      c.phase = .running ∧ c.ran = true ∧ c.held = [] ∧ c.unsent = [] ∧ (s.quad q).awaits j c.idx = false := by
  simp [State.complete, and_assoc]

/-- An emptied station of a running command leaves its set. -/
theorem execStationRelease_of_emptied {q j stn : Nat} {idx : Word} {c : Cmd} {s : State} (hruns : s.quadRuns q = true)
    (hfind : (s.queue q j).find idx = some c) (hphase : c.phase = .running) (hempty : c.emptied stn = true) :
    execStationRelease q j idx stn s = .next (s.setCmd q j { c with held := dropLane stn c.held }) := by
  simp [execStationRelease, hfind, hruns, hphase, hempty]

/-- A completed command ends with its status, or SEG_FAULT where its translation was withdrawn (10_segments.md R302). -/
theorem execCommandComplete_of_complete {q j : Nat} {idx : Word} {c : Cmd} {s : State} (hruns : s.quadRuns q = true)
    (hfind : (s.queue q j).find idx = some c) (hcomplete : s.complete q j c = true) :
    execCommandComplete q j idx s =
      .next (s.endCmd q j c (if c.withdrawn then stSegFault else c.status) (if c.withdrawn then 0 else c.detail)) := by
  simp [execCommandComplete, hfind, hruns, hcomplete]

/-- Settles O13: a release drops one lane of the set held, and a completion is the end of the command, which
`complete_plain` follows through for a command that asks for no record, signal or interrupt. -/
theorem stationsReleaseAndCommandsComplete : Obligations.StationsReleaseAndCommandsComplete := by
  unfold Obligations.StationsReleaseAndCommandsComplete
  intro q j c s hruns hfind hphase hran
  simp only [exec_stationRelease, exec_commandComplete]
  have hends : c.held = [] → c.unsent = [] → (s.quad q).awaits j c.idx = false →
      execCommandComplete q j c.idx s =
        .next (s.endCmd q j c (if c.withdrawn then stSegFault else c.status) (if c.withdrawn then 0 else c.detail)) :=
    fun hheld hsent hawaits => execCommandComplete_of_complete hruns hfind
      ((State.complete_iff ..).mpr ⟨hphase, hran, hheld, hsent, hawaits⟩)
  refine ⟨?_, hends, ?_⟩
  · intro stn n pre post hsent hheld hpre
    have hempty : c.emptied stn = true := (Cmd.emptied_iff ..).mpr ⟨hran, hsent⟩
    rw [execStationRelease_of_emptied hruns hfind hphase hempty, hheld, dropLane_first n post hpre]
    exact ⟨_, rfl, State.onlyQueue_setCmd .., State.queue_setCmd_same ..⟩
  · intro hheld hsent hawaits hwith hstatus hcpl hirq hsig hcmds hslot hdone hended hstate hslots
    refine ⟨s.endCmd q j c c.status c.detail, ?_,
      complete_plain q j c s hcmds hslot hdone hended hstate hstatus hcpl hirq hsig hslots⟩
    simp [hends hheld hsent hawaits, hwith]

end Sys2Proof.Machine

namespace Sys2Proof.Machine

/-! ### Runs: writes that go, writes that are not there -/

@[simp] theorem Run.andThen_ok {α β : Type} (a : α) (s : State) (f : α → State → Run β) :
    (Run.ok a s).andThen f = f a s := rfl

/-- A command without the word writes nothing there. -/
theorem RunIn.write_of_absent (r : RunIn) {off : Nat} (bs : List Byte) (s : State) (hext : r.c.ext off = none) :
    r.write off bs s = .ok () s := by
  simp [RunIn.write, hext]

/-- A write that poison does not refuse goes to the extent, cut at its length. -/
theorem RunIn.write_of_ext (r : RunIn) {off : Nat} {e : Extent} {bs : List Byte} {s : State} (hlim : r.limit = none)
    (hext : r.c.ext off = some e) (hpoison : s.writePoison e.coherent e.pa (bs.take e.len).length = false) :
    r.write off bs s = .ok () (s.writeHinted (r.q / 16) (stashOf r.c.stash) e.coherent e.pa (bs.take e.len)) := by
  rw [RunIn.write, hext]
  simp only [RunIn.writeExt, hlim, hpoison, Bool.and_false, Bool.false_eq_true, if_false]

/-- The opcode of a command under way. -/
theorem State.underway.opcode {s : State} {q j : Nat} {idx : Word} {op : Nat} {c : Cmd}
    (h : s.underway q j idx op c) : opcodeOf c.desc = op := by
  obtain ⟨-, -, -, -, hop⟩ := h
  exact hop

/-! ### VECOP -/

theorem exec_vecop (q j : Nat) (idx : Word) (s : State) :
    exec (.vecop q j idx) s = .next (s.runCmd q j idx opVecop RunIn.runVecop) := rfl

/-- The result tiles of a VECOP with their records, rounded in a state (06_reed_chanter_gather.md R168, R170). -/
def RunIn.vecTilesOut (r : RunIn) (o : VecOut) (s : State) : List (OutTile × List Byte) :=
  let f := body r.d 0x3C 1
  let v := vctlOf r.d
  outTiles f (r.rounding s) r.q (fun _ => 0)
    (fun i => if v.stash then stashStats f (vDims r.d).2 (v.fn - 1) o.stats i else Stats.none)
    (tilesOfMatrix f (vDims r.d).1 (vDims r.d).2 o.o.out)

/-- What a VECOP's kernel leaves beside its results: its lane-cycles counted, its workspace undefined
(06_reed_chanter_gather.md R169, R172). -/
def RunIn.vecCounted (r : RunIn) (s : State) : State :=
  let v := vctlOf r.d
  let t := s.countReed r.q
    ((if v.fn < 2 then progCost (vSteps r.d) else kernelCost v.fn) * (vDims r.d).1 * (vDims r.d).2)
  if v.fn = 0 then t else r.scrambleAt 0x30 t

/-- A VECOP without a reduction puts its kernel's tiles into its destination. -/
theorem RunIn.runVecop_of_bell {r : RunIn} {e : Extent} {x : List (List Fp)} {o : VecOut} {s u w : State}
    (hlim : r.limit = none) (hbell : toBell r.d = true) (hreduce : (vctlOf r.d).reduce = 0)
    (hext : r.c.ext 0x18 = some e) (hrec : r.c.ext 0x20 = none)
    (hready : r.allReady [0, 8, 0x10] [0x18, 0x20, 0x28, 0x30] s)
    (hmatrix : r.matrix (body r.d 0x3B 1) (vDims r.d).1 (vDims r.d).2 0 8 s = .ok x u)
    (hkernel : r.vecKernel (vctlOf r.d) (vDims r.d).1 (vDims r.d).2 (toFp32 x) u = .ok o w)
    (hland : (r.vecCounted w).canLand e (r.vecTilesOut o w)) :
    ∃ counts, r.runVecop s = .ok ⟨(r.vecTilesOut o w).length, [], counts⟩
      ((r.vecCounted w).writeHinted (r.q / 16) (stashOf r.c.stash) e.coherent e.pa
        ((tileBytesOf (r.vecTilesOut o w)).take e.len)) := by
  obtain ⟨us, hask⟩ := askBoth_ready r _ _ s hready
  have hsink := sink_bell r (List.range (r.vecTilesOut o w).length) 0x18 0x20 _ _ e hlim hbell hext hrec hland
  unfold RunIn.vecTilesOut RunIn.vecCounted at *
  simp only [RunIn.runVecop, hask, hmatrix, hkernel, Run.andThen_ok, part_all _ _ _ hlim, hsink, hreduce, if_true,
    RunIn.atSink, hbell, left_all _ _ hlim]
  exact ⟨_, rfl⟩

/-! ### NORM_BACK and SOFTMAX_BACK -/

theorem exec_softmaxBack (q j : Nat) (idx : Word) (s : State) :
    exec (.softmaxBack q j idx) s = .next (s.runCmd q j idx opSoftmaxBack RunIn.runSoftmaxBack) := rfl

theorem exec_normBack (q j : Nat) (idx : Word) (s : State) :
    exec (.normBack q j idx) s = .next (s.runCmd q j idx opNormBack RunIn.runNormBack) := rfl

/-- The result tiles of a fused command, dX under the scale exponent (05_backward_pass.md R144). -/
def RunIn.fusedTiles (r : RunIn) (ovf : List (List Bool)) (dx : List (List Fp)) (s : State) : List (OutTile × List Byte) :=
  r.packMatrix (body r.d 0x56 1) (fDims r.d).1 (fDims r.d).2.2
    (dx.map (List.map (fun v => v.scale (scaleExp r.d 0x5E)))) ovf s

/-- What a fused kernel leaves beside its results: its tiles counted in the gradient registers, its lane-cycles counted,
its workspace undefined (05_backward_pass.md R145, R150). -/
def RunIn.fusedCounted (r : RunIn) (ts : List OutTile) (lanes : Nat) (s : State) : State :=
  r.scrambleAt 0x48 ((s.countGrads r.q ts).countReed r.q lanes)

/-- Lane-cycles that a fused kernel takes for an element. -/
def fusedCost (d : List Byte) : Nat := if decide (opcodeOf d = opNormBack) then 8 else 2

/-- A fused command puts its dX into its destination and then its parameter tiles into their extent. -/
theorem RunIn.fusedOut_of_bell {r : RunIn} {e : Extent} {ovf : List (List Bool)} {dx : List (List Fp)}
    {params : List OutTile} {s t u : State} (hlim : r.limit = none) (hbell : toBell r.d = true)
    (hext : r.c.ext 0x20 = some e) (hrec : r.c.ext 0x28 = none)
    (ht : t = r.fusedCounted ((r.fusedTiles ovf dx s).map Prod.fst ++ params)
      (fusedCost r.d * (fDims r.d).1 * (fDims r.d).2.2) s)
    (hland : t.canLand e (r.fusedTiles ovf dx s))
    (hparams : r.write 0x38 (params.flatMap OutTile.data) (t.writeHinted (r.q / 16) (stashOf r.c.stash) e.coherent e.pa
      ((tileBytesOf (r.fusedTiles ovf dx s)).take e.len)) = .ok () u) :
    ∃ counts, r.fusedOut ovf dx params s = .ok ⟨(r.fusedTiles ovf dx s).length + params.length, [], counts⟩ u := by
  subst ht
  have hsink := sink_bell r (List.range (r.fusedTiles ovf dx s).length) 0x20 0x28 _ _ e hlim hbell hext hrec hland
  rw [← side_all r _ _ _ hlim] at hparams
  unfold RunIn.fusedTiles RunIn.fusedCounted fusedCost at *
  simp only [RunIn.fusedOut, gone_all _ _ _ hlim, part_all _ _ _ hlim, hlim, Option.isNone_none, if_true, hsink,
    hparams, Run.andThen_ok, RunIn.atSink, hbell, left_all _ _ hlim]
  exact ⟨_, rfl⟩

/-- SOFTMAX_BACK, its extents ready and its operands checked, is the output of the softmax gradients
(05_backward_pass.md R154). -/
theorem RunIn.runSoftmaxBack_eq_fusedOut {r : RunIn} {y : FusedIn} {g : List Fp} {x : List (List Fp)} {s u v : State}
    (hready : r.allReady fusedReads fusedWrites s) (hproduct : r.fusedProduct s = .ok y u)
    (hoperand : r.fusedOperand false (fDims r.d).1 (fDims r.d).2.2 u = .ok (g, x) v) :
    r.runSoftmaxBack s = r.fusedOut y.ovf (List.zipWith softmaxBackRow y.dy x) [] v := by
  obtain ⟨us, hask⟩ := askBoth_ready r _ _ s hready
  simp only [RunIn.runSoftmaxBack, hask, hproduct, hoperand, Run.andThen_ok]

/-- Each row of a NORM_BACK that recomputes its statistics: the gradients of the row, of gain and of offset
(05_backward_pass.md R153). -/
def RunIn.normRows (r : RunIn) (g : List Fp) (dy x : List (List Fp)) : List (List Fp × List Fp × List Fp) :=
  (List.zip (List.replicate (fDims r.d).1 none) (List.zip dy x)).map (fun (t : Option RowStat × List Fp × List Fp) =>
    normBackRow (decide (nKind r.d = 2)) t.1 (fp32.decode (body r.d 0x58 4)) g t.2.1 t.2.2)

/-- The two parameter tiles of a NORM_BACK from its rows (05_backward_pass.md R153). -/
def RunIn.normParams (r : RunIn) (rows : List (List Fp × List Fp × List Fp)) : List OutTile :=
  paramTiles (scaleExp r.d 0x5F) (colSum (fDims r.d).2.2 (rows.map (fun t => t.2.1)))
    (colSum (fDims r.d).2.2 (rows.map (fun t => t.2.2)))

/-- NORM_BACK that recomputes its statistics, its extents ready and its operands checked, is the output of the norm
gradients and of their column sums (05_backward_pass.md R153). -/
theorem RunIn.runNormBack_eq_fusedOut {r : RunIn} {y : FusedIn} {g : List Fp} {x : List (List Fp)} {s u v : State}
    (hrecompute : nRecompute r.d = true)
    (hready : r.allReady fusedReads fusedWrites s) (hproduct : r.fusedProduct s = .ok y u)
    (hoperand : r.fusedOperand true (fDims r.d).1 (fDims r.d).2.2 u = .ok (g, x) v) :
    r.runNormBack s = r.fusedOut y.ovf ((r.normRows g y.dy x).map Prod.fst) (r.normParams (r.normRows g y.dy x)) v := by
  obtain ⟨us, hask⟩ := askBoth_ready r _ _ s hready
  simp only [RunIn.runNormBack, hask, hproduct, hoperand, hrecompute, if_true, Run.andThen_ok, RunIn.normRows,
    RunIn.normParams]

/-- Settles O16: VECOP by its kernel's tiles, the two fused commands by the output that they share. -/
theorem kernelsWriteTheirTiles : Obligations.KernelsWriteTheirTiles := by
  unfold Obligations.KernelsWriteTheirTiles
  intro q j idx c e s r d hbell
  refine ⟨?vecop, ?softmax, ?norm⟩
  case vecop =>
    intro x o u w hrun _ hreduce hext hrec hready hmatrix hkernel ts _ t hland
    rw [exec_vecop]
    exact landed_ex hrun (RunIn.runVecop_of_bell rfl hbell hreduce hext hrec hready hmatrix hkernel hland)
  case softmax =>
    intro y g x u v hrun hext hrec hnone hready hproduct hoperand ts t hland
    have hop : opcodeOf r.d = opSoftmaxBack := hrun.opcode
    have hcost : fusedCost r.d = 2 := by simp [fusedCost, hop, opSoftmaxBack, opNormBack]
    have ht : t = r.fusedCounted (ts.map Prod.fst ++ []) (fusedCost r.d * (fDims r.d).1 * (fDims r.d).2.2) v := by
      rw [hcost, List.append_nil]; rfl
    rw [exec_softmaxBack]
    refine landed_ex hrun ?_
    rw [RunIn.runSoftmaxBack_eq_fusedOut hready hproduct hoperand]
    exact RunIn.fusedOut_of_bell rfl hbell hext hrec ht hland (RunIn.write_of_absent r _ _ hnone)
  case norm =>
    intro y g x pe u v hrun hext hrec hparam hrecompute hready hproduct hoperand rows ps ts t w pb hland hpoison
    have hop : opcodeOf r.d = opNormBack := hrun.opcode
    have hcost : fusedCost r.d = 8 := by simp [fusedCost, hop]
    have ht : t = r.fusedCounted (ts.map Prod.fst ++ ps) (fusedCost r.d * (fDims r.d).1 * (fDims r.d).2.2) v := by
      rw [hcost]; rfl
    rw [exec_normBack]
    refine fin_ex hrun ?_
    rw [RunIn.runNormBack_eq_fusedOut hrecompute hready hproduct hoperand]
    exact RunIn.fusedOut_of_bell rfl hbell hext hrec ht hland (RunIn.write_of_ext r rfl hparam hpoison)

/-! ### GATHER_POOL and SCATTER_ADD -/

theorem exec_gatherPool (q j : Nat) (idx : Word) (s : State) :
    exec (.gatherPool q j idx) s = .next (s.runCmd q j idx opGather RunIn.runGather) := rfl

theorem exec_scatterAdd (q j : Nat) (idx : Word) (s : State) :
    exec (.scatterAdd q j idx) s = .next (s.runCmd q j idx opScatter RunIn.runScatter) := rfl

/-- The rows that the walk of an index list names, in list order. -/
def namedRows (pools : List PoolRows) : List Nat := pools.flatMap PoolRows.rows

/-- The result tiles of a GATHER_POOL without a Reed, from the rows of its pools (06_reed_chanter_gather.md R181,
R182). -/
def RunIn.gatherTiles (r : RunIn) (ps : List (List (List Fp))) (s : State) : List (OutTile × List Byte) :=
  let g := gatherOf r.d
  outTiles g.fIo (r.rounding s) r.q (fun _ => 0) (fun _ => Stats.none)
    (tilesOfMatrix g.fIo g.ioRows g.ioCols (poolMatrix g (ps.map (poolOf g.width g.mode))))

/-- Without a Reed the pools go on as they are (06_reed_chanter_gather.md R174). -/
theorem RunIn.gatherReed_of_no_reed {r : RunIn} (g : GatherB) (m : List (List Fp)) (s : State)
    (hreed : reedOf r.d = none) : r.gatherReed g m s = .ok m s := by
  simp only [RunIn.gatherReed, hreed]

/-- A GATHER_POOL whose walk ends well puts the tiles of its pools into its destination. -/
theorem RunIn.runGather_of_bell {r : RunIn} {te e : Extent} {pools : List PoolRows} {ps : List (List (List Fp))}
    {s u v : State} (hlim : r.limit = none) (hbell : toBell r.d = true) (hreed : reedOf r.d = none)
    (htable : r.c.ext 0 = some te) (hext : r.c.ext 0x18 = some e) (hrec : r.c.ext 0x20 = none)
    (hready : r.allReady [8, 0x10] [0x18, 0x20] s) (hwalk : r.walk (gatherOf r.d) s = .ok (pools, none) u)
    (hrows : ∀ i ∈ namedRows pools, r.askRead (rowExt te (gatherOf r.d).rowBytes i) u = .ok () u)
    (hread : runAll (fun (p : PoolRows) t =>
        runAll (fun i t => r.readRow (gatherOf r.d) (rowExt te (gatherOf r.d).rowBytes i) t) p.rows t) pools
      (u.countRows r.q (namedRows pools).length) = .ok ps v)
    (hland : v.canLand e (r.gatherTiles ps v)) :
    ∃ counts, r.runGather s = .ok ⟨(r.gatherTiles ps v).length, [], counts⟩
      (v.writeHinted (r.q / 16) (stashOf r.c.stash) e.coherent e.pa ((tileBytesOf (r.gatherTiles ps v)).take e.len)) := by
  obtain ⟨_, hask⟩ := askBoth_ready r _ _ s hready
  obtain ⟨_, hasked⟩ := runAll_same _ _ u hrows
  have hsink := sink_bell r (List.range (r.gatherTiles ps v).length) 0x18 0x20 _ _ e hlim hbell hext hrec hland
  unfold namedRows at hread hasked
  unfold RunIn.gatherTiles at *
  simp only [RunIn.runGather, htable, hask, hwalk, hasked, hlim, Run.andThen_ok, part_all _ _ _ hlim, hread,
    Option.isSome_none, Bool.false_eq_true, if_false, RunIn.gatherReed_of_no_reed _ _ _ hreed, hsink,
    RunIn.atSink, hbell, if_true, left_all _ _ hlim]
  exact ⟨_, rfl⟩

/-- A walk that meets an index outside the table records its position (06_reed_chanter_gather.md R183). -/
theorem RunIn.walkFail_segLimit (r : RunIn) {α : Type} (pos : Nat) (s : State) :
    (r.walkFail (stSegLimit, pos) s : Run α) =
      .fail (s.modQuad r.q (fun x => { x with badIndex := BitVec.ofNat 32 pos })) stSegLimit (BitVec.ofNat 64 pos) := by
  simp [RunIn.walkFail]

/-- A GATHER_POOL whose walk fails counts the rows it named and ends as the walk did. -/
theorem RunIn.runGather_of_walk_fails {r : RunIn} {te : Extent} {pools : List PoolRows} {f : Nat × Nat} {s u : State}
    (hlim : r.limit = none) (htable : r.c.ext 0 = some te) (hready : r.allReady [8, 0x10] [0x18, 0x20] s)
    (hwalk : r.walk (gatherOf r.d) s = .ok (pools, some f) u)
    (hrows : ∀ i ∈ namedRows pools, r.askRead (rowExt te (gatherOf r.d).rowBytes i) u = .ok () u) :
    r.runGather s = r.walkFail f (u.countRows r.q (namedRows pools).length) := by
  obtain ⟨_, hask⟩ := askBoth_ready r _ _ s hready
  obtain ⟨_, hasked⟩ := runAll_same _ _ u hrows
  unfold namedRows at hasked
  simp only [RunIn.runGather, htable, hask, hwalk, hasked, hlim, Run.andThen_ok, namedRows]

/-- A SCATTER_ADD without a Reed whose walk ends well is done once every row has taken its pool's gradient. -/
theorem RunIn.runScatter_of_walk {r : RunIn} {te : Extent} {pools : List PoolRows} {m : List (List Fp)}
    {us : List (List Unit)} {s u t w : State} (hlim : r.limit = none) (hreed : reedOf r.d = none)
    (htable : r.c.ext 0 = some te) (hready : r.allReady [8, 0x10, 0x18, 0x20] [] s)
    (hwalk : r.walk (gatherOf r.d) s = .ok (pools, none) u)
    (hrows : ∀ i ∈ namedRows pools, r.askWrite (rowExt te (gatherOf r.d).rowBytes i) u = .ok () u)
    (hmatrix : r.matrix (gatherOf r.d).fIo (gatherOf r.d).ioRows (gatherOf r.d).ioCols 0x18 0x20 u = .ok m t)
    (hadd : runAll (fun (p : PoolRows × List Fp) t =>
        runAll (fun i t => applyRow (gatherOf r.d) (rowExt te (gatherOf r.d).rowBytes i)
          (increments (gatherOf r.d).mode p.1.count p.2) t) p.1.rows t)
      (List.zip pools (poolGrads (gatherOf r.d) (m.map (List.map Fp.r32))))
      (t.countRows r.q (namedRows pools).length) = .ok us w) :
    ∃ counts, r.runScatter s =
      .ok ⟨matTiles (gatherOf r.d).fIo (gatherOf r.d).ioRows (gatherOf r.d).ioCols, [], counts⟩ w := by
  obtain ⟨_, hask⟩ := askBoth_ready r _ _ s hready
  obtain ⟨_, hasked⟩ := runAll_same _ _ u hrows
  unfold namedRows at hadd hasked
  simp only [RunIn.runScatter, htable, hask, hwalk, hasked, hmatrix, hreed, Run.andThen_ok, part_all _ _ _ hlim, hlim,
    Option.isSome_none, Bool.false_eq_true, if_false, hadd]
  exact ⟨_, rfl⟩

/-- Settles O17: the pools land as tiles, a walk that fails breaks the command off, the adds leave no tile to land. -/
theorem gatherAndScatterWalkTheList : Obligations.GatherAndScatterWalkTheList := by
  unfold Obligations.GatherAndScatterWalkTheList
  intro q j idx c te e s u v pools r d g rows hreed htable
  refine ⟨?pools, ?badIndex, ?adds⟩
  case pools =>
    intro ps hrun hbell hext hrec hready hwalk hrows hread ts hland
    rw [exec_gatherPool]
    exact landed_ex hrun
      (RunIn.runGather_of_bell rfl hbell hreed htable hext hrec hready hwalk hrows hread hland)
  case badIndex =>
    intro pos hrun hready hwalk hrows
    have hfail := RunIn.runGather_of_walk_fails rfl htable hready hwalk hrows
    rw [RunIn.walkFail_segLimit] at hfail
    rw [exec_gatherPool]
    exact congrArg _ (runCmd_fail hrun hfail)
  case adds =>
    intro m t w us hrun hready hwalk hrows hmatrix hadd
    rw [exec_scatterAdd]
    exact fin_ex hrun (RunIn.runScatter_of_walk rfl hreed htable hready hwalk hrows hmatrix hadd)

/-! ### Poisoned sectors -/

/-- A sector is poisoned, or not, as it was last set, and no other sector changes. -/
theorem State.sectorPoison_setPoison (s : State) (l x : Nat) (b : Bool) :
    (s.setPoison l b).sectorPoison x = if x = l then b else s.sectorPoison x :=
  Table.get_put ..

/-! ### A command that replay gives up -/

@[simp] theorem State.queue_logErr (s : State) (r : ErrRec) (q j : Nat) : (s.logErr r).queue q j = s.queue q j := by
  simp only [State.queue, State.quad, State.logErr_quads]

/-- Blame changes the quad's score and mark and the error log: its queues, memory and the poison stand
(15_resilience.md R406, R407). -/
theorem State.blame_frame (s : State) (q n j : Nat) :
    (s.blame q n).queue q j = s.queue q j ∧ (s.blame q n).mem = s.mem ∧ (s.blame q n).poison = s.poison := by
  have hqueue : ∀ (t : State) (f : Quad → Quad), (f (t.quad q)).queues = (t.quad q).queues →
      (t.modQuad q f).queue q j = t.queue q j := fun t f h => State.queue_modQuad_of_queues t q j f h
  unfold State.blame
  dsimp only
  split
  · simp [hqueue]
  · simp [hqueue]

/-- A command whose work is done and that replay gives up takes the status and sends no more; memory and the poison
stand (15_resilience.md R404). -/
theorem State.exhaust_of_ran (s : State) (q j : Nat) (c : Cmd) (source code check passes : Nat) (hran : c.ran = true) :
    (s.exhaust q j c source code check passes).queue q j =
      (s.queue q j).setCmd { c with status := stReplayExhausted, detail := 0, unsent := [] } ∧
    (s.exhaust q j c source code check passes).mem = s.mem ∧
    (s.exhaust q j c source code check passes).poison = s.poison := by
  obtain ⟨hqueue, hmem, hpoison⟩ := State.blame_frame s q 16 j
  simp [State.exhaust, State.breakCmd, hran, State.setCmd, hqueue, hmem, hpoison]

/-! ### Sector adds -/

theorem exec_sectorAdd (a : AddAt) (fmt : Nat) (mask : Dword) (incs : List Word) (err : Bool) (s : State) :
    exec (.sectorAdd a fmt mask incs err) s = execSectorAdd a fmt mask incs err s := rfl

section
variable {q j : Nat} {idx : Word} {pa fmt : Nat} {mask : Dword} {incs : List Word} {s : State}

/-- An add that may go is applied once, unless its sector is poisoned (06_reed_chanter_gather.md R186). -/
theorem execSectorAdd_of_ready (hrun : s.running = true) (hadd : s.addable (pa / 64 * 64) = true)
    (hready : s.writeReady true (pa / 64 * 64) 64 = true) :
    execSectorAdd ⟨q, j, idx, pa⟩ fmt mask incs false s = .next (if s.readPoison true (pa / 64 * 64) 64 then s
      else s.writePhys true (pa / 64 * 64) (addSector fmt mask (s.readPhys true (pa / 64 * 64) 64) incs)) := by
  simp [execSectorAdd, hrun, hadd, hready]

/-- An add that recomputation leaves in error is not applied (15_resilience.md R404). -/
theorem execSectorAdd_of_error (hrun : s.running = true) (hadd : s.addable (pa / 64 * 64) = true)
    (hready : s.writeReady true (pa / 64 * 64) 64 = true) :
    execSectorAdd ⟨q, j, idx, pa⟩ fmt mask incs true s = .next (s.badAdd q j idx (pa / 64 * 64)) := by
  simp [execSectorAdd, hrun, hadd, hready]

/-- An add asks for a sector that must be brought in first. -/
theorem execSectorAdd_of_not_ready {err : Bool} (hrun : s.running = true) (hadd : s.addable (pa / 64 * 64) = true)
    (hready : s.writeReady true (pa / 64 * 64) 64 = false) :
    execSectorAdd ⟨q, j, idx, pa⟩ fmt mask incs err s = .next (s.requestWrite (pa / 64 * 64) 64) := by
  simp [execSectorAdd, hrun, hadd, hready]

/-- No add goes to a sector that adds may not reach. -/
theorem execSectorAdd_of_not_addable {err : Bool} (hadd : s.addable (pa / 64 * 64) = false) :
    execSectorAdd ⟨q, j, idx, pa⟩ fmt mask incs err s = .next s := by
  simp [execSectorAdd, hadd]

end

/-- While the tier is read-only, adds do not reach it (09_memory_tiers.md R272). -/
theorem State.addable_of_readOnly {s : State} {pa : Nat} (htier : s.backed pa 64 = some .tiered)
    (hro : s.tierReadOnly = true) : s.addable pa = false := by
  simp [State.addable, htier, hro]

/-- The add of a command that has gone poisons the sector and nothing else. -/
theorem State.badAdd_of_gone (s : State) {q j : Nat} {idx : Word} (l : Nat) (hfind : (s.queue q j).find idx = none) :
    s.badAdd q j idx (l * 64) = s.setPoison l true := by
  have hfind' : ((s.setPoison l true).queue q j).find idx = none := hfind
  simp [State.badAdd, hfind']

/-- The add of a running SCATTER_ADD poisons the sector, then ends the command (15_resilience.md R404). -/
theorem State.badAdd_of_scatter (s : State) {q j : Nat} {idx : Word} {c : Cmd} (l : Nat)
    (hfind : (s.queue q j).find idx = some c) (hphase : c.phase = .running) (hop : opcodeOf c.desc = opScatter) :
    s.badAdd q j idx (l * 64) = (s.setPoison l true).exhaust q j c 0x09 0x0021 0 3 := by
  have hfind' : ((s.setPoison l true).queue q j).find idx = some c := hfind
  simp [State.badAdd, hfind', hphase, hop]

/-- Settles O18: the cases of an add that may go, of one in error, and of one that may not. -/
theorem sectorAddIsOneReadModifyWrite : Obligations.SectorAddIsOneReadModifyWrite := by
  unfold Obligations.SectorAddIsOneReadModifyWrite
  intro q j idx pa fmt mask incs err s sec
  simp only [exec_sectorAdd]
  refine ⟨fun hrun hadd => ⟨?applied, ?poisoned, ?gone, ?scatter, ?asked⟩, ?readOnly⟩
  case applied =>
    intro hready hclean
    rw [execSectorAdd_of_ready hrun hadd hready, if_neg (Bool.eq_false_iff.mp hclean)]
  case poisoned =>
    intro hready hpoison
    rw [execSectorAdd_of_ready hrun hadd hready, if_pos hpoison]
  case gone =>
    intro hready hfind
    rw [execSectorAdd_of_error hrun hadd hready, State.badAdd_of_gone s _ hfind]
    refine ⟨_, rfl, ?_, fun x hx => ?_, rfl⟩
    · rw [State.sectorPoison_setPoison, if_pos rfl]
    · rw [State.sectorPoison_setPoison, if_neg hx]
  case scatter =>
    intro c hready hfind hphase hop hran
    rw [execSectorAdd_of_error hrun hadd hready, State.badAdd_of_scatter s _ hfind hphase hop]
    obtain ⟨hqueue, hmem, hpoison⟩ := State.exhaust_of_ran (s.setPoison (pa / 64) true) q j c 0x09 0x0021 0 3 hran
    refine ⟨_, rfl, ?_, fun a => ?_, hqueue⟩
    · rw [State.sectorPoison, hpoison]
      exact (State.sectorPoison_setPoison s _ _ true).trans (if_pos rfl)
    · rw [State.byte, hmem]; rfl
  case asked => exact execSectorAdd_of_not_ready hrun hadd
  case readOnly =>
    intro htier hro
    exact execSectorAdd_of_not_addable (State.addable_of_readOnly htier hro)

end Sys2Proof.Machine

namespace Sys2Proof.Machine

/-! ### Queues: changes and steps -/

/-- Two changes of one queue are one. -/
theorem State.modQueue_modQueue (s : State) (q j : Nat) (f g : Queue → Queue) :
    (s.modQueue q j f).modQueue q j g = s.modQueue q j (fun x => g (f x)) := by
  simp [State.modQueue, State.modQuad, State.quad, Quad.modQueue, Quad.queue, Table.put_put]

/-- A change of one queue leaves there what it makes of the queue, and everything else as it was. -/
theorem State.modQueue_sets {s : State} {q j : Nat} {f : Queue → Queue} {x : Queue} (h : f (s.queue q j) = x) :
    s.onlyQueue q j (s.modQueue q j f) ∧ (s.modQueue q j f).queue q j = x :=
  ⟨onlyQueue_modQueue .., (State.queue_modQueue_same ..).trans h⟩

theorem step_of_pending {s : State} {c : Instr} {rest : List Instr} (h : s.pending = c :: rest) :
    step s = exec c { s with pending := rest } := by
  simp only [step, h]

/-! ### Doorbells -/

theorem exec_doorbell (p : Port) (q j : Nat) (v : Word) (s : State) :
    exec (.doorbell p q j v) s = execDoorbell p q j v s := rfl

/-- The doorbell rule in distances modulo 2^32 (07_commands_and_queues.md R214). -/
theorem doorbellOk_iff (v head tail : Word) (size : Nat) :
    doorbellOk v head tail size = true ↔ (v - head).toNat ≤ size ∧ (v - tail).toNat < 2 ^ 31 := by
  unfold doorbellOk dist32
  simp only [Bool.and_eq_true, decide_eq_true_eq]

theorem Queue.doorbell_eq (x : Queue) (v : Word) :
    x.doorbell v = if (v - x.head).toNat ≤ 2 ^ x.log2Size ∧ (v - x.tail).toNat < 2 ^ 31 then { x with tail := v }
      else { x with dbError := true } :=
  if_congr (doorbellOk_iff ..) rfl rfl

/-- Whether a doorbell write reaches its queue: the port may ring it and the quad's block takes accesses
(14_network_and_pcie.md R394). -/
def State.rings (s : State) (p : Port) (q j : Nat) : Prop := s.mayRing p q j = true ∧ s.quadOpen q = true

theorem execDoorbell_of_rings {s : State} {p : Port} {q j : Nat} (v : Word) (h : s.rings p q j) :
    execDoorbell p q j v s = .next (s.modQueue q j (·.doorbell v)) := by
  obtain ⟨hring, hopen⟩ := h
  cases p with
  | _ =>
    dsimp only [State.mayRing] at hring
    simp only [execDoorbell, hring, hopen, Bool.and_self, if_true]

/-- Who may ring a doorbell stands in no queue. -/
theorem State.rings.modQueue {s : State} {p : Port} {q j : Nat} (h : s.rings p q j) (q' j' : Nat)
    (f : Queue → Queue) : (s.modQueue q' j' f).rings p q j := h

/-- Who may ring a doorbell does not turn on the commands that wait. -/
theorem State.rings.pending {s : State} {p : Port} {q j : Nat} (h : s.rings p q j) (l : List Instr) :
    State.rings { s with pending := l } p q j := h

/-- A waiting doorbell write that reaches its queue is the next step. -/
theorem step_doorbell {s : State} {p : Port} {q j : Nat} {v : Word} {rest : List Instr} (h : s.rings p q j)
    (hpending : s.pending = .doorbell p q j v :: rest) :
    step s = .next (State.modQueue { s with pending := rest } q j (·.doorbell v)) :=
  (step_of_pending hpending).trans (execDoorbell_of_rings v (State.rings.pending h rest))

/-- Settles O8: a doorbell write that reaches its queue changes that queue alone, by the rule of R214, so a second
write meets what the first left. -/
theorem doorbellMovesTail : Obligations.DoorbellMovesTail := by
  unfold Obligations.DoorbellMovesTail
  intro p q j v s hring hopen
  simp only [← Queue.doorbell_eq, exec_doorbell]
  have hrings : s.rings p q j := ⟨hring, hopen⟩
  refine ⟨⟨_, execDoorbell_of_rings v hrings, State.modQueue_sets rfl⟩, fun r w rest hring' hpending => ?_⟩
  have hrings' : s.rings r q j := ⟨hring', hopen⟩
  have hagain := (State.rings.pending hrings' (.doorbell r q j w :: rest)).modQueue q j (·.doorbell v)
  refine ⟨_, _, step_doorbell hrings hpending, step_doorbell hagain rfl, rfl, ?_⟩
  rw [State.queue_modQueue_same]
  exact congrArg (·.doorbell w) (State.queue_modQueue_same ..)

/-! ### Control, HEAD, abort and resume -/

theorem exec_queueCtrlWrite (p : Port) (q j : Nat) (v : Word) (s : State) :
    exec (.queueCtrlWrite p q j v) s = execQueueCtrlWrite p q j v s := rfl

theorem exec_queueHeadWrite (p : Port) (q j : Nat) (v : Word) (s : State) :
    exec (.queueHeadWrite p q j v) s = execQueueHeadWrite p q j v s := rfl

theorem exec_queueAbort (p : Port) (q j : Nat) (s : State) : exec (.queueAbort p q j) s = execQueueAbort p q j s := rfl

theorem exec_queueResume (p : Port) (q j : Nat) (s : State) :
    exec (.queueResume p q j) s = execQueueResume p q j s := rfl

/-- Enabling a DISABLED queue takes the fields of the write and starts the queue (Tables CMD-13 and CMD-16). -/
theorem State.writeQueueCtrl_of_disabled {s : State} {q j : Nat} {v : Word} (hstate : (s.queue q j).state = .disabled)
    (henable : v.getLsbD 31 = true) :
    s.writeQueueCtrl q j v = s.modQueue q j (fun x => { x.ctrlFields v with state := .running }) := by
  rw [getLsbD_bit] at henable
  simp [State.writeQueueCtrl, Queue.ctrlFields, hstate, henable, State.modQueue_modQueue]

/-- Clearing enable in a STOPPED queue disables it. -/
theorem State.writeQueueCtrl_of_stopped {s : State} {q j : Nat} {v : Word} (hstate : (s.queue q j).state = .stopped)
    (henable : v.getLsbD 31 = false) :
    s.writeQueueCtrl q j v = s.modQueue q j (fun x => { x.ctrlFields v with state := .disabled }) := by
  rw [getLsbD_bit] at henable
  simp [State.writeQueueCtrl, Queue.ctrlFields, hstate, henable, State.modQueue_modQueue]

/-- What a control write's fields are in a DISABLED queue: every one, a reserved size left out. -/
theorem Queue.ctrlFields_of_disabled {x : Queue} {v : Word} (hstate : x.state = .disabled)
    (henable : v.getLsbD 31 = true) :
    x.ctrlFields v = { x with
      enable := true, stopOnError := v.getLsbD 30, context := v.toNat / 2 ^ 16 % 2 ^ 12,
      log2Size := if 4 ≤ v.toNat % 32 ∧ v.toNat % 32 ≤ 16 then v.toNat % 32 else x.log2Size } := by
  have hsize : unlessReserved (decide (v.toNat % 32 < 4) || decide (16 < v.toNat % 32)) x.log2Size (v.toNat % 32) =
      if 4 ≤ v.toNat % 32 ∧ v.toNat % 32 ≤ 16 then v.toNat % 32 else x.log2Size := by
    unfold unlessReserved
    grind
  rw [getLsbD_bit] at henable ⊢
  simp [Queue.ctrlFields, hstate, henable, bits, hsize]

/-- In a queue that is not DISABLED a control write sets enable and stop_on_error alone. -/
theorem Queue.ctrlFields_of_not_disabled {x : Queue} (v : Word) (hstate : x.state ≠ .disabled) :
    x.ctrlFields v = { x with enable := v.getLsbD 31, stopOnError := v.getLsbD 30 } := by
  simp only [Queue.ctrlFields, hstate, if_false, getLsbD_bit]

/-- A queue with nothing decoded has nothing that an abort would end (07_commands_and_queues.md R220). -/
theorem State.abortQueue_of_nothing_decoded {s : State} {q j : Nat} (disable : Bool) (hslot : (s.queue q j).slot = none)
    (hcmds : (s.queue q j).cmds = []) :
    s.abortQueue q j disable = s.modQueue q j (fun x =>
      Queue.settle { x with state := .stopping, thenDisabled := x.thenDisabled || disable }) := by
  simp [State.abortQueue, State.endUnstarted, State.abortRunning, hslot, hcmds, State.modQueue_modQueue]

/-- Settles O9: each write is one change of the queue, whose value is read off the change. -/
theorem queueControlWrites : Obligations.QueueControlWrites := by
  unfold Obligations.QueueControlWrites
  intro p q j v s hwrite hopen
  simp only [exec_queueCtrlWrite, execQueueCtrlWrite, exec_queueHeadWrite, execQueueHeadWrite, exec_queueAbort,
    execQueueAbort, exec_queueResume, execQueueResume, hwrite, hopen, Bool.and_self, if_true]
  refine ⟨?enable, ?disable, ?head, ?abort, ?resume⟩
  case enable =>
    intro hstate henable
    rw [State.writeQueueCtrl_of_disabled hstate henable]
    refine ⟨_, rfl, State.modQueue_sets ?_⟩
    rw [Queue.ctrlFields_of_disabled hstate henable]
  case disable =>
    intro hstate henable
    rw [State.writeQueueCtrl_of_stopped hstate henable]
    refine ⟨_, rfl, State.modQueue_sets ?_⟩
    rw [Queue.ctrlFields_of_not_disabled v (by simp [hstate]), henable]
  case head => exact ⟨_, rfl, State.modQueue_sets rfl⟩
  case abort =>
    intro hstate hslot hcmds hdisabled herror
    rw [State.abortWrite, if_pos (Or.inl hstate), State.abortQueue_of_nothing_decoded false hslot hcmds]
    refine ⟨_, rfl, State.modQueue_sets ?_⟩
    simp [Queue.settle, hslot, hcmds, hdisabled, herror]
  case resume =>
    intro hstate
    exact ⟨_, rfl, State.modQueue_sets (if_pos hstate)⟩

/-! ### Fetch -/

theorem exec_descriptorFetch (q : Nat) (s : State) : exec (.descriptorFetch q) s = execDescriptorFetch q s := rfl

/-- A fetch of a ring slot that translates and can be read takes its bytes (07_commands_and_queues.md R213, R215). -/
theorem State.fetchOne_of_canRead {s : State} {q j : Nat} {e : Extent}
    (hring : s.checkDirect (s.queue q j).context needRead
      ((s.queue q j).base.toNat + 128 * ((s.queue q j).head.toNat % (s.queue q j).size)) 128 = .ok e)
    (hlen : e.len = 128) (hread : s.canRead q e) :
    s.fetchOne q j = (s.didRead e.pa 128).takeDesc q j (s.readPhys e.coherent e.pa 128) := by
  obtain ⟨hopen, hreach, hready, hclean⟩ := hread
  rw [hlen] at hreach hready hclean
  simp [State.fetchOne, hring, hopen, hreach, hready, hclean]

/-- Settles O10: the fetch is that of the queue the rotation comes to, and takes the bytes of the slot of HEAD. -/
theorem fetchTakesTheNextDescriptor : Obligations.FetchTakesTheNextDescriptor := by
  unfold Obligations.FetchTakesTheNextDescriptor
  intro q j e s hruns hturn hring hlen hread
  rw [exec_descriptorFetch, execDescriptorFetch, if_pos hruns]
  simp only [hturn, State.fetchOne_of_canRead hring hlen hread, State.takeDesc]

/-! ### Decode -/

theorem exec_commandDecode (q j : Nat) (s : State) : exec (.commandDecode q j) s = execCommandDecode q j s := rfl

/-- Takes the oldest fetched descriptor off a queue, the others left. -/
def State.dropFetched (s : State) (q j : Nat) (l : List Fetched) : State :=
  s.modQueue q j (fun x => { x with fetched := l })

section
variable {s : State} {q j : Nat} {f : Fetched} {l : List Fetched}

/-- A queue that may decode decodes its oldest fetched descriptor (02_stations_and_routes.md R59). -/
theorem execCommandDecode_of_may (hruns : s.quadRuns q = true) (hstate : (s.queue q j).state = .running)
    (hslot : (s.queue q j).slot = none) (hroom : (s.quad q).readyCount < 4) :
    execCommandDecode q j s = .next (s.decodeHead q j) := by
  simp [execCommandDecode, hruns, hstate, hslot, hroom]

/-- A descriptor that the checks end leaves the queue and ends with their status. -/
theorem State.decodeHead_of_ends {st det : Nat} {e : DestEntry} {u : State} (hfetched : (s.queue q j).fetched = f :: l)
    (hcheck : s.checkCmd q j (s.freshCmd f) = (.ends st det, e, u)) :
    s.decodeHead q j =
      (u.dropFetched q j l).endCmd q j { s.freshCmd f with dest := e } st (BitVec.ofNat 64 det) := by
  simp [State.decodeHead, hfetched, hcheck, State.settleDecode, State.dropFetched]

/-- A descriptor that passes the checks leaves the queue and finds its place. -/
theorem State.decodeHead_of_granted {exts : Table Extent} {prog : List Byte} {e : DestEntry} {u : State}
    (hfetched : (s.queue q j).fetched = f :: l)
    (hcheck : s.checkCmd q j (s.freshCmd f) = (.granted exts prog, e, u)) :
    s.decodeHead q j =
      (u.dropFetched q j l).place q j { s.freshCmd f with dest := e, exts := exts, prog := prog } := by
  simp [State.decodeHead, hfetched, hcheck, State.settleDecode, State.dropFetched]

end

/-- Steps 1 to 4 come first (07_commands_and_queues.md R198). -/
theorem State.checkCmd_of_static {s : State} {q j : Nat} {c : Cmd} (hstatic : staticCheck c.desc ≠ stOk) :
    s.checkCmd q j c = (.ends (staticCheck c.desc) 0, .reset, s) := by
  rw [State.checkCmd, if_pos hstatic]

/-- Step 5 comes next: a destination entry that may not be used ends the command SEG_PERM. -/
theorem State.checkCmd_of_no_dest {s : State} {q j : Nat} {c : Cmd} (hstatic : staticCheck c.desc = stOk)
    (hdest : s.checkDest q j c.desc = none) : s.checkCmd q j c = (.ends stSegPerm 0, .reset, s) := by
  simp [State.checkCmd, hstatic, hdest]

/-- Past step 5 the checks are those of the command's memory. -/
theorem State.checkCmd_of_dest {s u : State} {q j : Nat} {c : Cmd} {e : DestEntry} {r : Dec}
    (hstatic : staticCheck c.desc = stOk) (hdest : s.checkDest q j c.desc = some e)
    (hmemory : s.checkMemory q j c = (r, u)) : s.checkCmd q j c = (r, e, u) := by
  simp [State.checkCmd, hstatic, hdest, hmemory]

/-- A command that waits on no condition and on no order joins the decoded commands, ready (07_commands_and_queues.md
R216, R217). -/
theorem State.place_of_orderMet {s : State} {q j : Nat} {c : Cmd} (hconds : c.conds = []) (hphase : c.phase = .ready)
    (horder : s.orderMet q j c = true) :
    s.place q j c = s.modQueue q j (fun x => { x with cmds := x.cmds ++ [c] }) := by
  have hnone : { c with conds := [] } = c := by rw [← hconds]
  have hsame : { c with conds := [], phase := .ready } = c := by rw [← hconds, ← hphase]
  simp only [State.place, hconds, State.skipMet, hnone, horder, if_true, hsame]

/-- Settles O11: the outcome of the checks, in the order of R198, decides where the descriptor goes. -/
theorem decodeChecksAndAdmits : Obligations.DecodeChecksAndAdmits := by
  unfold Obligations.DecodeChecksAndAdmits
  intro q j f l s hruns hstate hslot hroom hfetched
  rw [exec_commandDecode, execCommandDecode_of_may hruns hstate hslot hroom]
  refine ⟨fun hstatic => ?static, fun hstatic hdest => ?dest, ?admitted⟩
  case static => rw [State.decodeHead_of_ends hfetched (State.checkCmd_of_static hstatic)]; rfl
  case dest => rw [State.decodeHead_of_ends hfetched (State.checkCmd_of_no_dest hstatic hdest)]; rfl
  case admitted =>
    intro e exts prog u hstatic hdest hmemory hconds horder
    rw [State.decodeHead_of_granted hfetched (State.checkCmd_of_dest hstatic hdest hmemory)]
    exact congrArg _ (State.place_of_orderMet hconds rfl horder)

/-! ### SIGNAL, WAIT and FENCE -/

theorem exec_signal (q j : Nat) (idx : Word) (s : State) : exec (.signal q j idx) s = execSignal q j idx s := rfl

theorem exec_wait (q j : Nat) (idx : Word) (s : State) : exec (.wait q j idx) s = execWait q j idx s := rfl

theorem exec_fence (q j : Nat) (idx : Word) (s : State) : exec (.fence q j idx) s = execFence q j idx s := rfl

/-- A started command without stations ends, late where its condition was met in its deciding cycle
(07_commands_and_queues.md R210, 08_memory_model.md R238). -/
theorem State.runPlain_of_underway {s : State} {q j op : Nat} {idx : Word} {c : Cmd} (h : s.underway q j idx op c) :
    s.runPlain q j idx op = s.endCmd q j c (if c.late then stOkLate else stOk) 0 := by
  obtain ⟨hruns, hfind, hphase, hran, hop⟩ := h
  simp [State.runPlain, hruns, hfind, hphase, hran, hop]

/-- Settles O19: the three commands end alike, and the end of a SIGNAL carries out its one operation. -/
theorem plainCommandsComplete : Obligations.PlainCommandsComplete := by
  unfold Obligations.PlainCommandsComplete
  intro q j idx c s
  simp only [exec_signal, exec_wait, exec_fence, execSignal, execWait, execFence]
  refine ⟨fun h => congrArg _ (State.runPlain_of_underway h), fun h => congrArg _ (State.runPlain_of_underway h),
    fun h => congrArg _ (State.runPlain_of_underway h), ?_⟩
  intro obj o h hlate hcpl hirq hsignals hdie hway
  refine ⟨s.endCmd q j c stOk 0, ?_, endCmd_signal q j c s obj o hcpl hirq hsignals hdie hway⟩
  rw [State.runPlain_of_underway h, hlate]
  rfl

/-! ### MOVE, SEND and INLINE_SEND -/

theorem exec_move (q j : Nat) (idx : Word) (s : State) :
    exec (.move q j idx) s = .next (s.runCmd q j idx opMove RunIn.runMove) := rfl

theorem exec_send (q j : Nat) (idx : Word) (s : State) :
    exec (.send q j idx) s = .next (s.runCmd q j idx opSend RunIn.runSend) := rfl

theorem exec_inlineSend (q j : Nat) (idx : Word) (s : State) :
    exec (.inlineSend q j idx) s = .next (s.runCmd q j idx opInline RunIn.runInline) := rfl

/-- Tiles of 4,096 bytes that some bytes fill, the last of them in part or whole (02_stations_and_routes.md R53). -/
def tilesNeeded (data : List Byte) : Nat := (data.length + 4095) / 4096

theorem cutTiles_eq (data : List Byte) : cutTiles data = chunks 4096 (tilesNeeded data) data := by
  have hceil : ceilDiv data.length 4096 = tilesNeeded data := by unfold ceilDiv tilesNeeded; omega
  rw [cutTiles, hceil]

theorem cutTiles_length (data : List Byte) : (cutTiles data).length = tilesNeeded data := by
  rw [cutTiles_eq, chunks_len]

theorem cutTiles_getElem? {data : List Byte} {i : Nat} (h : i < tilesNeeded data) :
    (cutTiles data)[i]? = some ((data.drop (4096 * i)).take 4096) := by
  rw [cutTiles_eq, chunks_get _ _ _ _ h]

/-- Bytes cut into tiles are written as they were before the cut. -/
theorem RunIn.writeTiles_of_cutTiles {r : RunIn} (off : Nat) (data : List Byte) (s : State) (hlim : r.limit = none) :
    r.writeTiles off (cutTiles data) s = r.write off data s := by
  have hwhole := chunks_full (tilesNeeded data) data trivial (by unfold tilesNeeded; omega)
  have hflat := chunks_flatten 4096 (tilesNeeded data) data (by unfold tilesNeeded; omega)
  simp only [RunIn.writeTiles, leave_all _ _ _ _ hlim, cutTiles_eq, hwhole, if_true, hflat]

/-- A source without records that can be read is ready, with destinations that can be written. -/
theorem RunIn.allReady_of_source {r : RunIn} {a : Extent} {s : State} (hsrc : r.c.ext 0 = some a)
    (hrec : r.c.ext 8 = none) (hread : s.canRead r.q a) (writes : List Nat)
    (hwrites : ∀ o ∈ writes, ∀ e, r.c.ext o = some e →
      s.canWrite r.q e ∧ s.hintReady (stashOf r.c.stash) e.coherent e.pa e.len = true) :
    r.allReady [0, 8] writes s := by
  obtain ⟨hopen, hreach, hready, -⟩ := hread
  refine ⟨fun o ho e he => ?_, fun o ho e he => ?_⟩
  · rcases List.mem_pair.mp ho with rfl | rfl
    · obtain rfl : a = e := Option.some.inj (hsrc.symm.trans he)
      exact ⟨hopen, hreach, hready⟩
    · simp [hrec] at he
  · obtain ⟨⟨hopen, hreach, hready, -⟩, hhint⟩ := hwrites o ho e he
    exact ⟨hopen, hreach, by rw [State.hintedReady, hready, hhint]; rfl⟩

section
variable {q j : Nat} {c : Cmd} {a : Extent} {s : State}

/-- What a command without the Crook carries from a source without records: the source's bytes, cut into tiles. -/
theorem RunIn.moved_of_plain (hcrook : onRoute c.desc stCrook = false) (hsrc : c.ext 0 = some a)
    (hsrcRec : c.ext 8 = none) (hread : s.canRead q a) :
    ∃ ts, RunIn.moved ⟨q, j, c, none⟩ s = .ok ts (s.didRead a.pa a.len) ∧
      ts.map Prod.fst = cutTiles (s.readPhys a.coherent a.pa a.len) ∧
      ts.length = tilesNeeded (s.readPhys a.coherent a.pa a.len) := by
  obtain ⟨-, -, -, hclean⟩ := hread
  obtain ⟨ts, hmoved, hfst⟩ := moved_plain q j c a s hcrook hsrc hsrcRec hclean
  have hcut : ts.map Prod.fst = cutTiles (s.readPhys a.coherent a.pa a.len) := by rw [hfst, cutTiles_eq]; rfl
  refine ⟨ts, hmoved, hcut, ?_⟩
  rw [← List.length_map (f := Prod.fst), hcut, cutTiles_length]

/-- A MOVE whose source can be read and whose destination takes all of it writes the source's bytes there
(07_commands_and_queues.md R207). -/
theorem RunIn.runMove_of_plain {b : Extent} {data : List Byte} (hcrook : onRoute c.desc stCrook = false)
    (hsrc : c.ext 0 = some a) (hsrcRec : c.ext 8 = none) (hdst : c.ext 0x10 = some b) (hdstRec : c.ext 0x18 = none)
    (hdata : s.readPhys a.coherent a.pa a.len = data) (hlen : b.len = data.length) (hread : s.canRead q a)
    (hwrite : s.canWrite q b) (hhint : s.hintReady (stashOf c.stash) b.coherent b.pa b.len = true)
    (hland : (s.didRead a.pa a.len).writePoison b.coherent b.pa b.len = false) :
    RunIn.runMove ⟨q, j, c, none⟩ s =
      .ok ⟨tilesNeeded data, [], [(stIntake, tilesNeeded data), (stBell, tilesNeeded data)]⟩
        ((s.didRead a.pa a.len).writeHinted (q / 16) (stashOf c.stash) b.coherent b.pa data) := by
  have hready : RunIn.allReady ⟨q, j, c, none⟩ [0, 8] [0x10, 0x18] s := by
    refine RunIn.allReady_of_source (r := ⟨q, j, c, none⟩) hsrc hsrcRec hread _ (fun o ho e he => ?_)
    rcases List.mem_pair.mp ho with rfl | rfl
    · obtain rfl : b = e := Option.some.inj (hdst.symm.trans he)
      exact ⟨hwrite, hhint⟩
    · simp [hdstRec] at he
  obtain ⟨us, hask⟩ := askBoth_ready _ _ _ _ hready
  obtain ⟨ts, hmoved, hfst, hcount⟩ := RunIn.moved_of_plain (j := j) hcrook hsrc hsrcRec hread
  rw [hdata] at hfst hcount
  have htake : data.take b.len = data := by rw [hlen, List.take_length]
  have hput : RunIn.writeTiles ⟨q, j, c, none⟩ 0x10 (ts.map Prod.fst) (s.didRead a.pa a.len) =
      .ok () ((s.didRead a.pa a.len).writeHinted (q / 16) (stashOf c.stash) b.coherent b.pa data) := by
    rw [hfst, RunIn.writeTiles_of_cutTiles 0x10 data _ rfl,
      RunIn.write_of_ext _ rfl hdst (by rw [htake, ← hlen]; exact hland), htake]
  have hrec : ∀ bs u, RunIn.write ⟨q, j, c, none⟩ 0x18 bs u = .ok () u := fun bs u =>
    RunIn.write_of_absent _ bs u hdstRec
  simp only [RunIn.runMove, hask, hmoved, hput, Run.andThen_ok, leave_all, left_all, hcount,
    hrec, moveCounts, RunIn.d, hcrook, Bool.false_eq_true, if_false, List.append_nil,
    List.cons_append, List.nil_append]

/-- A SEND whose source can be read has one packet to send for each tile of the source's bytes
(13_axis_links_and_drone.md R366). -/
theorem RunIn.runSend_of_plain {data : List Byte} (hcrook : onRoute c.desc stCrook = false)
    (hsrc : c.ext 0 = some a) (hsrcRec : c.ext 8 = none) (hrecs : present c.desc 8 = false)
    (hdata : s.readPhys a.coherent a.pa a.len = data) (hread : s.canRead q a) :
    RunIn.runSend ⟨q, j, c, none⟩ s =
      .ok ⟨0, (cutTiles data).zipIdx.map (fun (p : List Byte × Nat) =>
          tilePacket (s.didRead a.pa a.len) q c.dest (body c.desc 0x30 6 + 4096 * p.2) p.1 []),
        [(stIntake, tilesNeeded data)]⟩ (s.didRead a.pa a.len) := by
  have hready : RunIn.allReady ⟨q, j, c, none⟩ [0, 8] [] s :=
    RunIn.allReady_of_source (r := ⟨q, j, c, none⟩) hsrc hsrcRec hread _ (by simp)
  obtain ⟨us, hask⟩ := askBoth_ready _ _ _ _ hready
  obtain ⟨ts, hmoved, hfst, hcount⟩ := RunIn.moved_of_plain (j := j) hcrook hsrc hsrcRec hread
  rw [hdata] at hfst hcount
  simp only [RunIn.runSend, hask, hmoved, Run.andThen_ok, gone_all, moveCounts, RunIn.d, hcrook, hrecs, hcount,
    Bool.false_eq_true, if_false, List.append_nil, ← hfst, List.zipIdx_map, List.map_map]
  rfl

end

/-- Settles O14: the run of each command on a plain source, left by its stations. -/
theorem movesCarryTheirBytes : Obligations.MovesCarryTheirBytes := by
  unfold Obligations.MovesCarryTheirBytes
  intro q j idx c a s data n u
  rw [exec_move, exec_send, exec_inlineSend]
  refine ⟨?move, ?send, ?inline⟩
  case move =>
    intro b hrun hcrook hsrc hsrcRec hdst hdstRec hlen hread hwrite hhint hland
    exact congrArg _ (runCmd_ok hrun
      (RunIn.runMove_of_plain hcrook hsrc hsrcRec hdst hdstRec rfl hlen hread hwrite hhint hland))
  case send =>
    intro hrun hcrook hsrc hsrcRec hrecs hread
    have hsend := runCmd_ok hrun (RunIn.runSend_of_plain hcrook hsrc hsrcRec hrecs rfl hread)
    refine ⟨_, congrArg _ hsend, ?_, ?_⟩
    · rw [List.length_map, List.length_zipIdx, cutTiles_length]
      rfl
    · intro i hi
      rw [List.getElem?_map, List.getElem?_zipIdx, cutTiles_getElem? hi]
      simp [u]
  case inline =>
    intro hrun
    exact congrArg _ (runCmd_ok hrun rfl)

/-! ### GEMM, GEMM_T and GEMV -/

theorem exec_gemm (q j : Nat) (idx : Word) (s : State) :
    exec (.gemm q j idx) s = .next (s.runCmd q j idx opGemm RunIn.runGemm) := rfl

theorem exec_gemmT (q j : Nat) (idx : Word) (s : State) :
    exec (.gemmT q j idx) s = .next (s.runCmd q j idx opGemmT RunIn.runGemmT) := rfl

theorem exec_gemv (q j : Nat) (idx : Word) (s : State) :
    exec (.gemv q j idx) s = .next (s.runCmd q j idx opGemv RunIn.runGemv) := rfl

/-- The product of a command with the body of Table CMD-3, each element with its overflow flag, through ReLU where
asked (04_matrix_array.md R118 to R123). -/
def RunIn.gemmProduct (r : RunIn) (x : Factors) : List (List (Fp × Bool)) :=
  relued (dRelu r.d) (productOf ((clsOf (body r.d 0x36 1)).getD .fp8) x.a x.cols)

/-- The result tiles of such a command under a scale exponent (05_backward_pass.md R144). -/
def RunIn.gemmTiles (r : RunIn) (m n : Nat) (b : Int) (x : Factors) (s : State) : List (OutTile × List Byte) :=
  r.packMatrix (body r.d 0x38 1) m n ((r.gemmProduct x).map (List.map (fun y => y.1.scale b)))
    ((r.gemmProduct x).map (List.map Prod.snd)) s

/-- Result tiles counted in the gradient registers where the command's results are gradients (05_backward_pass.md
R145). -/
def RunIn.graded (r : RunIn) (grads : Bool) (ts : List (OutTile × List Byte)) (s : State) : State :=
  if grads then s.countGrads r.q (ts.map Prod.fst) else s

/-- A GEMM or GEMM_T puts the tiles of its product into its destination. -/
theorem RunIn.runProduct_of_bell {r : RunIn} {m k n : Nat} {side grads : Bool} {b : Int} {e : Extent} {x : Factors}
    {s u v : State} {ts : List (OutTile × List Byte)} (hlim : r.limit = none) (hbell : toBell r.c.desc = true)
    (hreed : reedOf r.c.desc = none) (hext : r.c.ext 0x20 = some e) (hrec : r.c.ext 0x28 = none)
    (hready : r.allReady gemmReads gemmWrites s) (hdims : gDims r.d = (m, k, n))
    (hfactors : r.factors (body r.d 0x36 1) (body r.d 0x37 1) m k n side s = .ok x u)
    (hcounted : r.countProduct x u = v) (htiles : r.gemmTiles m n b x v = ts)
    (hland : (r.graded grads ts v).canLand e ts) :
    ∃ counts, r.runProduct side grads b s = .ok ⟨ts.length, [], counts⟩
      ((r.graded grads ts v).writeHinted (r.q / 16) (stashOf r.c.stash) e.coherent e.pa
        ((tileBytesOf ts).take e.len)) := by
  obtain ⟨us, hask⟩ := askBoth_ready r _ _ s hready
  simp only [RunIn.runProduct, hdims, hask, hfactors, hcounted, Run.andThen_ok]
  exact ⟨_, finish_plain r _ _ _ false grads b (r.gemmProduct x) 0x20 0x28 _ _ e hlim hbell hreed hext hrec ts htiles
    hland⟩

/-- The product of a GEMV, each element with its overflow flag (06_reed_chanter_gather.md R175). -/
def RunIn.gemvProduct (r : RunIn) (x w : List (List Fp)) : List (List (Fp × Bool)) :=
  relued (dRelu r.d) (productOf ((clsOf (body r.d 0x35 1)).getD .fp8)
    (x.map (List.map (stationary (body r.d 0x35 1)))) (transpose (dim64 r.d 0x32 2) w))

/-- The result vectors of a GEMV as tiles (06_reed_chanter_gather.md R176). -/
def RunIn.gemvTiles (r : RunIn) (x w : List (List Fp)) (s : State) : List (OutTile × List Byte) :=
  r.packVectors (body r.d 0x37 1) ((r.gemvProduct x w).map (List.map (fun y => y.1.scale 0)))
    ((r.gemvProduct x w).map (List.map Prod.snd)) s

/-- The multiplications of a GEMV counted in its Chanter (06_reed_chanter_gather.md R176). -/
def RunIn.gemvCounted (r : RunIn) (s : State) : State :=
  s.countChanter r.q (body r.d 0x34 1 * dim64 r.d 0x30 2 * dim64 r.d 0x32 2)

/-- A GEMV puts the tiles of its vectors into its destination. -/
theorem RunIn.runGemv_of_bell {r : RunIn} {e : Extent} {x w : List (List Fp)} {s u v : State}
    {ts : List (OutTile × List Byte)} (hlim : r.limit = none) (hbell : toBell r.c.desc = true)
    (hreed : reedOf r.c.desc = none) (hext : r.c.ext 0x20 = some e) (hrec : r.c.ext 0x28 = none)
    (hready : r.allReady gemmReads gemmWrites s)
    (hvectors : r.vectors (body r.d 0x35 1) (body r.d 0x34 1) (dim64 r.d 0x30 2) 0 8 s = .ok x u)
    (hweights : r.matrix (body r.d 0x36 1) (dim64 r.d 0x30 2) (dim64 r.d 0x32 2) 0x10 0x18 u = .ok w v)
    (htiles : r.gemvTiles x w (r.gemvCounted v) = ts) (hland : (r.gemvCounted v).canLand e ts) :
    ∃ counts, r.runGemv s = .ok ⟨ts.length, [], counts⟩
      ((r.gemvCounted v).writeHinted (r.q / 16) (stashOf r.c.stash) e.coherent e.pa ((tileBytesOf ts).take e.len)) := by
  obtain ⟨us, hask⟩ := askBoth_ready r _ _ s hready
  simp only [RunIn.runGemv, hask, hvectors, hweights, Run.andThen_ok, part_all _ _ _ hlim]
  exact ⟨_, finish_plain r _ _ _ true false 0 (r.gemvProduct x w) 0x20 0x28 _ _ e hlim hbell hreed hext hrec ts htiles
    hland⟩

/-- Settles O15: the three products land as their tiles; GEMM_T alone counts them as gradients. -/
theorem productsWriteTheirTiles : Obligations.ProductsWriteTheirTiles := by
  unfold Obligations.ProductsWriteTheirTiles
  intro q j idx c e s r d
  rcases hdims : gDims d with ⟨m, k, n⟩
  intro hbell hreed hext hrec hready
  refine ⟨?gemm, ?gemmT, ?gemv⟩
  case gemm =>
    intro x u hrun hfactors p v ts hland
    rw [exec_gemm]
    exact landed_ex hrun (RunIn.runProduct_of_bell rfl hbell hreed hext hrec hready hdims hfactors rfl rfl hland)
  case gemmT =>
    intro x u hrun hfactors p v ts hland
    rw [exec_gemmT]
    exact landed_ex hrun (RunIn.runProduct_of_bell rfl hbell hreed hext hrec hready hdims hfactors rfl rfl hland)
  case gemv =>
    intro x w u v hrun k n b hvectors hweights p v' ts hland
    rw [exec_gemv]
    exact landed_ex hrun (RunIn.runGemv_of_bell rfl hbell hreed hext hrec hready hvectors hweights rfl hland)

end Sys2Proof.Machine

namespace Sys2Proof.Machine

/-! ### Sync objects: operations and register writes at their home -/

theorem exec_syncObjectOp (d x : Nat) (ops : List SyncOp) (s : State) :
    exec (.syncObjectOp d x ops) s = execSyncObjectOp d x ops s := rfl

theorem exec_dieSyncAdd (p : Port) (d x : Nat) (half : WordHalf) (v : Dword) (s : State) :
    exec (.dieSyncAdd p d x half v) s = execDieSyncAdd p d x half v s := rfl

theorem exec_dieSyncSet (p : Port) (d x : Nat) (half : WordHalf) (v : Dword) (s : State) :
    exec (.dieSyncSet p d x half v) s = execDieSyncSet p d x half v s := rfl

/-- Object x of die d stands in that die (08_memory_model.md R234). -/
theorem objDie_of_lt (d : Nat) {x : Nat} (hx : x < 4096) : objDie (d * 4096 + x) = d := by
  unfold objDie
  omega

/-- Settles O20: the operations are folded over the object in the order given, each by `syncArrive_one`. -/
theorem syncObjectsTakeOperations : Obligations.SyncObjectsTakeOperations := by
  unfold Obligations.SyncObjectsTakeOperations
  intro d x ops s hrun hd hx hdie
  have hexec : exec (.syncObjectOp d x ops) s = .next (ops.foldl (fun s o => s.syncArrive (d * 4096 + x) o) s) := by
    simp [exec_syncObjectOp, execSyncObjectOp, hrun, hd, hx]
  rw [← objDie_of_lt d hx] at hdie
  exact ⟨_, hexec, syncArrive_all _ ops s hdie⟩

/-- The agent that a port's operations on sync objects come from (08_memory_model.md R229). -/
def portAgent : Port → Agent
  | .core c => .core c
  | .mgmtA => .mgmt
  | .mgmtB => .mgmt
  | .pcie n => .pcie n

/-- The scope of a port's operations on sync objects (08_memory_model.md R229, R239). -/
def portSyncScope : Port → Scope
  | .pcie _ => .system
  | _ => .package

/-- Whether a port's writes reach a sync object: a device by its grant, any other port by its right to write
(14_network_and_pcie.md R394). -/
def State.maySync (s : State) (p : Port) (obj : Nat) : Bool :=
  match p with
  | .pcie n => s.syncGranted n obj
  | _ => s.mayWrite p

/-- A write by a port that may reach the object is the operation that its half gives. -/
theorem State.writeSync_of_maySync {s : State} {p : Port} {obj : Nat} (isSet : Bool) (half : WordHalf) (v : Dword)
    (h : s.maySync p obj = true) :
    s.writeSync p obj isSet half v = s.syncOpt obj (syncWrite (portAgent p) (portSyncScope p) isSet half v) := by
  cases p with
  | _ => exact if_pos h

/-- A write by a port that may not reach the object changes no object, and is counted against a device. -/
theorem State.writeSync_of_not_maySync {s : State} {p : Port} {obj : Nat} (isSet : Bool) (half : WordHalf) (v : Dword)
    (h : s.maySync p obj = false) :
    (∀ y, (s.writeSync p obj isSet half v).syncVal y = s.syncVal y) ∧
    ∀ n, p = .pcie n →
      ((s.writeSync p obj isSet half v).pciePort n).denied = min 0xFFFFFFFF ((s.pciePort n).denied + 1) := by
  have hno : ¬ s.maySync p obj = true := Bool.eq_false_iff.mp h
  cases p with
  | pcie n =>
    have hwrite : s.writeSync (.pcie n) obj isSet half v = s.pcieDeny n := if_neg hno
    obtain ⟨-, -, hdenied⟩ := pcieDeny_facts s n
    rw [hwrite]
    refine ⟨fun y => ?_, fun m hm => ?_⟩
    · simp [State.pcieDeny, State.syncVal]
    · cases hm
      exact hdenied
  | _ => exact ⟨fun y => congrArg (State.syncVal · y) (if_neg hno), nofun⟩

section
variable {p : Port} {d x : Nat} {v : Dword} {s : State}

/-- A write of DIE_SYNCi_ADD in a running package is a write of the object. -/
theorem exec_dieSyncAdd_of_running (half : WordHalf) (hrun : s.running = true) (hd : d < 4) (hx : x < 4096) :
    exec (.dieSyncAdd p d x half v) s = .next (s.writeSync p (d * 4096 + x) false half v) := by
  simp [exec_dieSyncAdd, execDieSyncAdd, hrun, hd, hx]

/-- A write of DIE_SYNCi_SET in a running package is a write of the object. -/
theorem exec_dieSyncSet_of_running (half : WordHalf) (hrun : s.running = true) (hd : d < 4) (hx : x < 4096) :
    exec (.dieSyncSet p d x half v) s = .next (s.writeSync p (d * 4096 + x) true half v) := by
  simp [exec_dieSyncSet, execDieSyncSet, hrun, hd, hx]

end

/-- A write whose half gives an operation applies it to the object, and no other object changes. -/
theorem State.writeSync_applies {s : State} {p : Port} {obj : Nat} {isSet : Bool} {half : WordHalf} {v w : Dword}
    (hmay : s.maySync p obj = true) (hdie : s.boot.diesInReset.contains (objDie obj) = false)
    (hop : syncWrite (portAgent p) (portSyncScope p) isSet half v = some ⟨portAgent p, portSyncScope p, isSet, w⟩) :
    (s.writeSync p obj isSet half v).syncVal obj = (if isSet then w else s.syncVal obj + w) ∧
    ∀ y, y ≠ obj → (s.writeSync p obj isSet half v).syncVal y = s.syncVal y := by
  rw [State.writeSync_of_maySync isSet half v hmay, hop]
  obtain ⟨hval, hother, -, -⟩ := syncArrive_one obj ⟨portAgent p, portSyncScope p, isSet, w⟩ s hdie
  exact ⟨hval, hother⟩

/-- Settles O21: a write by a port that may reach the object is one operation there, or none for a high word. -/
theorem registerWritesReachSyncObjects : Obligations.RegisterWritesReachSyncObjects := by
  unfold Obligations.RegisterWritesReachSyncObjects
  intro p d x v s hrun hd hx hdie obj may
  have hport : may = s.maySync p obj := rfl
  rw [← objDie_of_lt d hx] at hdie
  simp only [hport, exec_dieSyncAdd_of_running _ hrun hd hx, exec_dieSyncSet_of_running _ hrun hd hx]
  refine ⟨fun hmay => ⟨?addDword, ?setDword, ?addLow, ?setLow, ?addHigh, ?setHigh⟩, fun hmay half => ?refused⟩
  case addDword => exact ⟨_, rfl, State.writeSync_applies hmay hdie rfl⟩
  case setDword => exact ⟨_, rfl, State.writeSync_applies hmay hdie rfl⟩
  case addLow => exact ⟨_, rfl, State.writeSync_applies hmay hdie rfl⟩
  case setLow => exact ⟨_, rfl, State.writeSync_applies hmay hdie rfl⟩
  case addHigh => exact congrArg _ (State.writeSync_of_maySync false .high v hmay)
  case setHigh => exact congrArg _ (State.writeSync_of_maySync true .high v hmay)
  case refused =>
    obtain ⟨hadd, hcounted⟩ := State.writeSync_of_not_maySync false half v hmay
    obtain ⟨hset, -⟩ := State.writeSync_of_not_maySync true half v hmay
    exact ⟨_, _, rfl, rfl, hadd, hset, hcounted⟩

/-! ### Receive windows: control, counters and limit -/

theorem exec_windowCtrlWrite (p : Port) (q w : Nat) (v : Word) (s : State) :
    exec (.windowCtrlWrite p q w v) s = execWindowCtrlWrite p q w v s := rfl

theorem exec_windowCounterWrite (p : Port) (q w : Nat) (r : WindowCounter) (v : Word) (s : State) :
    exec (.windowCounterWrite p q w r v) s = execWindowCounterWrite p q w r v s := rfl

/-- A window that holds no packet is as it is without one. -/
theorem Window.without_held {x : Window} (h : x.held = []) : { x with held := [] } = x := by
  rw [← h]

/-- A state whose window has let go what it held. -/
def State.noneHeld (s : State) (q w : Nat) : State := s.modWindow q w (fun x => { x with held := [] })

/-- Letting go leaves a window that holds nothing as it was. -/
theorem State.window_noneHeld {s : State} {q w : Nat} (h : (s.window q w).held = []) :
    (s.noneHeld q w).window q w = s.window q w :=
  (State.window_modWindow_same ..).trans (Window.without_held h)

/-- With no packet held, judging the held packets again leaves the window without one. -/
theorem State.releaseHeld_of_none_held {s : State} {q w : Nat} (h : (s.window q w).held = []) :
    s.releaseHeld q w = s.noneHeld q w := by
  rw [State.releaseHeld, h, State.takeHeld, State.noneHeld]

/-- A change of one window that holds no packet then lets none go: the window takes its new value, and everything else
stays. -/
theorem State.releaseHeld_modWindow {s : State} {q w : Nat} {f : Window → Window} {y : Window}
    (hval : f (s.window q w) = y) (hheld : (f (s.window q w)).held = []) :
    s.onlyWindow q w ((s.modWindow q w f).releaseHeld q w) ∧ ((s.modWindow q w f).releaseHeld q w).window q w = y := by
  have hwin : (s.modWindow q w f).window q w = f (s.window q w) := State.window_modWindow_same ..
  rw [← hwin] at hheld
  rw [State.releaseHeld_of_none_held hheld]
  refine ⟨onlyWindow_trans (onlyWindow_mod ..) (onlyWindow_mod ..), ?_⟩
  rw [State.window_noneHeld hheld, hwin, hval]

/-- What every write of QD_WINw_CTRL takes, open or closed (08_memory_model.md Table MEM-9). -/
def Window.ctrlFields (x : Window) (v : Word) : Window := { x with linkEn := v.getLsbD 30, epoch := v.setWidth 16 }

/-- What a write of QD_WINw_CTRL takes while the window is closed: the context too (08_memory_model.md R243). -/
def Window.closedFields (x : Window) (v : Word) : Window :=
  { x.ctrlFields v with context := bits v.toNat 16 12 }

/-- A window as a write that sets open leaves it: open under its extents where they pass their check, else as it was
(08_memory_model.md R243). -/
def State.tryOpen (s : State) (x : Window) : Window :=
  match s.windowExts x x.context with
  | some (e, r) => { x with opened := true, ext := some e, recExt := r }
  | none => x

/-- Opening a window does not touch the packets that it holds. -/
theorem State.tryOpen_held (s : State) (x : Window) : (s.tryOpen x).held = x.held := by
  unfold State.tryOpen
  split
  · rfl
  · rfl

/-- The low half of a word is what is left of its number modulo 2^16. -/
theorem ofNat_bits_low (v : Word) : BitVec.ofNat 16 (bits v.toNat 0 16) = v.setWidth 16 := by
  apply BitVec.eq_of_toNat_eq
  simp [bits]

/-- A write that sets open in a closed window takes every field and tries to open it. -/
theorem State.writeWindowCtrl_of_closed {s : State} {q w : Nat} {v : Word} (hclosed : (s.window q w).opened = false)
    (hopen : v.getLsbD 31 = true) :
    s.writeWindowCtrl q w v = s.modWindow q w (fun _ => s.tryOpen ((s.window q w).closedFields v)) := by
  rw [getLsbD_bit] at hopen
  simp only [State.writeWindowCtrl, State.tryOpen, Window.closedFields, Window.ctrlFields, hclosed, hopen,
    Bool.false_eq_true, if_false, if_true, ← getLsbD_bit, ofNat_bits_low]
  generalize s.windowExts _ _ = exts
  cases exts with
  | none => rfl
  | some p => rfl

/-- A write that clears open in an open window takes its fields and closes it. -/
theorem State.writeWindowCtrl_of_opened {s : State} {q w : Nat} {v : Word} (hopened : (s.window q w).opened = true)
    (hclose : v.getLsbD 31 = false) :
    s.writeWindowCtrl q w v = s.modWindow q w (fun _ => ((s.window q w).ctrlFields v).close) := by
  rw [getLsbD_bit] at hclose
  simp [State.writeWindowCtrl, hopened, hclose, ← getLsbD_bit, ofNat_bits_low, Window.ctrlFields]

/-- A write of the low word of a 48-bit register keeps its high half. -/
theorem setLo48_zero (x : BitVec 48) (v : Word) : setLo48 x v 0 = x.extractLsb' 32 16 ++ v := by
  apply BitVec.eq_of_toNat_eq
  have hx := x.isLt
  have hv := v.isLt
  rw [BitVec.toNat_append, ← Nat.shiftLeft_add_eq_or_of_lt hv]
  simp only [setLo48, Nat.reducePow, pow_zero, Nat.div_one, mul_one, BitVec.toNat_ofNat, BitVec.extractLsb'_toNat,
    Nat.shiftRight_eq_div_pow, Nat.shiftLeft_eq]
  omega

/-- A write of the high word of a 48-bit register keeps its low word. -/
theorem setHi48_eq (x : BitVec 48) (v : Word) : setHi48 x v = v.setWidth 16 ++ x.extractLsb' 0 32 := by
  apply BitVec.eq_of_toNat_eq
  rw [BitVec.toNat_append, ← Nat.shiftLeft_add_eq_or_of_lt (BitVec.isLt _)]
  simp only [setHi48, Nat.reducePow, BitVec.toNat_ofNat, BitVec.toNat_setWidth, Nat.shiftLeft_eq,
    BitVec.extractLsb'_toNat, Nat.shiftRight_zero]
  omega

/-- A counter or limit write leaves the held packets. -/
theorem Window.writeCounter_held (x : Window) (r : WindowCounter) (v : Word) : (x.writeCounter r v).held = x.held := by
  have hbytes : ∀ b, ({ x with bytes := b } : Window).held = x.held := fun _ => rfl
  have hlimit : ∀ b, ({ x with limit := b } : Window).held = x.held := fun _ => rfl
  cases r with
  | bytesLo => exact hbytes _
  | bytesHi => exact hbytes _
  | pkts => rfl
  | limitLo => exact hlimit _
  | limitHi => exact hlimit _

/-- Settles O26: each write is one change of the window, whose value is read off the change. -/
theorem windowRegistersOpenAndCount : Obligations.WindowRegistersOpenAndCount := by
  unfold Obligations.WindowRegistersOpenAndCount
  intro p q w v s hwrite hquad hw hheld x set
  simp only [exec_windowCtrlWrite, execWindowCtrlWrite, exec_windowCounterWrite, execWindowCounterWrite, hwrite, hquad,
    hw, decide_true, Bool.and_self, if_true]
  refine ⟨?opens, ?closes, ?counts⟩
  case opens =>
    intro hclosed hopen
    rw [State.writeWindowCtrl_of_closed hclosed hopen]
    exact ⟨_, rfl, State.releaseHeld_modWindow rfl ((State.tryOpen_held ..).trans hheld)⟩
  case closes =>
    intro hopened hclose
    rw [State.writeWindowCtrl_of_opened hopened hclose]
    exact ⟨_, rfl, State.releaseHeld_modWindow rfl hheld⟩
  case counts =>
    intro r
    refine ⟨_, rfl, State.releaseHeld_modWindow ?_ ((Window.writeCounter_held ..).trans hheld)⟩
    cases r with
    | bytesLo => simp [Window.writeCounter, setLo48_zero, x]
    | bytesHi => simp [Window.writeCounter, setHi48_eq, x]
    | pkts => rfl
    | limitLo => simp [Window.writeCounter, setLo48_zero, x]
    | limitHi => simp [Window.writeCounter, setHi48_eq, x]

/-! ### Receive windows: packets -/

theorem exec_packetDeliver (pk : Packet) (s : State) : exec (.packetDeliver pk) s = execPacketDeliver pk s := rfl

section
variable {x : Window} {e : Extent} {epoch : Half} {offset len : Nat}

/-- A closed window drops every packet (08_memory_model.md R246). -/
theorem Window.judge_of_closed (hclosed : x.opened = false) : x.judge epoch offset len = .dropClosed := by
  simp [Window.judge, hclosed]

/-- An open window drops a packet of another epoch (08_memory_model.md R246). -/
theorem Window.judge_of_stale (hopen : x.opened = true) (hext : x.ext = some e) (hepoch : x.epoch ≠ epoch) :
    x.judge epoch offset len = .dropStale := by
  simp [Window.judge, hopen, hext, hepoch]

/-- An open window drops a packet of its epoch that its size does not hold (08_memory_model.md R246). -/
theorem Window.judge_of_beyond (hopen : x.opened = true) (hext : x.ext = some e) (hepoch : x.epoch = epoch)
    (hsize : x.size.toNat < offset + len) : x.judge epoch offset len = .dropBeyond := by
  simp [Window.judge, hopen, hext, hepoch, hsize]

/-- An open window holds back a packet inside its size that would pass its limit (08_memory_model.md R247). -/
theorem Window.judge_of_overLimit (hopen : x.opened = true) (hext : x.ext = some e) (hepoch : x.epoch = epoch)
    (hsize : offset + len ≤ x.size.toNat) (hlimit : x.limit ≠ 0xFFFFFFFFFFFF ∧ x.limit.toNat < x.bytes.toNat + len) :
    x.judge epoch offset len = .overLimit := by
  rw [Window.judge, hopen, hext]
  dsimp only
  rw [if_neg (not_not.mpr hepoch), if_neg hsize.not_gt, if_pos hlimit]

/-- An open window accepts a packet of its epoch inside its size and its limit (08_memory_model.md R244). -/
theorem Window.judge_of_accepted (hopen : x.opened = true) (hext : x.ext = some e) (hepoch : x.epoch = epoch)
    (hsize : offset + len ≤ x.size.toNat) (hlimit : x.limit = 0xFFFFFFFFFFFF ∨ x.bytes.toNat + len ≤ x.limit.toNat) :
    x.judge epoch offset len = .accept e := by
  have hwithin : ¬ (x.limit ≠ 0xFFFFFFFFFFFF ∧ x.limit.toNat < x.bytes.toNat + len) := by
    rintro ⟨hlimited, hover⟩
    exact hlimit.elim hlimited hover.not_ge
  rw [Window.judge, hopen, hext]
  dsimp only
  rw [if_neg (not_not.mpr hepoch), if_neg hsize.not_gt, if_neg hwithin]

end

/-- A window over the tiered range is shut while that is read-only (09_memory_tiers.md R272). -/
theorem State.windowShut_of_tiered {s : State} {x : Window} {e : Extent} (hro : s.tierReadOnly = true)
    (hext : x.ext = some e) (htier : e.tier = 2) : s.windowShut x = true := by
  simp [State.windowShut, hro, hext, htier]

/-- A closed window is shut to every packet, whether or not its range takes writes. -/
theorem State.judgeAt_of_closed {s : State} {q w : Nat} (epoch : Half) (offset len : Nat)
    (hclosed : (s.window q w).opened = false) : s.judgeAt q w epoch offset len = .dropClosed := by
  rw [State.judgeAt, Window.judge_of_closed hclosed, ite_self]

/-- The verdict of a window that is not shut is its own. -/
theorem State.judgeAt_of_not_shut {s : State} {q w : Nat} (epoch : Half) (offset len : Nat)
    (hshut : s.windowShut (s.window q w) = false) :
    s.judgeAt q w epoch offset len = (s.window q w).judge epoch offset len := by
  rw [State.judgeAt, if_neg (Bool.eq_false_iff.mp hshut)]

/-- What a quad's window does with a packet (08_memory_model.md R246, R247). -/
def State.verdict (s : State) (pk : Packet) : Verdict :=
  s.judgeAt pk.dquad pk.window pk.epoch pk.offset pk.data.length

/-- A packet is judged alike after a window that held nothing has let go. -/
theorem State.verdict_noneHeld {s : State} {pk : Packet} (h : (s.window pk.dquad pk.window).held = []) :
    (s.noneHeld pk.dquad pk.window).verdict pk = s.verdict pk := by
  have hshut : ∀ x, (s.noneHeld pk.dquad pk.window).windowShut x = s.windowShut x := fun _ => rfl
  simp only [State.verdict, State.judgeAt, State.window_noneHeld h, hshut]

/-- The verdicts that drop a packet. -/
def Verdict.drops : Verdict → Bool
  | .overLimit => false
  | .accept _ => false
  | _ => true

/-- What a dropped packet leaves: a count by its cause, and the answer EPOCH_STALE (08_memory_model.md R246). -/
def State.dropPacket (s : State) (pk : Packet) (v : Verdict) : State :=
  (s.modWindow pk.dquad pk.window (·.countDrop v)).answer pk .nack stEpochStale

theorem Window.countDrop_closed (x : Window) :
    x.countDrop .dropClosed = { x with closed := min 0xFF (x.closed + 1) } := by
  rw [Window.countDrop, satAdd]

theorem Window.countDrop_stale (x : Window) :
    x.countDrop .dropStale = { x with stale := min 0xFFFF (x.stale + 1) } := by
  rw [Window.countDrop, satAdd]

theorem Window.countDrop_beyond (x : Window) :
    x.countDrop .dropBeyond = { x with beyond := min 0xFF (x.beyond + 1) } := by
  rw [Window.countDrop, satAdd]

/-- What an accepted packet leaves: its bytes and record, the window's counts and signal, and an acknowledgement
(08_memory_model.md R244). -/
def State.acceptPacket (s : State) (pk : Packet) (x : Window) (e : Extent) : State :=
  ((s.windowWrite x e pk).windowCount pk.dquad pk.window pk.data.length).answer pk .ack 0

/-- What a held packet leaves: it stands behind its window (08_memory_model.md R247). -/
def State.holdPacket (s : State) (pk : Packet) : State :=
  s.modWindow pk.dquad pk.window (fun x => { x with held := x.held ++ [pk] })

section
variable {s : State} {pk : Packet}

theorem State.takePacket_of_drops (h : (s.verdict pk).drops = true) :
    s.takePacket pk.dquad pk.window pk = some (s.dropPacket pk (s.verdict pk)) := by
  unfold State.verdict at h ⊢
  unfold State.takePacket State.dropPacket
  split
  · next hv => simp [hv, Verdict.drops] at h
  · next hv => simp [hv, Verdict.drops] at h
  · rfl

theorem State.takePacket_of_overLimit (h : s.verdict pk = .overLimit) : s.takePacket pk.dquad pk.window pk = none := by
  unfold State.verdict at h
  simp only [State.takePacket, h]

theorem State.takePacket_of_accept {e : Extent} (h : s.verdict pk = .accept e) :
    s.takePacket pk.dquad pk.window pk =
      if s.packetReady pk.dquad (s.window pk.dquad pk.window) e pk then some (s.acceptPacket pk (s.window pk.dquad pk.window) e)
      else none := by
  unfold State.verdict at h
  simp only [State.takePacket, State.acceptPacket, h]

/-- A request has come to its window in a running package, and no packet stands there before it. -/
structure State.Reaches (s : State) (pk : Packet) : Prop where
  running : s.running = true
  request : isResponse pk = false
  dest : pk.dest = s.self
  present : s.present pk.dquad = true
  window : pk.window < 32
  noneHeld : (s.window pk.dquad pk.window).held = []

/-- A request for a quad that is not present is answered EPOCH_STALE (13_axis_links_and_drone.md R368). -/
theorem exec_packetDeliver_of_absent (hrun : s.running = true) (hrequest : isResponse pk = false)
    (hdest : pk.dest = s.self) (habsent : s.present pk.dquad = false) :
    exec (.packetDeliver pk) s = .next (s.answer pk .nack stEpochStale) := by
  simp [exec_packetDeliver, execPacketDeliver, hrun, hrequest, hdest, habsent]

/-- A packet that reaches its window is taken there, or held behind it. -/
theorem exec_packetDeliver_of_reaches (h : s.Reaches pk) :
    exec (.packetDeliver pk) s = .next (((s.noneHeld pk.dquad pk.window).takePacket pk.dquad pk.window pk).getD
      ((s.noneHeld pk.dquad pk.window).holdPacket pk)) := by
  obtain ⟨hrun, hrequest, hdest, hpresent, hw, hheld⟩ := h
  have hempty : ((s.noneHeld pk.dquad pk.window).window pk.dquad pk.window).held = [] := by
    rw [State.window_noneHeld hheld, hheld]
  have harrive : exec (.packetDeliver pk) s = .next (s.arrive pk.dquad pk.window pk) := by
    simp [exec_packetDeliver, execPacketDeliver, hrun, hrequest, hdest, hpresent, hw]
  rw [harrive, State.arrive, State.releaseHeld_of_none_held hheld]
  exact congrArg _ (if_pos (List.isEmpty_iff.mpr hempty))

/-- A packet that its window drops is counted and answered. -/
theorem exec_packetDeliver_of_drops (h : s.Reaches pk) {v : Verdict} {f : Window → Window} (hverdict : s.verdict pk = v)
    (hdrops : v.drops = true) (hcount : ∀ x, x.countDrop v = f x) :
    exec (.packetDeliver pk) s =
      .next (((s.noneHeld pk.dquad pk.window).modWindow pk.dquad pk.window f).answer pk .nack stEpochStale) := by
  rw [← State.verdict_noneHeld h.noneHeld] at hverdict
  subst hverdict
  rw [exec_packetDeliver_of_reaches h, State.takePacket_of_drops hdrops, Option.getD_some, State.dropPacket]
  simp only [hcount]

/-- A packet past its window's limit is held. -/
theorem exec_packetDeliver_of_overLimit (h : s.Reaches pk) (hverdict : s.verdict pk = .overLimit) :
    exec (.packetDeliver pk) s = .next ((s.noneHeld pk.dquad pk.window).holdPacket pk) := by
  rw [← State.verdict_noneHeld h.noneHeld] at hverdict
  rw [exec_packetDeliver_of_reaches h, State.takePacket_of_overLimit hverdict, Option.getD_none]

/-- A packet that its window accepts is taken when the memory is ready. -/
theorem exec_packetDeliver_of_ready (h : s.Reaches pk) {e : Extent} (hverdict : s.verdict pk = .accept e)
    (hready : (s.noneHeld pk.dquad pk.window).packetReady pk.dquad (s.window pk.dquad pk.window) e pk = true) :
    exec (.packetDeliver pk) s =
      .next ((s.noneHeld pk.dquad pk.window).acceptPacket pk (s.window pk.dquad pk.window) e) := by
  rw [← State.verdict_noneHeld h.noneHeld] at hverdict
  rw [exec_packetDeliver_of_reaches h, State.takePacket_of_accept hverdict, State.window_noneHeld h.noneHeld,
    if_pos hready, Option.getD_some]

/-- A packet that its window accepts is held when the memory is not ready (08_memory_model.md R247). -/
theorem exec_packetDeliver_of_not_ready (h : s.Reaches pk) {e : Extent} (hverdict : s.verdict pk = .accept e)
    (hbusy : (s.noneHeld pk.dquad pk.window).packetReady pk.dquad (s.window pk.dquad pk.window) e pk = false) :
    exec (.packetDeliver pk) s = .next ((s.noneHeld pk.dquad pk.window).holdPacket pk) := by
  rw [← State.verdict_noneHeld h.noneHeld] at hverdict
  rw [exec_packetDeliver_of_reaches h, State.takePacket_of_accept hverdict, State.window_noneHeld h.noneHeld,
    if_neg (Bool.eq_false_iff.mp hbusy), Option.getD_none]

end

/-- Settles O27: the verdict of the window on the packet says what the package does with it. -/
theorem packetsAreJudgedByTheirWindow : Obligations.PacketsAreJudgedByTheirWindow := by
  unfold Obligations.PacketsAreJudgedByTheirWindow
  intro pk e s hrun hrequest hdest q w x z closedTo holds
  refine ⟨fun hpresent hw hheld => ?present, fun habsent => exec_packetDeliver_of_absent hrun hrequest hdest habsent⟩
  have hreaches : s.Reaches pk := ⟨hrun, hrequest, hdest, hpresent, hw, hheld⟩
  refine ⟨fun hshut hopen hext => ?opened, fun hclosed => ?closed, fun hro hext htier => ?shut⟩
  case closed =>
    have hverdict : s.verdict pk = .dropClosed := State.judgeAt_of_closed _ _ _ hclosed
    exact ⟨_, exec_packetDeliver_of_drops hreaches hverdict rfl Window.countDrop_closed, rfl⟩
  case shut =>
    have hverdict : s.verdict pk = .dropClosed := if_pos (State.windowShut_of_tiered hro hext htier)
    exact ⟨_, exec_packetDeliver_of_drops hreaches hverdict rfl Window.countDrop_closed, rfl⟩
  case opened =>
    have hjudge : s.verdict pk = x.judge pk.epoch pk.offset pk.data.length := State.judgeAt_of_not_shut _ _ _ hshut
    refine ⟨fun hepoch hsize hlimit => ?accepted, fun hepoch hsize hlimited hover => ?overLimit,
      fun hepoch => ?stale, fun hepoch hsize => ?beyond⟩
    case accepted =>
      have haccept := hjudge.trans (Window.judge_of_accepted hopen hext hepoch hsize hlimit)
      exact ⟨fun hready => exec_packetDeliver_of_ready hreaches haccept hready,
        fun hbusy => ⟨_, exec_packetDeliver_of_not_ready hreaches haccept hbusy, rfl⟩⟩
    case overLimit =>
      exact ⟨_, exec_packetDeliver_of_overLimit hreaches (hjudge.trans
        (Window.judge_of_overLimit hopen hext hepoch hsize ⟨hlimited, hover⟩)), rfl⟩
    case stale =>
      have hstale := hjudge.trans (Window.judge_of_stale hopen hext hepoch)
      exact exec_packetDeliver_of_drops hreaches hstale rfl Window.countDrop_stale
    case beyond =>
      have hbeyond := hjudge.trans (Window.judge_of_beyond hopen hext hepoch hsize)
      exact exec_packetDeliver_of_drops hreaches hbeyond rfl Window.countDrop_beyond

end Sys2Proof.Machine

namespace Sys2Proof.Machine

/-! ### Tables: a run of keys taken out, and ranges -/

section
variable {α : Type}

/-- Entries of other keys behind a table are not read. -/
theorem Table.get_append_of_forall_ne_right (d : α) (t l : Table α) (i : Nat) (h : ∀ e ∈ l, e.1 ≠ i) :
    Table.get d (t ++ l) i = Table.get d t i := by
  induction t with
  | nil => simpa using Table.get_append_of_forall_ne d l [] i h
  | cons e t ih => obtain ⟨a, v⟩ := e; simp only [List.cons_append, Table.get_cons, ih]

theorem Table.get_of_forall_ne (d : α) {t : Table α} {i : Nat} (h : ∀ e ∈ t, e.1 ≠ i) : Table.get d t i = d := by
  simpa using Table.get_append_of_forall_ne d t [] i h

/-- What a table reads as once a run of its keys is taken out. -/
theorem Table.get_drop (d : α) (t : Table α) (k n i : Nat) :
    Table.get d (t.drop k n) i = if k ≤ i ∧ i < k + n then d else Table.get d t i := by
  unfold Table.drop
  by_cases hk : i < k
  · rw [if_neg (by omega), Table.get_append_of_forall_ne_right d _ _ i
      (fun e he => by have := (Table.mem_from he).2; omega)]
    exact Table.get_filter d _ t i (fun v => by simpa using hk)
  · rw [Table.get_append_of_forall_ne d _ _ i (fun e he => by have := (Table.mem_below he).2; omega)]
    by_cases hn : i < k + n
    · rw [if_pos ⟨by omega, hn⟩]
      exact Table.get_of_forall_ne d (fun e he => by have := (Table.mem_from he).2; omega)
    · rw [if_neg (by omega)]
      exact Table.get_filter d _ t i (fun v => by simpa using Nat.le_of_not_lt hn)

/-- Taking a run of keys out does not matter to a test that every entry of the run fails. -/
theorem Table.any_drop (t : Table α) (k n : Nat) (p : Nat × α → Bool)
    (h : ∀ e, k ≤ e.1 → e.1 < k + n → p e = false) :
    (t.drop k n : Table α).any p = t.any p := by
  rw [Bool.eq_iff_iff]
  simp only [Table.drop, Table.below, Table.from, List.any_append, Bool.or_eq_true, List.any_eq_true, List.mem_filter,
    decide_eq_true_eq]
  constructor
  · rintro (⟨e, ⟨he, -⟩, hp⟩ | ⟨e, ⟨he, -⟩, hp⟩)
    · exact ⟨e, he, hp⟩
    · exact ⟨e, he, hp⟩
  · rintro ⟨e, he, hp⟩
    by_cases hk : e.1 < k
    · exact .inl ⟨e, ⟨he, hk⟩, hp⟩
    · by_cases hn : e.1 < k + n
      · rw [h e (by omega) hn] at hp; cases hp
      · exact .inr ⟨e, ⟨he, by omega⟩, hp⟩

@[simp] theorem Table.length_range (d : α) (t : Table α) (k n : Nat) : (Table.range d t k n).length = n := by
  have hwalk : ∀ (n k : Nat) (t : Table α), (Table.walk d n k t).length = n := by
    intro n
    induction n with
    | zero => exact fun _ _ => rfl
    | succ n ih =>
      intro k t
      cases t with
      | nil => simp [Table.walk, ih]
      | cons e t => simp only [Table.walk]; split <;> simp [ih]
  exact hwalk ..

/-- A walk along rising keys reads the table key by key. -/
theorem Table.walk_eq_map_get (d : α) (n k : Nat) (t : Table α) (hsorted : (t.map Prod.fst).Pairwise (· < ·))
    (hge : ∀ e ∈ t, k ≤ e.1) : Table.walk d n k t = (List.range n).map (fun i => Table.get d t (k + i)) := by
  induction n generalizing k t with
  | zero => rfl
  | succ n ih =>
    rw [List.range_succ_eq_map, List.map_cons, List.map_map]
    cases t with
    | nil => rw [Table.walk, ih (k + 1) [] (by simp) (by simp)]; rfl
    | cons e t =>
      obtain ⟨i, v⟩ := e
      obtain ⟨hlt, htail⟩ := List.pairwise_cons.mp hsorted
      have hrest : ∀ e ∈ t, i < e.1 := fun e he => hlt _ (List.mem_map_of_mem he)
      have hi : k ≤ i := hge (i, v) (by simp)
      simp only [Table.walk]
      split
      · next heq =>
        subst heq
        rw [ih (i + 1) t htail (fun e he => hrest e he)]
        simp only [Table.get_cons, Nat.add_zero, if_true, List.cons.injEq, true_and, List.map_inj_left, Function.comp]
        intro x _
        rw [if_neg (by omega)]
        congr 1; omega
      · next hne =>
        have hout : Table.get d ((i, v) :: t) k = d := by
          refine Table.get_of_forall_ne d (fun e he => ?_)
          rcases List.mem_cons.mp he with rfl | he
          · exact hne
          · have := hrest e he; omega
        rw [ih (k + 1) _ hsorted (fun e he => ?_)]
        · simp only [Nat.add_zero, hout, List.cons.injEq, true_and, List.map_inj_left, Function.comp]
          intro x _
          congr 1; omega
        · rcases List.mem_cons.mp he with rfl | he
          · show k + 1 ≤ i; omega
          · have := hrest e he; omega

variable [DecidableEq α]

/-- A range of a canonical table lists what its keys read as. -/
theorem Table.range_eq_map_get {d : α} {t : Table α} (h : Table.wf d t = true) (k n : Nat) :
    Table.range d t k n = (List.range n).map (fun i => Table.get d t (k + i)) := by
  have hfrom := (Table.wf_iff d _).mp (Table.wf_filter d (fun e => decide (k ≤ e.1)) h)
  rw [Table.range, Table.walk_eq_map_get d n k (t.from k) hfrom.1 (fun e he => (Table.mem_from he).2), List.map_inj_left]
  intro i _
  exact Table.get_filter d _ t (k + i) (fun v => by simp)

/-- Two canonical tables that read alike on a range have the same range. -/
theorem Table.range_congr {d : α} {t u : Table α} (ht : Table.wf d t = true) (hu : Table.wf d u = true) {k n : Nat}
    (h : ∀ i, i < n → Table.get d t (k + i) = Table.get d u (k + i)) : Table.range d t k n = Table.range d u k n := by
  rw [Table.range_eq_map_get ht, Table.range_eq_map_get hu, List.map_inj_left]
  exact fun i hi => h i (List.mem_range.mp hi)

end

/-! ### Tiles and channels: what is read after a write -/

@[simp] theorem State.tile_setTile_same (s : State) (t : Nat) (x : Tile) : (s.setTile t x).tile t = x := Table.get_put_same ..

@[simp] theorem State.tile_setTile_ne (s : State) {t y : Nat} (x : Tile) (h : y ≠ t) : (s.setTile t x).tile y = s.tile y :=
  Table.get_put_ne _ _ _ h

@[simp] theorem Tier.channel_modChannel_same (s : State) (ch : Nat) (f : Channel → Channel) :
    (s.modChannel ch f).tier.channel ch = f (s.tier.channel ch) := Table.get_put_same ..

@[simp] theorem Tier.channel_modChannel_ne (s : State) {ch i : Nat} (f : Channel → Channel) (h : i ≠ ch) :
    (s.modChannel ch f).tier.channel i = s.tier.channel i := Table.get_put_ne _ _ _ h

/-- The addresses of two tiles are a tile's size apart. -/
theorem tileAddr_apart {t y : Nat} (h : t ≠ y) : tileAddr t + 4096 ≤ tileAddr y ∨ tileAddr y + 4096 ≤ tileAddr t := by
  unfold tileAddr; omega

theorem State.byte_fillZero (s : State) (t a : Nat) :
    (s.fillZero t).byte a = if tileAddr t ≤ a ∧ a < tileAddr t + 4096 then memDefault else s.byte a :=
  Table.get_drop ..

theorem State.bytes_fillFromFlash (s : State) (t : Nat) :
    (s.fillFromFlash t).bytes (tileAddr t) 4096 = Table.range memDefault s.flash (tileAddr t) 4096 := by
  have h := State.bytes_setBytes s (tileAddr t) (Table.range memDefault s.flash (tileAddr t) 4096) 0 4096 (by simp)
  rw [Nat.add_zero, List.drop_zero, List.take_of_length_le (by simp)] at h
  exact h

theorem State.byte_fillFromFlash_ne (s : State) {t a : Nat} (h : a < tileAddr t ∨ tileAddr t + 4096 ≤ a) :
    (s.fillFromFlash t).byte a = s.byte a :=
  State.byte_setBytes_ne s _ _ (by simpa using h)

/-- Every sector of a tile takes the poison of its flash copy. -/
theorem State.sectorPoison_fillFromFlash (s : State) (t : Nat) {i : Nat} (hi : i < 64) :
    (s.fillFromFlash t).sectorPoison (tileAddr t / 64 + i) = Table.get false s.flashPoison t := by
  show Table.get false (Table.splice false _ _ _) _ = _
  have hin : tileAddr t / 64 + i < tileAddr t / 64 + (List.replicate 64 (Table.get false s.flashPoison t)).length := by
    rw [List.length_replicate]; omega
  rw [Table.get_splice, if_pos ⟨Nat.le_add_right .., hin⟩, Nat.add_sub_cancel_left, List.getD_eq_getElem?_getD,
    List.getElem?_replicate_of_lt hi, Option.getD_some]

/-! ### Nothing waits at the tier -/

/-- No hint, flash read or schedule entry waits, and no pin owes anything. -/
structure State.TierIdle (s : State) : Prop where
  hintQ : s.tier.hintQ = []
  readQ : s.tier.readQ = []
  active : s.tier.active = []
  owed : s.tier.owed = []

theorem State.tierQuiet.idle {s : State} (h : s.tierQuiet) : s.TierIdle := by
  obtain ⟨-, hhints, hreads, hactive, howed⟩ := h
  exact ⟨hhints, hreads, hactive, howed⟩

theorem State.modTier_active_self {s : State} {g : List Sched → List Sched} (h : g s.tier.active = s.tier.active) :
    s.modTier (fun z => { z with active := g z.active }) = s := by
  unfold State.modTier; dsimp only; rw [h]

theorem State.startRead_of_no_reads {s : State} (h : s.tier.readQ = []) (x : Nat) : s.startRead x = s := by
  simp [State.startRead, State.nextRead, h]

theorem State.serveSched_of_none_active {s : State} (h : s.tier.active = []) : s.serveSched = s := by
  rw [State.serveSched, h]
  exact State.modTier_active_self (by rw [List.foldl_nil, h]; rfl)

/-- Where nothing waits at the tier, nothing goes on (09_memory_tiers.md R267). -/
theorem State.TierIdle.serveTier {s : State} (h : s.TierIdle) : s.serveTier = s := by
  have hpay : s.payOwed = s := by rw [State.payOwed, h.owed]; rfl
  simp only [State.serveTier, State.startRead_of_no_reads h.readQ, State.serveSched_of_none_active h.active, hpay, h.hintQ]
  rfl

/-- Where no schedule entry is active, a tile that lands is taken off none. -/
theorem State.TierIdle.landed {s : State} (h : s.TierIdle) (t : Nat) : s.landed t = s :=
  State.modTier_active_self (by rw [h.active]; rfl)

end Sys2Proof.Machine

namespace Sys2Proof.Machine

/-! ### The flash layer: what its work can change (09_memory_tiers.md R262 to R264) -/

/-- What programming pages can change: the map of the flash, the channels and the counters of the I/O dies; the groups
that wait at a channel and its spares stand. -/
def State.Programs (s u : State) : Prop :=
  u = { s with tier := { s.tier with
    channels := u.tier.channels, placed := u.tier.placed, flash := u.tier.flash } } ∧
  ∀ i, (u.tier.channel i).programming = (s.tier.channel i).programming ∧ (u.tier.channel i).spare = (s.tier.channel i).spare

/-- What the flash layer can change: what programming can, spares and the read-only state, and the error log with the
messages that it sends. -/
def State.FlashWork (s u : State) : Prop :=
  u = { s with log := u.log, cfg := u.cfg, tier := { s.tier with
    channels := u.tier.channels, placed := u.tier.placed, flash := u.tier.flash, readOnly := u.tier.readOnly } }

theorem State.FlashWork.refl (s : State) : s.FlashWork s := rfl

theorem State.FlashWork.trans {a b c : State} (h : a.FlashWork b) (k : b.FlashWork c) : a.FlashWork c := by
  unfold State.FlashWork at h k ⊢
  calc c = _ := k
    _ = _ := by rw [h]

/-- What the work of the flash layer leaves as it was. -/
structure State.FlashKeeps (s u : State) : Prop where
  mem : u.mem = s.mem
  flash : u.flash = s.flash
  poison : u.poison = s.poison
  flashPoison : u.flashPoison = s.flashPoison
  coh : u.coh = s.coh
  tile : ∀ t, u.tile t = s.tile t
  tiles : u.tier.tiles = s.tier.tiles
  idle : s.TierIdle → u.TierIdle

theorem State.FlashWork.keeps {s u : State} (h : s.FlashWork u) : s.FlashKeeps u := by
  unfold State.FlashWork at h
  rw [h]
  exact ⟨rfl, rfl, rfl, rfl, rfl, fun _ => rfl, rfl, fun hidle => ⟨hidle.hintQ, hidle.readQ, hidle.active, hidle.owed⟩⟩

theorem State.FlashKeeps.byte {s u : State} (h : s.FlashKeeps u) (a : Nat) : u.byte a = s.byte a := by
  rw [State.byte, h.mem, State.byte]

theorem State.FlashWork.ite {s u : State} (p : Prop) [Decidable p] (h : s.FlashWork u) : s.FlashWork (if p then u else s) := by
  split
  · exact h
  · exact .refl s

theorem State.Programs.refl (s : State) : s.Programs s := ⟨rfl, fun _ => ⟨rfl, rfl⟩⟩

theorem State.Programs.trans {a b c : State} (h : a.Programs b) (k : b.Programs c) : a.Programs c := by
  obtain ⟨hb, hchan⟩ := h
  obtain ⟨hc, kchan⟩ := k
  refine ⟨?_, fun i => ⟨(kchan i).1.trans (hchan i).1, (kchan i).2.trans (hchan i).2⟩⟩
  calc c = _ := hc
    _ = _ := by rw [hb]

theorem State.Programs.flashWork {s u : State} (h : s.Programs u) : s.FlashWork u := by
  unfold State.FlashWork
  calc u = _ := h.1
    _ = _ := by rw [h.1]

theorem State.Programs.foldl {α : Type} {f : State → α → State} (h : ∀ (s : State) a, s.Programs (f s a)) (l : List α)
    (s : State) : s.Programs (l.foldl f s) := by
  induction l generalizing s with
  | nil => exact .refl s
  | cons a l ih => exact (h s a).trans (ih _)

/-- A change of a channel that keeps its waiting groups and its spares. -/
theorem State.Programs.modChannel (s : State) (ch : Nat) (f : Channel → Channel)
    (h : (f (s.tier.channel ch)).programming = (s.tier.channel ch).programming ∧
      (f (s.tier.channel ch)).spare = (s.tier.channel ch).spare) : s.Programs (s.modChannel ch f) := by
  refine ⟨rfl, fun i => ?_⟩
  by_cases hi : i = ch
  · subst hi; rw [Tier.channel_modChannel_same]; exact h
  · rw [Tier.channel_modChannel_ne s f hi]; exact ⟨rfl, rfl⟩

theorem State.Programs.modFlashDie (s : State) (x : Nat) (f : FlashDie → FlashDie) : s.Programs (s.modFlashDie x f) :=
  ⟨rfl, fun _ => ⟨rfl, rfl⟩⟩

theorem State.FlashWork.modChannel (s : State) (ch : Nat) (f : Channel → Channel) : s.FlashWork (s.modChannel ch f) := rfl

theorem State.FlashWork.modFlashDie (s : State) (x : Nat) (f : FlashDie → FlashDie) : s.FlashWork (s.modFlashDie x f) := rfl

theorem State.FlashWork.logErr (s : State) (r : ErrRec) : s.FlashWork (s.logErr r) := by
  obtain ⟨_, _, _, _, h⟩ := State.logErr_frame s r
  rw [h]; rfl

/-- The page that a channel programs next leaves the groups that wait there and the spares. -/
theorem Channel.page_keeps (c : Channel) (readOnly : Bool) :
    (c.page readOnly).2.2.programming = c.programming ∧ (c.page readOnly).2.2.spare = c.spare := by
  have hopen : (c.openBlock readOnly).programming = c.programming ∧ (c.openBlock readOnly).spare = c.spare := by
    cases readOnly <;> exact ⟨rfl, rfl⟩
  have hnow : (if c.cur.any (fun p => decide (p.2 < 1024)) then c else c.openBlock readOnly).programming = c.programming ∧
      (if c.cur.any (fun p => decide (p.2 < 1024)) then c else c.openBlock readOnly).spare = c.spare := by
    split
    · exact ⟨rfl, rfl⟩
    · exact hopen
  unfold Channel.page
  dsimp only
  split <;> exact hnow

theorem State.Programs.programPage (s : State) (ch : Nat) (ts : List Nat) : s.Programs (s.programPage ch ts) := by
  have hkeep := Channel.page_keeps (s.tier.channel ch) s.tier.readOnly
  unfold State.programPage
  dsimp only
  refine ((State.Programs.modChannel s ch _ hkeep).trans (.modFlashDie _ (ioOf ch) _)).trans (.foldl (fun _ _ => ?_) ..)
  exact ⟨rfl, fun _ => ⟨rfl, rfl⟩⟩

theorem State.Programs.programPages (ch n : Nat) (ts : List Nat) (s : State) : s.Programs (State.programPages ch n ts s) := by
  induction n generalizing ts s with
  | zero => exact .refl s
  | succ n ih =>
    unfold State.programPages
    split
    · exact .refl s
    · exact (State.Programs.programPage s ch _).trans (ih _ _)

theorem State.Programs.moveBlock (s : State) (ch b : Nat) : s.Programs (s.moveBlock ch b) :=
  (State.Programs.modChannel s ch _ ⟨rfl, rfl⟩).trans (.programPages ..)

theorem State.FlashWork.countRetired (s : State) (ch : Nat) (r : ErrRec) : s.FlashWork (s.countRetired ch r) :=
  (State.FlashWork.logErr s r).trans (.modFlashDie ..)

/-- A channel once one of its blocks is retired (09_memory_tiers.md R262). -/
def Channel.retire (b : Nat) (c : Channel) : Channel :=
  { c with retired := b :: c.retired, used := c.used.filter (fun x => decide (x ≠ b)), spare := c.spare - 1,
           free := if c.spare = 0 then c.free else c.free + 1 }

/-- The records that spares running low or out bring, and the read-only state of the last spare (09_memory_tiers.md
R262). -/
def State.noteSpares (s : State) (ch : Nat) : State :=
  let n := (s.tier.channel ch).spare
  let s := if n = 32 then s.logErr (flashRec 0 0x0004 ch 2) else s
  if n = 0 ∧ s.tier.readOnly = false then
    (s.logErr (flashRec 2 0x0024 ch 0)).modTier (fun z => { z with readOnly := true })
  else s

theorem State.retireBlock_eq (s : State) (ch b retries : Nat) :
    s.retireBlock ch b retries = ((s.modChannel ch (Channel.retire b)).countRetired ch
      { flashRec 0 0x0003 ch 0 with aux0 := retries }).noteSpares ch := rfl

theorem State.FlashWork.noteSpares (s : State) (ch : Nat) : s.FlashWork (s.noteSpares ch) :=
  (State.FlashWork.ite _ (.logErr s _)).trans (.ite _ ((State.FlashWork.logErr ..).trans rfl))

theorem State.FlashWork.retireBlock (s : State) (ch b retries : Nat) : s.FlashWork (s.retireBlock ch b retries) := by
  rw [State.retireBlock_eq]
  exact ((State.FlashWork.modChannel ..).trans (.countRetired ..)).trans (.noteSpares ..)

theorem State.FlashWork.refresh (s : State) (t b : Nat) : s.FlashWork (s.refresh t b) := by
  unfold State.refresh
  dsimp only
  split
  · exact (State.FlashWork.modFlashDie ..).trans (.logErr ..)
  · exact (State.FlashWork.modFlashDie ..).trans (State.Programs.moveBlock ..).flashWork

/-- The poison of the flash copies is no part of what the flash layer's work looks at. -/
theorem State.FlashWork.withFlashPoison {s u : State} (h : s.FlashWork u) (p : Table Bool) :
    State.FlashWork { s with flashPoison := p } { u with flashPoison := p } := by
  unfold State.FlashWork at h ⊢
  rw [h]

/-- The flash copies are poisoned after a read of a tile as before, but for the tile of one that stays uncorrectable
(09_memory_tiers.md R263). -/
def State.poisonAfterRead (s : State) (t retries : Nat) : Table Bool :=
  if 8 < retries then Table.put false s.flashPoison t true else s.flashPoison

theorem State.get_poisonAfterRead (s : State) {t retries : Nat} (h : 8 < retries) :
    Table.get false (s.poisonAfterRead t retries) t = true := by
  rw [State.poisonAfterRead, if_pos h, Table.get_put_same]

/-- A read of a tile from flash is work of the flash layer, beside the poison. -/
theorem State.flashRead_work (s : State) (t retries : Nat) :
    State.FlashWork { s with flashPoison := s.poisonAfterRead t retries } (s.flashRead t retries) := by
  have hcount : ∀ f g, s.FlashWork ((s.modFlashDie (ioOf (tileChannel t)) f).modChannel (tileChannel t) g) :=
    fun f g => (State.FlashWork.modFlashDie ..).trans (.modChannel ..)
  have hpoison : ∀ u f r, s.FlashWork u → State.FlashWork { s with flashPoison := s.poisonAfterRead t retries }
      (if 8 < retries then ({ u with flashPoison := Table.put false u.flashPoison t true }.modFlashDie
        (ioOf (tileChannel t)) f).logErr r else u) := by
    intro u f r hu
    unfold State.poisonAfterRead
    split
    · rw [hu.keeps.flashPoison]
      exact (hu.withFlashPoison _).trans ((State.FlashWork.modFlashDie ..).trans (.logErr ..))
    · exact hu
  have hretire : ∀ (u : State) ch b n, u.FlashWork ((u.moveBlock ch b).retireBlock ch b n) := fun u ch b n =>
    (State.Programs.moveBlock u ch b).flashWork.trans (.retireBlock ..)
  exact (hpoison _ _ _ ((hcount ..).trans (.ite _ (.refresh ..)))).trans (.ite _ (hretire ..))

end Sys2Proof.Machine

namespace Sys2Proof.Machine

/-! ### Promotions and bypass reads -/

theorem exec_promotionLands (r : FlashRead) (s : State) : exec (.promotionLands r) s = execPromotionLands r s := rfl

theorem exec_bypassReadDone (r : FlashRead) (s : State) : exec (.bypassReadDone r) s = execBypassReadDone r s := rfl

theorem State.reading_of_no_reads {s : State} (h : s.tier.readQ = []) (t : Nat) : s.reading t = true := by
  simp [State.reading, h]

/-- The tile as it is once its promotion has landed (09_memory_tiers.md R266, R280). -/
def State.landedTile (s : State) (t : Nat) : Tile :=
  { s.tile t with st := .r, inFlash := true, protAt := if (s.tile t).protTill.isSome then s.drone else (s.tile t).protAt }

/-- A read of a tile from flash leaves what the statements of the tier speak of but the poison of the flash copies. -/
theorem State.flashRead_keeps (s : State) (t retries : Nat) :
    State.FlashKeeps { s with flashPoison := s.poisonAfterRead t retries } (s.flashRead t retries) :=
  (s.flashRead_work t retries).keeps

/-- What a tile and memory are once a promotion has landed: the slot is filled from the flash copy, after which only the
extension looks it up. -/
theorem State.land_of_idle {s : State} (h : s.TierIdle) (t retries : Nat) :
    let u := s.land t retries
    let v := (s.flashRead t retries).fillFromFlash t
    u.tile t = s.landedTile t ∧ u.mem = v.mem ∧ u.poison = v.poison ∧ u.flash = s.flash ∧ u.coh = s.coh := by
  dsimp only
  have hread := s.flashRead_keeps t retries
  have hidle : (s.flashRead t retries).TierIdle := hread.idle ⟨h.hintQ, h.readQ, h.active, h.owed⟩
  have hdrone : (s.flashRead t retries).drone = s.drone := by
    unfold State.drone
    rw [s.flashRead_work t retries]
  unfold State.land
  dsimp only
  generalize hv : State.modTierDie _ _ _ = v
  have hvidle : v.TierIdle := by subst hv; exact ⟨hidle.hintQ, hidle.readQ, hidle.active, hidle.owed⟩
  obtain ⟨e, hits, misses, hlook⟩ := extLookup_frame v (tileAddr t) 4096 true
  have hlidle : (v.extLookup (tileAddr t) 4096 true).TierIdle := by
    rw [hlook]; exact ⟨hvidle.hintQ, hvidle.readQ, hvidle.active, hvidle.owed⟩
  rw [hlidle.landed, hlidle.serveTier, hlook]
  subst hv
  refine ⟨?_, rfl, rfl, hread.flash, hread.coh⟩
  refine (State.tile_setTile_same ..).trans ?_
  unfold State.landedTile
  rw [← hdrone]; rfl

theorem exec_promotionLands_of_quiet {s : State} (hquiet : s.tierQuiet) (hrun : s.running = true) {t : Nat}
    (hst : (s.tile t).st = .p) (n : Nat) : exec (.promotionLands ⟨t, n⟩) s = .next (s.land t n) := by
  have hwake : (s.land t n).wakeHomes = s.land t n :=
    wakeHomes_none _ (by rw [(s.land_of_idle hquiet.idle t n).2.2.2.2]; exact hquiet.1)
  simp [exec_promotionLands, execPromotionLands, hrun, hst, State.reading_of_no_reads hquiet.idle.readQ, hwake]

/-- A promotion that has landed fills memory with the flash copy and no byte elsewhere. -/
theorem State.land_bytes {s : State} (h : s.TierIdle) (t n : Nat) :
    (s.land t n).bytes (tileAddr t) 4096 = Table.range memDefault s.flash (tileAddr t) 4096 ∧
    (8 < n → ∀ i, i < 64 → (s.land t n).sectorPoison (tileAddr t / 64 + i) = true) ∧
    ∀ a, a < tileAddr t ∨ tileAddr t + 4096 ≤ a → (s.land t n).byte a = s.byte a := by
  obtain ⟨-, hmem, hpoison, -, -⟩ := s.land_of_idle h t n
  have hread := s.flashRead_keeps t n
  refine ⟨?_, fun hn i hi => ?_, fun a ha => ?_⟩
  · rw [State.bytes, hmem, ← State.bytes, State.bytes_fillFromFlash, hread.flash]
  · rw [State.sectorPoison, hpoison, ← State.sectorPoison, State.sectorPoison_fillFromFlash _ _ hi, hread.flashPoison]
    exact s.get_poisonAfterRead hn
  · rw [State.byte, hmem, ← State.byte, State.byte_fillFromFlash_ne _ ha, State.byte, hread.mem]; rfl

/-- A bypass read that is done stands in its buffer (09_memory_tiers.md R270). -/
theorem exec_bypassReadDone_of_quiet {s : State} (hquiet : s.tierQuiet) (hrun : s.running = true) {t : Nat}
    (hasked : (s.tile t).bypass = .asked) (hst : s.tileSt t = .f) (n : Nat) :
    exec (.bypassReadDone ⟨t, n⟩) s =
      .next ((s.flashRead t n).setTile t { (s.flashRead t n).tile t with bypass := .buffered }) := by
  have hread := s.flashRead_keeps t n
  have hidle := hread.idle ⟨hquiet.idle.hintQ, hquiet.idle.readQ, hquiet.idle.active, hquiet.idle.owed⟩
  generalize hu : (s.flashRead t n).setTile t { (s.flashRead t n).tile t with bypass := .buffered } = u
  have huidle : u.TierIdle := by subst hu; exact ⟨hidle.hintQ, hidle.readQ, hidle.active, hidle.owed⟩
  have hwake : u.wakeHomes = u := wakeHomes_none _ (by subst hu; exact hread.coh ▸ hquiet.1)
  simp [exec_bypassReadDone, execBypassReadDone, hrun, hasked, hst, State.reading_of_no_reads hquiet.idle.readQ, hu,
    huidle.serveTier, hwake]

/-! ### Write groups and checkpoints -/

theorem exec_writeGroupTimeout (ch : Nat) (s : State) : exec (.writeGroupTimeout ch) s = execWriteGroupTimeout ch s := rfl

theorem exec_mapCheckpoint (x : Nat) (s : State) : exec (.mapCheckpoint x) s = execMapCheckpoint x s := rfl

/-- A channel whose open write group goes to be programmed (09_memory_tiers.md R268). -/
def Channel.closeGroup (c : Channel) : Channel := { c with open_ := [], programming := c.programming ++ [c.open_] }

theorem exec_writeGroupTimeout_of_due {s : State} {ch : Nat} (hheld : s.boot.held = false)
    (hopen : (s.tier.channel ch).open_ ≠ []) (hdue : (s.tier.channel ch).firstAt + 100000 ≤ s.drone) :
    exec (.writeGroupTimeout ch) s = .next (s.modChannel ch Channel.closeGroup) := by
  rw [exec_writeGroupTimeout, execWriteGroupTimeout, if_pos (by simp [hheld, hopen, hdue])]
  rfl

/-! ### Program failures and garbage collection -/

theorem exec_programFailure (ch : Nat) (s : State) : exec (.programFailure ch) s = execProgramFailure ch s := rfl

theorem exec_garbageCollection (g : Collection) (s : State) : exec (.garbageCollection g) s = execGarbageCollection g s := rfl

theorem State.channel_countRetired (s : State) (ch i : Nat) (r : ErrRec) :
    (s.countRetired ch r).tier.channel i = s.tier.channel i := by
  show (s.logErr r).tier.channel i = _
  rw [State.logErr_tier]

theorem State.channel_noteSpares (s : State) (ch i : Nat) : (s.noteSpares ch).tier.channel i = s.tier.channel i := by
  unfold State.noteSpares Tier.channel State.modTier
  dsimp only
  split <;> split <;> simp

theorem State.readOnly_noteSpares {s : State} {ch : Nat} (h : (s.tier.channel ch).spare = 0) :
    (s.noteSpares ch).tier.readOnly = true := by
  simp only [State.noteSpares, h, true_and, Nat.reduceEqDiff, if_false]
  split
  · rfl
  · next hro => simpa using hro

/-- A block that is retired is noted at its channel and comes off the spares, the groups that wait stand, and without a
spare left the tier is read-only (09_memory_tiers.md R262). -/
theorem State.retireBlock_channel (s : State) (ch b retries : Nat) :
    ((s.retireBlock ch b retries).tier.channel ch) = (s.tier.channel ch).retire b ∧
    ((s.tier.channel ch).spare ≤ 1 → (s.retireBlock ch b retries).tier.readOnly = true) := by
  have hcount : ∀ r, ((s.modChannel ch (Channel.retire b)).countRetired ch r).tier.channel ch
      = (s.tier.channel ch).retire b := by
    intro r
    rw [State.channel_countRetired, Tier.channel_modChannel_same]
  rw [State.retireBlock_eq]
  refine ⟨by rw [State.channel_noteSpares, hcount], fun hspare => State.readOnly_noteSpares ?_⟩
  rw [hcount]
  exact Nat.sub_eq_zero_of_le hspare

/-- The block and page that a channel programs next. -/
def State.nextPage (s : State) (ch : Nat) : Nat × Nat × Channel := (s.tier.channel ch).page s.tier.readOnly

/-- The channel after a page has failed: the page is spent, and the tiles of its block are rewritten elsewhere
(09_memory_tiers.md R262, R266). -/
def State.pageFailed (s : State) (ch : Nat) : State :=
  (s.modChannel ch (fun _ => (s.nextPage ch).2.2)).moveBlock ch (s.nextPage ch).1

theorem State.Programs.pageFailed (s : State) (ch : Nat) : s.Programs (s.pageFailed ch) :=
  (State.Programs.modChannel s ch _ (Channel.page_keeps ..)).trans (.moveBlock ..)

theorem exec_programFailure_of_waiting {s : State} {ch : Nat} (hheld : s.boot.held = false)
    (hwaits : (s.tier.channel ch).programming ≠ []) :
    exec (.programFailure ch) s = .next ((s.pageFailed ch).retireBlock ch (s.nextPage ch).1 0) := by
  simp [exec_programFailure, execProgramFailure, hheld, hwaits, State.pageFailed, State.nextPage]

theorem State.FlashWork.eraseBlock (s : State) (ch b : Nat) : s.FlashWork (s.eraseBlock ch b) := .modChannel ..

/-- Nothing changes but the tier. -/
def State.OnlyTier (s u : State) : Prop := u = { s with tier := u.tier }

theorem State.OnlyTier.trans {a b c : State} (h : a.OnlyTier b) (k : b.OnlyTier c) : a.OnlyTier c := by
  unfold State.OnlyTier at h k ⊢
  calc c = _ := k
    _ = _ := by rw [h]

theorem State.Programs.onlyTier {s u : State} (h : s.Programs u) : s.OnlyTier u := by
  unfold State.OnlyTier
  calc u = _ := h.1
    _ = _ := by rw [h.1]

/-- Garbage collection is work of the flash layer, and of the tier alone where its erases succeed. -/
def State.Collects (ok : Bool) (s u : State) : Prop := s.FlashWork u ∧ (ok = true → s.OnlyTier u)

theorem State.Collects.refl (ok : Bool) (s : State) : s.Collects ok s := ⟨.refl s, fun _ => rfl⟩

theorem State.Collects.trans {ok : Bool} {a b c : State} (h : a.Collects ok b) (k : b.Collects ok c) : a.Collects ok c :=
  ⟨h.1.trans k.1, fun hok => (h.2 hok).trans (k.2 hok)⟩

theorem State.Collects.collect (s : State) (ch b : Nat) (ok : Bool) : s.Collects ok (s.collect ch b ok) := by
  have hmove := State.Programs.moveBlock s ch b
  cases ok
  · exact ⟨hmove.flashWork.trans (.retireBlock ..), fun h => by cases h⟩
  · exact ⟨hmove.flashWork.trans (.eraseBlock ..), fun _ => hmove.onlyTier.trans rfl⟩

theorem State.Collects.levelWear (s : State) (ch : Nat) (ok : Bool) : s.Collects ok (s.levelWear ch ok) := by
  unfold State.levelWear
  dsimp only
  split
  · split
    · exact .collect ..
    · exact .refl ok s
  · exact .refl ok s

theorem execGarbageCollection_collects (g : Collection) (s : State) :
    ∃ u, exec (.garbageCollection g) s = .next u ∧ s.Collects g.ok u := by
  refine ⟨_, rfl, ?_⟩
  dsimp only
  split
  · exact .refl g.ok s
  · refine State.Collects.trans ?_ (.levelWear ..)
    split
    · split
      · exact .collect ..
      · exact .refl g.ok s
    · exact .refl g.ok s

/-- Where no block was erased, wear is even and no tile moves. -/
theorem State.levelWear_of_even {s : State} {ch : Nat} (h : (s.tier.channel ch).blockErases = []) (ok : Bool) :
    s.levelWear ch ok = s := by
  unfold State.levelWear
  dsimp only
  rw [h]
  split
  · exact if_neg (Nat.not_lt_zero _)
  · rfl

/-- Where 64 blocks are free and wear is even nothing is collected (09_memory_tiers.md R262). -/
theorem exec_garbageCollection_of_free {s : State} {ch : Nat} (hfree : 64 ≤ (s.tier.channel ch).free)
    (heven : (s.tier.channel ch).blockErases = []) (ok : Bool) : exec (.garbageCollection ⟨ch, ok⟩) s = .next s := by
  simp [exec_garbageCollection, execGarbageCollection, Nat.not_lt.mpr hfree, State.levelWear_of_even heven]

/-! ### Programmed pages -/

theorem exec_pageProgrammed (ch : Nat) (s : State) : exec (.pageProgrammed ch) s = execPageProgrammed ch s := rfl

/-- A tile that stands in flash as memory held it: its bytes, and poison where any of its sectors was. -/
structure State.Programmed (s u : State) (y : Nat) : Prop where
  st : (u.tile y).st = .f
  bytes : Table.range memDefault u.flash (tileAddr y) 4096 = s.bytes (tileAddr y) 4096
  poison : Table.get false u.flashPoison y = s.anyPoison (tileAddr y) 4096

/-- A tile that stands as it did, in memory and in flash. -/
structure State.TileSame (s u : State) (y : Nat) : Prop where
  tile : u.tile y = s.tile y
  bytes : u.bytes (tileAddr y) 4096 = s.bytes (tileAddr y) 4096
  poison : u.anyPoison (tileAddr y) 4096 = s.anyPoison (tileAddr y) 4096
  flash : Table.range memDefault u.flash (tileAddr y) 4096 = Table.range memDefault s.flash (tileAddr y) 4096
  flashPoison : Table.get false u.flashPoison y = Table.get false s.flashPoison y

/-- The state without an access that waits for the tile: memory lets go of the tile and flash takes it. -/
theorem State.tileToFlash_of_unwanted {s : State} {t : Nat} (h : (s.tile t).wanted = none) :
    s.tileToFlash t = (({ s with
      flash := Table.splice memDefault s.flash (tileAddr t) (s.bytes (tileAddr t) 4096),
      flashPoison := Table.put false s.flashPoison t (s.anyPoison (tileAddr t) 4096) }.fillZero t).setTile t
        { s.tile t with st := .f, inFlash := true, wanted := none }).noteFlash t := by
  simp [State.tileToFlash, h]

section
variable {s : State} {t : Nat} (hwanted : (s.tile t).wanted = none)
include hwanted

theorem State.memWf_tileToFlash (h : s.memWf = true) : (s.tileToFlash t).memWf = true := by
  rw [State.memWf, Bool.and_eq_true] at h
  rw [State.tileToFlash_of_unwanted hwanted, State.memWf, Bool.and_eq_true]
  exact ⟨Table.wf_drop _ _ _ h.1, Table.wf_splice _ _ _ h.2⟩

theorem State.tier_tileToFlash : (s.tileToFlash t).tier = { s.tier with tiles := (s.tileToFlash t).tier.tiles } ∧
    (s.tileToFlash t).coh = s.coh := by
  rw [State.tileToFlash_of_unwanted hwanted]; exact ⟨rfl, rfl⟩

theorem State.programmed_tileToFlash : s.Programmed (s.tileToFlash t) t := by
  rw [State.tileToFlash_of_unwanted hwanted]
  refine ⟨congrArg Tile.st (State.tile_setTile_same ..), ?_, Table.get_put_same ..⟩
  have h := Table.range_splice memDefault s.flash (tileAddr t) (s.bytes (tileAddr t) 4096) 0 4096 (by simp [State.bytes])
  rw [Nat.add_zero, List.drop_zero, List.take_of_length_le (by simp [State.bytes])] at h
  exact h

/-- No byte outside the tile changes, in memory or in flash. -/
theorem State.byte_tileToFlash_ne {a : Nat} (h : a < tileAddr t ∨ tileAddr t + 4096 ≤ a) :
    (s.tileToFlash t).byte a = s.byte a ∧ Table.get memDefault (s.tileToFlash t).flash a = Table.get memDefault s.flash a := by
  rw [State.tileToFlash_of_unwanted hwanted]
  refine ⟨(State.byte_fillZero ..).trans (if_neg (by omega)), (Table.get_splice ..).trans (if_neg ?_)⟩
  rw [State.bytes, Table.length_range]; omega

/-- Every other tile stands as it did. -/
theorem State.tileSame_tileToFlash (hwf : s.memWf = true) {y : Nat} (hy : y ≠ t) : s.TileSame (s.tileToFlash t) y := by
  have hwf' := State.memWf_tileToFlash hwanted hwf
  rw [State.memWf, Bool.and_eq_true] at hwf hwf'
  have hbyte : ∀ i, i < 4096 → _ := fun i hi => State.byte_tileToFlash_ne (s := s) hwanted (a := tileAddr y + i)
    (by have := tileAddr_apart hy; omega)
  refine ⟨?_, Table.range_congr hwf'.1 hwf.1 (fun i hi => (hbyte i hi).1), ?_,
    Table.range_congr hwf'.2 hwf.2 (fun i hi => (hbyte i hi).2), ?_⟩
  · rw [State.tileToFlash_of_unwanted hwanted]; exact State.tile_setTile_ne _ _ hy
  · rw [State.tileToFlash_of_unwanted hwanted]
    refine Table.any_drop s.poison _ _ _ (fun e hlo hhi => ?_)
    have := tileAddr_apart hy
    have hal : ∀ z, tileAddr z % 64 = 0 := fun z => by unfold tileAddr tierBase; omega
    have h1 := hal t
    have h2 := hal y
    simp only [Bool.and_eq_false_iff, decide_eq_false_iff_not]
    omega
  · rw [State.tileToFlash_of_unwanted hwanted]; exact Table.get_put_ne _ _ _ hy

end

/-- What the tiles of a page that goes to flash leave: each of them stands in flash, all others as they did, and no byte
elsewhere changes. -/
structure State.PageToFlash (s u : State) (g : List Nat) : Prop where
  wf : u.memWf = true
  programmed : ∀ y ∈ g, s.Programmed u y
  same : ∀ y, y ∉ g → s.TileSame u y
  byte : ∀ a, (∀ y ∈ g, a < tileAddr y ∨ tileAddr y + 4096 ≤ a) →
    u.byte a = s.byte a ∧ Table.get memDefault u.flash a = Table.get memDefault s.flash a
  tier : u.tier = { s.tier with tiles := u.tier.tiles }
  coh : u.coh = s.coh

theorem State.pageToFlash_foldl (g : List Nat) (s : State) (hwf : s.memWf = true) (hnodup : g.Nodup)
    (hwanted : ∀ y ∈ g, (s.tile y).wanted = none) : s.PageToFlash (g.foldl State.tileToFlash s) g := by
  induction g generalizing s with
  | nil => exact ⟨hwf, by simp, fun y _ => ⟨rfl, rfl, rfl, rfl, rfl⟩, fun a _ => ⟨rfl, rfl⟩, rfl, rfl⟩
  | cons t g ih =>
    obtain ⟨ht, hnodup⟩ := List.nodup_cons.mp hnodup
    have htw := hwanted t (by simp)
    have hsame : ∀ y, y ≠ t → s.TileSame (s.tileToFlash t) y := fun y hy => State.tileSame_tileToFlash htw hwf hy
    have hrest := ih (s.tileToFlash t) (State.memWf_tileToFlash htw hwf) hnodup (fun y hy => by
      rw [(hsame y (fun h => ht (h ▸ hy))).tile]; exact hwanted y (by simp [hy]))
    obtain ⟨htier, hcoh⟩ := State.tier_tileToFlash htw
    refine ⟨hrest.wf, fun y hy => ?_, fun y hy => ?_, fun a ha => ?_, ?_, hrest.coh.trans hcoh⟩
    · by_cases hyt : y = t
      · subst hyt
        have hin := State.programmed_tileToFlash htw
        have hstay := hrest.same y ht
        exact ⟨hstay.tile ▸ hin.st, hstay.flash.trans hin.bytes, hstay.flashPoison.trans hin.poison⟩
      · have hin := hrest.programmed y (by simpa [hyt] using hy)
        have hstay := hsame y hyt
        exact ⟨hin.st, hin.bytes.trans hstay.bytes, hin.poison.trans hstay.poison⟩
    · have h1 := hsame y (fun h => hy (by simp [h]))
      have h2 := hrest.same y (fun h => hy (by simp [h]))
      exact ⟨h2.tile.trans h1.tile, h2.bytes.trans h1.bytes, h2.poison.trans h1.poison, h2.flash.trans h1.flash,
        h2.flashPoison.trans h1.flashPoison⟩
    · have h1 := State.byte_tileToFlash_ne htw (ha t (by simp))
      have h2 := hrest.byte a (fun y hy => ha y (by simp [hy]))
      exact ⟨h2.1.trans h1.1, h2.2.trans h1.2⟩
    · rw [List.foldl_cons]
      calc _ = _ := hrest.tier
        _ = _ := by rw [htier]

end Sys2Proof.Machine

namespace Sys2Proof.Machine

/-- The state in which the tiles of a channel's oldest group go to flash: its page is programmed and they are counted
towards the next checkpoint (09_memory_tiers.md R262, R265, R266). -/
def State.beforeFlash (s : State) (ch : Nat) (g : List Nat) (rest : List (List Nat)) : State :=
  ((s.modChannel ch (fun c => { c with programming := rest })).programPage ch g).modTier (fun z =>
    { z with checkpoints := Table.put 0 z.checkpoints (ioOf ch) (Table.get 0 z.checkpoints (ioOf ch) + g.length) })

/-- A page that is programmed leaves memory, flash and tiles to what its tiles then do, and the groups behind its own. -/
theorem State.beforeFlash_keeps (s : State) (ch : Nat) (g : List Nat) (rest : List (List Nat)) :
    s.FlashKeeps (s.beforeFlash ch g rest) ∧ ((s.beforeFlash ch g rest).tier.channel ch).programming = rest := by
  have hpage := State.Programs.programPage (s.modChannel ch (fun c => { c with programming := rest })) ch g
  have hkeeps := ((State.FlashWork.modChannel s ch _).trans hpage.flashWork).keeps
  refine ⟨⟨hkeeps.mem, hkeeps.flash, hkeeps.poison, hkeeps.flashPoison, hkeeps.coh, hkeeps.tile, hkeeps.tiles,
    fun h => ?_⟩, (hpage.2 ch).1.trans (congrArg Channel.programming (Tier.channel_modChannel_same ..))⟩
  obtain ⟨hhints, hreads, hactive, howed⟩ := hkeeps.idle h
  exact ⟨hhints, hreads, hactive, howed⟩

theorem State.memWf_of_eq {s u : State} (hmem : u.mem = s.mem) (hflash : u.flash = s.flash) (h : s.memWf = true) :
    u.memWf = true := by
  rw [State.memWf, hmem, hflash]; exact h

theorem exec_pageProgrammed_of_waiting {s : State} {ch : Nat} {g : List Nat} {rest : List (List Nat)} (hquiet : s.tierQuiet)
    (hwaits : (s.tier.channel ch).programming = g :: rest) (hheld : s.boot.held = false) (hheat : s.flashHeld ch = false)
    (hpage : (s.beforeFlash ch g rest).PageToFlash (g.foldl State.tileToFlash (s.beforeFlash ch g rest)) g) :
    exec (.pageProgrammed ch) s = .next (g.foldl State.tileToFlash (s.beforeFlash ch g rest)) := by
  have hkeeps := (s.beforeFlash_keeps ch g rest).1
  have hexec : exec (.pageProgrammed ch) s =
      .next (g.foldl State.tileToFlash (s.beforeFlash ch g rest)).serveTier.wakeHomes := by
    simp [exec_pageProgrammed, execPageProgrammed, State.beforeFlash, hwaits, hheld, hheat]
  generalize hu : g.foldl State.tileToFlash (s.beforeFlash ch g rest) = u at hpage ⊢
  have hidle : u.TierIdle := by
    obtain ⟨hhints, hreads, hactive, howed⟩ := hkeeps.idle hquiet.idle
    constructor <;> rw [hpage.tier] <;> assumption
  have hwake : u.wakeHomes = u := wakeHomes_none _ (by rw [hpage.coh, hkeeps.coh]; exact hquiet.1)
  rw [hexec, hu, hidle.serveTier, hwake]

/-- Settles O43: each event is one change of the tier, whose effect on tiles and bytes is read off the change. -/
theorem tilesMoveBetweenFlashAndSlots : Obligations.TilesMoveBetweenFlashAndSlots := by
  unfold Obligations.TilesMoveBetweenFlashAndSlots
  intro t ch x s hwf hquiet c
  refine ⟨fun n hrun hst => ?promotion, fun n hrun hasked hst => ?bypass, fun hheld hopen hdue => ?timeout,
    fun g rest hwaits hheld hheat hnodup hwanted => ?page, fun hheld hwaits => ?failure, fun ok => ⟨?collects, ?even⟩,
    fun hheld hmanaged hcount => ?checkpoint⟩
  case promotion =>
    obtain ⟨htile, -, -, hflash, -⟩ := s.land_of_idle hquiet.idle t n
    exact ⟨_, exec_promotionLands_of_quiet hquiet hrun hst n, htile ▸ rfl, htile ▸ rfl, hflash,
      s.land_bytes hquiet.idle t n⟩
  case bypass =>
    have hread := s.flashRead_keeps t n
    refine ⟨_, exec_bypassReadDone_of_quiet hquiet hrun hasked hst n, ?_, ?_, hread.flash, fun hn => ?_, fun a => ?_⟩
    · rw [State.tile_setTile_same]
    · rw [State.tile_setTile_same, hread.tile]; rfl
    · exact hread.flashPoison ▸ s.get_poisonAfterRead hn
    · exact hread.byte a
  case timeout =>
    refine ⟨_, exec_writeGroupTimeout_of_due hheld hopen hdue, rfl, ?_, ?_, rfl,
      fun i hi => Tier.channel_modChannel_ne _ _ hi⟩
    · rw [Tier.channel_modChannel_same]; rfl
    · rw [Tier.channel_modChannel_same]; rfl
  case page =>
    obtain ⟨hkeeps, hrest⟩ := s.beforeFlash_keeps ch g rest
    have hpage := State.pageToFlash_foldl g (s.beforeFlash ch g rest) (State.memWf_of_eq hkeeps.mem hkeeps.flash hwf) hnodup
      (fun y hy => by rw [hkeeps.tile]; exact hwanted y hy)
    refine ⟨_, exec_pageProgrammed_of_waiting hquiet hwaits hheld hheat hpage, ?_, fun y hy => ?_, fun a ha => ?_⟩
    · rw [hpage.tier]; exact hrest
    · obtain ⟨hst, hbytes, hpoison⟩ := hpage.programmed y hy
      rw [State.bytes, hkeeps.mem] at hbytes
      rw [State.anyPoison, hkeeps.poison] at hpoison
      exact ⟨hst, hbytes, hpoison⟩
    · obtain ⟨hbyte, hflash⟩ := hpage.byte a ha
      exact ⟨hbyte.trans (hkeeps.byte a), hkeeps.flash ▸ hflash⟩
  case failure =>
    have hmove := State.Programs.pageFailed s ch
    obtain ⟨hprog, hspare⟩ := hmove.2 ch
    have hkeeps := (hmove.flashWork.trans (.retireBlock _ ch (s.nextPage ch).1 0)).keeps
    obtain ⟨hchan, hlast⟩ := (s.pageFailed ch).retireBlock_channel ch (s.nextPage ch).1 0
    refine ⟨_, exec_programFailure_of_waiting hheld hwaits, ?_, ?_, ?_, fun hle => ?_, hkeeps.flash, fun a => ?_⟩
    · rw [hchan]; exact hprog
    · rw [hchan]; exact List.mem_cons_self
    · rw [hchan]; exact congrArg (· - 1) hspare
    · exact hlast (hspare ▸ hle)
    · exact hkeeps.byte a
  case collects =>
    obtain ⟨u, hexec, hwork, hok⟩ := execGarbageCollection_collects ⟨ch, ok⟩ s
    exact ⟨u, hexec, hwork.keeps.tiles, hwork.keeps.flash, hwork.keeps.mem, hok⟩
  case even => exact fun hfree heven => exec_garbageCollection_of_free hfree heven ok
  case checkpoint => simp [exec_mapCheckpoint, execMapCheckpoint, hheld, hmanaged, hcount]

end Sys2Proof.Machine

namespace Sys2Proof.Machine

/-! ### What an eviction can change -/

section
variable {α : Type}

/-- A table whose values are changed one by one reads as changed. -/
theorem Table.get_map {d : α} {f : α → α} (h : f d = d) (t : Table α) (i : Nat) :
    Table.get d (t.map (fun e => (e.1, f e.2))) i = f (Table.get d t i) := by
  induction t with
  | nil => exact h.symm
  | cons e t ih =>
    obtain ⟨k, v⟩ := e
    simp only [List.map_cons, Table.get_cons, ih]
    split <;> rfl

end

/-- A queue in which a tile has reached flash (09_memory_tiers.md R265). -/
def Queue.reached (t : Nat) (x : Queue) : Queue := { x with cmds := x.cmds.map (Cmd.reached t) }

theorem State.queue_noteFlash (s : State) (t q j : Nat) : (s.noteFlash t).queue q j = (s.queue q j).reached t := by
  have hquad : (s.noteFlash t).quad q =
      { s.quad q with queues := (s.quad q).queues.map (fun y => (y.1, y.2.reached t)) } :=
    Table.get_map (f := fun x : Quad => { x with queues := x.queues.map (fun y => (y.1, y.2.reached t)) }) rfl s.quads q
  rw [State.queue, hquad]
  exact Table.get_map (f := Queue.reached t) rfl (s.quad q).queues j

theorem Queue.find_reached (x : Queue) (t : Nat) (idx : Word) : (x.reached t).find idx = (x.find idx).map (Cmd.reached t) :=
  List.find?_map ..

theorem Queue.idx_of_find {x : Queue} {idx : Word} {c : Cmd} (h : x.find idx = some c) : c.idx = idx := by
  simpa using List.find?_some h

/-- The command that a queue finds is the one put in its place. -/
theorem Queue.find_setCmd {x : Queue} {idx : Word} {c d : Cmd} (h : x.find idx = some c) (hd : d.idx = c.idx) :
    (x.setCmd d).find idx = some d := by
  have hidx := Queue.idx_of_find h
  have hmap : ∀ e : Cmd, decide ((if e.idx = d.idx then d else e).idx = idx) = decide (e.idx = idx) := by
    intro e; split
    · next he => rw [he]
    · rfl
  unfold Queue.find Queue.setCmd
  rw [List.find?_map]
  simp only [Function.comp_def, hmap]
  rw [← Queue.find, h, Option.map_some, if_pos hd.symm]

theorem State.find_setCmd {s : State} {q j : Nat} {idx : Word} {c d : Cmd} (h : (s.queue q j).find idx = some c)
    (hd : d.idx = c.idx) : ((s.setCmd q j d).queue q j).find idx = some d := by
  rw [State.queue_setCmd_same]; exact Queue.find_setCmd h hd

/-- What evictions can change of the tier and the queues: tiles and slots with the walk of the sets, the write groups and
the counters; and of a command the tiles that a migration waits for. -/
structure State.Evicts (s u : State) : Prop where
  tier : u.tier = { s.tier with
    tiles := u.tier.tiles, slots := u.tier.slots, walk := u.tier.walk, channels := u.tier.channels, dies := u.tier.dies }
  find : ∀ q j idx c, (s.queue q j).find idx = some c → ∃ l, (u.queue q j).find idx = some { c with migrating := l }

namespace State.Evicts

theorem trans {a b c : State} (h : a.Evicts b) (k : b.Evicts c) : a.Evicts c := by
  refine ⟨?_, fun q j idx x hx => ?_⟩
  · calc c.tier = _ := k.tier
      _ = _ := by rw [h.tier]
  · obtain ⟨l, hl⟩ := h.find q j idx x hx
    exact k.find q j idx { x with migrating := l } hl

theorem of_quads {s u : State} (hquads : u.quads = s.quads) (htier : u.tier = { s.tier with
    tiles := u.tier.tiles, slots := u.tier.slots, walk := u.tier.walk, channels := u.tier.channels, dies := u.tier.dies }) :
    s.Evicts u :=
  ⟨htier, fun q j idx c h => ⟨c.migrating, by rw [State.queue, State.quad, hquads]; exact h⟩⟩

theorem refl (s : State) : s.Evicts s := of_quads rfl rfl

theorem foldl {α : Type} {f : State → α → State} (h : ∀ (s : State) a, s.Evicts (f s a)) (l : List α) (s : State) :
    s.Evicts (l.foldl f s) := by
  induction l generalizing s with
  | nil => exact refl s
  | cons a l ih => exact (h s a).trans (ih _)

theorem idle {s u : State} (h : s.Evicts u) (hidle : s.TierIdle) : u.TierIdle := by
  obtain ⟨hhints, hreads, hactive, howed⟩ := hidle
  constructor <;> rw [h.tier] <;> assumption

theorem setTile (s : State) (t : Nat) (x : Tile) : s.Evicts (s.setTile t x) := of_quads rfl rfl

theorem setSlot (s : State) (d set w : Nat) (x : Slot) : s.Evicts (s.setSlot d set w x) := of_quads rfl rfl

theorem modTierDie (s : State) (d : Nat) (f : TierDie → TierDie) : s.Evicts (s.modTierDie d f) := of_quads rfl rfl

theorem enterGroup (s : State) (t : Nat) : s.Evicts (s.enterGroup t) := of_quads rfl rfl

theorem fillZero (s : State) (t : Nat) : s.Evicts (s.fillZero t) := of_quads rfl rfl

theorem fillFromFlash (s : State) (t : Nat) : s.Evicts (s.fillFromFlash t) := of_quads rfl rfl

theorem noteFlash (s : State) (t : Nat) : s.Evicts (s.noteFlash t) := by
  refine ⟨rfl, fun q j idx c h => ⟨c.migrating.erase t, ?_⟩⟩
  rw [State.queue_noteFlash, Queue.find_reached, h]; rfl

theorem extLookup (s : State) (pa n : Nat) (w : Bool) : s.Evicts (s.extLookup pa n w) := by
  obtain ⟨_, _, _, h⟩ := extLookup_frame s pa n w
  rw [h]; exact of_quads rfl rfl

theorem extDrop (s : State) (d l : Nat) : s.Evicts (s.extDrop d l) := by
  unfold State.extDrop
  split
  · exact of_quads rfl rfl
  · exact refl s

theorem extDropTile (s : State) (d t : Nat) : s.Evicts (s.extDropTile d t) := by
  unfold State.extDropTile
  split
  · exact refl s
  · exact foldl (fun s l => extDrop s d l) ..

theorem openTile (s : State) (t : Nat) : s.Evicts (s.openTile t) := by
  have hgroup : ∀ (u : State) x, s.Evicts u → s.Evicts ((u.setTile t x).enterGroup t) :=
    fun u x h => h.trans ((setTile ..).trans (enterGroup ..))
  unfold State.openTile
  split
  · exact setTile ..
  · exact refl s
  · exact refl s
  · exact hgroup _ _ (fillFromFlash ..)
  · exact hgroup _ _ (fillFromFlash ..)
  · exact hgroup _ _ (fillZero ..)

theorem openLine (s : State) (line : Nat) : s.Evicts (s.openLine line) := by
  unfold State.openLine
  split
  · exact openTile ..
  · exact refl s

theorem lineWrite (s : State) (line : Nat) (d : List Byte) (p : Bool) : s.Evicts (s.lineWrite line d p) :=
  ((openLine s line).trans (extLookup ..)).trans (of_quads rfl rfl)

theorem poisonLine (s : State) (line cause agent : Nat) : s.Evicts (s.poisonLine line cause agent) :=
  (openLine s line).trans (of_quads rfl rfl)

theorem dropL1 (s : State) (a line : Nat) : s.Evicts (s.dropL1 a line) := by
  obtain ⟨_, h, -⟩ := dropL1_frame s a line
  rw [h]; exact of_quads rfl rfl

theorem countBcast (s : State) (line : Nat) : s.Evicts (s.countBcast line) := by
  unfold State.countBcast
  split
  · exact of_quads rfl rfl
  · exact refl s

theorem purge (s : State) (line : Nat) (keep : Bool) : s.Evicts (s.purge line keep) := by
  have hdrop : ∀ (u : State) (l : List (Nat × Line)) f, u.Evicts (((l.foldl (fun s h => s.dropL1 h.1 line) u).countBcast
      line).modCoh f) := fun u l f =>
    ((foldl (fun s (h : Nat × Line) => dropL1 s h.1 line) l u).trans (countBcast ..)).trans (of_quads rfl rfl)
  unfold State.purge
  refine trans ?_ (hdrop ..)
  split
  · exact poisonLine ..
  · split
    · split
      · exact lineWrite ..
      · exact refl s
    · exact refl s

theorem recallTile (s : State) (t : Nat) : s.Evicts (s.recallTile t) := foldl (fun s l => purge s l true) ..

theorem evictTile (s : State) (d t : Nat) : s.Evicts (s.evictTile d t) := by
  unfold State.evictTile
  refine (recallTile s t).trans ?_
  dsimp only
  split
  · exact (((extDropTile ..).trans (setTile ..)).trans (modTierDie ..)).trans (noteFlash ..)
  · split
    · exact ((((extLookup ..).trans (extDropTile ..)).trans (setTile ..)).trans (enterGroup ..)).trans (modTierDie ..)
    · exact refl _

theorem evictSlot (s : State) (d set w : Nat) : s.Evicts (s.evictSlot d set w) :=
  (foldl (fun s t => evictTile s d t) _ s).trans (setSlot ..)

theorem freeSlot (s : State) (d g : Nat) : s.Evicts (s.freeSlot d g) := by
  unfold State.freeSlot
  dsimp only
  split
  · split
    · exact refl s
    · exact setSlot ..
  · exact refl s

theorem evictNow (s : State) (t : Nat) : s.Evicts (s.evictNow t) := by
  unfold State.evictNow
  split
  · exact (evictTile ..).trans (freeSlot ..)
  · exact refl s

theorem walkSet (s : State) (d set n w : Nat) : s.Evicts (s.walkSet d set n w).2 := by
  induction n generalizing s w with
  | zero => exact refl s
  | succ n ih =>
    unfold State.walkSet
    dsimp only
    split
    · exact of_quads rfl rfl
    · exact (setSlot ..).trans (ih ..)

end State.Evicts

/-- A property of the state that a request for a slot answers, if it answers one. -/
def SlotRes.All (P : State → Prop) : SlotRes → Prop
  | .got s => P s
  | .allPinned => True
  | .waits s => P s

/-- Taking a slot, or finding none to take now, does what evictions do (09_memory_tiers.md R269). -/
theorem State.takeSlot_evicts (s : State) (g : Nat) : (s.takeSlot g).All s.Evicts := by
  have hvictim : ∀ (u : State) d set w x, s.Evicts u → s.Evicts ((u.evictSlot d set w).setSlot d set w x) :=
    fun u d set w x h => h.trans ((State.Evicts.evictSlot ..).trans (.setSlot ..))
  unfold State.takeSlot
  dsimp only
  split
  · trivial
  · split
    · exact .setSlot ..
    · split
      · exact .setSlot ..
      · split
        · trivial
        · split
          · exact hvictim _ _ _ _ _ (.refl s)
          · have hwalk := State.Evicts.walkSet s (s.tierHome g) (tierSet g (s.tierSlots / 16)) 32
              (Table.get 0 s.tier.walk (s.tierHome g * 2 ^ 24 + tierSet g (s.tierSlots / 16)))
            split
            · next heq => rw [heq] at hwalk; exact hvictim _ _ _ _ _ hwalk
            · next heq => rw [heq] at hwalk; exact hwalk

theorem State.takeSlot_evicts_of_got {s u : State} {g : Nat} (h : s.takeSlot g = .got u) : s.Evicts u := by
  have hevicts := s.takeSlot_evicts g
  rw [h] at hevicts
  exact hevicts

theorem State.takeSlot_evicts_of_waits {s u : State} {g : Nat} (h : s.takeSlot g = .waits u) : s.Evicts u := by
  have hevicts := s.takeSlot_evicts g
  rw [h] at hevicts
  exact hevicts

/-! ### Slots do not depend on the queues or on the hints -/

/-- The state with other queues and other hints. -/
def State.withHints (s : State) (z : Table Quad) (l : List Nat) : State :=
  { s with quads := z, tier := { s.tier with hintQ := l } }

theorem State.walkSet_withHints (s : State) (z : Table Quad) (l : List Nat) (d set n w : Nat) :
    (s.withHints z l).walkSet d set n w = ((s.walkSet d set n w).1, (s.walkSet d set n w).2.withHints z l) := by
  induction n generalizing s w with
  | zero => rfl
  | succ n ih =>
    unfold State.walkSet
    dsimp only
    have hslot : (s.withHints z l).slot d set w = s.slot d set w := rfl
    have hevict : ∀ x, (s.withHints z l).slotEvictable x = s.slotEvictable x := fun _ => rfl
    rw [hslot, hevict]
    split
    · rfl
    · exact ih (s.setSlot d set w { s.slot d set w with nru := false }) _

/-- A request for a slot can be met or not, whatever the queues and the hints. -/
def SlotRes.isGot : SlotRes → Bool
  | .got _ => true
  | _ => false

theorem State.isGot_takeSlot_withHints (s : State) (z : Table Quad) (l : List Nat) (g : Nat) :
    ((s.withHints z l).takeSlot g).isGot = (s.takeSlot g).isGot := by
  have hhome : (s.withHints z l).tierHome g = s.tierHome g := rfl
  have hslots : (s.withHints z l).tierSlots = s.tierSlots := rfl
  have hslot : ∀ d set w, (s.withHints z l).slot d set w = s.slot d set w := fun _ _ _ => rfl
  have hfind : ∀ d set, (s.withHints z l).findSlot d set g = s.findSlot d set g := fun _ _ => rfl
  have hpinned : ∀ x, (s.withHints z l).slotPinned x = s.slotPinned x := fun _ => rfl
  have hevict : ∀ x, (s.withHints z l).slotEvictable x = s.slotEvictable x := fun _ => rfl
  have hwalk : (s.withHints z l).tier.walk = s.tier.walk := rfl
  unfold State.takeSlot
  simp only [hhome, hslots, hslot, hfind, hpinned, hevict, hwalk, State.walkSet_withHints]
  split
  · rfl
  · split
    · rfl
    · split
      · rfl
      · split
        · rfl
        · split
          · simp only [SlotRes.isGot]
          · generalize s.walkSet _ _ _ _ = r
            obtain ⟨_ | w, v⟩ := r
            · rfl
            · simp only [SlotRes.isGot]

end Sys2Proof.Machine

namespace Sys2Proof.Machine

/-! ### Asking for tiles -/

/-- A tile's flash read is asked for at the queue of waiting reads alone. -/
theorem State.askFlash_frame (s : State) (t k : Nat) : ∃ r, s.askFlash t k = s.modTier (fun z => { z with readQ := r }) := by
  have hurge : ∃ r, s.urge t k = s.modTier (fun z => { z with readQ := r }) := by
    unfold State.urge
    split
    · exact ⟨_, rfl⟩
    · exact ⟨s.tier.readQ, rfl⟩
  unfold State.askFlash
  split
  · exact hurge
  · split
    · exact ⟨s.tier.readQ, rfl⟩
    · exact ⟨_, rfl⟩

/-- A tile put in P for its slot: only its state and the waiting reads change. -/
theorem State.intoP_frame (s : State) (t k : Nat) :
    ∃ r, s.intoP t k = (s.setTile t { s.tile t with st := .p, bypass := .none }).modTier (fun z => { z with readQ := r }) :=
  State.askFlash_frame ..

theorem State.st_intoP (s : State) (t k : Nat) : ((s.intoP t k).tile t).st = .p := by
  obtain ⟨r, h⟩ := s.intoP_frame t k
  rw [h]
  exact congrArg Tile.st (State.tile_setTile_same ..)

theorem State.tileSt_of_ne_u {s : State} {t : Nat} (h : (s.tile t).st ≠ .u) : s.tileSt t = (s.tile t).st := by
  simp [State.tileSt, h]

/-- A MIGRATE's request for a tile in flash for which a slot can be had (09_memory_tiers.md Table TIR-6). -/
theorem State.wantResident_of_got {s u : State} {t : Nat} (hst : s.tileSt t = .f) (hslot : s.takeSlot (t / 4) = .got u) :
    s.wantResident t = u.intoP t 0 := by
  have hp := State.st_intoP u t 0
  have hpst := State.tileSt_of_ne_u (s := u.intoP t 0) (t := t) (by rw [hp]; decide)
  simp [State.wantResident, State.wantTile, hst, State.promote, hslot, hpst, hp]

/-! ### MIGRATE -/

theorem exec_migrate (q j : Nat) (idx : Word) (s : State) : exec (.migrate q j idx) s = execMigrate q j idx s := rfl

theorem State.underway.find {s : State} {q j op : Nat} {idx : Word} {c : Cmd} (h : s.underway q j idx op c) :
    (s.queue q j).find idx = some c := h.2.1

theorem State.underway.canRun {s : State} {q j op : Nat} {idx : Word} {c : Cmd} (h : s.underway q j idx op c) :
    s.canRun q c op = true := by
  obtain ⟨hruns, -, hphase, hran, hop⟩ := h
  simp [State.canRun, hruns, hphase, hran, hop]

/-- A command as it stands when its work here is done. -/
def Cmd.finished (c : Cmd) : Cmd := { c with ran := true, status := if c.late then stOkLate else stOk }

theorem State.doneHere_of_find {s : State} {q j : Nat} {idx : Word} {c : Cmd} (h : (s.queue q j).find idx = some c) :
    s.doneHere q j idx = s.setCmd q j c.finished := by
  rw [State.doneHere, h]; rfl

theorem exec_migrate_of_begun {s : State} {q j : Nat} {idx : Word} {c : Cmd} (h : s.underway q j idx opMigrate c)
    (hbegun : c.passes ≠ []) : exec (.migrate q j idx) s = .next (s.stepMigrate q j idx) := by
  simp [exec_migrate, execMigrate, h.find, h.canRun, hbegun]

section
variable {s : State} {q j : Nat} {idx : Word} {c : Cmd} (hfind : (s.queue q j).find idx = some c)
include hfind

/-- A round of a MIGRATE to HBM whose tiles are all resident ends it. -/
theorem State.stepMigrate_of_resident (hhbm : body c.desc 0x0C 1 = 0)
    (hres : ∀ y ∈ c.tileRange, (s.tile y).st = .r ∨ (s.tile y).st = .d) :
    s.stepMigrate q j idx = s.setCmd q j c.finished := by
  have hnone : c.tileRange.filter (fun t => !(s.inSlot t)) = [] := by
    refine List.filter_eq_nil_iff.mpr (fun y hy => ?_)
    rcases hres y hy with h | h <;> simp [State.inSlot, h]
  have hall : c.tileRange.all (fun t => decide ((s.tile t).st = .r) || decide ((s.tile t).st = .d)) = true :=
    List.all_eq_true.mpr (fun y hy => by simpa using hres y hy)
  unfold State.stepMigrate
  simp only [hfind, hhbm, hnone, List.foldl_nil, hall, if_true]
  exact State.doneHere_of_find hfind

/-- A round of a MIGRATE to HBM of a tile in flash for which a slot can be had asks for its promotion. -/
theorem State.stepMigrate_of_flash {t : Nat} {u : State} (hhbm : body c.desc 0x0C 1 = 0) (hrange : c.tileRange = [t])
    (hf : (s.tile t).st = .f) (hst : s.tileSt t = .f) (hslot : s.takeSlot (t / 4) = .got u) :
    s.stepMigrate q j idx = u.intoP t 0 := by
  have hin : s.inSlot t = false := by simp [State.inSlot, hf]
  unfold State.stepMigrate
  simp [hfind, hhbm, hrange, hin, State.wantResident_of_got hst hslot, State.st_intoP]

/-- A round of a MIGRATE to flash evicts, and ends the command when its last tile has reached flash. -/
theorem State.stepMigrate_of_evicted {c' : Cmd} (hflash : body c.desc 0x0C 1 ≠ 0)
    (hlast : ((c.migrating.foldl State.evictNow s).queue q j).find idx = some c') (hdone : c'.migrating = []) :
    s.stepMigrate q j idx = (c.migrating.foldl State.evictNow s).setCmd q j c'.finished := by
  unfold State.stepMigrate
  simp only [hfind, if_neg hflash, hlast, hdone, List.isEmpty_nil, if_true]
  exact State.doneHere_of_find hlast

end

/-! ### The eviction of a clean tile -/

theorem State.extDropTile_frame (s : State) (d t : Nat) : ∃ e, s.extDropTile d t = { s with ext := e } := by
  have hdrop : ∀ (l : List Nat) (s : State), ∃ e, l.foldl (fun s l => s.extDrop d l) s = { s with ext := e } := by
    intro l
    induction l with
    | nil => exact fun s => ⟨s.ext, rfl⟩
    | cons x l ih =>
      intro s
      obtain ⟨e, he⟩ : ∃ e, s.extDrop d x = { s with ext := e } := by
        unfold State.extDrop; split
        · exact ⟨_, rfl⟩
        · exact ⟨s.ext, rfl⟩
      obtain ⟨e', he'⟩ := ih (s.extDrop d x)
      exact ⟨e', by rw [List.foldl_cons, he', he]⟩
  unfold State.extDropTile
  split
  · exact ⟨s.ext, rfl⟩
  · exact hdrop ..

theorem State.freeSlot_frame (s : State) (d g : Nat) :
    ∃ z, s.freeSlot d g = s.modTier (fun x => { x with slots := z }) := by
  unfold State.freeSlot
  dsimp only
  split
  · split
    · exact ⟨s.tier.slots, rfl⟩
    · exact ⟨_, rfl⟩
  · exact ⟨s.tier.slots, rfl⟩

section
variable {s : State} (hcaches : s.quietCaches)
include hcaches

theorem State.quietCaches.trackedIn (pa n : Nat) : s.trackedIn pa n = [] := by
  obtain ⟨hlines, hdir, hmsgs, -⟩ := hcaches
  simp [State.trackedIn, hlines, hdir, hmsgs]

theorem State.quietCaches.cohBusy (hwaiting : s.coh.waiting = []) (pa n : Nat) : s.cohBusy pa n = false := by
  simp [State.cohBusy, hcaches.2.2.2, hwaiting, State.quietCaches.trackedIn hcaches]

/-- A clean tile that no cache holds and flash holds goes to flash at once, without a byte moved, and every MIGRATE notes
it (09_memory_tiers.md R265, R266). -/
theorem State.evictNow_of_clean {t : Nat} (hwaiting : s.coh.waiting = []) (hst : (s.tile t).st = .r)
    (hflash : (s.tile t).inFlash = true) :
    ((s.evictNow t).tile t).st = .f ∧ (s.evictNow t).flash = s.flash ∧ (s.evictNow t).mem = s.mem ∧
      ∀ q j, (s.evictNow t).queue q j = (s.queue q j).reached t := by
  have hmay : s.canEvictTile t = true := by
    simp [State.canEvictTile, hst, State.quietCaches.cohBusy hcaches hwaiting]
  have hrecall : s.recallTile t = s := by rw [State.recallTile, State.quietCaches.trackedIn hcaches]; rfl
  obtain ⟨e, hext⟩ := s.extDropTile_frame (s.tierHome (t / 4)) t
  obtain ⟨z, hslot⟩ := (s.evictTile (s.tierHome (t / 4)) t).freeSlot_frame (s.tierHome (t / 4)) (t / 4)
  have hevict : s.evictTile (s.tierHome (t / 4)) t = ((({ s with ext := e }.setTile t
      { s.tile t with st := .f, protTill := none }).modTierDie (s.tierHome (t / 4))
        (fun z => { z with evClean := z.evClean + 1 })).noteFlash t) := by
    simp [State.evictTile, hrecall, hst, hflash, hext]
  rw [State.evictNow, if_pos hmay, hslot, hevict]
  refine ⟨congrArg Tile.st (State.tile_setTile_same ..), rfl, rfl, fun q j => ?_⟩
  exact State.queue_noteFlash _ t q j

end

/-! ### PREFETCH_HINT -/

theorem exec_prefetchHint (q j : Nat) (idx : Word) (s : State) :
    exec (.prefetchHint q j idx) s = execPrefetchHint q j idx s := rfl

/-- Hints whose I/O dies have no read to spare are not served (09_memory_tiers.md R267). -/
theorem State.serveHints_of_full {s : State} {l : List Nat} (h : ∀ y ∈ l, 8192 ≤ s.flashReads (ioOf (tileChannel y))) :
    s.serveHints l = s := by
  induction l with
  | nil => rfl
  | cons y l ih =>
    have hfull := Nat.not_lt.mpr (h y (by simp))
    simp only [State.serveHints, hfull, false_and, if_false]
    exact ih (fun z hz => h z (by simp [hz]))

/-- Serving a hint does to commands what evictions do. -/
theorem State.find_serveHint {s : State} {t q j : Nat} {idx : Word} {c : Cmd} (h : (s.queue q j).find idx = some c) :
    ∃ l, ((s.serveHint t).queue q j).find idx = some { c with migrating := l } := by
  unfold State.serveHint
  dsimp only
  split
  · split
    · next u hslot =>
      obtain ⟨r, hinto⟩ := u.intoP_frame t 2
      rw [hinto]
      exact (State.takeSlot_evicts_of_got hslot).find q j idx c h
    · exact ⟨c.migrating, h⟩
    · next u hslot => exact (State.takeSlot_evicts_of_waits hslot).find q j idx c h
  · exact ⟨c.migrating, h⟩
  · exact ⟨c.migrating, h⟩

/-- A hint of a tile whose page is being programmed waits. -/
theorem State.serveHint_of_w {s : State} {t : Nat} (h : s.tileSt t = .w) : s.serveHint t = s := by
  simp [State.serveHint, h]

/-- A hint of a tile that needs nothing is gone. -/
theorem State.hintQ_serveHint_of_other {s : State} {t : Nat} (hf : s.tileSt t ≠ .f) (hw : s.tileSt t ≠ .w) :
    (s.serveHint t).tier.hintQ = s.tier.hintQ.erase t := by
  unfold State.serveHint
  dsimp only
  split
  · next h => exact absurd h hf
  · next h => exact absurd h hw
  · rfl

/-- A hint of a tile in flash for which a slot can be had promotes it and is gone (09_memory_tiers.md R277). -/
theorem State.serveHint_of_got {s : State} {t : Nat} (hf : s.tileSt t = .f) (hslot : (s.takeSlot (t / 4)).isGot = true) :
    ((s.serveHint t).tile t).st = .p ∧ (s.serveHint t).tier.hintQ = s.tier.hintQ.erase t := by
  unfold State.serveHint
  simp only [hf]
  split
  · next u hgot =>
    have hhints : u.tier.hintQ = s.tier.hintQ := by rw [(State.takeSlot_evicts_of_got hgot).tier]
    obtain ⟨r, hinto⟩ := u.intoP_frame t 2
    refine ⟨State.st_intoP u t 2, ?_⟩
    rw [hinto, ← hhints]; rfl
  · next hno => rw [hno] at hslot; cases hslot
  · next hno => rw [hno] at hslot; cases hslot

/-- A command of one tile whose hint has joined the queue of hints. -/
def State.hinted (s : State) (q j t : Nat) (c : Cmd) : State :=
  (s.modTier (fun z => { z with hintQ := z.hintQ ++ [t] })).setCmd q j { c with passes := [(0, 1)], migrating := [] }

theorem State.hinted_eq_withHints {s : State} (h : s.tier.hintQ = []) (q j t : Nat) (c : Cmd) :
    s.hinted q j t c = s.withHints (s.hinted q j t c).quads [t] := by
  simp [State.hinted, State.withHints, State.setCmd, State.modQueue, State.modQuad, State.modTier, h]

/-- A PREFETCH_HINT of one tile, where no hint waits and its I/O die has a read to spare, is taken: the hint is served and
the command ends (09_memory_tiers.md R277). -/
theorem exec_prefetchHint_of_taken {s : State} {q j t : Nat} {idx : Word} {c c' : Cmd} (h : s.underway q j idx opPrefetch c)
    (hfirst : c.passes = []) (hrange : c.tileRange = [t]) (hnone : s.tier.hintQ = [])
    (hreads : s.flashReads (ioOf (tileChannel t)) < 8192) (hfree : s.nextRead (ioOf (tileChannel t)) = none)
    (hfind : (((s.hinted q j t c).serveHint t).queue q j).find idx = some c') :
    exec (.prefetchHint q j idx) s = .next (((s.hinted q j t c).serveHint t).setCmd q j c'.finished) := by
  have hserve : (s.hinted q j t c).serveHints [t] = (s.hinted q j t c).serveHint t := by
    rw [State.hinted_eq_withHints hnone]
    have hreads' : (s.withHints (s.hinted q j t c).quads [t]).flashReads (ioOf (tileChannel t)) < 8192 := hreads
    have hfree' : (s.withHints (s.hinted q j t c).quads [t]).nextRead (ioOf (tileChannel t)) = none := hfree
    simp [State.serveHints, hreads', hfree']
  have hqueue : s.queueHints [t] = ([], s.modTier (fun z => { z with hintQ := z.hintQ ++ [t] })) := by
    simp [State.queueHints, State.hintsAt, hnone]
  have hhints : (s.hinted q j t c).tier.hintQ = [t] := by rw [State.hinted_eq_withHints hnone]; rfl
  rw [← State.doneHere_of_find hfind, ← hserve]
  conv_rhs => rw [← hhints]
  simp only [exec_prefetchHint, execPrefetchHint, h.find, h.canRun, hnone, State.serveHints, hfirst, hrange, hqueue,
    List.isEmpty_nil, if_true]
  rfl

/-- A PREFETCH_HINT whose queue is full and whose I/O die has no read to spare waits (09_memory_tiers.md R277). -/
theorem exec_prefetchHint_of_full {s : State} {q j t : Nat} {idx : Word} {c : Cmd} (h : s.underway q j idx opPrefetch c)
    (hfirst : c.passes = []) (hrange : c.tileRange = [t])
    (hbusy : ∀ y ∈ s.tier.hintQ, 8192 ≤ s.flashReads (ioOf (tileChannel y)))
    (hfull : s.hintsAt (ioOf (tileChannel t)) = 4096) :
    exec (.prefetchHint q j idx) s = .next (s.setCmd q j { c with passes := [(0, 1)], migrating := [t] }) := by
  have hqueue : s.queueHints [t] = ([t], s) := by simp [State.queueHints, hfull]
  have hafter : (s.setCmd q j { c with passes := [(0, 1)], migrating := [t] }).serveHints s.tier.hintQ =
      s.setCmd q j { c with passes := [(0, 1)], migrating := [t] } := State.serveHints_of_full hbusy
  simp only [exec_prefetchHint, execPrefetchHint, h.find, h.canRun, State.serveHints_of_full hbusy, hfirst, hrange, hqueue,
    List.isEmpty_nil, List.isEmpty_cons, if_true]
  exact congrArg _ hafter

/-- Settles O44: a round of each command is one change of the tier, and the command ends where nothing is left to do. -/
theorem migrationsAndHintsActOnTheirTiles : Obligations.MigrationsAndHintsActOnTheirTiles := by
  unfold Obligations.MigrationsAndHintsActOnTheirTiles
  intro q j t idx c s done
  refine ⟨fun hrun hbegun => ⟨fun hhbm hres => ?resident, fun u hhbm hrange hf hst hslot => ?promoted,
    fun hflash hnone => ?arrived, fun hflash hlast hst hcopy hcaches hwaiting => ?evicted⟩,
    fun hrun hfirst hrange => ⟨fun hnone hreads hfree => ?taken, fun hbusy hfull =>
      exec_prefetchHint_of_full hrun hfirst hrange hbusy hfull⟩⟩
  case resident => rw [exec_migrate_of_begun hrun hbegun, State.stepMigrate_of_resident hrun.find hhbm hres]; rfl
  case promoted =>
    refine ⟨_, exec_migrate_of_begun hrun hbegun, ?_⟩
    rw [State.stepMigrate_of_flash hrun.find hhbm hrange hf hst hslot]
    exact State.st_intoP u t 0
  case arrived =>
    have hround := State.stepMigrate_of_evicted hrun.find hflash (by rw [hnone]; exact hrun.find) hnone
    rw [exec_migrate_of_begun hrun hbegun, hround, hnone]; rfl
  case evicted =>
    obtain ⟨hf, hcopy, hmem, hqueue⟩ := State.evictNow_of_clean hcaches hwaiting hst hcopy
    have hfound : ((c.migrating.foldl State.evictNow s).queue q j).find idx = some (c.reached t) := by
      rw [hlast]
      exact (congrArg (Queue.find · idx) (hqueue q j)).trans (by rw [Queue.find_reached, hrun.find]; rfl)
    have hround := State.stepMigrate_of_evicted hrun.find hflash hfound (by simp [Cmd.reached, hlast])
    rw [hlast] at hround hfound
    refine ⟨_, (c.reached t).finished, (exec_migrate_of_begun hrun hbegun).trans (congrArg _ hround), hf, hcopy, fun a => ?_,
      State.find_setCmd hfound rfl, rfl⟩
    exact congrArg (fun m => Table.get memDefault m a) hmem
  case taken =>
    have hhinted : ((s.hinted q j t c).queue q j).find idx = some { c with passes := [(0, 1)], migrating := [] } :=
      State.find_setCmd hrun.find rfl
    obtain ⟨l, hfound⟩ := State.find_serveHint (t := t) hhinted
    have hhints : (s.hinted q j t c).tier.hintQ = [t] := by rw [State.hinted_eq_withHints hnone]; rfl
    refine ⟨_, _, exec_prefetchHint_of_taken hrun hfirst hrange hnone hreads hfree hfound,
      State.find_setCmd hfound rfl, rfl, rfl, fun hw => ?_, fun hf hw => ?_, fun u hf hslot => ?_⟩
    · show ((s.hinted q j t c).serveHint t).tier.hintQ = [t]
      rw [State.serveHint_of_w (s := s.hinted q j t c) hw, hhints]
    · show ((s.hinted q j t c).serveHint t).tier.hintQ = []
      rw [State.hintQ_serveHint_of_other (s := s.hinted q j t c) hf hw, hhints, List.erase_cons_head]
    · have hgot : ((s.hinted q j t c).takeSlot (t / 4)).isGot = true := by
        rw [State.hinted_eq_withHints hnone, State.isGot_takeSlot_withHints, hslot]; rfl
      obtain ⟨hp, hgone⟩ := State.serveHint_of_got (s := s.hinted q j t c) hf hgot
      exact ⟨hp, hgone.trans (by rw [hhints, List.erase_cons_head])⟩

end Sys2Proof.Machine

namespace Sys2Proof.Machine

/-! ### Placement objects -/

theorem exec_objectTableWrite (p : Port) (n : Nat) (v : Word) (s : State) :
    exec (.objectTableWrite p n v) s = execObjectTableWrite p n v s := rfl

theorem exec_objectEvictDone (s : State) : exec .objectEvictDone s = execObjectEvictDone s := rfl

/-- A port that may write reaches the words of an object (09_memory_tiers.md R273). -/
theorem exec_objectTableWrite_of_may {s : State} {p : Port} {k w : Nat} (hp : s.mayWrite p = true) (hk : k < 1024) (hw : w < 4)
    (v : Word) : exec (.objectTableWrite p (4 * k + w) v) s = .next (s.writeObjectWord k w v) := by
  have hlt : 4 * k + w < 4096 := by omega
  have hdiv : (4 * k + w) / 4 = k := by omega
  have hmod : (4 * k + w) % 4 = w := by omega
  simp [exec_objectTableWrite, execObjectTableWrite, hp, hlt, hdiv, hmod]

theorem State.writeObjectWord_of_valid {s : State} {k w : Nat} (hvalid : (s.tier.object k).valid = true) (hw : w ≠ 2)
    (v : Word) : s.writeObjectWord k w v = s := by
  simp [State.writeObjectWord, hvalid, hw]

theorem State.writeObjectWord_base {s : State} {k : Nat} (hfree : (s.tier.object k).valid = false) (v : Word) :
    s.writeObjectWord k 0 v = s.setObject k { s.tier.object k with base := bits v.toNat 0 22 } := by
  simp [State.writeObjectWord, hfree]

theorem State.writeObjectWord_size {s : State} {k : Nat} (hfree : (s.tier.object k).valid = false) (v : Word) :
    s.writeObjectWord k 1 v = s.setObject k { s.tier.object k with size := bits v.toNat 0 22 } := by
  simp [State.writeObjectWord, hfree]

/-- An object as a write of its third word makes it valid (09_memory_tiers.md Table TIR-7). -/
def TObj.made (o : TObj) (n : Nat) : TObj :=
  { o with pin := bits n 28 2, noevict := bit n 27, context := bits n 0 12, userHint := false, home := bits n 24 3,
           valid := true }

/-- A write that sets valid on an object that is not is judged, and makes the object where it breaks no rule
(09_memory_tiers.md R274). -/
theorem State.writeObjectWord_of_set {s : State} {k : Nat} {v : Word} (hfree : (s.tier.object k).valid = false)
    (hset : bit v.toNat 31 = true) (hpin : bits v.toNat 28 2 < 3) (hhome : bits v.toNat 24 3 ≤ 4) :
    let made := (s.tier.object k).made v.toNat
    let e := s.objectError k made (bits v.toNat 24 3)
    s.writeObjectWord k 2 v = if e = 0 then (((s.setObject k made).objError 0).rehome).pinEffect 0 made else s.objError e := by
  have hpin' : unlessReserved (decide (bits v.toNat 28 2 = 3)) (s.tier.object k).pin (bits v.toNat 28 2) = bits v.toNat 28 2 :=
    if_neg (by simpa using by omega)
  have hhome' : unlessReserved (decide (4 < bits v.toNat 24 3)) (s.tier.object k).home (bits v.toNat 24 3) =
      bits v.toNat 24 3 := if_neg (by simpa using hhome)
  rw [State.writeObjectWord, if_pos rfl, State.writeObject]
  simp only [hfree, hset, hpin', hhome', ite_not, Bool.false_eq_true, if_true, if_false]
  rfl

theorem State.objectError_of_beyond {s : State} {o : TObj} (h : s.tierUnits < o.base + o.size) (k home : Nat) :
    s.objectError k o home = 1 := by
  simp [State.objectError, h]

theorem State.objectError_of_overlap {s : State} {o : TObj} {k : Nat} (hin : o.base + o.size ≤ s.tierUnits)
    (h : ∃ e ∈ s.tier.objects, e.1 ≠ k ∧ e.2.valid = true ∧ e.2.overlaps o = true) (home : Nat) :
    s.objectError k o home = 2 := by
  have hany : s.tier.objects.any (fun e => decide (e.1 ≠ k) && e.2.valid && e.2.overlaps o) = true := by
    obtain ⟨e, he, hk, hv, ho⟩ := h
    exact List.any_eq_true.mpr ⟨e, he, by simp [hk, hv, ho]⟩
  simp only [State.objectError, hany, if_neg (Nat.not_lt.mpr hin), if_true]

/-- The placement objects and the note of their last write stand. -/
def State.KeepsObjects (s u : State) : Prop := u.tier.objects = s.tier.objects ∧ u.tier.objErr = s.tier.objErr

namespace State.KeepsObjects

theorem refl (s : State) : s.KeepsObjects s := ⟨rfl, rfl⟩

theorem trans {a b c : State} (h : a.KeepsObjects b) (k : b.KeepsObjects c) : a.KeepsObjects c :=
  ⟨k.1.trans h.1, k.2.trans h.2⟩

theorem of_evicts {s u : State} (h : s.Evicts u) : s.KeepsObjects u := by
  constructor <;> rw [h.tier]

theorem foldl {α : Type} {f : State → α → State} (h : ∀ (s : State) a, s.KeepsObjects (f s a)) (l : List α) (s : State) :
    s.KeepsObjects (l.foldl f s) := by
  induction l generalizing s with
  | nil => exact refl s
  | cons a l ih => exact (h s a).trans (ih _)

theorem intoP (s : State) (t k : Nat) : s.KeepsObjects (s.intoP t k) := by
  obtain ⟨r, h⟩ := s.intoP_frame t k
  rw [h]; exact ⟨rfl, rfl⟩

theorem urge (s : State) (t k : Nat) : s.KeepsObjects (s.urge t k) := by
  unfold State.urge
  split
  · exact ⟨rfl, rfl⟩
  · exact refl s

theorem zeroSlot (s : State) (t : Nat) (st : TileSt) : s.KeepsObjects (s.zeroSlot t st) :=
  of_evicts (((State.Evicts.fillZero s t).trans (.setTile ..)).trans (.extLookup ..))

theorem promote (s : State) (t k : Nat) : s.KeepsObjects (s.promote t k).2 := by
  unfold State.promote
  split
  · next h => exact (of_evicts (State.takeSlot_evicts_of_got h)).trans (intoP ..)
  · exact refl s
  · next h => exact of_evicts (State.takeSlot_evicts_of_waits h)

theorem wantTile (s : State) (t k : Nat) : s.KeepsObjects (s.wantTile t k).2 := by
  unfold State.wantTile
  split
  · exact promote ..
  · split
    · next h => exact (of_evicts (State.takeSlot_evicts_of_got h)).trans (zeroSlot ..)
    · exact refl s
    · next h => exact of_evicts (State.takeSlot_evicts_of_waits h)
  · exact refl s
  · exact urge ..
  · exact refl s

theorem payTile (s : State) (e : Nat × Bool) : s.KeepsObjects (s.payTile e) := by
  have hgone : ∀ {u : State}, s.KeepsObjects u → s.KeepsObjects (u.modTier (fun z => { z with owed := z.owed.erase e })) :=
    fun h => h.trans ⟨rfl, rfl⟩
  have hwant := wantTile s e.1 2
  unfold State.payTile
  dsimp only
  by_cases hpin : s.pinOf e.1 ≠ (if e.2 then 2 else 1)
  · rw [if_pos hpin]; exact hgone (refl s)
  · rw [if_neg hpin]
    split
    · split
      · exact hgone (of_evicts (.evictNow ..))
      · split
        · exact refl s
        · exact hgone (refl s)
    · split
      · split
        · next h => rw [h] at hwant; exact hgone hwant
        · next h => rw [h] at hwant; exact hwant
      · exact hgone (refl s)

theorem pinEffect (s : State) (was : Nat) (o : TObj) : s.KeepsObjects (s.pinEffect was o) := by
  unfold State.pinEffect
  split
  · exact refl s
  · exact trans ⟨rfl, rfl⟩ (foldl payTile ..)

end State.KeepsObjects

theorem State.Evicts.evictStray (s : State) (p : Nat × Nat) : s.Evicts (s.evictStray p) := by
  unfold State.evictStray
  refine State.Evicts.trans (.foldl (fun s t => ?_) ..) (.freeSlot ..)
  split
  · exact .evictTile ..
  · exact .refl s

theorem State.KeepsObjects.rehome (s : State) : s.KeepsObjects s.rehome :=
  (of_evicts (.foldl State.Evicts.evictStray _ s)).trans ⟨rfl, rfl⟩

/-- A write that breaks no rule makes the object, which stands through what its homes and its pin then move
(09_memory_tiers.md R274). -/
theorem State.object_of_made (s : State) (k : Nat) (o : TObj) :
    let u := (((s.setObject k o).objError 0).rehome).pinEffect 0 o
    u.tier.objErr = 0 ∧ u.tier.object k = o ∧ ∀ i, i ≠ k → u.tier.object i = s.tier.object i := by
  dsimp only
  obtain ⟨hobjects, herr⟩ := (State.KeepsObjects.rehome ((s.setObject k o).objError 0)).trans (.pinEffect _ 0 o)
  generalize (((s.setObject k o).objError 0).rehome).pinEffect 0 o = u at hobjects herr ⊢
  refine ⟨herr, ?_, fun i hi => ?_⟩
  · rw [Tier.object, hobjects]; exact Table.get_put_same ..
  · rw [Tier.object, hobjects]; exact Table.get_put_ne _ _ _ hi

/-- Evictions that are left are of groups that stand in a slot (09_memory_tiers.md R274). -/
theorem exec_objectEvictDone_of_quiet {s : State} (hquiet : s.tierQuiet) :
    exec .objectEvictDone s = .next ((s.tier.evicting.foldl State.evictStray s).modTier (fun z =>
      { z with evicting := z.evicting.filter (fun p => (s.tier.evicting.foldl State.evictStray s).heldGroups.contains p) })) := by
  obtain ⟨hhints, hreads, hactive, howed⟩ := (State.Evicts.foldl State.Evicts.evictStray s.tier.evicting s).idle hquiet.idle
  have hidle : State.TierIdle ((s.tier.evicting.foldl State.evictStray s).modTier (fun z =>
      { z with evicting := z.evicting.filter (fun p => (s.tier.evicting.foldl State.evictStray s).heldGroups.contains p) })) :=
    ⟨hhints, hreads, hactive, howed⟩
  rw [exec_objectEvictDone, execObjectEvictDone]
  exact congrArg Host.Outcome.next hidle.serveTier

/-! ### The prefetch schedule -/

theorem exec_schedEnableWrite (p : Port) (v : Word) (s : State) :
    exec (.schedEnableWrite p v) s = execSchedEnableWrite p v s := rfl

theorem exec_schedTailWrite (p : Port) (v : Word) (s : State) : exec (.schedTailWrite p v) s = execSchedTailWrite p v s := rfl

theorem exec_schedEntryActivate (s : State) : exec .schedEntryActivate s = execSchedEntryActivate s := rfl

theorem exec_protectionExpire (t : Nat) (s : State) : exec (.protectionExpire t) s = execProtectionExpire t s := rfl

/-- The tier after a write of SCHED_ENABLE (09_memory_tiers.md R278, Table TIR-11). -/
def Tier.enabled (z : Tier) (v : Word) : Tier :=
  { z with schedEnable := bit v.toNat 31,
           schedLog2 := unlessReserved (z.schedEnable || decide (bits v.toNat 0 5 < 4) || decide (16 < bits v.toNat 0 5))
             z.schedLog2 (bits v.toNat 0 5),
           schedHead := if bit v.toNat 31 && !z.schedEnable then z.schedTail else z.schedHead }

theorem exec_schedEnableWrite_of_may {s : State} {p : Port} (hp : s.mayWrite p = true) (v : Word) :
    exec (.schedEnableWrite p v) s = .next (s.modTier (·.enabled v)) := by
  rw [exec_schedEnableWrite, execSchedEnableWrite, if_pos hp]; rfl

/-- TAIL moves where it stays within the ring (09_memory_tiers.md R278). -/
theorem exec_schedTailWrite_of_may {s : State} {p : Port} (hp : s.mayWrite p = true) (v : Word) :
    exec (.schedTailWrite p v) s = .next (s.modTier (fun z =>
      { z with schedTail := if (v - s.tier.schedHead).toNat ≤ s.tier.schedSize then v else s.tier.schedTail })) := by
  rw [exec_schedTailWrite, execSchedTailWrite, if_pos hp]
  unfold State.modTier dist32
  dsimp only
  split
  · rfl
  · rfl

/-- The address of the schedule's entry at HEAD (09_memory_tiers.md R278). -/
def Tier.schedAt (z : Tier) : Nat := z.schedBase.toNat + 32 * (z.schedHead.toNat % z.schedSize)

/-- An entry that can be read is taken; the read changes what the extension holds and counts alone. -/
theorem exec_schedEntryActivate_of_may {s : State} (hrun : s.running = true) (hon : s.tier.schedEnable = true)
    (hsome : s.tier.schedHead ≠ s.tier.schedTail) (hroom : s.tier.active.length < 64) (hplain : isTiered s.tier.schedAt = false)
    (hopen : s.hostClosed s.tier.schedAt = false) (hready : s.readReady true s.tier.schedAt 32 = true)
    (hclean : s.readPoison true s.tier.schedAt 32 = false) :
    ∃ e h m, exec .schedEntryActivate s =
      .next (State.takeSched { s with ext := e, extHits := h, extMisses := m } (s.readPhys true s.tier.schedAt 32)) := by
  obtain ⟨e, h, m, hread⟩ := didRead_frame s s.tier.schedAt 32 hplain
  have hroom' := Nat.not_le.mpr hroom
  refine ⟨e, h, m, ?_⟩
  rw [← hread]
  unfold Tier.schedAt at hopen hready hclean
  simp [exec_schedEntryActivate, execSchedEntryActivate, hrun, hon, hsome, hroom', hopen, hready, hclean, Tier.schedAt]

/-- An entry that names tiles of a valid object by a known kind (09_memory_tiers.md R279). -/
structure Tier.Sound (z : Tier) (bs : List Byte) : Prop where
  valid : (z.object (field bs 0 2)).valid = true
  object : field bs 0 2 ≤ 1023
  range : field bs 4 4 + field bs 8 4 ≤ (z.object (field bs 0 2)).size * 512
  kind : field bs 2 1 ≤ 1
  count : field bs 8 4 ≠ 0

theorem State.takeSched_of_invalid {s : State} {bs : List Byte} (h : (s.tier.object (field bs 0 2)).valid = false) :
    s.takeSched bs = s.modTier (fun z =>
      { z with schedHead := z.schedHead + 1, schedErr := s.tier.schedHead, schedBad := true }) := by
  simp [State.takeSched, h, State.modTier]

section
variable {s : State} {bs : List Byte} (h : s.tier.Sound bs)
include h

theorem State.takeSched_of_early (hearly : s.time.step + field bs 3 1 < field bs 0x10 8) : s.takeSched bs = s := by
  obtain ⟨hvalid, hobject, hrange, hkind, hsome⟩ := h
  simp [State.takeSched, hvalid, Nat.not_lt.mpr hobject, Nat.not_lt.mpr hrange, Nat.not_lt.mpr hkind, hsome, hearly]

theorem State.takeSched_of_release (hdue : field bs 0x10 8 ≤ s.time.step + field bs 3 1) (hrelease : field bs 2 1 = 1) :
    s.takeSched bs = ((List.range (field bs 8 4)).map ((s.tier.object (field bs 0 2)).base * 512 + field bs 4 4 + ·)).foldl
      State.releaseTile (s.modTier (fun z => { z with schedHead := z.schedHead + 1 })) := by
  obtain ⟨hvalid, hobject, hrange, -, hsome⟩ := h
  simp [State.takeSched, hvalid, Nat.not_lt.mpr hobject, Nat.not_lt.mpr hrange, hsome, Nat.not_lt.mpr hdue, hrelease]

end

/-- A release marks slots alone (09_memory_tiers.md R279). -/
theorem State.releaseTiles_frame (l : List Nat) (s : State) :
    ∃ z, l.foldl State.releaseTile s = s.modTier (fun x => { x with slots := z }) := by
  induction l generalizing s with
  | nil => exact ⟨s.tier.slots, rfl⟩
  | cons t l ih =>
    obtain ⟨y, hy⟩ : ∃ y, s.releaseTile t = s.modTier (fun x => { x with slots := y }) := by
      unfold State.releaseTile
      dsimp only
      split
      · split
        · exact ⟨_, rfl⟩
        · exact ⟨s.tier.slots, rfl⟩
      · exact ⟨s.tier.slots, rfl⟩
    obtain ⟨z, hz⟩ := ih (s.releaseTile t)
    exact ⟨z, by rw [List.foldl_cons, hz, hy]; rfl⟩

theorem Tier.die_modTierDie_same (s : State) (d : Nat) (f : TierDie → TierDie) :
    (s.modTierDie d f).tier.die d = f (s.tier.die d) := Table.get_put_same ..

/-- A protection that ends counts late at the tile's home (09_memory_tiers.md R280). -/
theorem exec_protectionExpire_of_due {s : State} {t : Nat} (hquiet : s.tierQuiet) (hprot : (s.tile t).protTill.isSome = true)
    (hdue : (s.tile t).protAt + 2 ^ 24 ≤ s.drone) :
    exec (.protectionExpire t) s = .next ((s.setTile t { s.tile t with protTill := none }).countLate t) := by
  have hidle : ((s.setTile t { s.tile t with protTill := none }).countLate t).TierIdle :=
    ⟨hquiet.idle.hintQ, hquiet.idle.readQ, hquiet.idle.active, hquiet.idle.owed⟩
  simp only [exec_protectionExpire, execProtectionExpire, hprot, hdue, decide_true, Bool.and_self, if_true, hidle.serveTier]

end Sys2Proof.Machine

namespace Sys2Proof.Machine

/-! ### STRIPED regions -/

theorem exec_regionLoad (p : Port) (r : Nat) (s : State) : exec (.regionLoad p r) s = execRegionLoad p r s := rfl

theorem exec_regionErase (p : Port) (r : Nat) (s : State) : exec (.regionErase p r) s = execRegionErase p r s := rfl

theorem exec_regionOpDone (fails : List (Nat × Nat)) (s : State) : exec (.regionOpDone fails) s = execRegionOpDone fails s := rfl

theorem exec_regionLoad_of_may {s : State} {p : Port} (hp : s.mayWrite p = true) (r : Nat) :
    exec (.regionLoad p r) s = .next (s.regionCmd r 1) := by
  simp [exec_regionLoad, execRegionLoad, hp]

theorem exec_regionErase_of_may {s : State} {p : Port} (hp : s.mayWrite p = true) (r : Nat) :
    exec (.regionErase p r) s = .next (s.regionCmd r 2) := by
  simp [exec_regionErase, execRegionErase, hp]

/-- The state with the fields of a region command as written (09_memory_tiers.md Table TIR-11). -/
def State.regionAsked (s : State) (r op : Nat) : State := s.modTier (fun z => z.keepRegionCmd op r)

/-- The rules of R282, in their order: the first that a region command breaks rejects it. -/
theorem State.regionCmd_eq (s : State) (r op : Nat) : s.regionCmd r op =
    if !s.striped then (s.regionAsked r op).rejectRegion 5
    else if op ≠ 1 ∧ op ≠ 2 then (s.regionAsked r op).rejectRegion 6
    else if s.tier.regionOp.isSome then (s.regionAsked r op).rejectRegion 2
    else if 1983 < r then (s.regionAsked r op).rejectRegion 3
    else if op = 1 ∧ !s.sourceOk then (s.regionAsked r op).rejectRegion 1
    else (s.regionAsked r op).startRegion r (decide (op = 1)) := rfl

/-- A region command that is rejected notes why, and no region changes. -/
theorem State.regionAsked_rejected (s : State) (r op code : Nat) :
    ((s.regionAsked r op).rejectRegion code).tier.regionErr = code ∧
    ((s.regionAsked r op).rejectRegion code).tier.regions = s.tier.regions := ⟨rfl, rfl⟩

theorem State.regionCmd_of_managed {s : State} (h : s.striped = false) (r op : Nat) :
    s.regionCmd r op = (s.regionAsked r op).rejectRegion 5 := by
  simp [State.regionCmd_eq, h]

section
variable {s : State} {r op : Nat} (hstriped : s.striped = true) (hop : op = 1 ∨ op = 2)
include hstriped hop

theorem State.regionCmd_of_busy (hbusy : s.tier.regionOp.isSome = true) :
    s.regionCmd r op = (s.regionAsked r op).rejectRegion 2 := by
  have hknown : ¬ (op ≠ 1 ∧ op ≠ 2) := by omega
  simp only [State.regionCmd_eq, hstriped, hknown, hbusy, if_false, if_true, Bool.not_true, Bool.false_eq_true]

variable (hidle : s.tier.regionOp = none)
include hidle

theorem State.regionCmd_of_idle : s.regionCmd r op =
    if 1983 < r then (s.regionAsked r op).rejectRegion 3
    else if op = 1 ∧ !s.sourceOk then (s.regionAsked r op).rejectRegion 1
    else (s.regionAsked r op).startRegion r (decide (op = 1)) := by
  have hknown : ¬ (op ≠ 1 ∧ op ≠ 2) := by omega
  simp only [State.regionCmd_eq, hstriped, hknown, hidle, if_false, Bool.not_true, Bool.false_eq_true,
    Option.isSome_none]

end

/-- The bytes of a region leave the tier without a change of the source that is set (09_memory_tiers.md R282). -/
theorem State.regionSrc_clearRegion (s : State) (r : Nat) : (s.clearRegion r).tier.regionSrc = s.tier.regionSrc := by
  have hheld : ∀ (l : List Nat), s.Evicts (l.foldl (fun s t => (((s.recallTile t).extDropTile (s.tierHome (t / 4)) t).fillZero
      t).noteFlash t) s) := fun l =>
    .foldl (fun s t => (((State.Evicts.recallTile s t).trans (.extDropTile ..)).trans (.fillZero ..)).trans (.noteFlash ..)) l s
  show (State.tier (List.foldl _ s _)).regionSrc = _
  rw [(hheld _).tier]

/-- A region operation that starts makes its region LOADING, from the source set now. -/
theorem State.startRegion_spec (s : State) (r op : Nat) (load : Bool) :
    let u := (s.regionAsked r op).startRegion r load
    u.region r = 1 ∧ u.tier.regionErr = 0 ∧ u.tier.regionOp = some (r, load, s.tier.regionSrc.toNat) :=
  ⟨Table.get_put_same .., rfl, by
    show some (r, load, ((s.regionAsked r op).clearRegion r).tier.regionSrc.toNat) = _
    rw [State.regionSrc_clearRegion]; rfl⟩

theorem State.FlashWork.foldl {α : Type} {f : State → α → State} (h : ∀ (s : State) a, s.FlashWork (f s a)) (l : List α)
    (s : State) : s.FlashWork (l.foldl f s) := by
  induction l generalizing s with
  | nil => exact .refl s
  | cons a l ih => exact (h s a).trans (ih _)

theorem State.FlashWork.failBlock (s : State) (r ch plane : Nat) : s.FlashWork (s.failBlock r ch plane).2 := by
  have hretire : ∀ f x, s.FlashWork ((s.modChannel ch f).countRetired ch x) := fun f x =>
    (State.FlashWork.modChannel s ch f).trans (.countRetired _ ch x)
  unfold State.failBlock
  dsimp only
  split
  · dsimp only; exact (hretire ..).trans (.modChannel ..)
  · dsimp only; exact hretire ..

theorem State.FlashWork.failBlocks (r : Nat) (l : List (Nat × Nat)) (s : State) : s.FlashWork (s.failBlocks r l).2 := by
  induction l generalizing s with
  | nil => exact .refl s
  | cons e l ih => exact (State.FlashWork.failBlock s r e.1 e.2).trans (ih _)

theorem State.FlashWork.wearRegion (s : State) (r : Nat) (load : Bool) : s.FlashWork (s.wearRegion r load) := by
  have herase := fun f => State.FlashWork.foldl (fun s ch => .modChannel s ch f) (List.range 64) s
  unfold State.wearRegion
  dsimp only
  split
  · exact (herase _).trans (.foldl (fun s x => .modFlashDie s x _) ..)
  · exact herase _

section
variable {α : Type}

/-- Inside the run that is patched a table reads as the patch, whose own keys lie anywhere. -/
theorem Table.get_patch (d : α) (t p : Table α) {lo n i : Nat} (hlo : lo ≤ i) (hhi : i < lo + n) :
    Table.get d (t.patch lo n p) i = Table.get d p i := by
  rw [Table.patch, Table.get_append_of_forall_ne d _ _ i (fun e he => by have := (Table.mem_below he).2; omega),
    Table.get_append_of_forall_ne_right d _ _ i (fun e he => by have := (Table.mem_from he).2; omega)]

/-- A slice moved to another place reads there as the table does. -/
theorem Table.get_slice (d : α) (t : Table α) {lo n to_ i : Nat} (hi : i < n) :
    Table.get d (t.slice lo n to_) (to_ + i) = Table.get d t (lo + i) := by
  have hmove : ∀ l : Table α, (∀ e ∈ l, lo ≤ e.1) →
      Table.get d (l.map (fun e => (e.1 - lo + to_, e.2))) (to_ + i) = Table.get d l (lo + i) := by
    intro l hl
    induction l with
    | nil => rfl
    | cons e l ih =>
      obtain ⟨k, v⟩ := e
      have hk : lo ≤ k := hl (k, v) (by simp)
      have hsame : (k - lo + to_ = to_ + i) = (k = lo + i) := by rw [eq_iff_iff]; omega
      simp only [List.map_cons, Table.get_cons, hsame, ih (fun e he => hl e (by simp [he]))]
  rw [Table.slice, hmove _ (fun e he => (Table.mem_from (Table.mem_below he).1).2)]
  exact (Table.get_filter d _ _ _ (fun v => by simp [hi])).trans (Table.get_filter d _ _ _ (fun v => by simp))

end

theorem State.newestMem_of_no_lines {s : State} (h : s.coh.lines = []) (lo hi : Nat) : s.newestMem lo hi = s.mem := by
  simp [State.newestMem, h]

/-- The flash of a region after a LOAD holds its source's bytes, after an ERASE nothing (09_memory_tiers.md R282). -/
theorem State.programRegion_flash {s : State} (hlines : s.coh.lines = []) (r : Nat) (load : Bool) (src : Nat) {i : Nat}
    (hi : i < 2 ^ 32) : Table.get memDefault (s.programRegion r load src).flash (tierBase + r * 2 ^ 32 + i) =
      if load then s.byte (src + i) else memDefault := by
  refine (Table.get_patch memDefault s.flash _ (Nat.le_add_right ..) (by omega)).trans ?_
  cases load
  · rfl
  · rw [State.newestMem_of_no_lines hlines]
    exact Table.get_slice memDefault s.mem hi

/-- The tier once a region operation has ended, well or not (09_memory_tiers.md R282). -/
def State.regionEnded (s : State) (r : Nat) (load ok : Bool) : State :=
  s.modTier (fun z => { z with regionOp := none, regionErr := if ok then 0 else 4,
                               regions := Table.put 0 z.regions r (if ok then (if load then 2 else 0) else 3) })

/-- The blocks of a region after an operation: those that failed are replaced where they can be, and all are worn. -/
def State.regionWorn (s : State) (r : Nat) (load : Bool) (fails : List (Nat × Nat)) : State :=
  (s.failBlocks r fails).2.wearRegion r load

theorem State.FlashWork.regionWorn (s : State) (r : Nat) (load : Bool) (fails : List (Nat × Nat)) :
    s.FlashWork (s.regionWorn r load fails) :=
  (State.FlashWork.failBlocks r fails s).trans (.wearRegion ..)

/-- The end of a region operation: its blocks fail and wear, flash takes what it loads where every block has a spare, and
the region says how it ended. -/
theorem exec_regionOpDone_of_running {s : State} {r : Nat} {load : Bool} {src : Nat} {fails : List (Nat × Nat)}
    (hop : s.tier.regionOp = some (r, load, src)) (hheld : s.boot.held = false)
    (hquiet : s.tierQuiet) : exec (.regionOpDone fails) s = .next
      ((if (s.failBlocks r fails).1 then (s.regionWorn r load fails).programRegion r load src
        else s.regionWorn r load fails).regionEnded r load (s.failBlocks r fails).1) := by
  have hkeeps := (State.FlashWork.regionWorn s r load fails).keeps
  obtain ⟨hhints, hreads, hactive, howed⟩ := hkeeps.idle hquiet.idle
  have hend : ∀ (u : State) ok, u.TierIdle → u.coh.waiting = [] →
      (u.regionEnded r load ok).serveTier.wakeHomes = u.regionEnded r load ok := by
    intro u ok hidle hnone
    have hidle' : (u.regionEnded r load ok).TierIdle := ⟨hidle.hintQ, hidle.readQ, hidle.active, hidle.owed⟩
    rw [hidle'.serveTier]
    exact wakeHomes_none _ hnone
  have hnone : (s.regionWorn r load fails).coh.waiting = [] := by rw [hkeeps.coh]; exact hquiet.1
  have hexec : exec (.regionOpDone fails) s = .next
      ((if (s.failBlocks r fails).1 then (s.regionWorn r load fails).programRegion r load src
        else s.regionWorn r load fails).regionEnded r load (s.failBlocks r fails).1).serveTier.wakeHomes := by
    simp [exec_regionOpDone, execRegionOpDone, hop, hheld, State.regionWorn, State.regionEnded]
  rw [hexec]
  refine congrArg Host.Outcome.next ?_
  split
  · exact hend _ _ ⟨hhints, hreads, hactive, howed⟩ hnone
  · exact hend _ _ ⟨hhints, hreads, hactive, howed⟩ hnone

/-- Settles O45: each write and each event is one change of the tier, whose fields are read off the change. -/
theorem objectsScheduleAndRegionsFollowTheirRules : Obligations.ObjectsScheduleAndRegionsFollowTheirRules := by
  unfold Obligations.ObjectsScheduleAndRegionsFollowTheirRules
  intro p k v s hp o n made
  refine ⟨fun hk => ⟨fun hfree => ?words, fun hvalid => ?ignored, fun hfree hset hpin hhome => ?third⟩,
    fun hquiet => ?evictions, ?enable, ?tail, ?entry, fun t hquiet hprot hdue => ?protection,
    fun r => ⟨fun hmanaged => ?managed, fun hstriped hbusy => ?busy, fun hstriped hidle hr => ?noRegion, fun hstriped hidle hr => ?starts,
      fun load src fails hop hheld hquiet hlines => ?ends⟩⟩
  case words =>
    have hword := fun w (hw : w < 4) => exec_objectTableWrite_of_may hp hk hw v
    exact ⟨(hword 0 (by decide)).trans (congrArg _ (State.writeObjectWord_base hfree v)),
      (hword 1 (by decide)).trans (congrArg _ (State.writeObjectWord_size hfree v))⟩
  case ignored =>
    have hword := fun w (hw : w < 4) => exec_objectTableWrite_of_may hp hk hw v
    have hsame := fun w (hw : w ≠ 2) => State.writeObjectWord_of_valid hvalid hw v
    exact ⟨(hword 0 (by decide)).trans (congrArg _ (hsame 0 (by decide))),
      (hword 1 (by decide)).trans (congrArg _ (hsame 1 (by decide)))⟩
  case third =>
    have hword : exec (.objectTableWrite p (4 * k + 2) v) s = .next (if s.objectError k made (bits n 24 3) = 0
        then (((s.setObject k made).objError 0).rehome).pinEffect 0 made else s.objError (s.objectError k made (bits n 24 3))) :=
      (exec_objectTableWrite_of_may hp hk (by decide) v).trans
        (congrArg _ (State.writeObjectWord_of_set hfree hset hpin hhome))
    refine ⟨fun hbeyond => ?_, fun hin hover => ?_, fun hnone => ?_⟩
    · rw [State.objectError_of_beyond (o := made) hbeyond] at hword
      exact ⟨_, hword, rfl, rfl⟩
    · rw [State.objectError_of_overlap (o := made) hin hover] at hword
      exact ⟨_, hword, rfl, rfl⟩
    · rw [if_pos hnone] at hword
      exact ⟨_, hword, s.object_of_made k made⟩
  case evictions =>
    refine ⟨_, exec_objectEvictDone_of_quiet hquiet, fun e he => ?_, ?_⟩
    · exact List.contains_iff_mem.mp (List.mem_filter.mp he).2
    · exact (State.KeepsObjects.of_evicts (.foldl State.Evicts.evictStray _ s)).1
  case enable =>
    refine ⟨_, exec_schedEnableWrite_of_may hp v, rfl, rfl, fun hon hoff => ?_⟩
    exact if_pos (by rw [hon, hoff]; rfl)
  case tail => exact ⟨_, exec_schedTailWrite_of_may hp v, rfl, rfl⟩
  case entry =>
    intro z pa hrun hon hsome hroom hplain hopen hready hclean bs ob
    obtain ⟨e, h, m, hexec⟩ := exec_schedEntryActivate_of_may hrun hon hsome hroom hplain hopen hready hclean
    refine ⟨fun hbad => ?_, fun hvalid hobject hrange hkind hcount => ⟨fun hearly => ?_, fun hdue hrelease => ?_⟩⟩
    · exact ⟨_, hexec.trans (congrArg _ (State.takeSched_of_invalid hbad)), rfl, rfl, rfl, rfl⟩
    · exact ⟨_, hexec.trans (congrArg _ (State.takeSched_of_early ⟨hvalid, hobject, hrange, hkind, hcount⟩ hearly)), rfl⟩
    · have htake := State.takeSched_of_release (s := { s with ext := e, extHits := h, extMisses := m })
        ⟨hvalid, hobject, hrange, hkind, hcount⟩ hdue hrelease
      obtain ⟨y, hslots⟩ := State.releaseTiles_frame _ _
      exact ⟨_, hexec.trans (congrArg _ (htake.trans hslots)), rfl, rfl, rfl, rfl⟩
  case protection =>
    have htile : ((s.setTile t { s.tile t with protTill := none }).countLate t).tile t = { s.tile t with protTill := none } :=
      State.tile_setTile_same ..
    exact ⟨_, exec_protectionExpire_of_due hquiet hprot hdue, by rw [htile], by rw [htile],
      congrArg TierDie.late (Tier.die_modTierDie_same ..)⟩
  case managed =>
    have hreject := State.regionCmd_of_managed hmanaged r
    exact ⟨_, _, (exec_regionLoad_of_may hp r).trans (congrArg _ (hreject 1)), rfl, rfl,
      (exec_regionErase_of_may hp r).trans (congrArg _ (hreject 2)), rfl, rfl⟩
  case busy =>
    refine ⟨_, exec_regionLoad_of_may hp r, ?_⟩
    rw [State.regionCmd_of_busy hstriped (.inl rfl) hbusy]
    exact s.regionAsked_rejected ..
  case noRegion =>
    refine ⟨_, exec_regionErase_of_may hp r, ?_⟩
    rw [State.regionCmd_of_idle hstriped (.inr rfl) hidle, if_pos hr]
    exact s.regionAsked_rejected ..
  case starts =>
    have hr' := Nat.not_lt.mpr hr
    refine ⟨⟨_, exec_regionErase_of_may hp r, ?_⟩, fun hsource => ⟨_, exec_regionLoad_of_may hp r, ?_⟩,
      fun hsource => ⟨_, exec_regionLoad_of_may hp r, ?_⟩⟩
    · rw [State.regionCmd_of_idle hstriped (.inr rfl) hidle, if_neg hr', if_neg (by simp)]
      exact s.startRegion_spec ..
    · rw [State.regionCmd_of_idle hstriped (.inl rfl) hidle, if_neg hr', if_neg (by simp [hsource])]
      exact s.startRegion_spec ..
    · rw [State.regionCmd_of_idle hstriped (.inl rfl) hidle, if_neg hr', if_pos (by simp [hsource])]
      exact s.regionAsked_rejected ..
  case ends =>
    have hkeeps := (State.FlashWork.regionWorn s r load fails).keeps
    have hexec := exec_regionOpDone_of_running (fails := fails) hop hheld hquiet
    refine ⟨fun hok => ?_, fun hfail => ?_⟩
    · rw [hok] at hexec
      refine ⟨_, hexec, (Table.get_put_same ..).trans rfl, rfl, hkeeps.byte, fun i hi => ?_⟩
      have hflash := State.programRegion_flash (s := s.regionWorn r load fails) (by rw [hkeeps.coh]; exact hlines) r load src hi
      rw [hkeeps.byte] at hflash
      exact hflash
    · rw [hfail] at hexec
      exact ⟨_, hexec, (Table.get_put_same ..).trans rfl, rfl, hkeeps.flash, hkeeps.byte⟩

end Sys2Proof.Machine

namespace Sys2Proof.Machine

/-! ### Segments: the operation register -/

theorem exec_segRead (p : Port) (u ctx slot : Nat) (s : State) :
    exec (.segRead p u ctx slot) s = execSegRead p u ctx slot s := rfl

theorem exec_segInstall (p : Port) (u ctx slot : Nat) (s : State) :
    exec (.segInstall p u ctx slot) s = execSegInstall p u ctx slot s := rfl

theorem exec_segWithdraw (p : Port) (u ctx slot : Nat) (s : State) :
    exec (.segWithdraw p u ctx slot) s = execSegWithdraw p u ctx slot s := rfl

theorem exec_segOpDone (u : Nat) (s : State) : exec (.segOpDone u) s = execSegOpDone u s := rfl

theorem exec_withdrawDrained (u : Nat) (s : State) : exec (.withdrawDrained u) s = execWithdrawDrained u s := rfl

/-- A unit whose operation register has taken a go (10_segments.md Table SEG-7). -/
def Stu.asked (t : Stu) (op ctx slot : Nat) : Stu := { t with cmdOp := op, cmdSlot := slot, cmdCtx := ctx }

@[simp] theorem Stu.asked_seg (t : Stu) (op ctx slot c i : Nat) : (t.asked op ctx slot).seg c i = t.seg c i := rfl

@[simp] theorem Stu.asked_staged (t : Stu) (op ctx slot : Nat) : (t.asked op ctx slot).staged = t.staged := rfl

section
variable {s : State} {p : Port} {u ctx slot : Nat}

theorem State.stuOpen_of_may (hp : s.mayWrite p = true) (hu : u < 2) (hctx : ctx < 4096) (hslot : slot < 16) :
    s.stuOpen p u ctx slot = true := by
  simp [State.stuOpen, hp, hu, hctx, hslot]

/-- While the unit runs an operation a go is ignored, and the result says so (10_segments.md R306). -/
theorem State.stuGo_of_busy (hbusy : (s.stu u).running ≠ none) (op : Nat) (f : State → State) :
    s.stuGo u op ctx slot f = s.modStu u (fun t => { t with result := 8 }) :=
  if_pos (Option.isSome_iff_ne_none.mpr hbusy)

theorem State.stuGo_of_idle (hidle : (s.stu u).running = none) (op : Nat) (f : State → State) :
    s.stuGo u op ctx slot f =
      if ctx / 2048 ≠ u then
        (s.modStu u (·.asked op ctx slot)).modStu u (fun t => { t with running := some (.install 7 t.generation) })
      else f (s.modStu u (·.asked op ctx slot)) := by
  rw [State.stuGo, hidle]
  rfl

/-- A go that names a context of the other unit ends with result 7 (10_segments.md R306). -/
theorem State.stuGo_of_foreign (hidle : (s.stu u).running = none) (hforeign : ctx / 2048 ≠ u) (op : Nat) (f : State → State) :
    s.stuGo u op ctx slot f =
      s.modStu u (fun t => { t.asked op ctx slot with running := some (.install 7 t.generation) }) := by
  rw [State.stuGo_of_idle hidle, if_pos hforeign, modStu_modStu]
  rfl

/-- A go at an idle unit that names one of its contexts runs the operation. -/
theorem State.stuGo_of_own (hidle : (s.stu u).running = none) (hown : ctx / 2048 = u) (op : Nat) (f : State → State) :
    s.stuGo u op ctx slot f = f (s.modStu u (·.asked op ctx slot)) := by
  rw [State.stuGo_of_idle hidle, if_neg (not_not.mpr hown)]

theorem exec_segRead_of_open (hopen : s.stuOpen p u ctx slot = true) :
    exec (.segRead p u ctx slot) s =
      .next (s.stuGo u 0 ctx slot (·.modStu u (fun t => { t with running := some (.read ctx slot) }))) :=
  congrArg _ (if_pos hopen)

theorem exec_segInstall_of_open (hopen : s.stuOpen p u ctx slot = true) :
    exec (.segInstall p u ctx slot) s = .next (s.stuGo u 1 ctx slot (·.installSeg u ctx slot)) :=
  congrArg _ (if_pos hopen)

theorem exec_segWithdraw_of_open (hopen : s.stuOpen p u ctx slot = true) :
    exec (.segWithdraw p u ctx slot) s = .next (s.stuGo u 2 ctx slot (·.withdrawSeg u ctx slot)) :=
  congrArg _ (if_pos hopen)

/-! ### Segments: installs -/

/-- A descriptor that stands clear of the context's valid segments overlaps none (10_segments.md R287). -/
theorem Stu.overlaps_of_clear {t : Stu} {g : Seg} (hclear : ∀ i, i < 16 → (t.seg ctx i).valid = true →
      (t.seg ctx i).vbase + (t.seg ctx i).len ≤ g.vbase ∨ g.vbase + g.len ≤ (t.seg ctx i).vbase) :
    t.overlaps ctx g = false := by
  refine List.any_eq_false.mpr fun i hi hover => ?_
  simp only [Bool.and_eq_true, decide_eq_true_eq] at hover
  obtain ⟨⟨hvalid, hbelow⟩, habove⟩ := hover
  have hside := hclear i (List.mem_range.mp hi) hvalid
  omega

/-- The rules of an install are judged on what the operation register does not hold. -/
theorem State.installResult_asked (s : State) (u op ctx slot : Nat) (g : Seg) :
    (s.modStu u (·.asked op ctx slot)).installResult u ctx slot g = s.installResult u ctx slot g := by
  rw [State.installResult, State.stu_modStu_same]
  rfl

/-- The first rule: an install into a valid slot (10_segments.md R286, R306). -/
theorem State.installResult_of_valid (hvalid : ((s.stu u).seg ctx slot).valid = true) (g : Seg) :
    s.installResult u ctx slot g = 1 :=
  if_pos hvalid

/-- An install that every rule allows (10_segments.md R286, R287, Table SEG-2). -/
theorem State.installResult_of_allowed {g : Seg} (hfree : ((s.stu u).seg ctx slot).valid = false) (hlen : g.len2m ≠ 0)
    (htop : g.vbase + g.len ≤ 2 ^ 48) (hclear : (s.stu u).overlaps ctx g = false)
    (hbacked : (s.backed g.pbase g.len).bind tierOf = some g.tier) (hattr : attrOk g.tier g = true) :
    s.installResult u ctx slot g = 0 := by
  obtain ⟨r, hregion, htier⟩ := Option.bind_eq_some_iff.mp hbacked
  have hextent : ¬ (g.len2m = 0 ∨ 2 ^ 48 < g.vbase + g.len) := fun h => h.elim hlen htop.not_gt
  simp only [State.installResult, hfree, hclear, hregion, htier, hattr, if_neg hextent, ne_eq, not_true_eq_false,
    Bool.not_true, Bool.false_eq_true, if_false]

/-- An allowed install writes the slot, with a generation one higher (10_segments.md R288). -/
theorem State.installSeg_of_allowed (hresult : s.installResult u ctx slot (s.stu u).staged = 0) :
    s.installSeg u ctx slot = s.modStu u (fun t =>
      { t.setSeg ctx slot { (s.stu u).staged with gen := ((s.stu u).seg ctx slot).gen + 1 } with
        running := some (.install 0 (((s.stu u).seg ctx slot).gen + 1)) }) :=
  if_pos hresult

/-- A refused install writes no slot, and ends with the rule that it fails (10_segments.md R306). -/
theorem State.installSeg_of_refused (hresult : s.installResult u ctx slot (s.stu u).staged ≠ 0) :
    s.installSeg u ctx slot = s.modStu u (fun t =>
      { t with running := some (.install (s.installResult u ctx slot (s.stu u).staged) ((s.stu u).seg ctx slot).gen) }) :=
  if_neg hresult

/-- SEG_INSTALL of a descriptor that every rule allows, as one change of the unit. -/
theorem exec_segInstall_of_allowed (hopen : s.stuOpen p u ctx slot = true) (hidle : (s.stu u).running = none)
    (hown : ctx / 2048 = u) (hresult : s.installResult u ctx slot (s.stu u).staged = 0) :
    exec (.segInstall p u ctx slot) s = .next (s.modStu u (fun t =>
      { (t.asked 1 ctx slot).setSeg ctx slot { (s.stu u).staged with gen := ((s.stu u).seg ctx slot).gen + 1 } with
        running := some (.install 0 (((s.stu u).seg ctx slot).gen + 1)) })) := by
  rw [exec_segInstall_of_open hopen, State.stuGo_of_own hidle hown,
    State.installSeg_of_allowed (by simpa [State.installResult_asked] using hresult)]
  simp only [State.stu_modStu_same, Stu.asked_seg, Stu.asked_staged, modStu_modStu]

/-- SEG_INSTALL of a descriptor that a rule refuses, as one change of the unit. -/
theorem exec_segInstall_of_refused (hopen : s.stuOpen p u ctx slot = true) (hidle : (s.stu u).running = none)
    (hown : ctx / 2048 = u) (hresult : s.installResult u ctx slot (s.stu u).staged ≠ 0) :
    exec (.segInstall p u ctx slot) s = .next (s.modStu u (fun t =>
      { t.asked 1 ctx slot with
        running := some (.install (s.installResult u ctx slot (s.stu u).staged) ((s.stu u).seg ctx slot).gen) })) := by
  rw [exec_segInstall_of_open hopen, State.stuGo_of_own hidle hown,
    State.installSeg_of_refused (by simpa [State.installResult_asked] using hresult)]
  simp only [State.stu_modStu_same, Stu.asked_seg, Stu.asked_staged, State.installResult_asked, modStu_modStu]

end

/-- Settles O23: the result of the first rule that fails decides which one change of the unit the install is. -/
theorem segmentInstallFollowsTheRules : Obligations.SegmentInstallFollowsTheRules := by
  unfold Obligations.SegmentInstallFollowsTheRules
  intro p u ctx slot s hp hu hctx hslot g old
  have hopen := State.stuOpen_of_may hp hu hctx hslot
  refine ⟨fun hidle hown hfree hlen htop hclear hbacked hattr => ?allowed, fun hidle hown hvalid => ?valid,
    fun hbusy => ?busy, fun hidle hforeign => ?foreign⟩
  case allowed =>
    have hresult : s.installResult u ctx slot g = 0 :=
      State.installResult_of_allowed hfree hlen htop (Stu.overlaps_of_clear hclear) hbacked hattr
    refine ⟨_, exec_segInstall_of_allowed hopen hidle hown hresult, onlyStu_mod .., ?_⟩
    rw [State.stu_modStu_same]
    exact ⟨Table.get_put_same .., rfl, fun i hi => Table.get_put_ne _ _ _ hi⟩
  case valid =>
    have hresult : s.installResult u ctx slot g = 1 := State.installResult_of_valid hvalid g
    have hexec := exec_segInstall_of_refused hopen hidle hown (hresult.trans_ne one_ne_zero)
    rw [hresult] at hexec
    refine ⟨_, hexec, onlyStu_mod .., ?_⟩
    rw [State.stu_modStu_same]
    exact ⟨rfl, rfl⟩
  case busy => rw [exec_segInstall_of_open hopen, State.stuGo_of_busy hbusy]
  case foreign =>
    rw [exec_segInstall_of_open hopen, State.stuGo_of_foreign hidle hforeign]
    refine ⟨_, rfl, onlyStu_mod .., ?_⟩
    rw [State.stu_modStu_same]
    exact ⟨rfl, rfl⟩

/-! ### Segments: reads and withdrawals -/

section
variable {s : State} {p : Port} {u ctx slot : Nat}

/-- SEG_READ starts a read (10_segments.md R306). -/
theorem exec_segRead_of_own (hopen : s.stuOpen p u ctx slot = true) (hidle : (s.stu u).running = none)
    (hown : ctx / 2048 = u) :
    exec (.segRead p u ctx slot) s =
      .next (s.modStu u (fun t => { t.asked 0 ctx slot with running := some (.read ctx slot) })) := by
  rw [exec_segRead_of_open hopen, State.stuGo_of_own hidle hown, modStu_modStu]

/-- The withdrawal of a slot that is not valid changes no slot, and ends with result 1 (10_segments.md R306). -/
theorem State.withdrawSeg_of_invalid (hinvalid : ((s.stu u).seg ctx slot).valid = false) :
    s.withdrawSeg u ctx slot =
      s.modStu u (fun t => { t with running := some (.install 1 ((s.stu u).seg ctx slot).gen) }) := by
  simp only [State.withdrawSeg, hinvalid, Bool.not_false, if_true]

/-- What a withdrawal does outside the unit: copies and translations dropped, holders stopped, windows closed
(10_segments.md R301, R302). -/
def State.forgetSeg (s : State) (ctx slot : Nat) : State :=
  ((((s.quads.map Prod.fst).foldl (fun s q => s.modQuad q (·.invalidate ctx slot)) s).dropEthCopies ctx slot).stopHolders
    ctx slot).closeWindows ctx slot

/-- The withdrawal of a valid slot frees it, with a generation one higher, and the package forgets it
(10_segments.md R288, R301). -/
theorem State.withdrawSeg_of_valid (hvalid : ((s.stu u).seg ctx slot).valid = true) :
    s.withdrawSeg u ctx slot = (s.modStu u (fun t =>
      { t.setSeg ctx slot
          { (s.stu u).seg ctx slot with valid := false, gen := ((s.stu u).seg ctx slot).gen + 1 } with
        running := some (.withdraw ctx slot (((s.stu u).seg ctx slot).gen + 1)) })).forgetSeg ctx slot := by
  simp only [State.withdrawSeg, hvalid, Bool.not_true, Bool.false_eq_true, if_false]
  rfl

/-- SEG_WITHDRAW of a slot that is not valid, as one change of the unit. -/
theorem exec_segWithdraw_of_invalid (hopen : s.stuOpen p u ctx slot = true) (hidle : (s.stu u).running = none)
    (hown : ctx / 2048 = u) (hinvalid : ((s.stu u).seg ctx slot).valid = false) :
    exec (.segWithdraw p u ctx slot) s = .next (s.modStu u (fun t =>
      { t.asked 2 ctx slot with running := some (.install 1 ((s.stu u).seg ctx slot).gen) })) := by
  rw [exec_segWithdraw_of_open hopen, State.stuGo_of_own hidle hown, State.withdrawSeg_of_invalid (by simpa using hinvalid)]
  simp only [State.stu_modStu_same, Stu.asked_seg, modStu_modStu]

/-- SEG_WITHDRAW of a valid slot: one change of the unit, after which the package forgets the slot. -/
theorem exec_segWithdraw_of_valid (hopen : s.stuOpen p u ctx slot = true) (hidle : (s.stu u).running = none)
    (hown : ctx / 2048 = u) (hvalid : ((s.stu u).seg ctx slot).valid = true) :
    exec (.segWithdraw p u ctx slot) s = .next ((s.modStu u (fun t =>
      { (t.asked 2 ctx slot).setSeg ctx slot
          { (s.stu u).seg ctx slot with valid := false, gen := ((s.stu u).seg ctx slot).gen + 1 } with
        running := some (.withdraw ctx slot (((s.stu u).seg ctx slot).gen + 1)) })).forgetSeg ctx slot) := by
  rw [exec_segWithdraw_of_open hopen, State.stuGo_of_own hidle hown, State.withdrawSeg_of_valid (by simpa using hvalid)]
  simp only [State.stu_modStu_same, Stu.asked_seg, modStu_modStu]

/-- A read completes by filling the staging words (10_segments.md R306). -/
theorem exec_segOpDone_of_read (hrun : (s.stu u).running = some (.read ctx slot)) :
    exec (.segOpDone u) s = .next (s.modStu u (fun t =>
      { t.done 0 (t.seg ctx slot).gen with stage := Table.splice 0 t.stage 0 (t.seg ctx slot).words })) := by
  rw [exec_segOpDone, execSegOpDone, hrun]

/-- An install completes by showing its result (10_segments.md R306). -/
theorem exec_segOpDone_of_install {r : Nat} {g : Half} (hrun : (s.stu u).running = some (.install r g)) :
    exec (.segOpDone u) s = .next (s.modStu u (·.done r g)) := by
  rw [exec_segOpDone, execSegOpDone, hrun]

/-- A withdrawal that has drained shows the slot's new generation (10_segments.md R301). -/
theorem exec_withdrawDrained_of_withdraw {g : Half} (hrun : (s.stu u).running = some (.withdraw ctx slot g)) :
    exec (.withdrawDrained u) s = .next (s.modStu u (·.done 0 g)) := by
  rw [exec_withdrawDrained, execWithdrawDrained, hrun]

end

/-- The eight words of a descriptor, spliced in at the first staging word, read back as they are. -/
theorem get_splice_words (stage : Table Word) (g : Seg) {i : Nat} (hi : i < 8) :
    Table.get 0 (Table.splice 0 stage 0 g.words) i = g.words.getD i 0 := by
  have hlen : g.words.length = 8 := rfl
  rw [Table.get_splice, if_pos ⟨i.zero_le, by omega⟩, Nat.sub_zero]

/-- Settles O24: each command and each completion is one change of the unit; the withdrawal of a valid slot goes on
through the package. -/
theorem segmentReadAndWithdraw : Obligations.SegmentReadAndWithdraw := by
  unfold Obligations.SegmentReadAndWithdraw
  intro p u ctx slot s
  refine ⟨fun hp hu hctx hslot hidle hown => ?starts, fun hrun => ?readDone, fun r g hrun => ?installDone,
    fun g hrun => ?drained⟩
  case starts =>
    have hopen := State.stuOpen_of_may hp hu hctx hslot
    refine ⟨⟨_, exec_segRead_of_own hopen hidle hown, onlyStu_mod .., ?_⟩, exec_segWithdraw_of_valid hopen hidle hown,
      fun hinvalid => ⟨_, exec_segWithdraw_of_invalid hopen hidle hown hinvalid, onlyStu_mod .., ?_⟩⟩
    · rw [State.stu_modStu_same]
      exact ⟨rfl, rfl⟩
    · rw [State.stu_modStu_same]
      exact ⟨rfl, rfl⟩
  case readDone =>
    refine ⟨_, exec_segOpDone_of_read hrun, onlyStu_mod .., ?_⟩
    rw [State.stu_modStu_same]
    exact ⟨rfl, rfl, rfl, rfl, fun i hi => get_splice_words _ _ hi⟩
  case installDone => exact ⟨_, exec_segOpDone_of_install hrun, onlyStu_mod .., State.stu_modStu_same ..⟩
  case drained => exact ⟨_, exec_withdrawDrained_of_withdraw hrun, onlyStu_mod .., State.stu_modStu_same ..⟩

end Sys2Proof.Machine

namespace Sys2Proof.Machine

/-! ### Segments: lookups -/

theorem exec_segLookupMiss (q ctx va : Nat) (s : State) :
    exec (.segLookupMiss q ctx va) s = execSegLookupMiss q ctx va s := rfl

/-- Two changes of one quad are one. -/
theorem modQuad_modQuad (s : State) (q : Nat) (f g : Quad → Quad) :
    (s.modQuad q f).modQuad q g = s.modQuad q (fun x => g (f x)) := by
  unfold State.modQuad State.quad
  simp only [Table.get_put_same]
  rw [Table.put_put]

theorem State.stu_countLookup (s : State) (ctx : Nat) :
    (s.countLookup ctx).stu (stuOf ctx) =
      { s.stu (stuOf ctx) with lookups := min 0xFFFFFFFF ((s.stu (stuOf ctx)).lookups + 1) } :=
  State.stu_modStu_same ..

/-- A quad after its context's unit has answered a miss (10_segments.md R290). -/
def Quad.missed (x : Quad) (ctx : Nat) (answer : Option (Nat × Seg)) : Quad :=
  { x with segMisses := min 0xFFFF (x.segMisses + 1),
           segCopy := answer.elim x.segCopy (fun a => copyAdd x.segCopy ctx a.1 a.2) }

/-- A segment that joins a copy stands first. -/
theorem copyAdd_head? (l : List SegCopy) (ctx slot : Nat) (g : Seg) : (copyAdd l ctx slot g).head? = some ⟨ctx, slot, g⟩ := rfl

/-- A miss is counted at the context's unit and at the quad, whose copy takes the answer. -/
theorem State.segMiss_snd (s : State) (q ctx va : Nat) :
    (s.segMiss q ctx va).2 = (s.countLookup ctx).modQuad q (·.missed ctx ((s.stu (stuOf ctx)).lookup ctx va)) := by
  unfold State.segMiss
  cases (s.stu (stuOf ctx)).lookup ctx va with
  | none => rfl
  | some a =>
    simp only [modQuad_modQuad]
    rfl

theorem exec_segLookupMiss_of_uncovered {s : State} {q ctx va : Nat} (hruns : s.quadRuns q = true) (hctx : ctx < 4096)
    (hmiss : (s.quad q).segCopy.any (fun c => decide (c.ctx = ctx) && c.seg.covers va) = false) :
    exec (.segLookupMiss q ctx va) s =
      .next ((s.countLookup ctx).modQuad q (·.missed ctx ((s.stu (stuOf ctx)).lookup ctx va))) := by
  have hfind : copyFind (s.quad q).segCopy ctx va = none := List.find?_eq_none.mpr (List.any_eq_false.mp hmiss)
  simp only [exec_segLookupMiss, execSegLookupMiss, hruns, hctx, hfind, decide_true, Option.isNone_none, Bool.and_self,
    if_true, State.segMiss_snd]

/-! ### Segments: fault records -/

theorem exec_faultRetry (p : Port) (u r : Nat) (s : State) : exec (.faultRetry p u r) s = execFaultRetry p u r s := rfl

theorem exec_faultFail (p : Port) (u r : Nat) (s : State) : exec (.faultFail p u r) s = execFaultFail p u r s := rfl

/-- A state whose unit notes what was asked of a record (10_segments.md Table SEG-8). -/
def State.noteResolve (s : State) (u r : Nat) (fail : Bool) : State :=
  s.modStu u (fun t => { t with resolveFail := fail, resolveRecord := r })

theorem State.noteResolve_spec (s : State) (u r : Nat) (fail : Bool) :
    s.onlyStu u (s.noteResolve u r fail) ∧ ((s.noteResolve u r fail).stu u).faults = (s.stu u).faults := by
  refine ⟨onlyStu_mod .., ?_⟩
  rw [State.noteResolve, State.stu_modStu_same]

/-- A freed record reads as at reset, its resolution is noted, and the other records stand. -/
theorem State.freeRecord_spec (s : State) (u r : Nat) (fail : Bool) :
    s.onlyStu u (s.freeRecord u r fail) ∧ ((s.freeRecord u r fail).stu u).fault r = FaultRec.reset ∧
    ((s.freeRecord u r fail).stu u).resolveFail = fail ∧ ((s.freeRecord u r fail).stu u).resolveRecord = r ∧
    ∀ x, x ≠ r → ((s.freeRecord u r fail).stu u).fault x = (s.stu u).fault x := by
  refine ⟨onlyStu_mod .., ?_⟩
  rw [State.freeRecord, State.stu_modStu_same]
  exact ⟨Table.get_put_same .., rfl, rfl, fun x hx => Table.get_put_ne _ _ _ hx⟩

section
variable {s : State} {p : Port} {u r : Nat} (hp : s.mayWrite p = true) (hu : u < 2) (hr : r < 64)
include hp hu hr

theorem exec_faultRetry_of_invalid (hinvalid : ((s.stu u).fault r).valid = false) :
    exec (.faultRetry p u r) s = .next (s.noteResolve u r false) := by
  simp [exec_faultRetry, execFaultRetry, State.noteResolve, hp, hu, hr, hinvalid]

theorem exec_faultFail_of_invalid (hinvalid : ((s.stu u).fault r).valid = false) :
    exec (.faultFail p u r) s = .next (s.noteResolve u r true) := by
  simp [exec_faultFail, execFaultFail, State.noteResolve, hp, hu, hr, hinvalid]

theorem exec_faultRetry_of_valid (hvalid : ((s.stu u).fault r).valid = true) :
    exec (.faultRetry p u r) s = .next ((s.waitersOf u r).foldl State.retryOne (s.freeRecord u r false)) := by
  simp [exec_faultRetry, execFaultRetry, hp, hu, hr, hvalid]

theorem exec_faultFail_of_valid (hvalid : ((s.stu u).fault r).valid = true) :
    exec (.faultFail p u r) s = .next ((s.waitersOf u r).foldl
      (fun s w => s.endCmd w.1 w.2.1 w.2.2.1 stSegFault w.2.2.1.detail) (s.freeRecord u r true)) := by
  simp [exec_faultFail, execFaultFail, hp, hu, hr, hvalid]

end

/-- Settles O25: a miss is one change of the unit and one of the quad; a record without waiters is only freed. -/
theorem lookupsAndFaultsResolve : Obligations.LookupsAndFaultsResolve := by
  unfold Obligations.LookupsAndFaultsResolve
  refine ⟨fun q ctx va s hruns hctx hmiss => ?lookup,
    fun p u r s hp hu hr => ⟨fun hvalid halone => ?freed, fun hinvalid => ?ignored⟩⟩
  case lookup =>
    have hquad (f : Quad → Quad) : ((s.countLookup ctx).modQuad q f).quad q = f (s.quad q) := State.quad_modQuad_same ..
    refine ⟨_, exec_segLookupMiss_of_uncovered hruns hctx hmiss, s.stu_countLookup ctx, ?_, ?_,
      fun p hpq => State.quad_modQuad_ne _ _ hpq, fun a => rfl⟩
    · rw [hquad, Quad.missed]
    · rw [hquad]
      cases (s.stu (stuOf ctx)).lookup ctx va with
      | none => rfl
      | some a => exact copyAdd_head? ..
  case freed =>
    refine ⟨⟨_, exec_faultRetry_of_valid hp hu hr hvalid, ?_⟩, ⟨_, exec_faultFail_of_valid hp hu hr hvalid, ?_⟩⟩
    · rw [halone]
      exact s.freeRecord_spec u r false
    · rw [halone]
      exact s.freeRecord_spec u r true
  case ignored =>
    exact ⟨⟨_, exec_faultRetry_of_invalid hp hu hr hinvalid, s.noteResolve_spec u r false⟩,
      ⟨_, exec_faultFail_of_invalid hp hu hr hinvalid, s.noteResolve_spec u r true⟩⟩

end Sys2Proof.Machine

namespace Sys2Proof.Machine

/-! ### Host cores: where an access lies -/

theorem isTiered_iff (pa : Nat) : isTiered pa = true ↔ 0x100000000000 ≤ pa ∧ pa < 0x180000000000 := by
  unfold isTiered regionOf
  split_ifs <;> simp <;> omega

theorem State.backed_iff (s : State) (pa n : Nat) (r : Region) :
    s.backed pa n = some r ↔
      regionOf pa = some r ∧ (s.populated r).1 ≤ pa ∧ pa + n ≤ (s.populated r).1 + (s.populated r).2 := by
  unfold State.backed
  cases regionOf pa with
  | none => simp
  | some q => simp only [Option.some.injEq]; grind

/-- What lies in one sector touches that sector alone. -/
theorem sectorsOf_of_one {pa n : Nat} (hn : 0 < n) (h : pa / 64 = (pa + n - 1) / 64) : sectorsOf pa n = [pa / 64] := by
  simp [sectorsOf, Nat.pos_iff_ne_zero.mp hn, ← h]

section
variable {s : State} {c pa n : Nat} (h : s.coreMay c pa n)
include h

theorem State.coreMay.runs : s.hostRuns = true := h.1

theorem State.coreMay.noMsgs : s.coh.msgs = [] := h.2.2.2.2.1

/-- The region of such an access takes every kind of access. -/
theorem State.coreMay.region : ∃ r, s.backed pa n = some r ∧ r.amoOk = true ∧ r.cacheable = true := by
  obtain ⟨-, -, hddr | ⟨d, hhbm⟩, -⟩ := h
  · exact ⟨_, hddr, rfl, rfl⟩
  · exact ⟨_, hhbm, rfl, rfl⟩

/-- Such an access ends below the tiered range (01_package.md Table PKG-9). -/
theorem State.coreMay.below : pa + n ≤ 0x090000000000 := by
  obtain ⟨-, -, hddr | ⟨d, hhbm⟩, -⟩ := h
  · obtain ⟨-, -, hhi⟩ := (s.backed_iff pa n _).mp hddr
    simp only [State.populated, ddrSize] at hhi
    omega
  · obtain ⟨hreg, hlo, hhi⟩ := (s.backed_iff pa n _).mp hhbm
    have hd : d < 4 := by
      unfold regionOf at hreg
      split_ifs at hreg <;> simp at hreg
      omega
    simp only [State.populated] at hlo hhi
    omega

theorem State.coreMay.pos : 0 < n := by
  obtain ⟨-, -, -, -, -, -, hn, -⟩ := h
  exact hn

theorem State.coreMay.sameLine : pa / 64 = (pa + n - 1) / 64 := by
  obtain ⟨-, -, -, -, -, -, -, hline, -⟩ := h
  exact hline

theorem State.coreMay.sectorsOf : sectorsOf pa n = [pa / 64] := sectorsOf_of_one h.pos h.sameLine

theorem State.coreMay.mayUse (use : PmpUse) : s.mayUse c pa n use = true := by
  have hb := h.below
  obtain ⟨-, -, -, -, -, -, hn, -, hfree, -⟩ := h
  exact hfree pa n use hn (by omega)

theorem State.coreMay.not_tiered {a : Nat} (ha : a ≤ pa) : isTiered a = false := by
  have hb := h.below
  have hn := h.pos
  rw [Bool.eq_false_iff, Ne, isTiered_iff]
  omega

theorem State.coreMay.not_dead (a : Nat) : s.isDead a = false := by
  obtain ⟨-, -, -, -, -, hdead, -⟩ := h
  simp [State.isDead, hdead]

end

end Sys2Proof.Machine

namespace Sys2Proof.Machine

/-! ### Host cores: what an access changes beside lines, messages and memory -/

/-- Only the stream detectors and the extension have changed: what an access passes on its way (11_host_cores_and_cache.md
R323, R324). -/
def State.Passes (s t : State) : Prop :=
  t = { s with streams := t.streams, ext := t.ext, extHits := t.extHits, extMisses := t.extMisses }

/-- Beside those only the cores and the free values have changed: memory, its poison and the coherence protocol stand. -/
def State.Beside (s t : State) : Prop :=
  t = { s with free := t.free, cores := t.cores, streams := t.streams, ext := t.ext, extHits := t.extHits,
               extMisses := t.extMisses }

namespace State.Passes

theorem refl (s : State) : s.Passes s := rfl

theorem trans {a b c : State} (h : a.Passes b) (k : b.Passes c) : a.Passes c := by
  unfold State.Passes at *; rw [h] at k; exact k

theorem foldl {α : Type} {f : State → α → State} (h : ∀ (s : State) a, s.Passes (f s a)) (l : List α) (s : State) :
    s.Passes (l.foldl f s) := by
  induction l generalizing s with
  | nil => exact refl s
  | cons a l ih => exact (h s a).trans (ih _)

theorem beside {s t : State} (h : s.Passes t) : s.Beside t := by
  unfold State.Passes at h; rw [h]; rfl

theorem core {s t : State} (h : s.Passes t) (c : Nat) : t.core c = s.core c := by
  unfold State.Passes at h; rw [h]; rfl

theorem extLookup (s : State) (pa n : Nat) (w : Bool) : s.Passes (s.extLookup pa n w) := by
  obtain ⟨e, x, m, hext⟩ := extLookup_frame s pa n w
  rw [hext]; rfl

theorem didRead (s : State) {pa : Nat} (n : Nat) (h : isTiered pa = false) : s.Passes (s.didRead pa n) := by
  obtain ⟨e, x, m, hread⟩ := didRead_frame s pa n h
  rw [hread]; rfl

theorem streamWrite (s : State) (det line : Nat) : s.Passes (s.streamWrite det line).2 := by
  obtain ⟨z, hz⟩ := streamWrite_frame s det line
  rw [hz]; rfl

theorem streamPart (s : State) (det line : Nat) : s.Passes (s.streamPart det line) := by
  obtain ⟨z, hz⟩ := streamPart_frame s det line
  rw [hz]; rfl

theorem passPorts (s : State) (from_ pa n : Nat) : s.Passes (s.passPorts from_ pa n) :=
  foldl (fun s l => by
    split
    · split
      · exact streamWrite s _ l
      · exact streamPart s _ l
    · exact refl s) _ s

end State.Passes

namespace State.Beside

theorem refl (s : State) : s.Beside s := rfl

theorem trans {a b c : State} (h : a.Beside b) (k : b.Beside c) : a.Beside c := by
  unfold State.Beside at *; rw [h] at k; exact k

theorem foldl {α : Type} {f : State → α → State} (h : ∀ (s : State) a, s.Beside (f s a)) (l : List α) (s : State) :
    s.Beside (l.foldl f s) := by
  induction l generalizing s with
  | nil => exact refl s
  | cons a l ih => exact (h s a).trans (ih _)

theorem modCore (s : State) (c : Nat) (f : Core → Core) : s.Beside (s.modCore c f) := rfl

theorem report (s : State) (c : Nat) (r : HostResult) : s.Beside (s.report c r) := rfl

theorem countEvent (s : State) (c code n : Nat) : s.Beside (s.countEvent c code n) := rfl

theorem countUncached (s : State) (c : Nat) : s.Beside (s.countUncached c) := rfl

theorem dropReservations (s : State) (line : Nat) (but : Requester) : s.Beside (s.dropReservations line but) := by
  obtain ⟨z, hz⟩ := dropReservations_frame s line but
  rw [hz]; rfl

theorem dropL1 (s : State) (a line : Nat) : s.Beside (s.dropL1 a line) := by
  obtain ⟨z, hz, -⟩ := dropL1_frame s a line
  rw [hz]; rfl

theorem dropReserved (s : State) (pa n : Nat) : s.Beside (s.dropReserved pa n) := by
  unfold State.dropReserved
  exact foldl (fun s (x : Nat × Core) => modCore s x.1 _) _ s

theorem touchL1d (s : State) (c line : Nat) : s.Beside (s.touchL1d c line) := by
  unfold State.touchL1d
  dsimp only
  split
  · exact refl s
  · split <;> rfl

theorem countMiss (s : State) (c line : Nat) : s.Beside (s.countMiss c line) := by
  unfold State.countMiss
  dsimp only
  split <;> rfl

section
variable {s t : State} (h : s.Beside t)
include h

theorem coh : t.coh = s.coh := by unfold State.Beside at h; rw [h]
theorem mem : t.mem = s.mem := by unfold State.Beside at h; rw [h]
theorem poison : t.poison = s.poison := by unfold State.Beside at h; rw [h]

theorem byte (a : Nat) : t.byte a = s.byte a := congrArg (Table.get memDefault · a) h.mem
theorem bytes (a n : Nat) : t.bytes a n = s.bytes a n := congrArg (Table.range memDefault · a n) h.mem
theorem sectorPoison (l : Nat) : t.sectorPoison l = s.sectorPoison l := congrArg (Table.get false · l) h.poison
theorem line (a l : Nat) : t.line a l = s.line a l := congrArg (fun x : Coh => Table.get Line.none x.lines (lineKey a l)) h.coh
theorem dirEntry (l : Nat) : t.dirEntry l = s.dirEntry l := congrArg (fun x : Coh => Table.get DirEntry.none x.dir l) h.coh
theorem holders (l : Nat) : t.holders l = s.holders l := by unfold State.holders; rw [h.coh]

theorem l2Bytes (c pa n : Nat) : t.l2Bytes c pa n = s.l2Bytes c pa n := by
  unfold State.l2Bytes; simp only [h.line]

theorem l2Poison (c pa n : Nat) : t.l2Poison c pa n = s.l2Poison c pa n := by
  unfold State.l2Poison; simp only [h.line]

theorem unheld {l : Nat} (hs : s.unheld l) : t.unheld l := by
  obtain ⟨hlines, hdir⟩ := hs
  exact ⟨fun e he => hlines e (by rwa [h.coh] at he), (h.dirEntry l).trans hdir⟩

end

end State.Beside

/-! ### Host cores: what a core notes -/

/-- Counting changes the counters, their selections and the overflow interrupt alone. -/
theorem Core.event_frame (x : Core) (code n : Nat) :
    ∃ v sel o, x.event code n = { x.tally code n with hpm := v, hpmEvent := sel, lcof := o } := by
  have hcount : ∀ (l : Table Dword) (y : Core),
      ∃ v sel o, l.foldl (fun x e => x.count e.1 n) y = { y with hpm := v, hpmEvent := sel, lcof := o } := by
    intro l
    induction l with
    | nil => exact fun y => ⟨y.hpm, y.hpmEvent, y.lcof, rfl⟩
    | cons e l ih =>
      intro y
      obtain ⟨v, sel, o, hl⟩ := ih (y.count e.1 n)
      obtain ⟨v', sel', o', he⟩ : ∃ v sel o, y.count e.1 n = { y with hpm := v, hpmEvent := sel, lcof := o } := by
        unfold Core.count
        dsimp only
        split
        · exact ⟨_, y.hpmEvent, y.lcof, rfl⟩
        · exact ⟨_, _, _, rfl⟩
      exact ⟨v, sel, o, by rw [List.foldl_cons, hl, he]⟩
  exact hcount ..

theorem State.reservation_countEvent (s : State) (c code n : Nat) :
    ((s.countEvent c code n).core c).reservation = (s.core c).reservation := by
  obtain ⟨v, sel, o, hev⟩ := Core.event_frame (s.core c) code n
  rw [State.countEvent, State.core_modCore_same, hev]
  unfold Core.tally
  split <;> rfl

theorem State.scFailures_countEvent (s : State) (c n : Nat) :
    ((s.countEvent c 0x000D n).core c).scFailures = (s.core c).scFailures + n := by
  obtain ⟨v, sel, o, hev⟩ := Core.event_frame (s.core c) 0x000D n
  rw [State.countEvent, State.core_modCore_same, hev]
  rfl

@[simp] theorem State.core_report (s : State) (c : Nat) (r : HostResult) :
    (s.report c r).core c = { s.core c with result := r } := State.core_modCore_same ..

@[simp] theorem State.core_reserve (s : State) (c line : Nat) :
    (s.reserve c line).core c = { s.core c with reservation := some line } := State.core_modCore_same ..

/-- A core that loses reservations loses no more. -/
theorem State.dropReserved_core (s : State) (pa n c : Nat) :
    ∃ r, (s.dropReserved pa n).core c = { s.core c with reservation := r } ∧ (r = none ∨ r = (s.core c).reservation) := by
  unfold State.dropReserved
  generalize s.cores.filter _ = l
  induction l generalizing s with
  | nil => exact ⟨_, rfl, .inr rfl⟩
  | cons x l ih =>
    obtain ⟨r, hr, hcases⟩ := ih (s.modCore x.1 (fun c => { c with reservation := none }))
    rw [List.foldl_cons, hr]
    by_cases hx : c = x.1
    · subst hx
      rw [State.core_modCore_same] at hcases ⊢
      exact ⟨r, rfl, .inl (hcases.elim id id)⟩
    · rw [State.core_modCore_ne _ _ hx] at hcases ⊢
      exact ⟨r, rfl, hcases⟩

end Sys2Proof.Machine

namespace Sys2Proof.Machine

/-! ### Host cores: writes inside a line -/

/-- Every part of a range of memory reads as bytes that were written there. -/
def State.reads (s : State) (pa : Nat) (bs : List Byte) : Prop :=
  ∀ o n, o + n ≤ bs.length → s.bytes (pa + o) n = (bs.drop o).take n

theorem State.reads.whole {s : State} {pa : Nat} {bs : List Byte} (h : s.reads pa bs) : s.bytes pa bs.length = bs := by
  simpa using h 0 bs.length (by omega)

theorem State.clearWhole_frame (s : State) (pa n : Nat) : ∃ p, s.clearWhole pa n = { s with poison := p } := by
  unfold State.clearWhole
  dsimp only
  split
  · exact ⟨_, rfl⟩
  · exact ⟨s.poison, rfl⟩

section
variable {pa : Nat} {bs : List Byte}

/-- A write inside one line, in part or whole, that meets no poison there or covers the line (12_coherence.md R350). -/
theorem State.writeMem_line (s : State) (hlen : 0 < bs.length) (hline : pa / 64 = (pa + bs.length - 1) / 64)
    (hclean : s.sectorPoison (pa / 64) = false ∨ bs.length = 64) :
    s.writeMem pa bs = (s.clearWhole pa bs.length).setBytes pa bs := by
  unfold State.writeMem ceilDiv
  dsimp only
  by_cases hfull : bs.length = 64
  · have hlo : (pa + 64 - 1) / 64 * 64 = pa := by omega
    have hhi : (pa + bs.length) / 64 * 64 = pa + bs.length := by omega
    rw [hlo, hhi, if_neg (by omega)]
    simp
  · have hpart : (pa + bs.length) / 64 * 64 ≤ (pa + 64 - 1) / 64 * 64 := by omega
    rw [if_pos ⟨hpart, hline⟩, if_neg (by simp [hclean.resolve_right hfull])]

/-- Such a write of memory leaves the bytes there, and no other byte changes. -/
theorem State.writeMem_line_spec (s : State) (hlen : 0 < bs.length) (hline : pa / 64 = (pa + bs.length - 1) / 64)
    (hclean : s.sectorPoison (pa / 64) = false ∨ bs.length = 64) :
    (s.writeMem pa bs).reads pa bs ∧ (∀ x, x < pa ∨ pa + bs.length ≤ x → (s.writeMem pa bs).byte x = s.byte x) ∧
    (s.writeMem pa bs).coh = s.coh ∧ (s.writeMem pa bs).cores = s.cores := by
  obtain ⟨p, hp⟩ := s.clearWhole_frame pa bs.length
  rw [s.writeMem_line hlen hline hclean, hp]
  exact ⟨fun o n h => State.bytes_setBytes _ pa bs o n h, fun x hx => State.byte_setBytes_ne _ pa bs hx, rfl, rfl⟩

/-- A whole line written is poisoned no more. -/
theorem State.sectorPoison_writeMem (s : State) {line : Nat} (hlen : bs.length = 64) :
    (s.writeMem (line * 64) bs).sectorPoison line = false := by
  rw [s.writeMem_line (by omega) (by omega) (.inr hlen), hlen]
  have hlo : ceilDiv (line * 64) 64 = line := by unfold ceilDiv; omega
  have hhi : (line * 64 + 64) / 64 = line + 1 := by omega
  simp only [State.clearWhole, hlo, hhi, Nat.lt_add_one, if_true]
  show Table.get false (Table.drop _ _ _) _ = _
  rw [Table.get_drop, if_pos (by omega)]

/-- A write of physical memory outside the tiered range, not seen by the homes, is one of memory. -/
theorem State.writePhys_direct (s : State) (bs : List Byte) (htier : isTiered pa = false) :
    ∃ u, s.Passes u ∧ s.writePhys false pa bs = u.writeMem pa bs :=
  ⟨_, State.Passes.extLookup s pa bs.length true, by simp [State.writePhys, htier]⟩

end

/-- A line's bytes as a cache writes them, outside the tiered range. -/
theorem State.lineWrite_direct (s : State) {line : Nat} (d : List Byte) (p : Bool) (htier : isTiered (line * 64) = false) :
    ∃ u, s.Passes u ∧ s.lineWrite line d p = (u.setBytes (line * 64) d).setPoison line (s.sectorPoison line || p) := by
  have hopen : s.openLine line = s := by simp [State.openLine, htier]
  refine ⟨_, State.Passes.extLookup s (line * 64) 64 true, ?_⟩
  rw [State.lineWrite, hopen, ← (State.Passes.extLookup s (line * 64) 64 true).beside.sectorPoison line]

/-- Memory holds a line's newest bytes and poison, and reads as before elsewhere; of the rest only what the write passes
has changed. -/
structure State.Saved (s t : State) (line : Nat) : Prop where
  bytes : t.bytes (line * 64) 64 = (s.newest line).1
  poison : t.sectorPoison line = (s.sectorPoison line || (s.newest line).2)
  onlyLine : s.onlyLine t line
  coh : t.coh = s.coh
  cores : t.cores = s.cores

/-- A line's newest bytes as memory has them, outside the tiered range. -/
theorem State.newest_of_clean (s : State) {line : Nat} (htier : isTiered (line * 64) = false) (h : s.dirtyCopy line = none) :
    s.newest line = (s.bytes (line * 64) 64, s.sectorPoison line) := by
  simp [State.newest, h, State.baseLine, State.basePoison, htier]

/-- The dirty copy of a line goes to memory. -/
def State.saveDirty (s : State) (line : Nat) : State :=
  match s.dirtyCopy line with
  | some (d, p) => s.lineWrite line d p
  | none => s

theorem State.saveDirty_saved (s : State) {line : Nat} (htier : isTiered (line * 64) = false)
    (hlen : (s.newest line).1.length = 64) : s.Saved (s.saveDirty line) line := by
  unfold State.saveDirty
  cases hdc : s.dirtyCopy line with
  | none =>
    have hnew := s.newest_of_clean htier hdc
    exact ⟨by rw [hnew], by simp [hnew], fun _ _ => rfl, rfl, rfl⟩
  | some dp =>
    obtain ⟨d, p⟩ := dp
    have hnew : s.newest line = (d, p) := by simp [State.newest, hdc]
    obtain ⟨u, hu, hw⟩ := s.lineWrite_direct d p htier
    rw [hnew] at hlen
    dsimp only at hlen ⊢
    have hu' := hu.beside
    rw [hw]
    refine ⟨?_, ?_, fun x hx => ?_, hu'.coh, ?_⟩
    · have h := State.bytes_setBytes u (line * 64) d 0 64 (by omega)
      rw [hnew]
      rw [List.drop_zero, List.take_of_length_le (by omega)] at h
      exact h
    · rw [State.sectorPoison_setPoison, if_pos rfl, hnew]
    · rw [State.byte_setPoison, State.byte_setBytes_ne _ _ _ (by omega), hu'.byte]
    · unfold State.Passes at hu; rw [hu]; rfl

/-! ### Host cores: every copy of a line goes -/

/-- Every copy of a line goes, its entry and its messages (12_coherence.md R341, R343). -/
def State.forget (s : State) (line : Nat) : State :=
  (((s.holders line).foldl (fun s h => s.dropL1 h.1 line) s).countBcast line).modCoh (fun c =>
    { c with lines := (c.lines.map (fun x => if x.1 % 2 ^ 42 = line then (x.1, x.2.gone) else x)).filter
                        (fun x => decide (x.2 ≠ Line.none)),
             dir := Table.put DirEntry.none c.dir line DirEntry.none,
             msgs := c.msgs.filterMap (Msg.settled line) })

/-- Where no agent is dead, a purge saves the dirty copy if it is to be kept, and forgets the line. -/
theorem State.purge_eq (s : State) (line : Nat) (keep : Bool) (hdead : s.coh.dead = []) :
    s.purge line keep = (if keep then s.saveDirty line else s).forget line := by
  unfold State.purge State.saveDirty State.forget
  cases keep <;> cases s.dirtyCopy line <;> simp [hdead]

/-- Forgetting a line changes the cores and the protocol alone. -/
theorem State.forget_frame (s : State) (line : Nat) :
    ∃ z h, s.forget line = { s with cores := z, coh := { s.coh with
      homes := h,
      lines := (s.coh.lines.map (fun x => if x.1 % 2 ^ 42 = line then (x.1, x.2.gone) else x)).filter
        (fun x => decide (x.2 ≠ Line.none)),
      dir := Table.put DirEntry.none s.coh.dir line DirEntry.none,
      msgs := s.coh.msgs.filterMap (Msg.settled line) } } := by
  have hdrop : ∀ (l : List (Nat × Line)) (s : State),
      ∃ z, l.foldl (fun s h => s.dropL1 h.1 line) s = { s with cores := z } := by
    intro l
    induction l with
    | nil => exact fun s => ⟨s.cores, rfl⟩
    | cons x l ih =>
      intro s
      obtain ⟨z, hz, -⟩ := dropL1_frame s x.1 line
      obtain ⟨z', hz'⟩ := ih (s.dropL1 x.1 line)
      exact ⟨z', by rw [List.foldl_cons, hz', hz]⟩
  obtain ⟨z, hz⟩ := hdrop (s.holders line) s
  unfold State.forget
  rw [hz]
  unfold State.countBcast
  split
  · exact ⟨_, _, rfl⟩
  · exact ⟨z, s.coh.homes, rfl⟩

section
variable (s : State) (line : Nat)

theorem State.forget_mem : (s.forget line).mem = s.mem := by
  obtain ⟨z, h, hf⟩ := s.forget_frame line; rw [hf]

theorem State.forget_poison : (s.forget line).poison = s.poison := by
  obtain ⟨z, h, hf⟩ := s.forget_frame line; rw [hf]

/-- No copy stays where none is in a transient state. -/
theorem State.unheld_forget (hstable : ∀ e ∈ s.coh.lines, e.1 % 2 ^ 42 = line → e.2.tr = .stable) :
    (s.forget line).unheld line := by
  obtain ⟨z, h, hf⟩ := s.forget_frame line
  rw [hf]
  refine ⟨fun e he => ?_, Table.get_put_same ..⟩
  obtain ⟨hmap, hne⟩ := List.mem_filter.mp he
  obtain ⟨x, hx, rfl⟩ := List.mem_map.mp hmap
  by_cases hline : x.1 % 2 ^ 42 = line
  · rw [if_pos hline] at hne
    simp [Line.gone, hstable x hx hline, Line.none] at hne
  · rwa [if_neg hline]

end

end Sys2Proof.Machine

namespace Sys2Proof.Machine

/-! ### Host cores: bytes and numbers -/

@[simp] theorem leBytes_length (n v : Nat) : (leBytes n v).length = n := by
  induction n generalizing v with
  | zero => rfl
  | succ n ih => simp [leBytes, ih]

theorem ofLe_leBytes (n v : Nat) : ofLe (leBytes n v) = v % 256 ^ n := by
  induction n generalizing v with
  | zero => simp [leBytes, ofLe, Nat.mod_one]
  | succ n ih => rw [leBytes, ofLe, ih, BitVec.toNat_ofNat, pow_succ' 256 n, Nat.mod_mul]

theorem ofLe_lt (bs : List Byte) : ofLe bs < 256 ^ bs.length := by
  induction bs with
  | nil => simp [ofLe]
  | cons b bs ih =>
    have hb := b.isLt
    rw [ofLe, List.length_cons, pow_succ']
    omega

theorem field_lt (bs : List Byte) (off n : Nat) : field bs off n < 256 ^ n :=
  (ofLe_lt _).trans_le (Nat.pow_le_pow_right (by decide) (by simp))

/-- An atomic on two values of a width leaves one of that width. -/
theorem applyAmo_lt (op : AmoOp) {w a b : Nat} (ha : a < 2 ^ w) (hb : b < 2 ^ w) : applyAmo op w a b < 2 ^ w := by
  cases op with
  | add => exact Nat.mod_lt _ (by positivity)
  | swap => exact hb
  | minU => exact (Nat.min_le_left a b).trans_lt ha
  | maxU => exact Nat.max_lt.mpr ⟨ha, hb⟩
  | minS => show (if signed a w ≤ signed b w then a else b) < _; split <;> assumption
  | maxS => show (if signed a w ≤ signed b w then b else a) < _; split <;> assumption
  | and => exact Nat.and_lt_two_pow a hb
  | or => exact Nat.or_lt_two_pow ha hb
  | xor => exact Nat.xor_lt_two_pow ha hb

section
variable {d bs : List Byte} {off : Nat} (h : off + bs.length ≤ d.length)
include h

theorem patch_length : (patch d off bs).length = d.length := by
  simp only [patch, List.length_append, List.length_take, List.length_drop]; omega

/-- What was put into a line is found there. -/
theorem take_drop_patch : ((patch d off bs).drop off).take bs.length = bs := by
  have hoff : (d.take off).length = off := by rw [List.length_take]; omega
  rw [patch, List.append_assoc, List.drop_append_of_le_length (by omega), List.drop_of_length_le (by omega), List.nil_append,
    List.take_left]

end

/-! ### Host cores: lines without messages in flight -/

theorem State.settle_of_noMsgs {s : State} (h : s.coh.msgs = []) (line : Nat) : s.settle line = s := by
  simp [State.settle, State.settleWbs, State.installsOf, h]

theorem State.dropDead_of_none_dead {s : State} (h : s.coh.dead = []) (line : Nat) : s.dropDead line = s := by
  simp [State.dropDead, State.isDead, h]

theorem State.Beside.newest {s t : State} (h : s.Beside t) (line : Nat) : t.newest line = s.newest line := by
  unfold State.Beside at h; rw [h]; rfl

/-- Memory holds a line's newest bytes and poison, no cache holds the line, and no byte outside it has changed. -/
structure State.Flushed (s t : State) (line : Nat) : Prop where
  bytes : t.bytes (line * 64) 64 = (s.newest line).1
  poison : t.sectorPoison line = (s.sectorPoison line || (s.newest line).2)
  onlyLine : s.onlyLine t line
  unheld : t.unheld line

theorem State.Flushed.beside {s t u : State} {line : Nat} (h : s.Flushed t line) (k : t.Beside u) : s.Flushed u line :=
  ⟨(k.bytes ..).trans h.bytes, (k.sectorPoison _).trans h.poison, fun x hx => (k.byte x).trans (h.onlyLine x hx),
    k.unheld h.unheld⟩

section
variable {s : State} {line : Nat} (hdead : s.coh.dead = [])
  (hstable : ∀ e ∈ s.coh.lines, e.1 % 2 ^ 42 = line → e.2.tr = .stable)
include hdead hstable

/-- A purge that keeps the dirty copy flushes the line. -/
theorem State.purge_flushed (htier : isTiered (line * 64) = false) (hlen : (s.newest line).1.length = 64) :
    s.Flushed (s.purge line true) line := by
  have hsaved := s.saveDirty_saved htier hlen
  rw [s.purge_eq line true hdead, if_pos rfl]
  refine ⟨?_, ?_, fun x hx => ?_, State.unheld_forget _ _ (by rwa [hsaved.coh])⟩
  · exact (congrArg (Table.range memDefault · _ _) (State.forget_mem ..)).trans hsaved.bytes
  · exact (congrArg (Table.get false · line) (State.forget_poison ..)).trans hsaved.poison
  · exact (congrArg (Table.get memDefault · x) (State.forget_mem ..)).trans (hsaved.onlyLine x hx)

/-- A purge that keeps no dirty copy takes every copy, and leaves memory as it is. -/
theorem State.purge_discards :
    (s.purge line false).unheld line ∧ (s.purge line false).mem = s.mem ∧ (s.purge line false).poison = s.poison := by
  rw [s.purge_eq line false hdead, if_neg (by simp)]
  exact ⟨s.unheld_forget line hstable, s.forget_mem line, s.forget_poison line⟩

end

/-! ### Host cores: AMO and AMOCAS -/

theorem exec_amo (c : Nat) (a : CoreAt) (wide : Bool) (op : AmoOp) (v : Dword) (s : State) :
    exec (.amo c a wide op v) s = execAmo c a wide op v s := rfl

theorem exec_amocas (c : Nat) (a : CoreAt) (size : Nat) (expect new : Dword) (s : State) :
    exec (.amocas c a size expect new) s = execAmocas c a size expect new s := rfl

section
variable {s : State} {c pa n : Nat}

theorem State.coreMay.lineOpen (h : s.coreMay c pa n) : s.lineOpen c (pa / 64) = true := by
  obtain ⟨-, -, -, hopen, -⟩ := h
  exact hopen

theorem State.coreMay.none_dead (h : s.coreMay c pa n) : s.coh.dead = [] := by
  obtain ⟨-, -, -, -, -, hdead, -⟩ := h
  exact hdead

theorem State.coreMay.stable (h : s.coreMay c pa n) : ∀ e ∈ s.coh.lines, e.1 % 2 ^ 42 = pa / 64 → e.2.tr = .stable := by
  obtain ⟨-, -, -, -, -, -, -, -, -, hstable⟩ := h
  exact hstable

/-- An atomic takes the newest bytes of its line out of the caches and leaves in memory what it makes of them
(11_host_cores_and_cache.md R313; 12_coherence.md R346). -/
theorem State.hostAtomic_spec (h : s.coreMay c pa n) (halign : pa / 16 = (pa + n - 1) / 16) {d : List Byte}
    (hnew : s.newest (pa / 64) = (d, false)) (hclean : s.sectorPoison (pa / 64) = false) (hlen : d.length = 64)
    {op : LineAtomic} (hop : (applyAtomic op d).1.length = 64) (m : Pbmt) :
    ∃ t, s.hostAtomic c pa n m op = t.report c (.data (leBytes n (applyAtomic op d).2.toNat)) ∧
      t.reads (pa / 64 * 64) (applyAtomic op d).1 ∧ t.unheld (pa / 64) ∧ s.onlyLine t (pa / 64) := by
  obtain ⟨r, hback, hamo, -⟩ := h.region
  have htier : isTiered (pa / 64 * 64) = false := h.not_tiered (by omega)
  set w := if m = .pma then s else s.countUncached c with hw
  have hsw : s.Beside w := by rw [hw]; split <;> rfl
  have hmsgs : w.coh.msgs = [] := by rw [hsw.coh]; exact h.noMsgs
  have hdead : w.coh.dead = [] := by rw [hsw.coh]; exact h.none_dead
  have hnew' : w.newest (pa / 64) = (d, false) := (hsw.newest _).trans hnew
  set u := ((w.purge (pa / 64) true).dropReservations (pa / 64) (.agent c)).didRead (pa / 64 * 64) 64 with hu
  have hflushed : w.Flushed u (pa / 64) :=
    ((State.purge_flushed hdead (by rw [hsw.coh]; exact h.stable) htier (by rw [hnew']; exact hlen)).beside
      (State.Beside.dropReservations ..)).beside (State.Passes.didRead _ 64 htier).beside
  have hbytes : u.bytes (pa / 64 * 64) 64 = d := by rw [hflushed.bytes, hnew']
  have hpoison : u.sectorPoison (pa / 64) = false := by rw [hflushed.poison, hsw.sectorPoison, hclean, hnew']; rfl
  have hatomic : s.hostAtomic c pa n m op =
      (u.writePhys false (pa / 64 * 64) (applyAtomic op d).1).report c (.data (leBytes n (applyAtomic op d).2.toNat)) := by
    simp only [State.hostAtomic, hback, hamo, halign, h.mayUse, h.lineOpen, h.not_dead, ← hw, State.settle_of_noMsgs hmsgs,
      State.dropDead_of_none_dead hdead, ← hu, hpoison, hbytes]
    simp
  obtain ⟨v, hv, hwrite⟩ := u.writePhys_direct (pa := pa / 64 * 64) (applyAtomic op d).1 htier
  obtain ⟨hreads, hother, hcoh, -⟩ := v.writeMem_line_spec (pa := pa / 64 * 64) (bs := (applyAtomic op d).1) (by omega)
    (by omega) (.inr hop)
  refine ⟨_, hatomic, by rwa [hwrite], ?_, fun x hx => ?_⟩
  · rw [hwrite]
    obtain ⟨hlines, hdir⟩ := hv.beside.unheld hflushed.unheld
    exact ⟨by rwa [hcoh], by unfold State.dirEntry; rw [hcoh]; exact hdir⟩
  · rw [hwrite, hother x (by omega), hv.beside.byte, hflushed.onlyLine x hx, hsw.byte]

end

/-- AMO of 8 bytes: the old value and what the operation leaves of it. -/
theorem applyAtomic_amo (off : Nat) (op : AmoOp) (v : Dword) (d : List Byte) :
    applyAtomic (.amo off true op v) d =
      (patch d off (leBytes 8 (applyAmo op 64 (field d off 8) v.toNat)), BitVec.ofNat 64 (field d off 8)) := by
  have hv : v.toNat % 2 ^ 64 = v.toNat := Nat.mod_eq_of_lt v.isLt
  simp only [applyAtomic, amoWidth, if_true, Nat.reduceMul, hv]

theorem applyAtomic_cas (off : Nat) (expect new : Dword) (d : List Byte) :
    applyAtomic (.cas off true expect new) d =
      (if field d off 8 = expect.toNat then patch d off (leBytes 8 new.toNat) else d, BitVec.ofNat 64 (field d off 8)) := by
  have hv : expect.toNat % 2 ^ 64 = expect.toNat := Nat.mod_eq_of_lt expect.isLt
  simp only [applyAtomic, amoWidth, if_true, Nat.reduceMul, hv]

end Sys2Proof.Machine

namespace Sys2Proof.Machine

/-! ### Host cores: a fill of a line that no cache holds -/

theorem Table.mem_put {α : Type} [DecidableEq α] {d : α} {t : Table α} {k : Nat} {v : α} {e : Nat × α}
    (h : e ∈ t.put d k v) : e ∈ t ∨ e.1 = k := by
  rcases List.mem_append.mp h with h | h
  · exact .inl (Table.mem_below h).1
  · rcases List.mem_append.mp h with h | h
    · obtain ⟨hlo, hhi, -⟩ := Table.mem_run h
      exact .inr (by simp at hhi; omega)
    · exact .inl (Table.mem_from h).1

theorem lineKey_mod {line : Nat} (h : line < 2 ^ 42) (a : Nat) : lineKey a line % 2 ^ 42 = line := by
  unfold lineKey; omega

/-- No copy of a line and no message of it has come. -/
def State.Spares (line : Nat) (s t : State) : Prop :=
  (∀ e ∈ t.coh.lines, e.1 % 2 ^ 42 = line → e ∈ s.coh.lines) ∧ ∀ m ∈ t.coh.msgs, m.line = line → m ∈ s.coh.msgs

namespace State.Spares

theorem of_coh {line : Nat} {s t : State} (h : t.coh = s.coh) : Spares line s t := by
  unfold Spares; rw [h]; exact ⟨fun _ he _ => he, fun _ hm _ => hm⟩

theorem trans {line : Nat} {a b c : State} (h : Spares line a b) (k : Spares line b c) : Spares line a c :=
  ⟨fun e he hl => h.1 e (k.1 e he hl) hl, fun m hm hl => h.2 m (k.2 m hm hl) hl⟩

section
variable {line l : Nat} (hne : l ≠ line)
include hne

theorem setLine (s : State) (a : Nat) (x : Line) (hl : l < 2 ^ 42) : Spares line s (s.setLine a l x) := by
  refine ⟨fun e he heq => (Table.mem_put he).resolve_right (fun hk => hne ?_), fun m hm _ => hm⟩
  rwa [hk, lineKey_mod hl] at heq

theorem post (s : State) (m : Msg) (hm : m.line = l) : Spares line s (s.post m) := by
  refine ⟨fun e he _ => he, fun x hx heq => (List.mem_append.mp hx).resolve_right (fun hk => hne ?_)⟩
  rw [← hm, ← heq, List.mem_singleton.mp hk]

theorem sendWb (s : State) (a : Nat) (hl : l < 2 ^ 42) : Spares line s (s.sendWb a l) := by
  have hdrop : Spares line s (s.dropL1 a l) := of_coh (State.Beside.dropL1 s a l).coh
  have hsend : ∀ (x : Line) (m : Msg), m.line = l → Spares line s (((s.dropL1 a l).setLine a l x).post m) :=
    fun x m hm => (hdrop.trans (setLine hne _ a x hl)).trans (post hne _ m hm)
  unfold State.sendWb
  dsimp only
  split
  · exact hsend _ _ rfl
  · exact hsend _ _ rfl
  · exact hsend _ _ rfl
  · exact hsend _ _ rfl
  · exact hdrop

theorem sendMove (s : State) (a : Nat) (hl : l < 2 ^ 42) : Spares line s (s.sendMove a l) := by
  have hpass : Spares line s (s.passOut a l).2 := by
    obtain ⟨z, c, hz⟩ := passOut_frame s a l
    exact of_coh (by rw [hz])
  unfold State.sendMove
  split
  · split
    · next v hv => rw [hv] at hpass; exact hpass.trans (sendWb hne v a hl)
    · next v hv =>
      rw [hv] at hpass
      have hset := hpass.trans (setLine hne v a { Line.none with
        tr := if (v.line a l).st = .m ∨ (v.line a l).st = .e then .miWb else .oiWb } hl)
      exact (hset.trans (of_coh (State.Beside.dropL1 _ a l).coh)).trans (post hne _ _ rfl)
  · exact of_coh rfl

end

/-- Room in a core's L2 is made by another line. -/
theorem cacheRoom {s u : State} {c line : Nat} (hc : c < 128) (h : s.cacheRoom c line false = some u) : Spares line s u := by
  rw [State.cacheRoom, if_pos hc] at h
  unfold State.l2Room at h
  dsimp only at h
  split at h
  · exact of_coh (congrArg State.coh (Option.some.inj h).symm)
  · split at h
    · exact of_coh (congrArg State.coh (Option.some.inj h).symm)
    · split at h
      · next e he =>
        have hmem := List.mem_of_getElem? he
        simp only [List.mem_filter, Bool.and_eq_true, decide_eq_true_eq] at hmem
        obtain ⟨⟨⟨-, -, hne⟩, -⟩, -⟩ := hmem
        rw [← Option.some.inj h]
        exact (of_coh rfl : Spares line s { s with free := s.free + 1 }).trans
          (sendMove hne _ c (Nat.mod_lt _ (by positivity)))
      · cases h

end State.Spares

/-- A line that no agent holds, and no message of which is on its way, has no dirty copy. -/
theorem State.dirtyCopy_of_spared {s t : State} {line : Nat} (hs : s.unheld line) (hmsgs : s.coh.msgs = [])
    (h : State.Spares line s t) : t.dirtyCopy line = none := by
  obtain ⟨hlines, hmsg⟩ := h
  have hholders : t.holders line = [] := by
    have hnone : t.coh.lines.filter (fun e => decide (e.1 % 2 ^ 42 = line)) = [] :=
      List.filter_eq_nil_iff.mpr (fun e he => by
        rw [decide_eq_true_eq]
        exact fun heq => hs.1 e (hlines e he heq) heq)
    rw [State.holders, hnone]; rfl
  have hwb : t.coh.msgs.find? (Msg.isWbOf line) = none := by
    refine List.find?_eq_none.mpr (fun m hm hwb => ?_)
    have hline : m.line = line := by
      cases m <;> simp_all [Msg.isWbOf, Msg.line]
    simpa [hmsgs] using hmsg m hm hline
  simp [State.dirtyCopy, hholders, hwb]

theorem State.line_of_unheld {s : State} {line : Nat} (h : s.unheld line) (hline : line < 2 ^ 42) (a : Nat) :
    s.line a line = Line.none := by
  refine Table.get_of_forall_ne _ (fun e he heq => h.1 e he ?_)
  rw [heq, lineKey_mod hline]

/-- The entry of a line that has none, for a sole owner. -/
theorem State.ownedBy_of_none {s : State} {line : Nat} (h : s.dirEntry line = DirEntry.none) (a : Nat) :
    (s.ownedBy line a).dirEntry line = ⟨.dx, [a], false, s.coh.stamp⟩ ∧ (∀ b l, (s.ownedBy line a).line b l = s.line b l) ∧
    (s.ownedBy line a).mem = s.mem := by
  unfold State.ownedBy
  rw [h, if_pos rfl]
  exact ⟨dirEntry_setDir _ line _ (by simp) (by simp), fun _ _ => rfl, rfl⟩

/-- A line has come to its sole owner from memory, which is as it was. -/
structure State.Filled (s t : State) (c line : Nat) (st : LState) : Prop where
  copy : t.line c line = ⟨st, .stable, s.bytes (line * 64) 64, s.sectorPoison line⟩
  entry : (t.dirEntry line).st = .dx ∧ (t.dirEntry line).ptrs = [c]
  mem : t.mem = s.mem

section
variable {s : State} {line : Nat} (hdir : s.dirEntry line = DirEntry.none) (htier : isTiered (line * 64) = false)
include hdir htier

theorem State.fillShared_of_none (c : Nat) :
    s.Filled (s.fillShared c line) c line .e := by
  have hread := (State.Passes.didRead s 64 htier).beside
  have hbase : s.baseLine line = s.bytes (line * 64) 64 ∧ s.basePoison line = s.sectorPoison line := by
    simp [State.baseLine, State.basePoison, htier]
  obtain ⟨hentry, hline, hmem⟩ := State.ownedBy_of_none (s := (s.didRead (line * 64) 64).setLine c line
    ⟨.e, .stable, s.bytes (line * 64) 64, s.sectorPoison line⟩) (line := line) ((hread.dirEntry line).trans hdir) c
  have hfill : s.fillShared c line = ((s.didRead (line * 64) 64).setLine c line
      ⟨.e, .stable, s.bytes (line * 64) 64, s.sectorPoison line⟩).ownedBy line c := by
    simp [State.fillShared, hdir, DirEntry.owner, DirEntry.owned, DirEntry.none, hbase.1, hbase.2]
  rw [hfill]
  exact ⟨(hline c line).trans (line_setLine ..), by rw [hentry]; exact ⟨rfl, rfl⟩, hmem.trans hread.mem⟩

theorem State.fillOwned_of_none (hdead : s.coh.dead = []) (hdirty : s.dirtyCopy line = none) (c : Nat) :
    s.Filled (s.fillOwned c line) c line .m := by
  have hread := (State.Passes.didRead s 64 htier).beside
  obtain ⟨u, hu⟩ : ∃ u, u = ((s.didRead (line * 64) 64).purge line false).dropReservations line (.agent c) := ⟨_, rfl⟩
  have hdrop : ((s.didRead (line * 64) 64).forget line).Beside u := by
    have hpurge := State.purge_eq (s.didRead (line * 64) 64) line false (by rw [hread.coh]; exact hdead)
    rw [if_neg (by simp)] at hpurge
    rw [hu, hpurge]
    exact State.Beside.dropReservations ..
  have hnone : u.dirEntry line = DirEntry.none := by
    obtain ⟨z, h, hf⟩ := (s.didRead (line * 64) 64).forget_frame line
    rw [hdrop.dirEntry, hf]
    exact Table.get_put_same ..
  obtain ⟨hentry, hline, hmem⟩ := State.ownedBy_of_none (s := u.setLine c line
    ⟨.m, .stable, s.bytes (line * 64) 64, s.sectorPoison line⟩) (line := line) hnone c
  have hfill : s.fillOwned c line = (u.setLine c line
      ⟨.m, .stable, s.bytes (line * 64) 64, s.sectorPoison line⟩).ownedBy line c := by
    simp [State.fillOwned, hdir, DirEntry.owned, s.newest_of_clean htier hdirty, ← hu, DirEntry.none]
  rw [hfill]
  refine ⟨(hline c line).trans (line_setLine ..), by rw [hentry]; exact ⟨rfl, rfl⟩, hmem.trans ?_⟩
  exact hdrop.mem.trans ((State.forget_mem ..).trans hread.mem)

end

theorem State.hostFill_of_serves {s : State} {c line : Nat} {own : Bool} (h : (s.line c line).serves own = true) :
    s.hostFill c line own = (.here, s) := by
  simp [State.hostFill, h]

/-- A line that no cache holds comes from memory into an L2 that has room for it (12_coherence.md Table COH-5). -/
theorem State.hostFill_of_unheld {s : State} {c pa n : Nat} (h : s.coreMay c pa n) (hun : s.unheld (pa / 64))
    (hspace : s.dirSpace (pa / 64) = true) (hroom : s.cacheRoom c (pa / 64) false ≠ none) (own : Bool) :
    ∃ t, s.hostFill c (pa / 64) own = (.here, t) ∧ s.Filled t c (pa / 64) (if own then .m else .e) := by
  have htier : isTiered (pa / 64 * 64) = false := h.not_tiered (by omega)
  have hc : c < 128 := h.2.1
  have hnone : s.line c (pa / 64) = Line.none := State.line_of_unheld hun (by have := h.below; omega) c
  obtain ⟨u, hu⟩ := Option.ne_none_iff_exists'.mp hroom
  have hroomOnly := cacheRoom_room hu
  have huline : u.line c (pa / 64) = Line.none := (cacheRoom_line hu (by rw [hnone]; rfl)).trans hnone
  have hudir : u.dirRoom (pa / 64) = some u := by
    refine dirRoom_space u _ (.inr ?_)
    rw [hroomOnly]; exact hspace
  set v := u.countMiss c (pa / 64) with hv
  have hbeside : u.Beside v := State.Beside.countMiss ..
  obtain ⟨hmem, hpoison, hdir, -, -, -, -, hdead, -⟩ := State.roomOnly_parts hroomOnly
  have hvdirty : v.dirtyCopy (pa / 64) = none := State.dirtyCopy_of_spared hun h.noMsgs
    ((State.Spares.cacheRoom hc hu).trans (State.Spares.of_coh hbeside.coh))
  have hvdir : v.dirEntry (pa / 64) = DirEntry.none := by
    rw [hbeside.dirEntry, State.dirEntry, hdir]; exact hun.2
  have hvdead : v.coh.dead = [] := by rw [hbeside.coh, hdead]; exact h.none_dead
  have hfill : s.hostFill c (pa / 64) own = (.here, if own then v.fillOwned c (pa / 64) else v.fillShared c (pa / 64)) := by
    have hserves : Line.none.serves own = false := by cases own <;> rfl
    have hready : s.lineReady (pa / 64) .rdShared = true := by simp [State.lineReady, State.readReady, htier]
    simp only [State.hostFill, hnone, hserves, h.lineOpen, h.not_dead, hready, State.settle_of_noMsgs h.noMsgs,
      State.dropDead_of_none_dead h.none_dead, hu, hudir, huline, ← hv]
    simp [Line.none]
  have hfilled : v.Filled (if own then v.fillOwned c (pa / 64) else v.fillShared c (pa / 64)) c (pa / 64)
      (if own then .m else .e) := by
    cases own with
    | true => exact State.fillOwned_of_none hvdir htier hvdead hvdirty c
    | false => exact State.fillShared_of_none hvdir htier c
  refine ⟨_, hfill, ?_, hfilled.entry, hfilled.mem.trans (hbeside.mem.trans hmem)⟩
  rw [hfilled.copy, hbeside.bytes, hbeside.sectorPoison, State.bytes, hmem, State.sectorPoison, hpoison]
  rfl

end Sys2Proof.Machine

namespace Sys2Proof.Machine

/-! ### Host cores: reads and writes of a line in the L2 -/

section
variable {s : State} {c pa n : Nat}

theorem State.l2Bytes_line (hn : 0 < n) (hline : pa / 64 = (pa + n - 1) / 64) :
    s.l2Bytes c pa n = ((s.line c (pa / 64)).data.drop (pa % 64)).take n := by
  simp [State.l2Bytes, sectorsOf_of_one hn hline]

theorem State.l2Poison_line (hn : 0 < n) (hline : pa / 64 = (pa + n - 1) / 64) :
    s.l2Poison c pa n = (s.line c (pa / 64)).poison := by
  simp [State.l2Poison, sectorsOf_of_one hn hline]

/-- A write inside one line leaves the bytes in the L2's copy, which goes to M; no other line of the protocol and no byte
of memory changes. -/
theorem State.l2Write_line {bs : List Byte} (hn : 0 < bs.length) (hline : pa / 64 = (pa + bs.length - 1) / 64)
    (hlen : (s.line c (pa / 64)).data.length = 64) :
    (s.l2Write c pa bs).l2Bytes c pa bs.length = bs ∧ ((s.l2Write c pa bs).line c (pa / 64)).st = .m ∧
    (s.l2Write c pa bs).cores = s.cores ∧ (s.l2Write c pa bs).mem = s.mem := by
  have hwrite : s.l2Write c pa bs = s.setLine c (pa / 64)
      { s.line c (pa / 64) with st := .m, data := patch (s.line c (pa / 64)).data (pa % 64) bs } := by
    have hlo : max pa (pa / 64 * 64) = pa := by omega
    have hhi : min (pa + bs.length) (pa / 64 * 64 + 64) = pa + bs.length := by omega
    have hoff : pa - pa / 64 * 64 = pa % 64 := by omega
    simp [State.l2Write, sectorsOf_of_one hn hline, hlo, hhi, hoff]
  rw [State.l2Bytes_line hn hline, hwrite, line_setLine]
  exact ⟨take_drop_patch (by omega), rfl, rfl, rfl⟩

end

/-! ### Host cores: LR and SC -/

theorem exec_lr (c : Nat) (a : CoreAt) (wide : Bool) (s : State) : exec (.lr c a wide) s = execLr c a wide s := rfl

theorem exec_sc (c : Nat) (a : CoreAt) (wide : Bool) (v : Dword) (s : State) :
    exec (.sc c a wide v) s = execSc c a wide v s := rfl

theorem exec_lrReservationExpire (c : Nat) (s : State) :
    exec (.lrReservationExpire c) s = execLrReservationExpire c s := rfl

/-- An access where atomics are not taken is an access fault (11_host_cores_and_cache.md R313, Table HST-2). -/
theorem State.atomics_refused {s : State} {pa n : Nat} {r : Region} (hback : s.backed pa n = some r) (hamo : r.amoOk = false)
    (c : Nat) (m : Pbmt) :
    (∀ op, s.hostAtomic c pa n m op = s.report c .accessFault) ∧ s.loadReserved c pa n m = s.report c .accessFault ∧
    ∀ v, s.storeConditional c pa n v m = s.report c .accessFault := by
  simp [State.hostAtomic, State.loadReserved, State.storeConditional, hback, hamo]

/-- Nothing of an access is in the way: no cache holds a line, every bridge passes traffic and no die is in reset. -/
structure State.Plain (s : State) : Prop where
  caches : s.quietCaches
  up : s.fabric.up = 0xFFF
  dies : s.boot.diesInReset = []

theorem State.Beside.plain {s t : State} (h : s.Beside t) (k : s.Plain) : t.Plain := by
  obtain ⟨⟨hlines, hdir, hmsgs, htxns⟩, hup, hdies⟩ := k
  unfold State.Beside at h
  rw [h]
  exact ⟨⟨hlines, hdir, hmsgs, htxns⟩, hup, hdies⟩

section
variable {s : State} {c pa n : Nat} (h : s.coreMay c pa n)
include h

theorem State.coreMay.reads_ready (hplain : s.Plain) :
    s.coreReaches c pa n = true ∧ s.readReady true pa n = true ∧ s.writeReady true pa n = true := by
  have htier : isTiered pa = false := h.not_tiered le_rfl
  have hline := h.sameLine
  have hwaiting : ∀ w ∈ s.coh.waiting, w.1 ≠ pa / 64 := by
    have hopen := h.lineOpen
    simp only [State.lineOpen, Bool.and_eq_true, Bool.not_eq_true', List.any_eq_false, decide_eq_true_eq] at hopen
    obtain ⟨⟨⟨⟨⟨-, hwait⟩, -⟩, -⟩, -⟩, -⟩ := hopen
    exact hwait
  have hbusy : s.cohBusy pa n = false := by
    obtain ⟨hcaches, hup, -⟩ := hplain
    obtain ⟨-, -, -, htxns⟩ := hcaches
    simp only [State.cohBusy, htxns, hup, List.any_nil, Bool.false_or, ne_eq, not_true_eq_false, decide_false,
      Bool.false_and, Bool.or_false, List.any_eq_false, Bool.and_eq_true, decide_eq_true_eq, not_and]
    intro w hw
    have := hwaiting w hw
    omega
  simp [State.coreReaches, State.dieReachesAll, State.readReady, State.writeReady, hplain.up, hplain.dies, htier, hbusy]

end

section
variable {s : State} {pa n : Nat} (hn : 0 < n) (hline : pa / 64 = (pa + n - 1) / 64) (htier : isTiered (pa / 64 * 64) = false)
  (hplain : s.Plain) (hclean : s.sectorPoison (pa / 64) = false)
include hn hline htier hplain hclean

/-- No line is tracked: an uncached access inside a line meets no poison where memory has none. -/
theorem State.Plain.no_poison : s.readPoison true pa n = false ∧ s.writePoison true pa n = false := by
  have htracked := State.quietCaches.trackedIn hplain.caches
  have hbase : s.basePoison (pa / 64) = false := by simp [State.basePoison, htier, hclean]
  have hone : s.cohPoison (pa / 64 * 64) 1 = false := by
    have hsec : sectorsOf (pa / 64 * 64) 1 = [pa / 64] := by rw [sectorsOf_of_one (by omega) (by omega)]; simp
    simp [State.cohPoison, htracked, hsec, hbase]
  have hend : (pa + n) % 64 ≠ 0 → (pa + n) / 64 = pa / 64 := by omega
  refine ⟨by simp [State.readPoison, State.cohPoison, htracked, sectorsOf_of_one hn hline, hbase], ?_⟩
  simp only [State.writePoison, if_true, hone, Bool.and_false, Bool.false_or, Bool.and_eq_false_iff, decide_eq_false_iff_not]
  by_cases hmod : (pa + n) % 64 = 0
  · exact .inl (.inl (by simp [hmod]))
  · exact .inr (by rw [hend hmod, hone])

end

theorem State.Plain.readPhys {s : State} (h : s.Plain) {pa : Nat} (htier : isTiered pa = false) (n : Nat) :
    s.readPhys true pa n = s.bytes pa n := by
  simp [State.readPhys, State.cohBytes, State.quietCaches.trackedIn h.caches, State.baseBytes, htier]

/-- An uncached write inside a line, where no cache holds one, leaves its bytes in memory and no other byte changed; a
core loses at most its reservation. -/
theorem State.Plain.writePhys {s : State} (h : s.Plain) {pa : Nat} {bs : List Byte} (htier : isTiered pa = false)
    (hn : 0 < bs.length) (hline : pa / 64 = (pa + bs.length - 1) / 64) (hclean : s.sectorPoison (pa / 64) = false) :
    (s.writePhys true pa bs).reads pa bs ∧
    (∀ x, x < pa ∨ pa + bs.length ≤ x → (s.writePhys true pa bs).byte x = s.byte x) ∧
    ∀ c, ∃ r, (s.writePhys true pa bs).core c = { s.core c with reservation := r } ∧
      (r = none ∨ r = (s.core c).reservation) := by
  have hpass := State.Passes.extLookup s pa bs.length true
  set u := s.extLookup pa bs.length true with hu
  have hbeside := hpass.beside.trans (State.Beside.dropReserved u pa bs.length)
  have hwrite : s.writePhys true pa bs = (u.dropReserved pa bs.length).writeMem pa bs := by
    simp [State.writePhys, htier, ← hu, State.cohWrite, State.quietCaches.trackedIn (hpass.beside.plain h).caches]
  obtain ⟨hreads, hother, -, hcores⟩ := (u.dropReserved pa bs.length).writeMem_line_spec hn hline
    (.inl ((hbeside.sectorPoison _).trans hclean))
  rw [hwrite]
  refine ⟨hreads, fun x hx => (hother x hx).trans (hbeside.byte x), fun c => ?_⟩
  obtain ⟨r, hr, hcases⟩ := u.dropReserved_core pa bs.length c
  rw [hpass.core] at hr hcases
  exact ⟨r, (congrArg (Table.get Core.reset · c) hcores).trans hr, hcases⟩

section
variable {s : State} {c pa n : Nat} (h : s.coreMay c pa n)
include h

theorem State.loadReserved_of_may (halign : pa % n = 0) (m : Pbmt) :
    s.loadReserved c pa n m = if m = .pma then s.cachedReserve c pa n else s.uncachedReserve c pa n := by
  obtain ⟨r, hback, hamo, -⟩ := h.region
  simp [State.loadReserved, hback, hamo, halign, h.mayUse]

/-- LR of a line that has come to the L2 in E or M: its bytes, and a reservation. -/
theorem State.cachedReserve_of_here {u : State} (hfill : s.hostFill c (pa / 64) true = (.here, u))
    (hclean : (u.line c (pa / 64)).poison = false) :
    ∃ v, u.Beside v ∧ s.cachedReserve c pa n =
      (v.reserve c (pa / 64)).report c (.data (((u.line c (pa / 64)).data.drop (pa % 64)).take n)) := by
  have htouch := State.Beside.touchL1d u c (pa / 64)
  refine ⟨_, htouch, ?_⟩
  simp [State.cachedReserve, hfill, State.l2Poison_line h.pos h.sameLine, State.l2Bytes_line h.pos h.sameLine, htouch.line, hclean]

/-- LR in a page accessed uncached: memory's bytes, and a reservation (11_host_cores_and_cache.md R312). -/
theorem State.uncachedReserve_of_plain (hplain : s.Plain) (hclean : s.sectorPoison (pa / 64) = false) :
    ∃ v, s.Beside v ∧ s.uncachedReserve c pa n = (v.reserve c (pa / 64)).report c (.data (s.bytes pa n)) := by
  obtain ⟨hreach, hready, -⟩ := h.reads_ready hplain
  have htier : isTiered pa = false := h.not_tiered le_rfl
  have hcount := State.Beside.countUncached s c
  obtain ⟨hpoison, -⟩ := State.Plain.no_poison h.pos h.sameLine (h.not_tiered (by omega)) (hcount.plain hplain)
    ((hcount.sectorPoison _).trans hclean)
  refine ⟨_, hcount.trans (State.Passes.didRead _ n htier).beside, ?_⟩
  simp [State.uncachedReserve, hreach, hready, hpoison, (hcount.plain hplain).readPhys htier, hcount.bytes]

/-- An SC without its reservation fails and counts, and writes nothing. -/
theorem State.storeConditional_of_lost (halign : pa % n = 0) (hlost : (s.core c).reservation ≠ some (pa / 64)) (v : Dword)
    (m : Pbmt) : s.storeConditional c pa n v m = (s.modCore c (fun x => { x with reservation := none })).failSc c := by
  obtain ⟨r, hback, hamo, -⟩ := h.region
  simp [State.storeConditional, hback, hamo, halign, h.mayUse, hlost]

/-- An SC whose reservation holds stores: in the L2, or in a page accessed uncached at the home. -/
theorem State.storeConditional_of_held (halign : pa % n = 0) (hheld : (s.core c).reservation = some (pa / 64)) (v : Dword) :
    ((s.line c (pa / 64)).serves true = true → s.storeConditional c pa n v .pma =
      ((s.modCore c (fun x => { x with reservation := none })).l2Write c pa (leBytes n v.toNat)).report c .stored) ∧
    (s.Plain → ∀ m, m ≠ .pma → s.storeConditional c pa n v m =
      (s.modCore c (fun x => { x with reservation := none })).uncachedSc c pa (leBytes n v.toNat)) := by
  obtain ⟨r, hback, hamo, -⟩ := h.region
  refine ⟨fun hserves => ?_, fun hplain m hm => ?_⟩
  · simp [State.storeConditional, hback, hamo, halign, h.mayUse, hheld, hserves]
  · obtain ⟨hreach, -, hready⟩ := h.reads_ready hplain
    simp [State.storeConditional, hback, hamo, halign, h.mayUse, hheld, hm, hreach, hready]

end

end Sys2Proof.Machine

namespace Sys2Proof.Machine

/-! ### Host cores: the statement of AMO, AMOCAS, LR and SC -/

theorem State.failSc_spec (s : State) (c : Nat) :
    s.Beside (s.failSc c) ∧ ((s.failSc c).core c).result = .scFail ∧
    ((s.failSc c).core c).reservation = (s.core c).reservation ∧
    ((s.failSc c).core c).scFailures = (s.core c).scFailures + 1 := by
  rw [State.failSc, State.core_report]
  exact ⟨rfl, rfl, s.reservation_countEvent c 0x000D 1, s.scFailures_countEvent c 1⟩

/-- An SC at the home of a line that no cache holds: it stores, and its reservation is gone. -/
theorem State.uncachedSc_spec {s : State} {c pa : Nat} {bs : List Byte} (hplain : s.Plain) (hn : 0 < bs.length)
    (hline : pa / 64 = (pa + bs.length - 1) / 64) (htier : isTiered pa = false) (hltier : isTiered (pa / 64 * 64) = false)
    (hclean : s.sectorPoison (pa / 64) = false) (hgone : (s.core c).reservation = none) :
    ((s.uncachedSc c pa bs).core c).result = .stored ∧ ((s.uncachedSc c pa bs).core c).reservation = none ∧
    (s.uncachedSc c pa bs).bytes pa bs.length = bs ∧ s.onlyLine (s.uncachedSc c pa bs) (pa / 64) := by
  have hcount := State.Beside.countUncached s c
  have hclean' := (hcount.sectorPoison (pa / 64)).trans hclean
  obtain ⟨-, hpoison⟩ := State.Plain.no_poison hn hline hltier (hcount.plain hplain) hclean'
  obtain ⟨hreads, hother, hcore⟩ := (hcount.plain hplain).writePhys htier hn hline hclean'
  obtain ⟨r, hr, hcases⟩ := hcore c
  have hsc : s.uncachedSc c pa bs = ((s.countUncached c).writePhys true pa bs).report c .stored := by
    simp [State.uncachedSc, hpoison]
  rw [hsc, State.core_report, hr]
  have hstill : ((s.countUncached c).core c).reservation = none := (s.reservation_countEvent c 0x000C 1).trans hgone
  refine ⟨rfl, hcases.elim id (fun hkept => hkept.trans hstill), hreads.whole, fun x hx => ?_⟩
  exact (hother x (by omega)).trans (hcount.byte x)

section
variable {s : State} {c pa : Nat}

theorem exec_amo_of_runs (h : s.hostRuns = true) (a : CoreAt) (w : Bool) (op : AmoOp) (v : Dword) :
    exec (.amo c a w op v) s = .next (s.hostAtomic c a.pa (amoWidth w) a.pbmt (.amo (a.pa % 64) w op v)) := by
  rw [exec_amo, execAmo, if_pos h]

theorem exec_lr_of_runs (h : s.hostRuns = true) (a : CoreAt) (w : Bool) :
    exec (.lr c a w) s = .next (s.loadReserved c a.pa (amoWidth w) a.pbmt) := by
  rw [exec_lr, execLr, if_pos h]

theorem exec_sc_of_runs (h : s.hostRuns = true) (a : CoreAt) (w : Bool) (v : Dword) :
    exec (.sc c a w v) s = .next (s.storeConditional c a.pa (amoWidth w) v a.pbmt) := by
  rw [exec_sc, execSc, if_pos h]

/-- An 8-byte atomic that leaves 8 bytes of its line changed, or none: what it answers, and what memory holds. -/
theorem State.hostAtomic_dword (h : s.coreMay c pa 8) (halign : pa / 16 = (pa + 7) / 16) {d : List Byte}
    (hnew : s.newest (pa / 64) = (d, false)) (hclean : s.sectorPoison (pa / 64) = false) (hlen : d.length = 64)
    {op : LineAtomic} {v : Nat} (hv : v < 2 ^ 64) (hop : applyAtomic op d =
      (patch d (pa % 64) (leBytes 8 v), BitVec.ofNat 64 (field d (pa % 64) 8)) ∨
      v = field d (pa % 64) 8 ∧ applyAtomic op d = (d, BitVec.ofNat 64 (field d (pa % 64) 8))) (m : Pbmt) :
    ∃ t, s.hostAtomic c pa 8 m op = t ∧ (t.core c).result = .data (leBytes 8 (field d (pa % 64) 8)) ∧
      ofLe (t.bytes pa 8) = v ∧ t.unheld (pa / 64) ∧ s.onlyLine t (pa / 64) := by
  have hline := h.sameLine
  have hoff : pa % 64 + (leBytes 8 v).length ≤ d.length := by rw [leBytes_length]; omega
  have hfield : (BitVec.ofNat 64 (field d (pa % 64) 8)).toNat = field d (pa % 64) 8 := by
    rw [BitVec.toNat_ofNat]; exact Nat.mod_eq_of_lt (field_lt d (pa % 64) 8)
  have hresult : (applyAtomic op d).2.toNat = field d (pa % 64) 8 := by
    rcases hop with hop | ⟨-, hop⟩ <;> rw [hop, hfield]
  have hlength : (applyAtomic op d).1.length = 64 := by
    rcases hop with hop | ⟨-, hop⟩
    · rw [hop]; exact (patch_length hoff).trans hlen
    · rw [hop]; exact hlen
  have hvalue : ofLe (((applyAtomic op d).1.drop (pa % 64)).take 8) = v := by
    rcases hop with hop | ⟨hv', hop⟩
    · have hput := take_drop_patch hoff
      rw [leBytes_length] at hput
      rw [hop, hput, ofLe_leBytes]
      exact Nat.mod_eq_of_lt hv
    · rw [hop, hv']; rfl
  obtain ⟨t, ht, hreads, hun, honly⟩ := s.hostAtomic_spec h halign hnew hclean hlen hlength m
  have hbytes : t.bytes pa 8 = ((applyAtomic op d).1.drop (pa % 64)).take 8 := by
    have hread := hreads (pa % 64) 8 (by omega)
    rwa [show pa / 64 * 64 + pa % 64 = pa by omega] at hread
  refine ⟨_, ht, ?_, ?_, ?_, honly⟩
  · rw [State.core_report, hresult]
  · exact (congrArg ofLe hbytes).trans hvalue
  · exact (State.Beside.report t c _).unheld hun

variable {w : Bool} (h : s.coreMay c pa (amoWidth w)) (halign : pa % amoWidth w = 0)
include h halign

/-- LR in the L2's copy, once it is in E or M. -/
theorem State.loadReserved_of_here {u : State} (hfill : s.hostFill c (pa / 64) true = (.here, u))
    (hclean : (u.line c (pa / 64)).poison = false) :
    ∃ t, exec (.lr c ⟨pa, .pma⟩ w) s = .next t ∧ u.Beside t ∧ (t.core c).reservation = some (pa / 64) ∧
      (t.core c).result = .data (((u.line c (pa / 64)).data.drop (pa % 64)).take (amoWidth w)) := by
  obtain ⟨v, hv, hres⟩ := State.cachedReserve_of_here h hfill hclean
  refine ⟨_, exec_lr_of_runs h.runs .., ?_⟩
  rw [State.loadReserved_of_may h halign, if_pos rfl, hres]
  exact ⟨hv.trans ((State.Beside.modCore ..).trans (State.Beside.report ..)), by simp, by simp⟩

/-- LR and SC in the L2's copy. -/
theorem State.cached_lr_sc (hserves : (s.line c (pa / 64)).serves true = true) (v : Dword) :
    ((s.line c (pa / 64)).poison = false →
      ∃ t, exec (.lr c ⟨pa, .pma⟩ w) s = .next t ∧ (t.core c).result = .data (s.l2Bytes c pa (amoWidth w)) ∧
        (t.core c).reservation = some (pa / 64) ∧ t.coh = s.coh ∧ ∀ x, t.byte x = s.byte x) ∧
    ((s.core c).reservation = some (pa / 64) → (s.line c (pa / 64)).data.length = 64 →
      ∃ t, exec (.sc c ⟨pa, .pma⟩ w v) s = .next t ∧ (t.core c).result = .stored ∧ (t.core c).reservation = none ∧
        t.l2Bytes c pa (amoWidth w) = leBytes (amoWidth w) v.toNat ∧ (t.line c (pa / 64)).st = .m ∧
        ∀ x, t.byte x = s.byte x) := by
  constructor
  · intro hclean
    obtain ⟨t, ht, hbeside, hres, hdata⟩ := State.loadReserved_of_here h halign (State.hostFill_of_serves hserves) hclean
    exact ⟨t, ht, hdata.trans (by rw [State.l2Bytes_line h.pos h.sameLine]), hres, hbeside.coh, hbeside.byte⟩
  · intro hheld hlen
    set u := s.modCore c (fun x => { x with reservation := none }) with hu
    have hsame := h.sameLine
    obtain ⟨hbytes, hst, hcores, hmem⟩ := State.l2Write_line (s := u) (c := c) (pa := pa) (bs := leBytes (amoWidth w) v.toNat)
      (by simpa using h.pos) (by simpa using hsame) hlen
    rw [leBytes_length] at hbytes
    have hcore : ((u.l2Write c pa (leBytes (amoWidth w) v.toNat)).core c).reservation = none := by
      rw [State.core, hcores, hu]
      exact congrArg Core.reservation (State.core_modCore_same ..)
    refine ⟨_, exec_sc_of_runs h.runs .., ?_⟩
    rw [(State.storeConditional_of_held h halign hheld v).1 hserves, State.core_report]
    exact ⟨rfl, hcore, hbytes, hst, fun x => congrArg (Table.get memDefault · x) hmem⟩

/-- LR and SC in a page accessed uncached, of a line that no cache holds. -/
theorem State.uncached_lr_sc {m : Pbmt} (hm : m ≠ .pma) (hplain : s.Plain) (hclean : s.sectorPoison (pa / 64) = false)
    (v : Dword) :
    (∃ t, exec (.lr c ⟨pa, m⟩ w) s = .next t ∧ (t.core c).result = .data (s.bytes pa (amoWidth w)) ∧
      (t.core c).reservation = some (pa / 64) ∧ t.coh = s.coh ∧ ∀ x, t.byte x = s.byte x) ∧
    ((s.core c).reservation = some (pa / 64) →
      ∃ t, exec (.sc c ⟨pa, m⟩ w v) s = .next t ∧ (t.core c).result = .stored ∧ (t.core c).reservation = none ∧
        t.bytes pa (amoWidth w) = leBytes (amoWidth w) v.toNat ∧ s.onlyLine t (pa / 64)) := by
  constructor
  · obtain ⟨u, hu, hres⟩ := State.uncachedReserve_of_plain h hplain hclean
    refine ⟨_, exec_lr_of_runs h.runs .., ?_⟩
    rw [State.loadReserved_of_may h halign, if_neg hm, hres]
    exact ⟨by simp, by simp, hu.coh, hu.byte⟩
  · intro hheld
    have hlost := State.Beside.modCore s c (fun x => { x with reservation := none })
    have hsame := h.sameLine
    obtain ⟨hresult, hgone, hbytes, honly⟩ := State.uncachedSc_spec (c := c) (pa := pa) (bs := leBytes (amoWidth w) v.toNat)
      (hlost.plain hplain) (by simpa using h.pos) (by simpa using hsame) (h.not_tiered le_rfl) (h.not_tiered (by omega)) hclean
      (congrArg Core.reservation (State.core_modCore_same ..))
    rw [leBytes_length] at hbytes
    refine ⟨_, exec_sc_of_runs h.runs .., ?_⟩
    rw [(State.storeConditional_of_held h halign hheld v).2 hplain m hm]
    exact ⟨hresult, hgone, hbytes, honly⟩

/-- An SC without its reservation. -/
theorem State.lost_sc (hlost : (s.core c).reservation ≠ some (pa / 64)) (m : Pbmt) (v : Dword) :
    ∃ t, exec (.sc c ⟨pa, m⟩ w v) s = .next t ∧ (t.core c).result = .scFail ∧ (t.core c).reservation = none ∧
      (t.core c).scFailures = (s.core c).scFailures + 1 ∧ t.coh = s.coh ∧ ∀ x, t.byte x = s.byte x := by
  obtain ⟨hbeside, hresult, hres, hcount⟩ := (s.modCore c (fun x => { x with reservation := none })).failSc_spec c
  rw [State.core_modCore_same] at hres hcount
  refine ⟨_, exec_sc_of_runs h.runs .., ?_⟩
  rw [State.storeConditional_of_lost h halign hlost]
  exact ⟨hresult, hres, hcount, hbeside.coh, hbeside.byte⟩

end

/-- Settles O40: an atomic takes the newest bytes out of the caches, and LR and SC act on the L2's copy, or in an uncached
page on memory. -/
theorem atomicsActOnTheNewestBytes : Obligations.AtomicsActOnTheNewestBytes := by
  unfold Obligations.AtomicsActOnTheNewestBytes
  intro c pa s m line d old
  refine ⟨fun h halign hlen hnew hclean => ⟨fun op v => ?amo, fun e new => ?amocas⟩, fun hruns e new => ?illegal,
    fun hruns r w op v hback hamo => ?refused, fun w v h halign => ⟨fun hserves hpoison => ?cached,
      fun hun hclean hspace hroom => ?fetched, fun hlost => State.lost_sc h halign hlost m v,
      fun hm hcaches hclean hup hdies => State.uncached_lr_sc h halign hm ⟨hcaches, hup, hdies⟩ hclean v⟩,
    exec_lrReservationExpire c s⟩
  case amo =>
    obtain ⟨t, ht, hspec⟩ := State.hostAtomic_dword h halign (d := d) (Prod.ext rfl hnew) hclean hlen
      (applyAmo_lt op (w := 64) (field_lt d (pa % 64) 8) v.isLt) (.inl (applyAtomic_amo (pa % 64) op v d)) m
    exact ⟨t, (exec_amo_of_runs h.runs ..).trans (congrArg _ ht), hspec⟩
  case amocas =>
    have hvalue : (if old = e.toNat then new.toNat else old) < 2 ^ 64 := by
      split
      · exact new.isLt
      · exact field_lt d (pa % 64) 8
    have hop := applyAtomic_cas (pa % 64) e new d
    obtain ⟨t, ht, hspec⟩ := State.hostAtomic_dword h halign (d := d) (Prod.ext rfl hnew) hclean hlen hvalue
      (op := .cas (pa % 64) true e new) (by
        by_cases heq : field d (pa % 64) 8 = e.toNat
        · exact .inl (by rw [hop, if_pos heq, if_pos heq])
        · exact .inr ⟨if_neg heq, by rw [hop, if_neg heq]⟩) m
    refine ⟨t, ?_, hspec⟩
    rw [exec_amocas, execAmocas, h.runs]
    exact congrArg _ ht
  case illegal => simp [exec_amocas, execAmocas, hruns]
  case refused =>
    obtain ⟨hatomic, hload, hstore⟩ := State.atomics_refused hback hamo c m
    rw [exec_amo_of_runs hruns, exec_lr_of_runs hruns, exec_sc_of_runs hruns]
    exact ⟨congrArg _ (hatomic _), congrArg _ hload, congrArg _ (hstore v)⟩
  case cached =>
    obtain ⟨hlr, hsc⟩ := State.cached_lr_sc h halign hserves v
    exact ⟨hlr hpoison, hsc⟩
  case fetched =>
    obtain ⟨u, hfill, hfilled⟩ := State.hostFill_of_unheld h hun hspace hroom true
    have hcopy := hfilled.copy
    rw [if_pos rfl, hclean] at hcopy
    obtain ⟨hdx, hptrs⟩ := hfilled.entry
    obtain ⟨t, ht, hbeside, hres, hdata⟩ := State.loadReserved_of_here h halign hfill (by rw [hcopy])
    rw [hcopy] at hdata
    refine ⟨t, ht, hdata, hres, (hbeside.line ..).trans hcopy, ?_, ?_, fun x => (hbeside.byte x).trans ?_⟩
    · rw [hbeside.dirEntry]; exact hdx
    · rw [hbeside.dirEntry]; exact hptrs
    · exact congrArg (Table.get memDefault · x) hfilled.mem

end Sys2Proof.Machine

namespace Sys2Proof.Machine

/-! ### Host cores: cache-block operations -/

theorem exec_cboClean (c pa : Nat) (m : Pbmt) (s : State) : exec (.cboClean c pa m) s = execCboClean c pa m s := rfl

theorem exec_cboFlush (c pa : Nat) (m : Pbmt) (s : State) : exec (.cboFlush c pa m) s = execCboFlush c pa m s := rfl

theorem exec_cboInval (c pa : Nat) (m : Pbmt) (err : Option (CacheLevel × EccFinding)) (s : State) :
    exec (.cboInval c pa m err) s = execCboInval c pa m err s := rfl

theorem exec_cboZero (c pa : Nat) (m : Pbmt) (s : State) : exec (.cboZero c pa m) s = execCboZero c pa m s := rfl

theorem exec_prefetchR (c pa : Nat) (m : Pbmt) (s : State) : exec (.prefetchR c pa m) s = execPrefetchR c pa m s := rfl

theorem exec_prefetchW (c pa : Nat) (m : Pbmt) (s : State) : exec (.prefetchW c pa m) s = execPrefetchW c pa m s := rfl

theorem exec_timerCompare (c : Nat) (s : State) : exec (.timerCompare c) s = execTimerCompare c s := rfl

theorem exec_streamRunTimeout (det run : Nat) (s : State) :
    exec (.streamRunTimeout det run) s = execStreamRunTimeout det run s := rfl

/-- What CBO_INVAL does under each CBIE (11_host_cores_and_cache.md R314). -/
theorem exec_cboInval_of_runs {s : State} (h : s.hostRuns = true) (c pa : Nat) (m : Pbmt)
    (err : Option (CacheLevel × EccFinding)) :
    exec (.cboInval c pa m err) s = .next (if (s.core c).cbie = 1 then s.cacheOp c pa .flush err
      else if (s.core c).cbie = 3 then s.cacheOp c pa .inval err else s.report c .illegal) := by
  simp [exec_cboInval, execCboInval, h]

/-- A hart that its PMP does not bind may use a whole line below the top of configuration space. -/
theorem State.unguarded.mayUse_line {s : State} {c : Nat} (h : s.unguarded c) {pa : Nat} (hpa : pa < 0x190100000000)
    (use : PmpUse) : s.mayUse c (pa / 64 * 64) 64 use = true := h _ _ use (by decide) (by omega)

/-- In a region without caches a cache-block operation has no effect. -/
theorem State.cacheOp_of_uncached {s : State} {c pa q : Nat} (hfree : s.unguarded c)
    (hback : s.backed pa 1 = some (.scratch q)) (k : CmoKind) (err : Option (CacheLevel × EccFinding)) :
    s.cacheOp c pa k err = s.report c .stored := by
  obtain ⟨hreg, -, -⟩ := (s.backed_iff pa 1 _).mp hback
  have hpa : pa < 0x190100000000 := by
    unfold regionOf at hreg
    split_ifs at hreg <;> simp at hreg
    omega
  simp [State.cacheOp, hback, hfree.mayUse_line hpa, Region.cacheable]

/-- A line that one agent holds, as it holds it. -/
theorem State.line_of_holders {s : State} {line o : Nat} {x : Line} (h : s.holders line = [(o, x)]) (hline : line < 2 ^ 42) :
    s.line o line = x := by
  obtain ⟨e, he, hpair⟩ := List.map_eq_singleton_iff.mp h
  have hmem : e ∈ s.coh.lines.filter (fun e => decide (e.1 % 2 ^ 42 = line)) := by rw [he]; simp
  have hmod : e.1 % 2 ^ 42 = line := by simpa using (List.mem_filter.mp hmem).2
  obtain ⟨hdiv, hx⟩ := Prod.mk.inj hpair
  have hkey : e.1 = lineKey o line := by unfold lineKey; omega
  rw [State.line, ← Table.get_filter Line.none (fun e => decide (e.1 % 2 ^ 42 = line)) s.coh.lines (lineKey o line)
    (fun v => decide_eq_true (lineKey_mod hline o)), he]
  obtain ⟨k, y⟩ := e
  rw [Table.get_cons, if_pos hkey]
  exact hx

/-- The newest bytes of a line that one agent holds in M. -/
theorem State.newest_of_owner {s : State} {line o : Nat} {d : List Byte} (h : s.holders line = [(o, ⟨.m, .stable, d, false⟩)]) :
    s.newest line = (d, false) ∧ s.dirtyCopy line = some (d, false) := by
  simp [State.newest, State.dirtyCopy, h]

theorem State.Passes.extSet (s : State) (d line : Nat) (dirty : Bool) : s.Passes (s.extSet d line dirty) := by
  unfold State.extSet
  split <;> rfl

theorem State.Passes.extDrop (s : State) (d line : Nat) : s.Passes (s.extDrop d line) := by
  unfold State.extDrop
  split <;> rfl

/-- What a cleaning or a flush does to the extension moves no byte. -/
theorem State.Passes.extCmo (s : State) (line : Nat) {k : CmoKind} (hk : k ≠ .inval) : s.Passes (s.extCmo k line) := by
  unfold State.extCmo
  cases s.hbmDie (line * 64) with
  | none => exact refl s
  | some d =>
    cases k with
    | clean => exact extSet ..
    | flush => exact extDrop ..
    | inval => exact absurd rfl hk

/-- A discard moves no byte outside the line, and none at all where the extension holds the line clean or not at all. -/
theorem State.extCmo_inval (s : State) (line : Nat) :
    (s.extCmo .inval line).coh = s.coh ∧ s.onlyLine (s.extCmo .inval line) line ∧
    ((∀ x, s.hbmDie (line * 64) = some x → s.extIsDirty x line = false) → ∀ a, (s.extCmo .inval line).byte a = s.byte a) := by
  unfold State.extCmo
  cases hdie : s.hbmDie (line * 64) with
  | none => exact ⟨rfl, fun _ _ => rfl, fun _ _ => rfl⟩
  | some d =>
    dsimp only
    have hdrop := (State.Passes.extDrop (if s.extIsDirty d line then s.scramble (line * 64) 64 else s) d line).beside
    refine ⟨hdrop.coh.trans (by split <;> rfl), fun x hx => (hdrop.byte x).trans ?_, fun hclean x => (hdrop.byte x).trans ?_⟩
    · split
      · exact State.byte_setBytes_ne _ _ _ (by simp; omega)
      · rfl
    · rw [if_neg (by simp [hclean d rfl])]

section
variable {s : State} {c pa : Nat} (h : s.coreMay c pa 1)
include h

/-- A cache-block operation whose lookup meets no error acts on the line. -/
theorem State.cacheOp_of_may (k : CmoKind) : s.cacheOp c pa k none = (s.blockOp c (pa / 64) k).report c .stored := by
  obtain ⟨r, hback, -, hcache⟩ := h.region
  have hfree : s.unguarded c := by
    obtain ⟨-, -, -, -, -, -, -, -, hfree, -⟩ := h
    exact hfree
  have hpa : pa < 0x190100000000 := by have := h.below; omega
  simp [State.cacheOp, State.openOp, State.meets, hback, hcache, hfree.mayUse_line hpa, h.lineOpen, h.not_dead,
    State.settle_of_noMsgs h.noMsgs, State.dropDead_of_none_dead h.none_dead]

/-- A discard takes every copy; memory is as it was but for what stands behind a dirty copy in the extension. -/
theorem State.cacheOp_inval_spec :
    ∃ t, s.cacheOp c pa .inval none = t ∧ t.unheld (pa / 64) ∧ s.onlyLine t (pa / 64) ∧ (t.core c).result = .stored ∧
      ((∀ x, s.hbmDie (pa / 64 * 64) = some x → s.extIsDirty x (pa / 64) = false) → ∀ a, t.byte a = s.byte a) := by
  obtain ⟨hun, hmem, -⟩ := State.purge_discards h.none_dead h.stable
  obtain ⟨u, hu⟩ : ∃ u, u = (s.purge (pa / 64) false).dropReservations (pa / 64) (.agent c) := ⟨_, rfl⟩
  have hbeside : (s.purge (pa / 64) false).Beside u := by rw [hu]; exact State.Beside.dropReservations ..
  have hframe : ∃ z k, u = { s with cores := z, coh := k } := by
    obtain ⟨z, hz⟩ := dropReservations_frame (s.purge (pa / 64) false) (pa / 64) (.agent c)
    have hpurge := s.purge_eq (pa / 64) false h.none_dead
    rw [if_neg (by simp)] at hpurge
    obtain ⟨z', k, hf⟩ := s.forget_frame (pa / 64)
    rw [hu, hz, hpurge, hf]
    exact ⟨_, _, rfl⟩
  obtain ⟨hcoh, honly, hsame⟩ := u.extCmo_inval (pa / 64)
  have hbyte : ∀ a, u.byte a = s.byte a := fun a =>
    (hbeside.byte a).trans (congrArg (Table.get memDefault · a) hmem)
  have hreport := State.Beside.report (u.extCmo .inval (pa / 64)) c .stored
  have hop : s.cacheOp c pa .inval none = (u.extCmo .inval (pa / 64)).report c .stored := by
    rw [State.cacheOp_of_may h, State.blockOp, ← hu]
  obtain ⟨hlines, hdir⟩ := hbeside.unheld hun
  refine ⟨_, hop, ⟨?_, ?_⟩, fun x hx => ?_, by simp, fun hclean a => ?_⟩
  · rw [hreport.coh, hcoh]; exact hlines
  · rw [hreport.dirEntry, State.dirEntry, hcoh]; exact hdir
  · exact (hreport.byte x).trans ((honly x hx).trans (hbyte x))
  · refine (hreport.byte a).trans ((hsame (fun x hx => ?_) a).trans (hbyte a))
    obtain ⟨z, k, hf⟩ := hframe
    rw [hf] at hx ⊢
    exact hclean x hx

variable {o n : Nat} {d : List Byte} (hlen : d.length = 64) (hholders : s.holders (pa / 64) = [(o, ⟨.m, .stable, d, false⟩)])
include hlen hholders

/-- A flush writes the owner's copy to memory, and no cache keeps it. -/
theorem State.cacheOp_flush_spec :
    ∃ t, s.cacheOp c pa .flush none = t ∧ t.bytes (pa / 64 * 64) 64 = d ∧ t.unheld (pa / 64) ∧ s.onlyLine t (pa / 64) ∧
      (t.core c).result = .stored := by
  obtain ⟨hnew, -⟩ := State.newest_of_owner hholders
  have hpurged := State.purge_flushed h.none_dead h.stable (h.not_tiered (by omega)) (by rw [hnew]; exact hlen)
  have hpass := State.Passes.extCmo ((s.purge (pa / 64) true).dropReservations (pa / 64) (.agent c)) (pa / 64) (k := .flush)
    (by decide)
  have hop : s.Flushed (s.blockOp c (pa / 64) .flush) (pa / 64) :=
    (hpurged.beside (State.Beside.dropReservations ..)).beside hpass.beside
  have hreport := hop.beside (State.Beside.report _ c .stored)
  refine ⟨_, State.cacheOp_of_may h .flush, hreport.bytes.trans (congrArg Prod.fst hnew), hreport.unheld,
    hreport.onlyLine, by simp⟩

/-- A cleaning writes the owner's copy to memory; the owner keeps it in E. -/
theorem State.cacheOp_clean_spec (hentry : s.dirEntry (pa / 64) = ⟨.dx, [o], false, n⟩) :
    ∃ t, s.cacheOp c pa .clean none = t ∧ t.bytes (pa / 64 * 64) 64 = d ∧
      t.line o (pa / 64) = ⟨.e, .stable, d, false⟩ ∧ t.dirEntry (pa / 64) = s.dirEntry (pa / 64) ∧
      s.onlyLine t (pa / 64) ∧ (t.core c).result = .stored := by
  obtain ⟨hnew, hdirty⟩ := State.newest_of_owner hholders
  have hline : s.line o (pa / 64) = ⟨.m, .stable, d, false⟩ := State.line_of_holders hholders (by have := h.below; omega)
  have hsaved := s.saveDirty_saved (h.not_tiered (a := pa / 64 * 64) (by omega)) (by rw [hnew]; exact hlen)
  rw [State.saveDirty, hdirty] at hsaved
  dsimp only at hsaved
  obtain ⟨w, hw⟩ : ∃ w, w = ((s.lineWrite (pa / 64) d false).setLine o (pa / 64) ⟨.e, .stable, d, false⟩).setDir (pa / 64)
      (s.dirEntry (pa / 64)) := ⟨_, rfl⟩
  have hclean : s.cleanLine (pa / 64) = w := by
    simp [hw, State.cleanLine, hentry, DirEntry.owner, DirEntry.owned, hline]
  have hext := (State.Passes.extCmo w (pa / 64) (k := .clean) (by decide)).beside.trans (State.Beside.report _ c .stored)
  have hop : s.cacheOp c pa .clean none = (w.extCmo .clean (pa / 64)).report c .stored := by
    rw [State.cacheOp_of_may h, State.blockOp, hclean]
  refine ⟨_, hop, ?_, ?_, ?_, fun x hx => ?_, by simp⟩
  · rw [hext.bytes, hw]
    exact hsaved.bytes.trans (congrArg Prod.fst hnew)
  · rw [hext.line, hw]
    exact line_setLine ..
  · rw [hext.dirEntry, hw]
    exact dirEntry_setDir _ _ _ (by rw [hentry]; simp) (by rw [hentry]; simp)
  · rw [hext.byte, hw]
    exact hsaved.onlyLine x hx

end

/-! ### Host cores: CBO_ZERO and prefetches -/

/-- CBO_ZERO is one write of the whole line: zeros, no poison, no copy (11_host_cores_and_cache.md R314). -/
theorem exec_cboZero_of_may {s : State} {c pa : Nat} (h : s.coreMay c (pa / 64 * 64) 64) (m : Pbmt) :
    ∃ t, exec (.cboZero c pa m) s = .next t ∧ t.bytes (pa / 64 * 64) 64 = List.replicate 64 0 ∧
      t.sectorPoison (pa / 64) = false ∧ t.unheld (pa / 64) ∧ s.onlyLine t (pa / 64) ∧ (t.core c).result = .stored := by
  obtain ⟨r, hback, -, hcache⟩ := h.region
  have htier : isTiered (pa / 64 * 64) = false := h.not_tiered le_rfl
  have hopen := h.lineOpen
  have hstable := h.stable
  rw [Nat.mul_div_cancel _ (by decide)] at hopen hstable
  obtain ⟨w, hw⟩ : ∃ w, w = (s.streamWrite c (pa / 64)).2.passPorts (4 + c / 64) (pa / 64 * 64) 64 := ⟨_, rfl⟩
  have hsw : s.Beside w := by
    rw [hw]; exact ((State.Passes.streamWrite ..).trans (State.Passes.passPorts ..)).beside
  have hmsgs : w.coh.msgs = [] := by rw [hsw.coh]; exact h.noMsgs
  have hdead : w.coh.dead = [] := by rw [hsw.coh]; exact h.none_dead
  obtain ⟨u, hu⟩ : ∃ u, u = (w.purge (pa / 64) false).dropReservations (pa / 64) (.agent c) := ⟨_, rfl⟩
  have hzero : exec (.cboZero c pa m) s =
      .next ((u.writePhys false (pa / 64 * 64) (List.replicate 64 0)).report c .stored) := by
    have hready : s.lineReady (pa / 64) (.wrFull [] .none) = true := by simp [State.lineReady, State.writeReady, htier]
    have hwritable : s.lineWritable (pa / 64) = true := by simp [State.lineWritable, htier]
    rw [exec_cboZero, execCboZero, hu]
    simp only [h.runs, hback, h.mayUse, hcache, hwritable, hopen, h.not_dead, State.zeroLine, hready, ← hw,
      State.settle_of_noMsgs hmsgs, State.dropDead_of_none_dead hdead]
    simp
  obtain ⟨hun, hmem, -⟩ := State.purge_discards hdead (line := pa / 64) (by rw [hsw.coh]; exact hstable)
  have hbeside : (w.purge (pa / 64) false).Beside u := by rw [hu]; exact State.Beside.dropReservations ..
  obtain ⟨v, hv, hwrite⟩ := u.writePhys_direct (List.replicate 64 0) htier
  have hvu := hbeside.trans hv.beside
  obtain ⟨hreads, hother, hcoh, -⟩ := v.writeMem_line_spec (pa := pa / 64 * 64) (bs := List.replicate 64 0) (by simp)
    (by simp; omega) (.inr (by simp))
  obtain ⟨hlines, hdir⟩ := hvu.unheld hun
  refine ⟨_, hzero, ?_⟩
  rw [hwrite]
  have hreport := State.Beside.report (v.writeMem (pa / 64 * 64) (List.replicate 64 0)) c .stored
  refine ⟨?_, (hreport.sectorPoison _).trans (v.sectorPoison_writeMem (by simp)), ⟨?_, ?_⟩, fun x hx => ?_, by simp⟩
  · have hwhole := hreads.whole
    rw [List.length_replicate] at hwhole
    exact (hreport.bytes ..).trans hwhole
  · rw [hreport.coh, hcoh]; exact hlines
  · rw [hreport.dirEntry, State.dirEntry, hcoh]; exact hdir
  · rw [hreport.byte, hother x (by simpa using hx), hvu.byte]
    exact (congrArg (Table.get memDefault · x) hmem).trans (hsw.byte x)

/-- A prefetch is the fill of its line. -/
theorem State.prefetch_of_may {s : State} {c pa : Nat} (h : s.coreMay c pa 1) (own : Bool) :
    s.prefetch c pa .pma own = (s.hostFill c (pa / 64) own).2 := by
  obtain ⟨r, hback, -, hcache⟩ := h.region
  simp [State.prefetch, hback, h.runs, hcache, h.mayUse]

/-- Settles O41: each cache-block operation is a purge or a cleaning of its line, a prefetch is a fill. -/
theorem cacheBlockOperationsAndTimers : Obligations.CacheBlockOperationsAndTimers := by
  unfold Obligations.CacheBlockOperationsAndTimers
  intro c pa o n d s m line
  refine ⟨fun h hlen _ hentry hholders => ⟨?clean, ?flush, fun hcbie => ?invalFlush, fun hcbie => ?inval⟩,
    fun h => exec_cboZero_of_may h m, fun h hun hspace hroom => ⟨?read, ?write⟩,
    fun hruns hfree q hback => ⟨?cleanNothing, ?flushNothing, fun hcbie err => ?invalNothing⟩,
    fun hruns h1 h3 err => ?illegal, ?timers,
    fun det run => ⟨_, exec_streamRunTimeout det run s, rfl, Table.get_put_same ..⟩⟩
  case clean =>
    obtain ⟨t, ht, hspec⟩ := State.cacheOp_clean_spec h hlen hholders hentry
    exact ⟨t, by rw [exec_cboClean, execCboClean, if_pos h.runs, ht], hspec⟩
  case flush =>
    obtain ⟨t, ht, hspec⟩ := State.cacheOp_flush_spec h hlen hholders
    exact ⟨t, by rw [exec_cboFlush, execCboFlush, if_pos h.runs, ht], hspec⟩
  case invalFlush =>
    obtain ⟨t, ht, hspec⟩ := State.cacheOp_flush_spec h hlen hholders
    exact ⟨t, by rw [exec_cboInval_of_runs h.runs, if_pos hcbie, ht], hspec⟩
  case inval =>
    obtain ⟨t, ht, hspec⟩ := State.cacheOp_inval_spec h
    exact ⟨t, by rw [exec_cboInval_of_runs h.runs, if_neg (by omega), if_pos hcbie, ht], hspec⟩
  case read =>
    obtain ⟨t, ht, hfilled⟩ := State.hostFill_of_unheld h hun hspace hroom false
    refine ⟨t, ?_, fun x => congrArg (Table.get memDefault · x) hfilled.mem, hfilled.copy⟩
    rw [exec_prefetchR, execPrefetchR, State.prefetch_of_may h, ht]
  case write =>
    obtain ⟨t, ht, hfilled⟩ := State.hostFill_of_unheld h hun hspace hroom true
    have hwritable : s.lineWritable (pa / 64) = true := by simp [State.lineWritable, h.not_tiered (a := pa / 64 * 64) (by omega)]
    refine ⟨t, ?_, fun x => congrArg (Table.get memDefault · x) hfilled.mem, hfilled.copy⟩
    rw [exec_prefetchW, execPrefetchW, if_pos hwritable, State.prefetch_of_may h, ht]
  case cleanNothing => rw [exec_cboClean, execCboClean, if_pos hruns, State.cacheOp_of_uncached hfree hback]
  case flushNothing => rw [exec_cboFlush, execCboFlush, if_pos hruns, State.cacheOp_of_uncached hfree hback]
  case invalNothing =>
    rw [exec_cboInval_of_runs hruns, State.cacheOp_of_uncached hfree hback, State.cacheOp_of_uncached hfree hback]
    rcases hcbie with hcbie | hcbie
    · rw [if_pos hcbie]
    · rw [if_neg (by omega), if_pos hcbie]
  case illegal => rw [exec_cboInval_of_runs hruns, if_neg h1, if_neg h3]
  case timers => exact ⟨_, exec_timerCompare c s, by simp, by simp, rfl⟩

end Sys2Proof.Machine

namespace Sys2Proof.Machine

/-! ### Host cores: a vector load into a register that State lists with more than 32 bytes -/

/-- Hart 0 in M-mode holds line 0 in M in its L2, and vector register 0 is listed with 40 bytes where
11_host_cores_and_cache.md R310 gives it 32: a write of 32 bytes leaves the last 8 behind it. -/
def overlongVreg : State :=
  { State.reset with
    boot := { Boot.reset with done := true, stage := 15, hostHeld := false }
    coh := { Coh.reset with
      lines := [(lineKey 0 0, ⟨.m, .stable, List.replicate 64 9, false⟩)], dir := [(0, ⟨.dx, [0], false, 0⟩)] }
    cores := [(0, { Core.reset with vregs := [(0, List.replicate 40 7)] })] }

theorem overlongVreg_unguarded : overlongVreg.unguarded 0 := by
  intro pa n use _ _
  rfl

theorem overlongVreg_coreMay : overlongVreg.coreMay 0 0 64 := by
  refine ⟨by decide, by decide, .inl (by decide), by decide, rfl, rfl, by decide, by decide, overlongVreg_unguarded, ?_⟩
  intro e he _
  rw [List.mem_singleton.mp he]

theorem overlongVreg_load :
    ((overlongVreg.after (exec (.hostLoad 0 ⟨0, .pma⟩ 64 ⟨.vector 0, none⟩) overlongVreg)).core 0).group 0 64 ≠
      List.replicate 64 9 := by decide

/-- Refutes O42: a load of 64 bytes into vector registers 0 and 1 reads back with register 0's 8 bytes too many between
its halves. -/
theorem not_coresLoadAndStore : ¬ Obligations.CoresLoadAndStore := by
  unfold Obligations.CoresLoadAndStore
  intro h
  obtain ⟨-, -, -, -, -, -, hload, -⟩ := h 0 0 64 [] overlongVreg rfl
  obtain ⟨hheld, -⟩ := hload overlongVreg_coreMay
  obtain ⟨-, hvector⟩ := hheld rfl rfl rfl
  obtain ⟨t, ht, hgroup⟩ := hvector 0
  have hne := overlongVreg_load
  rw [ht] at hne
  exact hne hgroup

end Sys2Proof.Machine

namespace Sys2Proof.Machine

/-! ### Homes: an atomic on a line of memory that is not in canonical form -/

/-- A package that runs and whose memory lists byte 5 before byte 3. `State.byte` finds byte 3 where it is listed,
`State.bytes` walks the list once and passes it by. -/
def unsortedMem : State :=
  { State.reset with
    boot := { Boot.reset with done := true, stage := 15, hostHeld := false }
    mem := [(5, 1), (3, 2)] }

theorem unsortedMem_homeFree : unsortedMem.homeFree 0 := by
  unfold State.homeFree
  decide

/-- The home reads the line, adds to its bytes 8 to 15 and writes all of it, with byte 3 as it read it. -/
theorem unsortedMem_atomic :
    (unsortedMem.after (exec (.atomic (.cacheless 0) 0 (.amo 8 true .add 1)) unsortedMem)).byte 3 ≠ unsortedMem.byte 3 := by
  decide

/-- Refutes O35: it asks nothing of memory's form (`State.memWf`), and where memory lists its bytes out of order an ATOMIC
changes a byte of the line outside its operand. -/
theorem not_coldLinesAreServedFromMemory : ¬ Obligations.ColdLinesAreServedFromMemory := by
  unfold Obligations.ColdLinesAreServedFromMemory
  intro h
  obtain ⟨-, hask⟩ := h 0 unsortedMem unsortedMem_homeFree rfl
  obtain ⟨-, -, -, -, hatomic, -⟩ := hask (.cacheless 0) (by decide) rfl
  obtain ⟨t, ht, -, -, -, hother, -⟩ := hatomic 8 .add 1 (by decide) rfl
  have hne := unsortedMem_atomic
  rw [ht] at hne
  exact hne (hother 3 (.inl (by decide)))

end Sys2Proof.Machine

namespace Sys2Proof.Machine

/-! ### Messages that arrive -/

/-- The messages in flight are these. -/
def State.withMsgs (s : State) (ms : List Msg) : State := s.modCoh (fun c => { c with msgs := ms })

section
variable (s : State) (ms : List Msg)
@[simp] theorem State.msgs_withMsgs : (s.withMsgs ms).coh.msgs = ms := rfl
@[simp] theorem State.byte_withMsgs (x : Nat) : (s.withMsgs ms).byte x = s.byte x := rfl
@[simp] theorem State.core_withMsgs (c : Nat) : (s.withMsgs ms).core c = s.core c := rfl
@[simp] theorem State.line_withMsgs (a l : Nat) : (s.withMsgs ms).line a l = s.line a l := rfl
@[simp] theorem State.txn_withMsgs (l : Nat) : (s.withMsgs ms).txn l = s.txn l := rfl
end

/-- A message is the first in flight, before the others, and no bridge holds it. -/
def State.Arriving (s : State) (m : Msg) (ms : List Msg) : Prop := s.coh.msgs = m :: ms ∧ s.msgUp m = true

section
variable {s : State} {m : Msg} {ms : List Msg} {f : Msg → Bool} (h : s.Arriving m ms) (hf : f m = true)
include h hf

theorem State.Arriving.takeMsg : s.takeMsg f = some (m, s.withMsgs ms) := takeMsg_head s f m ms h.1 hf h.2

/-- It is the one that is taken. -/
theorem State.Arriving.arrives (g : Msg → State → State) : s.arrives f g = g m (s.withMsgs ms) := by
  simp [State.arrives, h.takeMsg hf]

end

/-! ### Snoops at their holders -/

/-- The command in which an agent answers a snoop. -/
def snpInstr (k : Snp) (a line : Nat) : Instr :=
  match k with
  | .shr => .snpShr a line
  | .own => .snpOwn a line
  | .inv => .snpInv a line
  | .once => .snpOnce a line
  | .cln => .snpCln a line

/-- Whether a snoop takes the line away from its holder. -/
def Snp.takes (k : Snp) : Bool := decide (k = .own) || decide (k = .inv)

theorem Snp.takes_iff {k : Snp} : k.takes = true ↔ k = .own ∨ k = .inv := by simp [Snp.takes]

theorem snoopLeaves_of_takes {k : Snp} (h : k.takes = true) (st : LState) : snoopLeaves k st = .i := by
  rcases Snp.takes_iff.mp h with rfl | rfl <;> rfl

/-- A snoop that does not take the line leaves its holder a copy. -/
theorem snoopLeaves_ne_i {k : Snp} {st : LState} (h : k.takes = false) (hst : st ≠ .i) : snoopLeaves k st ≠ .i := by
  cases k with
  | own | inv => cases h
  | once => exact hst
  | shr | cln => cases st <;> simp [snoopLeaves] at hst ⊢

theorem exec_snpInstr (k : Snp) (a line : Nat) (s : State) :
    exec (snpInstr k a line) s =
      .next (if k.takes then s.snoopedAway k a line else s.snooped k a line (fun s who => s.answerSnoop k a line who)) := by
  cases k <;> rfl

theorem exec_lrSnoopDelayEnd (c : Nat) (s : State) : exec (.lrSnoopDelayEnd c) s = execLrSnoopDelayEnd c s := rfl

section
variable {s : State} {k : Snp} {a line : Nat} {who : Requester} {ms : List Msg}
  (h : s.Arriving (.snp k a line who) ms) (hinstall : ∀ x, Msg.datInstall a line x ∉ ms)
include h hinstall

theorem State.Arriving.snooped (f : State → Requester → State) : s.snooped k a line f = f (s.withMsgs ms) who := by
  rw [State.snooped, h.arrives (by simp [isSnp])]
  exact congrArg (f · who) (settle_none (s.withMsgs ms) a line hinstall)

/-- A snoop is answered at once, unless it takes away a line on which a core holds a reservation. -/
theorem exec_snoop_of_free (hfree : k.takes = true → (s.core a).reservation ≠ some line ∨ 128 ≤ a)
    (hkept : (((s.withMsgs ms).answerSnoop k a line who).core a).reservation = (s.core a).reservation) :
    exec (snpInstr k a line) s = .next ((s.withMsgs ms).answerSnoop k a line who) := by
  rw [exec_snpInstr]
  split
  next htakes =>
    have hnone : ¬ (a < 128 ∧ (s.core a).reservation = some line) := by
      rintro ⟨ha, hres⟩
      exact (hfree htakes).elim (fun hne => hne hres) (fun hge => by omega)
    rw [State.snoopedAway, h.snooped hinstall, State.core_withMsgs, if_neg (fun hc => hnone ⟨hc.1, hc.2.1⟩), State.takeAway,
      State.dropReservation, hkept, if_neg hnone]
  next => rw [h.snooped hinstall]

/-- A core with a reservation on the line keeps the snoop, and the line (12_coherence.md R347). -/
theorem exec_snoop_of_reserved (htakes : k.takes = true) (ha : a < 128) (hres : (s.core a).reservation = some line)
    (hheld : (s.core a).snoopHeld = none) :
    exec (snpInstr k a line) s =
      .next ((s.withMsgs ms).modCore a (fun c => { c with snoopHeld := some (k, who, line) })) := by
  rw [exec_snpInstr, if_pos htakes, State.snoopedAway, h.snooped hinstall, if_pos ⟨ha, hres, hheld⟩]

end

/-- What a snoop of a line held in a stable state does (12_coherence.md Table COH-3). -/
theorem exec_snoop_of_held {s : State} {k : Snp} {a line b : Nat} {ms : List Msg} {st : LState} {d : List Byte} {p : Bool}
    (h : s.Arriving (.snp k a line (.agent b)) ms) (hinstall : ∀ x, Msg.datInstall a line x ∉ ms)
    (hfree : k.takes = true → (s.core a).reservation ≠ some line ∨ 128 ≤ a)
    (hline : s.line a line = ⟨st, .stable, d, p⟩) (hst : st ≠ .i) :
    ∃ t, exec (snpInstr k a line) s = .next t ∧ (∀ x, t.byte x = s.byte x) ∧
      t.line a line = (if snoopLeaves k st = .i then Line.none else ⟨snoopLeaves k st, .stable, d, p⟩) ∧
      t.coh.msgs = ms ++ snoopAnswer k st a line b d p := by
  obtain ⟨t, rfl, hbyte, hmsgs, hleft, hres, -⟩ := answerSnoop_held (s.withMsgs ms) k a line b st d p hline hst
  exact ⟨_, exec_snoop_of_free h hinstall hfree hres, hbyte, hleft, hmsgs⟩

/-- The delayed answer is given: the line and the reservation go (12_coherence.md R347). -/
theorem exec_lrSnoopDelayEnd_of_held {s : State} {k : Snp} {a line b : Nat} {st : LState} {d : List Byte} {p : Bool}
    (htakes : k.takes = true) (hheld : (s.core a).snoopHeld = some (k, .agent b, line))
    (hline : s.line a line = ⟨st, .stable, d, p⟩) (hst : st ≠ .i) :
    ∃ t, exec (.lrSnoopDelayEnd a) s = .next t ∧ (∀ x, t.byte x = s.byte x) ∧ t.line a line = Line.none ∧
      (t.core a).reservation = none ∧ (t.core a).snoopHeld = none ∧ ∀ m, m ∈ s.coh.msgs → m ∈ t.coh.msgs := by
  have hleaves := snoopLeaves_of_takes htakes st
  obtain ⟨t, ht, hbyte, hmsgs, hleft, hres, hsnoop⟩ :=
    answerSnoop_held (s.modCore a (fun x => { x with snoopHeld := none, reservation := none })) k a line b st d p hline hst
  rw [hleaves, if_pos rfl] at hleft
  rw [State.core_modCore_same] at hres hsnoop
  refine ⟨t, ?_, hbyte, hleft, hres, hsnoop, fun m hm => ?_⟩
  · rw [exec_lrSnoopDelayEnd, execLrSnoopDelayEnd, hheld]
    exact congrArg _ ht
  · rw [hmsgs]
    exact List.mem_append_left _ hm

/-- Settles O37: each clause is the answer to a held line (`exec_snoop_of_held`), to a line in its writeback or not held
(`answerSnoop_inWb`, `answerSnoop_none`), or a delayed one. -/
theorem snoopsAreAnswered : Obligations.SnoopsAreAnswered := by
  unfold Obligations.SnoopsAreAnswered
  intro a line b d p ms s _ hinstall
  refine ⟨?shared, ?owned, ?dirtyInv, ?cleanInv, ?once, ?clean, ?notHeld, ?delayed, ?delayEnd⟩
  case shared =>
    rintro st hst ⟨hline, harr⟩
    obtain ⟨t, ht, hbyte, hleft, hmsgs⟩ := exec_snoop_of_held harr hinstall nofun hline hst
    refine ⟨t, ht, hbyte, hleft.trans (if_neg (snoopLeaves_ne_i rfl hst)), ?_⟩
    cases st with
    | i => exact absurd rfl hst
    | s | e | o | m => exact hmsgs
  case owned =>
    rintro st hst hfree ⟨hline, harr⟩
    obtain ⟨t, ht, hbyte, hleft, hmsgs⟩ :=
      exec_snoop_of_held harr hinstall (fun _ => hfree) hline (by rcases hst with rfl | rfl | rfl <;> decide)
    exact ⟨t, ht, ⟨hleft, hbyte⟩, by rcases hst with rfl | rfl | rfl <;> exact hmsgs⟩
  case dirtyInv =>
    rintro st hst hfree ⟨hline, harr⟩
    obtain ⟨t, ht, hbyte, hleft, hmsgs⟩ :=
      exec_snoop_of_held harr hinstall (fun _ => hfree) hline (by rcases hst with rfl | rfl <;> decide)
    exact ⟨t, ht, ⟨hleft, hbyte⟩, by rcases hst with rfl | rfl <;> exact hmsgs⟩
  case cleanInv =>
    rintro st hst hfree ⟨hline, harr⟩
    obtain ⟨t, ht, hbyte, hleft, hmsgs⟩ :=
      exec_snoop_of_held harr hinstall (fun _ => hfree) hline (by rcases hst with rfl | rfl <;> decide)
    exact ⟨t, ht, ⟨hleft, hbyte⟩, by rcases hst with rfl | rfl <;> exact hmsgs⟩
  case once =>
    rintro st hst ⟨hline, harr⟩
    obtain ⟨t, ht, hbyte, hleft, hmsgs⟩ := exec_snoop_of_held harr hinstall nofun hline hst
    exact ⟨t, ht, hleft.trans ((if_neg hst).trans hline.symm), hbyte, hmsgs⟩
  case clean =>
    rintro st hst ⟨hline, harr⟩
    obtain ⟨t, ht, hbyte, hleft, hmsgs⟩ := exec_snoop_of_held harr hinstall nofun hline hst
    exact ⟨t, ht, hbyte, hleft.trans (if_neg (snoopLeaves_ne_i rfl hst)), hmsgs⟩
  case notHeld =>
    intro k i hi harr hfree
    obtain rfl : i = snpInstr k a line := by
      simp only [List.mem_cons, Prod.mk.injEq, List.not_mem_nil, or_false] at hi
      rcases hi with ⟨rfl, rfl⟩ | ⟨rfl, rfl⟩ | ⟨rfl, rfl⟩ | ⟨rfl, rfl⟩ | ⟨rfl, rfl⟩ <;> rfl
    have hexec := exec_snoop_of_free harr hinstall (fun _ => hfree)
    refine ⟨fun htr hst => ?_, fun hnone => ?_⟩
    · rw [answerSnoop_inWb (s.withMsgs ms) k a line _ htr hst] at hexec
      exact ⟨_, hexec rfl, rfl, fun _ => rfl, rfl⟩
    · rw [answerSnoop_none (s.withMsgs ms) k a line _ hnone] at hexec
      exact ⟨_, hexec rfl, ⟨hnone, fun _ => rfl⟩, rfl⟩
  case delayed =>
    rintro st k hk hst ha hres hheld ⟨-, harr⟩
    have hinstr : (if k = .own then Instr.snpOwn a line else .snpInv a line) = snpInstr k a line := by
      rcases hk with rfl | rfl <;> rfl
    rw [hinstr]
    exact ⟨_, exec_snoop_of_reserved harr hinstall (Snp.takes_iff.mpr hk) ha hres hheld, fun _ => rfl, rfl, rfl, by simp⟩
  case delayEnd =>
    intro st k hk hst _ hheld hline
    obtain ⟨t, ht, hbyte, hleft, hres, hsnoop, hmsgs⟩ :=
      exec_lrSnoopDelayEnd_of_held (Snp.takes_iff.mpr hk) hheld hline hst
    exact ⟨t, ht, ⟨hleft, hbyte⟩, hres, hsnoop, hmsgs⟩

end Sys2Proof.Machine

namespace Sys2Proof.Machine

/-! ### Answers at the home -/

theorem exec_rspState (a line : Nat) (s : State) : exec (.rspState a line) s = execRspState a line s := rfl

theorem exec_rspInwb (a line : Nat) (s : State) : exec (.rspInwb a line) s = execRspInwb a line s := rfl

theorem exec_datSnp (a line : Nat) (s : State) : exec (.datSnp a line) s = execDatSnp a line s := rfl

theorem exec_cmpAck (a line : Nat) (s : State) : exec (.cmpAck a line) s = execCmpAck a line s := rfl

theorem exec_snoopTimeout (a line : Nat) (s : State) : exec (.snoopTimeout a line) s = execSnoopTimeout a line s := rfl

/-- A transaction with one snoop out. -/
def Txn.asking (who : Requester) (req : Req) (o : Nat) (k : Snp) (dl : Nat) : Txn :=
  { Txn.fresh who req with waits := [(o, k, dl)] }

theorem inTime_of {s : State} {dl : Nat} (h : s.drone ≤ dl ∨ s.time.prev < dl) : s.inTime dl = true := by
  simpa [State.inTime] using h

theorem not_inTime_of {s : State} {dl : Nat} (h : dl < s.drone ∧ dl ≤ s.time.prev) : s.inTime dl = false := by
  obtain ⟨hdrone, hprev⟩ := h
  simp [State.inTime]; omega

theorem datComing_of_notMem {s : State} {line : Nat} (h : ∀ a d p, Msg.datSnp a line d p ∉ s.coh.msgs) :
    s.datComing line = false := by
  refine List.any_eq_false.mpr (fun m hm => ?_)
  cases m with
  | datSnp a l d p =>
    by_cases hl : l = line
    · subst hl; exact absurd hm (h a d p)
    · simp [hl]
  | _ => simp

section
variable {s : State} {line o dl : Nat} {who : Requester} {req : Req} {k : Snp}
  (h : s.txn line = some (Txn.asking who req o k dl))
include h

theorem State.awaited_of_asking : s.awaited o line = some (k, s.inTime dl) := by
  simp [State.awaited, h, Txn.asking]

/-- The one answer leaves the transaction as it opened. -/
theorem State.answered_of_asking : s.answered o line = s.setTxn line (some (Txn.fresh who req)) := by
  rw [State.answered, modTxn_some s line _ _ h]
  simp [Txn.asking, Txn.fresh]

end

section
variable (s : State) (line l : Nat) (e : DirEntry) (t : Option Txn)
@[simp] theorem State.dirEntry_setTxn : (s.setTxn line t).dirEntry l = s.dirEntry l := rfl

/-- A line's transaction and its entry are written in either order. -/
theorem State.setDir_setTxn : (s.setTxn line t).setDir l e = (s.setDir l e).setTxn line t := rfl

/-- The last of two writes of an entry stands. -/
theorem State.setDir_setDir (e' : DirEntry) : (s.setDir line e).setDir line e' = s.setDir line e' := by
  simp [State.setDir, State.modCoh, Table.put_put]

end

/-! ### Transactions that are answered -/

section
variable {s u : State} {line : Nat} {t : Txn} (h : s.txn line = some t) (hwaits : t.waits = []) (hwb : t.awaitWb = [])
  (hanswered : t.answered = false) (hcoming : s.datComing line = false)
include h hwaits hwb hanswered hcoming

/-- A served transaction that awaits its requester's CMP_ACK stays open. -/
theorem State.finish_of_open (hserve : s.serve line t = (false, u)) (hacked : t.acked = false) :
    s.finish line = u.modTxn line (fun t => { t with answered := true }) := by
  simp [finish_served s line t h hwaits hwb hanswered hcoming, hserve, hacked]

/-- One that awaits none closes. -/
theorem State.finish_of_ended (hserve : s.serve line t = (true, u)) (hretry : u.coh.retryQ = []) :
    s.finish line = u.setTxn line none := by
  simp [finish_served s line t h hwaits hwb hanswered hcoming, hserve, closeTxn_none u line hretry]

end

/-- A read whose data a holder has forwarded needs nothing more of the home. -/
theorem State.serve_rdShared_forwarded {s : State} {line b : Nat} {t : Txn} (hreq : t.req = .rdShared) (hwho : t.who = .agent b)
    (hfwd : t.fromSnoop = true) : s.serve line t = (false, s) := by
  simp [State.serve, hreq, hwho, hfwd]

/-- A read for ownership whose data a holder has forwarded makes its requester the owner. -/
theorem State.serve_rdOwn_forwarded {s : State} {line b : Nat} {t : Txn} (hreq : t.req = .rdOwn) (hwho : t.who = .agent b)
    (hfwd : t.fromSnoop = true) :
    s.serve line t = (false, (s.ownedBy line b).dropReservations line (.agent b)) := by
  simp [State.serve, hreq, hwho, hfwd]

section
variable {s : State} {line o b n dl : Nat} (hdir : s.dirEntry line = ⟨.dx, [o], false, n⟩) (hcoming : s.datComing line = false)
include hdir hcoming

/-- An owner that has forwarded a shared copy stands in the entry before the requester (12_coherence.md Table COH-5). -/
theorem State.takeRsp_shr {st : LState} (h : s.txn line = some (Txn.asking (.agent b) .rdShared o .shr dl)) (hb : b ≠ o) :
    s.takeRsp st o line true .shr =
      (s.setDir line ⟨if st = .o then .do_ else .ds, [o, b], false, n⟩).setTxn line
        (some { Txn.fresh (.agent b) .rdShared with fromSnoop := true, answered := true }) := by
  obtain ⟨v, hv⟩ : ∃ v, v = (s.setDir line ⟨if st = .o then .do_ else .ds, [o, b], false, n⟩).setTxn line
      (some { Txn.fresh (.agent b) .rdShared with fromSnoop := true }) := ⟨_, rfl⟩
  have htake : s.takeRsp st o line true .shr = v.finish line := by
    rw [State.takeRsp, State.answered_of_asking h]
    simp only [txn_setTxn, State.dirEntry_setTxn, hdir, hv]
    simp [Txn.fresh, DirEntry.add, hb, State.modTxn, State.setDir_setTxn, txn_setTxn, setTxn_setTxn]
  have htxn : v.txn line = some { Txn.fresh (.agent b) .rdShared with fromSnoop := true } := by rw [hv, txn_setTxn]
  have hopen := State.finish_of_open htxn rfl rfl rfl (by rw [hv]; exact hcoming)
    (State.serve_rdShared_forwarded (b := b) rfl rfl rfl) rfl
  rw [htake, hopen, modTxn_some v line _ _ htxn, hv, setTxn_setTxn]

/-- An owner that has forwarded ownership hands its place in the entry to the requester (12_coherence.md Table COH-5,
R344). -/
theorem State.takeRsp_own (h : s.txn line = some (Txn.asking (.agent b) .rdOwn o .own dl)) :
    ∃ z, s.takeRsp .i o line true .own =
      { (s.setDir line ⟨.dx, [b], false, n⟩).setTxn line
          (some { Txn.fresh (.agent b) .rdOwn with fromSnoop := true, answered := true }) with cores := z } := by
  obtain ⟨v, hv⟩ : ∃ v, v = (s.setDir line ⟨.dx, [b], false, n⟩).setTxn line
      (some { Txn.fresh (.agent b) .rdOwn with fromSnoop := true }) := ⟨_, rfl⟩
  have htake : s.takeRsp .i o line true .own = v.finish line := by
    rw [State.takeRsp, State.answered_of_asking h]
    simp [State.dropHolder, txn_setTxn, hdir, hv, Txn.heir, DirEntry.remove, DirEntry.owner, DirEntry.owned, DirEntry.none,
      Txn.fresh, State.modTxn, State.setDir_setTxn, setTxn_setTxn]
  have htxn : v.txn line = some { Txn.fresh (.agent b) .rdOwn with fromSnoop := true } := by rw [hv, txn_setTxn]
  have hentry : v.dirEntry line = ⟨.dx, [b], false, n⟩ := by
    rw [hv, State.dirEntry_setTxn, dirEntry_setDir _ _ _ (by simp) (by simp)]
  have howned : v.ownedBy line b = v := by
    rw [State.ownedBy, hentry, if_neg (by simp [DirEntry.none]), hv, State.setDir_setTxn, State.setDir_setDir]
  obtain ⟨z, hz⟩ := dropReservations_frame v line (.agent b)
  have hopen := State.finish_of_open htxn rfl rfl rfl (by rw [hv]; exact hcoming)
    (State.serve_rdOwn_forwarded (b := b) rfl rfl rfl) rfl
  refine ⟨z, ?_⟩
  rw [htake, hopen, howned, hz, modTxn_some { v with cores := z } line _ _ htxn, hv]
  exact congrArg (fun w : State => { w with cores := z }) (setTxn_setTxn ..)

end

/-- A read that keeps nothing ends with the data that a holder has returned (12_coherence.md Table COH-5). -/
theorem State.serve_rdOnce_of_data {s : State} {line : Nat} {t : Txn} {d : List Byte} {p : Bool} (hreq : t.req = .rdOnce)
    (hdata : t.data = some (d, p)) (howned : (s.dirEntry line).owned = true) :
    s.serve line t = (true, s.post (.datHome t.who line .s d (p || t.poison))) := by
  simp [State.serve, hreq, hdata, howned]

/-- With no data of a holder it ends with the line's memory. -/
theorem State.serve_rdOnce_of_none {s : State} {line : Nat} {t : Txn} (hreq : t.req = .rdOnce) (hdata : t.data = none) :
    s.serve line t = (true, s.post (.datHome t.who line .s (s.baseLine line) (s.basePoison line || t.poison))) := by
  simp [State.serve, hreq, hdata]

/-- The owner's copy answers a read that keeps nothing, and its transaction closes. -/
theorem State.takeDat_once {s : State} {line o n dl : Nat} {r : Requester} {d : List Byte} {p : Bool}
    (hdir : s.dirEntry line = ⟨.dx, [o], false, n⟩) (hcoming : s.datComing line = false) (hretry : s.coh.retryQ = [])
    (h : s.txn line = some (Txn.asking r .rdOnce o .once dl)) :
    s.takeDat o line d p = (s.post (.datHome r line .s d p)).setTxn line none := by
  obtain ⟨v, hv⟩ : ∃ v, v = s.setTxn line (some { Txn.fresh r .rdOnce with data := some (d, p) }) := ⟨_, rfl⟩
  have htake : s.takeDat o line d p = v.finish line := by
    simp [State.takeDat, State.awaited_of_asking h, State.answered_of_asking h, State.modTxn, txn_setTxn, setTxn_setTxn, hv]
  have hended := State.finish_of_ended (s := v) (line := line) (by rw [hv, txn_setTxn]) rfl rfl rfl (by rw [hv]; exact hcoming)
    (State.serve_rdOnce_of_data rfl rfl (by rw [hv, State.dirEntry_setTxn, hdir]; rfl)) (by rw [hv]; exact hretry)
  rw [htake, hended, hv]
  simp only [Txn.fresh, Bool.or_false]
  exact setTxn_setTxn (s.post _) line _ _

/-! ### Answers in time and past their deadline -/

section
variable {s : State} {line o dl : Nat} {ms : List Msg} {who : Requester} {req : Req} {k : Snp}
  (h : s.txn line = some (Txn.asking who req o k dl)) (hin : s.drone ≤ dl ∨ s.time.prev < dl)
include h hin

theorem State.awaited_of_inTime : (s.withMsgs ms).awaited o line = some (k, true) :=
  (State.awaited_of_asking h).trans (by rw [inTime_of hin])

theorem exec_rspState_of_inTime {st : LState} {fwd : Bool} (harr : s.Arriving (.rspState st o line fwd) ms) :
    exec (.rspState o line) s = .next ((s.withMsgs ms).takeRsp st o line fwd k).wakeHomes := by
  rw [exec_rspState, execRspState, harr.arrives (by simp [isRsp])]
  simp [State.awaited_of_inTime h hin]

/-- A home waits for the writeback that an answer has said is in flight (12_coherence.md R351). -/
theorem exec_rspInwb_of_inTime (harr : s.Arriving (.rspInwb o line) ms) (hwb : ms.any (isWb o line) = true) :
    exec (.rspInwb o line) s =
      .next ((s.withMsgs ms).setTxn line (some { Txn.fresh who req with awaitWb := [o] })) := by
  have hmsgs : ((s.withMsgs ms).setTxn line (some (Txn.fresh who req))).coh.msgs.any (isWb o line) = true := hwb
  rw [exec_rspInwb, execRspInwb, harr.arrives (by simp [isRspInwb])]
  simp only [State.awaited_of_inTime h hin]
  rw [State.takeInwb, State.answered_of_asking (s := s.withMsgs ms) h, if_pos hmsgs,
    modTxn_some _ line (Txn.fresh who req) _ (txn_setTxn ..), setTxn_setTxn]
  rfl

theorem exec_datSnp_of_inTime {d : List Byte} {p : Bool} (harr : s.Arriving (.datSnp o line d p) ms)
    (halive : s.isDead o = false) :
    exec (.datSnp o line) s = .next ((s.withMsgs ms).takeDat o line d p).wakeHomes := by
  have halive' : (s.withMsgs ms).isDead o = false := halive
  rw [exec_datSnp, execDatSnp, harr.arrives (by simp [isDatSnp])]
  simp [State.awaited_of_inTime h hin, halive', h]

end

section
variable {s : State} {line o dl : Nat} {ms : List Msg} {who : Requester} {req : Req} {k : Snp}
  (h : s.txn line = some (Txn.asking who req o k dl)) (hpast : dl < s.drone ∧ dl ≤ s.time.prev)
include h hpast

theorem State.awaited_of_past : (s.withMsgs ms).awaited o line = some (k, false) :=
  (State.awaited_of_asking h).trans (by rw [not_inTime_of hpast])

theorem exec_rspState_of_past {st : LState} {fwd : Bool} (harr : s.Arriving (.rspState st o line fwd) ms) :
    exec (.rspState o line) s = .next ((s.withMsgs ms).lateMsg line) := by
  rw [exec_rspState, execRspState, harr.arrives (by simp [isRsp])]
  simp [State.awaited_of_past h hpast]

theorem exec_rspInwb_of_past (harr : s.Arriving (.rspInwb o line) ms) :
    exec (.rspInwb o line) s = .next ((s.withMsgs ms).lateMsg line) := by
  rw [exec_rspInwb, execRspInwb, harr.arrives (by simp [isRspInwb])]
  simp [State.awaited_of_past h hpast]

theorem exec_datSnp_of_past {d : List Byte} {p : Bool} (harr : s.Arriving (.datSnp o line d p) ms) :
    exec (.datSnp o line) s = .next ((s.withMsgs ms).lateMsg line) := by
  rw [exec_datSnp, execDatSnp, harr.arrives (by simp [isDatSnp])]
  simp [State.awaited_of_past h hpast]

end

/-! ### The deadline itself -/

/-- What a passed deadline does before the transaction goes on: the line is poisoned and recorded, the agent is dead and
its copy gone (12_coherence.md R348, R349). -/
def State.killHolder (s : State) (a line : Nat) : State :=
  let s := (s.poisonLine line 1 a).modHome (s.homeOf line) (fun h => { h with timeout := true })
  let s := (s.homeRec line a).modCoh (fun c => { c with dead := c.dead.insert a })
  (s.setLine a line Line.none).dropL1 a line

theorem State.snoopDies_eq (s : State) (a line : Nat) :
    s.snoopDies a line = ((((s.killHolder a line).dropHolder line a).answered a line).poisonTxn line).finish line := rfl

/-- The registers of a home at which a snoop deadline has passed (12_coherence.md Table COH-8). -/
def Home.timedOut (x : Home) (line a : Nat) : Home :=
  { x with poison := true, poisonCount := satAdd 0xFFFFFFFF x.poisonCount 1, timeout := true,
           last := BitVec.ofNat 64 (line * 64 % 2 ^ 48 + 1 * 2 ^ 56 + a * 2 ^ 48) }

/-- Of memory the killing of a holder changes poison alone, and of the protocol its copies, the homes and the dead. -/
theorem State.killHolder_spec (s : State) (a line : Nat) (htier : isTiered (line * 64) = false) :
    (s.killHolder a line).mem = s.mem ∧
    (∃ ls hs, (s.killHolder a line).coh = { s.coh with lines := ls, homes := hs, dead := s.coh.dead.insert a }) ∧
    (s.killHolder a line).coh.home (s.homeOf line) = (s.coh.home (s.homeOf line)).timedOut line a := by
  obtain ⟨w, hw⟩ : ∃ w, w = (s.poisonLine line 1 a).modHome (s.homeOf line) (fun h => { h with timeout := true }) := ⟨_, rfl⟩
  have hdirect : s.poisonLine line 1 a = (s.setPoison line true).modHome (s.homeOf line) (fun h =>
      { h with poison := true, poisonCount := satAdd 0xFFFFFFFF h.poisonCount 1,
               last := BitVec.ofNat 64 (line * 64 % 2 ^ 48 + 1 * 2 ^ 56 + a * 2 ^ 48) }) := by
    rw [State.poisonLine, State.openLine, htier]; rfl
  obtain ⟨v, hv⟩ : ∃ v, v = w.homeRec line a := ⟨_, rfl⟩
  have hmem : v.mem = s.mem := by rw [hv, State.homeRec, State.logErr_mem, hw, hdirect]; rfl
  have hcoh : v.coh = { s.coh with homes := w.coh.homes } := by
    rw [hv, State.homeRec, State.logErr_coh, hw, hdirect]; rfl
  obtain ⟨z, hz, -⟩ := dropL1_frame ((v.modCoh (fun c => { c with dead := c.dead.insert a })).setLine a line Line.none) a line
  have hkill : s.killHolder a line =
      { ((v.modCoh (fun c => { c with dead := c.dead.insert a })).setLine a line Line.none) with cores := z } := by
    rw [← hz, hv, hw]; rfl
  have hkillCoh : (s.killHolder a line).coh = { s.coh with
      lines := Table.put Line.none s.coh.lines (lineKey a line) Line.none, homes := w.coh.homes,
      dead := s.coh.dead.insert a } := by
    rw [hkill]
    simp only [State.setLine, State.modCoh, hcoh]
  refine ⟨by rw [hkill]; exact hmem, ⟨_, _, hkillCoh⟩, ?_⟩
  rw [hkillCoh]
  show w.coh.home _ = _
  rw [hw, home_modHome, hdirect, home_modHome]
  rfl

/-- No data is coming where none was and no agent has come back to life: a completion that turns poisoned stays one. -/
theorem State.datComing_poisoned {s t : State} {line : Nat} (hmsgs : t.coh.msgs = s.coh.msgs.map (Msg.poisoned line))
    (hdead : ∀ a, s.isDead a = true → t.isDead a = true) (h : s.datComing line = false) : t.datComing line = false := by
  refine List.any_eq_false.mpr (fun m hm => ?_)
  rw [hmsgs] at hm
  obtain ⟨m', hm', rfl⟩ := List.mem_map.mp hm
  have hnone := List.any_eq_false.mp h m' hm'
  cases m' with
  | datSnp a l d p =>
    simp only [Msg.poisoned, Bool.and_eq_true, decide_eq_true_eq, Bool.not_eq_true', not_and, Bool.not_eq_false] at hnone ⊢
    exact fun hl => hdead a (hnone hl)
  | _ => simp [Msg.poisoned]

/-- A transaction that has just been noted goes on poisoned. -/
theorem State.poisonTxn_setTxn (s : State) (line : Nat) (t : Txn) :
    (s.setTxn line (some t)).poisonTxn line =
      (s.modCoh (fun c => { c with msgs := c.msgs.map (Msg.poisoned line) })).setTxn line (some { t with poison := true }) := by
  simp [State.poisonTxn, State.modTxn, State.setTxn, State.txn, State.modCoh, Table.put_put]

/-- A read that keeps nothing ends at its holder's deadline: poisoned, with the bytes of memory (12_coherence.md R348 to
R350). -/
theorem State.snoopDies_once {s : State} {line o n dl : Nat} {r : Requester} (htier : isTiered (line * 64) = false)
    (hdir : s.dirEntry line = ⟨.dx, [o], false, n⟩) (hcoming : s.datComing line = false) (hretry : s.coh.retryQ = [])
    (h : s.txn line = some (Txn.asking r .rdOnce o .once dl)) :
    ∃ u : State, s.snoopDies o line = (u.post (.datHome r line .s (s.bytes (line * 64) 64) true)).setTxn line none ∧
      u.coh.msgs = s.coh.msgs.map (Msg.poisoned line) ∧ u.coh.dead = s.coh.dead.insert o ∧ u.coh.waiting = s.coh.waiting ∧
      u.coh.home (s.homeOf line) = (s.coh.home (s.homeOf line)).timedOut line o := by
  obtain ⟨hmem, ⟨ls, hs, hcoh⟩, hhome⟩ := s.killHolder_spec o line htier
  obtain ⟨x, hx⟩ : ∃ x, x = s.killHolder o line := ⟨_, rfl⟩
  rw [← hx] at hmem hcoh hhome
  have hxtxn : x.txn line = some (Txn.asking r .rdOnce o .once dl) := by rw [State.txn, hcoh]; exact h
  have hxdir : x.dirEntry line = ⟨.dx, [o], false, n⟩ := by rw [State.dirEntry, hcoh]; exact hdir
  obtain ⟨u, hu⟩ : ∃ u, u = (x.setDir line ⟨.di, [], false, n⟩).modCoh (fun c =>
      { c with msgs := c.msgs.map (Msg.poisoned line) }) := ⟨_, rfl⟩
  obtain ⟨v, hv⟩ : ∃ v, v = u.setTxn line (some { Txn.fresh r .rdOnce with poison := true }) := ⟨_, rfl⟩
  have hdies : s.snoopDies o line = v.finish line := by
    have hdrop : x.dropHolder line o = x.setDir line ⟨.di, [], false, n⟩ := by
      simp [State.dropHolder, hxtxn, hxdir, Txn.asking, Txn.fresh, Txn.heir, DirEntry.remove, DirEntry.owner, DirEntry.owned]
    rw [State.snoopDies_eq, ← hx, hdrop, State.answered_of_asking (s := x.setDir line _) hxtxn, State.poisonTxn_setTxn, hv, hu]
  have hucoh : u.coh = { x.coh with
      dir := (x.setDir line ⟨.di, [], false, n⟩).coh.dir, msgs := x.coh.msgs.map (Msg.poisoned line) } := by rw [hu]; rfl
  have hmsgs : u.coh.msgs = s.coh.msgs.map (Msg.poisoned line) := by rw [hucoh, hcoh]
  have hdead : u.coh.dead = s.coh.dead.insert o := by rw [hucoh, hcoh]
  have hended := State.finish_of_ended (s := v) (line := line) (by rw [hv, txn_setTxn]) rfl rfl rfl
    (State.datComing_poisoned (by rw [hv]; exact hmsgs)
      (fun a ha => by
        rw [State.isDead, List.contains_iff_mem] at ha ⊢
        rw [hv]
        show a ∈ u.coh.dead
        rw [hdead]
        exact List.mem_insert_of_mem ha) hcoming)
    (State.serve_rdOnce_of_none rfl rfl)
    (by rw [hv]; show u.coh.retryQ = []; rw [hucoh, hcoh]; exact hretry)
  have hbase : v.baseLine line = s.bytes (line * 64) 64 := by
    rw [State.baseLine, htier, hv, hu]
    exact congrArg (Table.range memDefault · _ _) hmem
  refine ⟨u, ?_, hmsgs, hdead, by rw [hucoh, hcoh], ?_⟩
  · rw [hdies, hended, hbase, hv, Bool.or_true]
    exact setTxn_setTxn (u.post _) line _ _
  · rw [hu]
    exact hhome

/-- The requester's CMP_ACK at the home (12_coherence.md R336, R339). -/
theorem exec_cmpAck_of_open {s : State} {b line : Nat} {ms : List Msg} {x : Txn} (harr : s.Arriving (.cmpAck b line) ms)
    (hwaiting : s.coh.waiting = []) (hretry : s.coh.retryQ = []) (hx : s.txn line = some x) (hwho : x.who = .agent b) :
    exec (.cmpAck b line) s =
      .next ((s.withMsgs ms).setTxn line (if x.answered then none else some { x with acked := true })) := by
  rw [exec_cmpAck, execCmpAck, harr.arrives (by simp [isCmpAck]), State.takeAck, State.txn_withMsgs, hx]
  dsimp only
  rw [if_neg (by simp [hwho])]
  split
  next => rw [closeTxn_none (s.withMsgs ms) line hretry, wakeHomes_none _ (by exact hwaiting)]
  next => rw [modTxn_some (s.withMsgs ms) line x _ hx]

/-- Settles O38: an answer in time goes into the directory and the transaction (`State.takeRsp_shr`, `State.takeRsp_own`,
`State.takeDat_once`), one past its deadline is counted late, and a deadline that passes ends the read with poison
(`State.snoopDies_once`). -/
theorem answersCompleteTransactions : Obligations.AnswersCompleteTransactions := by
  unfold Obligations.AnswersCompleteTransactions
  intro line o n dl ms s hwaiting hretry halive htier hms hdir
  have hcoming : (s.withMsgs ms).datComing line = false := datComing_of_notMem hms
  refine ⟨?shared, ?owned, ?inWb, ?data, ?late, ?ack, ?timeout⟩
  case shared =>
    intro b st hb hst hin htxn harr
    have hexec := exec_rspState_of_inTime htxn hin harr
    rw [State.takeRsp_shr (s := s.withMsgs ms) hdir hcoming htxn hb, wakeHomes_none _ (by exact hwaiting)] at hexec
    refine ⟨_, hexec, rfl, ?_, _, txn_setTxn .., rfl⟩
    rw [State.dirEntry_setTxn, dirEntry_setDir _ _ _ (by rcases hst with rfl | rfl <;> simp) (by simp)]
  case owned =>
    intro b hin htxn harr
    obtain ⟨z, htake⟩ := State.takeRsp_own (s := s.withMsgs ms) hdir hcoming htxn
    have hexec := exec_rspState_of_inTime htxn hin harr
    rw [htake, wakeHomes_none _ (by exact hwaiting)] at hexec
    exact ⟨_, hexec, rfl, dirEntry_setDir (s.withMsgs ms) line _ (by simp) (by simp), _,
      txn_setTxn ((s.withMsgs ms).setDir line _) line _, rfl⟩
  case inWb =>
    intro b hin htxn harr hwb
    exact ⟨_, exec_rspInwb_of_inTime htxn hin harr hwb, rfl, txn_setTxn ..⟩
  case data =>
    intro r d p hin htxn harr
    have hexec := exec_datSnp_of_inTime htxn hin harr halive
    rw [State.takeDat_once (s := s.withMsgs ms) hdir hcoming hretry htxn, wakeHomes_none _ (by exact hwaiting)] at hexec
    exact ⟨_, hexec, rfl, txn_setTxn .., rfl, fun _ => rfl⟩
  case late =>
    intro r req k m i hpast htxn hanswer harr
    have hexec : exec i s = .next ((s.withMsgs ms).lateMsg line) := by
      rcases hanswer with hinwb | ⟨st, f, hrsp⟩ | ⟨d, p, hdat⟩
      · obtain ⟨rfl, rfl⟩ := Prod.mk.inj (List.mem_singleton.mp hinwb)
        exact exec_rspInwb_of_past htxn hpast harr
      · obtain ⟨rfl, rfl⟩ := Prod.mk.inj hrsp
        exact exec_rspState_of_past htxn hpast harr
      · obtain ⟨rfl, rfl⟩ := Prod.mk.inj hdat
        exact exec_datSnp_of_past htxn hpast harr
    have hhome : ((s.withMsgs ms).lateMsg line).coh.home (s.homeOf line) = _ := home_modHome (s.withMsgs ms) _ _
    exact ⟨_, hexec, rfl, rfl, rfl, by rw [hhome], by rw [hhome]; rfl⟩
  case ack =>
    intro b x hx hwho harr
    have hexec := exec_cmpAck_of_open harr hwaiting hretry hx hwho
    refine ⟨fun hans => ?_, fun hans => ?_⟩
    · rw [hans, if_pos rfl] at hexec
      exact ⟨_, hexec, txn_setTxn .., rfl, rfl⟩
    · rw [if_neg (by simp [hans])] at hexec
      exact ⟨_, hexec, txn_setTxn .., rfl, rfl⟩
  case timeout =>
    intro r hrun hpast htxn hcome
    obtain ⟨u, hdies, hmsgs, hdead, hwait, hhome⟩ := State.snoopDies_once htier hdir hcome hretry htxn
    obtain ⟨t, ht⟩ : ∃ t, t = (u.post (.datHome r line .s (s.bytes (line * 64) 64) true)).setTxn line none := ⟨_, rfl⟩
    have hexec : exec (.snoopTimeout o line) s = .next t := by
      rw [exec_snoopTimeout, execSnoopTimeout, htxn]
      dsimp only
      rw [if_pos (by simp [hrun, not_inTime_of hpast]), hdies, wakeHomes_none _ (by exact hwait.trans hwaiting), ht]
    have hhome' : t.coh.home (s.homeOf line) = (s.coh.home (s.homeOf line)).timedOut line o := by rw [ht]; exact hhome
    refine ⟨t, hexec, ?_, by rw [ht, txn_setTxn], by rw [hhome']; rfl, by rw [hhome']; rfl, ?_, ?_⟩
    · rw [State.isDead, List.contains_iff_mem, ht]
      show o ∈ u.coh.dead
      rw [hdead]
      exact List.mem_insert_self
    · rw [hhome', Home.timedOut, Nat.one_mul]
    · rw [ht]
      exact congrArg (· ++ _) hmsgs

end Sys2Proof.Machine

namespace Sys2Proof.Machine

/-! ### What requesters receive -/

theorem exec_cmp (r : Requester) (line : Nat) (s : State) : exec (.cmp r line) s = execCmp r line s := rfl

theorem exec_datHome (r : Requester) (line : Nat) (s : State) : exec (.datHome r line) s = execDatHome r line s := rfl

theorem exec_datFwd (a line : Nat) (s : State) : exec (.datFwd a line) s = execDatFwd a line s := rfl

theorem exec_retry (a line : Nat) (s : State) : exec (.retry a line) s = execRetry a line s := rfl

theorem exec_grant (a line : Nat) (s : State) : exec (.grant a line) s = execGrant a line s := rfl

theorem exec_wbAck (a line : Nat) (s : State) : exec (.wbAck a line) s = execWbAck a line s := rfl

theorem exec_datInstall (t line : Nat) (s : State) : exec (.datInstall t line) s = execDatInstall t line s := rfl


/-- A line that arrives is installed while its home awaits the acknowledgement, and is acknowledged in any case. -/
theorem State.recvLine_spec (s : State) (a line : Nat) (g : LState) (d : List Byte) (p : Bool) :
    (s.recvLine a line g d p).coh.msgs = s.coh.msgs ++ [.cmpAck a line] ∧
    (s.recvLine a line g d p).line a line = if s.awaits a line then ⟨g, .stable, d, p⟩ else Line.none :=
  ⟨rfl, line_setLine ..⟩

theorem State.recvOwn_spec (s : State) (a line : Nat) (p : Bool) :
    (s.recvOwn a line p).coh.msgs = s.coh.msgs ++ [.cmpAck a line] ∧
    (s.recvOwn a line p).line a line =
      if s.awaits a line then ⟨.m, .stable, (s.line a line).data, (s.line a line).poison || p⟩ else Line.none :=
  ⟨rfl, line_setLine ..⟩

/-- What a requester gets stands under its key. -/
theorem State.putResult_spec (s : State) (r : Requester) (bs : List Byte) :
    (s.putResult r bs).coh.msgs = s.coh.msgs ∧ Table.get [] (s.putResult r bs).coh.results (resultKey r) = bs :=
  ⟨rfl, Table.get_put_same ..⟩

section
variable {s : State} {a line : Nat} {ms : List Msg}

theorem exec_datHome_of_agent {g : LState} {d : List Byte} {p : Bool} (harr : s.Arriving (.datHome (.agent a) line g d p) ms) :
    exec (.datHome (.agent a) line) s = .next ((s.withMsgs ms).recvLine a line g d p) := by
  rw [exec_datHome, execDatHome, harr.arrives (by simp [isDatHome])]

theorem exec_datHome_of_cacheless {r : Nat} {g : LState} {d : List Byte} {p : Bool}
    (harr : s.Arriving (.datHome (.cacheless r) line g d p) ms) :
    exec (.datHome (.cacheless r) line) s = .next ((s.withMsgs ms).putResult (.cacheless r) (d ++ [if p then 1 else 0])) := by
  rw [exec_datHome, execDatHome, harr.arrives (by simp [isDatHome])]

theorem exec_datFwd_of_arriving {h : Nat} {g : LState} {d : List Byte} {p : Bool} (harr : s.Arriving (.datFwd h a line g d p) ms) :
    exec (.datFwd a line) s = .next ((s.withMsgs ms).recvLine a line g d p) := by
  rw [exec_datFwd, execDatFwd, harr.arrives (by simp [isDatFwd])]

theorem exec_cmp_of_agent {q : Bool} {v : Dword} (harr : s.Arriving (.cmp (.agent a) line q v) ms) :
    exec (.cmp (.agent a) line) s =
      .next (if (s.line a line).tr = .smA ∨ (s.line a line).tr = .omA then (s.withMsgs ms).recvOwn a line q
        else (s.withMsgs ms).putResult (.agent a) (leBytes 8 v.toNat ++ [if q then 1 else 0])) := by
  rw [exec_cmp, execCmp, harr.arrives (by simp [isCmp])]
  rfl

theorem exec_retry_of_arriving (harr : s.Arriving (.retry a line) ms) : exec (.retry a line) s = .next (s.withMsgs ms) := by
  rw [exec_retry, execRetry, harr.arrives (by simp [isRetry])]

theorem exec_grant_of_arriving (harr : s.Arriving (.grant a line) ms) :
    exec (.grant a line) s = .next ((s.withMsgs ms).sendAgain a line) := by
  rw [exec_grant, execGrant, harr.arrives (by simp [isGrant])]

theorem exec_wbAck_of_inWb (harr : s.Arriving (.wbAck a line) ms) (hwb : (s.line a line).inWb = true) :
    exec (.wbAck a line) s = .next ((s.withMsgs ms).setLine a line Line.none) := by
  rw [exec_wbAck, execWbAck, harr.arrives (by simp [isWbAck]), State.line_withMsgs, if_pos hwb]

theorem exec_datInstall_of_room {d : List Byte} {u : State} (harr : s.Arriving (.datInstall a line d) ms)
    (halive : s.isDead a = false) (hroom : (s.withMsgs ms).cacheRoom a line true = some u) :
    exec (.datInstall a line) s = .next (u.install a line d) := by
  rw [exec_datInstall, execDatInstall, harr.takeMsg (by simp [isInstall])]
  simp [halive, hroom]

end

/-- A core's install is dirty in its L2, and counted (11_host_cores_and_cache.md R327). -/
theorem State.install_spec (s : State) {a : Nat} (ha : a < 128) (line : Nat) (d : List Byte) :
    (s.install a line d).coh.msgs = s.coh.msgs ∧ (s.install a line d).line a line = ⟨.m, .stable, d, false⟩ ∧
    ((s.install a line d).core a).missStash = (s.core a).missStash + 1 := by
  rw [State.install, if_pos ha]
  exact ⟨rfl, line_setLine .., countEvent_missStash _ a 1⟩

/-- A request that is sent again opens, or is the next to be served. -/
theorem State.sendAgain_eq (s : State) (a line : Nat) :
    s.sendAgain a line = (s.accept line (.agent a) (reqOf (s.line a line))).getD
      (s.modCoh (fun c => { c with waiting := (line, .agent a, reqOf (s.line a line)) :: c.waiting })) := by
  dsimp only [State.sendAgain]
  cases s.accept line (.agent a) (reqOf (s.line a line)) <;> rfl

/-! ### Writebacks that are sent -/

theorem exec_wbDirty (a line : Nat) (s : State) : exec (.wbDirty a line) s = execWbDirty a line s := rfl

theorem exec_wbClean (a line : Nat) (s : State) : exec (.wbClean a line) s = execWbClean a line s := rfl

theorem exec_wbMove (a line : Nat) (s : State) : exec (.wbMove a line) s = execWbMove a line s := rfl

/-- The message of a line's writeback. -/
def Line.wbMsg (x : Line) (a line : Nat) : Msg :=
  match x.st with
  | .m => .wbDirty a line x.data x.poison
  | .o => .wbDirty a line x.data x.poison
  | _ => .wbClean a line

/-- The transient state in which a line waits for the acknowledgement of its writeback (12_coherence.md R334). -/
def LState.wbTr : LState → Transient
  | .m => .miWb
  | .o => .oiWb
  | .e => .eiWb
  | .s => .siWb
  | .i => .stable

/-- A writeback sends its message and leaves a transient state. -/
theorem State.sendWb_spec (s : State) (a line : Nat) (hst : (s.line a line).st ≠ .i) :
    (s.sendWb a line).coh.msgs = s.coh.msgs ++ [(s.line a line).wbMsg a line] ∧
    ((s.sendWb a line).line a line).tr = (s.line a line).st.wbTr := by
  obtain ⟨w, hw⟩ : ∃ w, w = s.dropL1 a line := ⟨_, rfl⟩
  have hmsgs : w.coh.msgs = s.coh.msgs := by rw [hw, (State.Beside.dropL1 s a line).coh]
  have hsent : ∀ (tr : Transient) (m : Msg),
      ((w.setLine a line { Line.none with tr := tr }).post m).coh.msgs = s.coh.msgs ++ [m] ∧
      (((w.setLine a line { Line.none with tr := tr }).post m).line a line).tr = tr :=
    fun tr m => ⟨congrArg (· ++ [m]) hmsgs, congrArg Line.tr (line_setLine ..)⟩
  unfold State.sendWb Line.wbMsg
  dsimp only
  rw [← hw]
  cases hx : (s.line a line).st with
  | i => exact absurd hx hst
  | s | e | o | m => exact hsent _ _

theorem State.Beside.passOut (s : State) (a line : Nat) : s.Beside (s.passOut a line).2 := by
  obtain ⟨z, c, hpass⟩ := passOut_frame s a line
  rw [hpass]; rfl

section
variable {s : State} {a line : Nat} (hst : (s.line a line).st ≠ .i) (htr : (s.line a line).tr = .stable)
  (hcredit : s.wbCredit a line = true)
include hst htr hcredit

theorem State.canEvict_of_credit : s.canEvict a line = true := by simp [State.canEvict, hst, htr, hcredit]

/-- An agent with a credit evicts its line by a writeback. -/
theorem State.evictLine_spec :
    (s.evictLine a line).coh.msgs = s.coh.msgs ++ [(s.line a line).wbMsg a line] ∧
    ((s.evictLine a line).line a line).tr = (s.line a line).st.wbTr := by
  have hpass := State.Beside.passOut s a line
  rw [State.evictLine, if_pos (State.canEvict_of_credit hst htr hcredit), ← hpass.coh, ← hpass.line]
  exact State.sendWb_spec _ a line (by rwa [hpass.line])

omit hst htr hcredit in
/-- A detector at an L2's output marks dirty lines alone. -/
theorem State.dirty_of_marked (h : (s.passOut a line).1 = true) : (s.line a line).st = .m ∨ (s.line a line).st = .o := by
  by_contra hclean
  simp [State.passOut, hclean] at h

/-- It hands its line over, or writes back one that its detector marks. -/
theorem State.sendMove_msgs :
    (s.sendMove a line).coh.msgs = s.coh.msgs ++ [if (s.passOut a line).1
      then .wbDirty a line (s.line a line).data (s.line a line).poison
      else .wbMove a line (s.line a line).st (s.line a line).data (s.line a line).poison] := by
  have hpass : s.Beside (s.passOut a line).2 := State.Beside.passOut s a line
  rw [State.sendMove, if_pos (State.canEvict_of_credit hst htr hcredit)]
  cases hp : s.passOut a line with
  | mk marked v =>
    rw [hp] at hpass
    have hline : v.line a line = s.line a line := hpass.line a line
    cases marked with
    | false =>
      dsimp only
      rw [hline]
      show ((v.setLine a line _).dropL1 a line).coh.msgs ++ _ = _
      rw [(State.Beside.dropL1 _ a line).coh]
      show v.coh.msgs ++ _ = _
      rw [hpass.coh, if_neg Bool.false_ne_true]
    | true =>
      have hdirty := State.dirty_of_marked (congrArg Prod.fst hp)
      refine (State.sendWb_spec v a line (by rwa [hline])).1.trans ?_
      rw [hline, hpass.coh, if_pos rfl]
      rcases hdirty with hm | ho
      · simp only [Line.wbMsg, hm]
      · simp only [Line.wbMsg, ho]

end

/-! ### Writebacks that reach their home -/

section
variable (s : State) (line x : Nat)
@[simp] theorem State.byte_post (m : Msg) : (s.post m).byte x = s.byte x := rfl
@[simp] theorem State.byte_setDir (e : DirEntry) : (s.setDir line e).byte x = s.byte x := rfl
@[simp] theorem State.byte_setTxn (t : Option Txn) : (s.setTxn line t).byte x = s.byte x := rfl
@[simp] theorem State.msgs_setDir (e : DirEntry) : (s.setDir line e).coh.msgs = s.coh.msgs := rfl
@[simp] theorem State.msgs_setTxn (t : Option Txn) : (s.setTxn line t).coh.msgs = s.coh.msgs := rfl
@[simp] theorem State.msgs_post (m : Msg) : (s.post m).coh.msgs = s.coh.msgs ++ [m] := rfl
end

/-- A line written from a cache has its bytes in memory, and no other byte changes. -/
theorem State.lineWrite_spec (s : State) {line : Nat} {d : List Byte} (p : Bool) (htier : isTiered (line * 64) = false)
    (hlen : d.length = 64) :
    (s.lineWrite line d p).bytes (line * 64) 64 = d ∧ (s.lineWrite line d p).sectorPoison line = (s.sectorPoison line || p) ∧
    s.onlyLine (s.lineWrite line d p) line ∧ (s.lineWrite line d p).coh = s.coh := by
  obtain ⟨u, hu, hwrite⟩ := s.lineWrite_direct d p htier
  rw [hwrite]
  refine ⟨?_, by simp [State.sectorPoison, State.setPoison], fun x hx => ?_, hu.beside.coh⟩
  · have hread := State.bytes_setBytes u (line * 64) d 0 64 (by omega)
    rwa [List.drop_zero, List.take_of_length_le (by omega)] at hread
  · rw [State.byte_setPoison, State.byte_setBytes_ne _ _ _ (by omega), hu.beside.byte]

theorem dirEntry_setDir_free (s : State) (line n : Nat) : (s.setDir line ⟨.di, [], false, n⟩).dirEntry line = DirEntry.none := by
  simp [State.dirEntry, State.setDir, State.modCoh]

theorem State.Passes.passHome (s : State) (a line : Nat) : s.Passes (s.passHome a line).2 := by
  unfold State.passHome
  split
  · exact State.Passes.streamWrite ..
  · exact State.Passes.refl s

section
variable {s : State} {a line n : Nat} (htxn : s.txn line = none) (hdir : s.dirEntry line = ⟨.dx, [a], false, n⟩)
include htxn hdir

omit htxn in
/-- The entry of a sole owner is freed when its owner goes. -/
theorem State.remove_owner : (s.dirEntry line).remove a = ⟨.di, [], false, n⟩ := by
  simp [hdir, DirEntry.remove, DirEntry.owner, DirEntry.owned]

/-- An owner's dirty writeback goes to memory and frees the entry (12_coherence.md R337, R351). -/
theorem State.absorbDirty_of_owner (ha : a < 128) (d : List Byte) (p : Bool) :
    ∃ u, s.Passes u ∧ s.absorbDirty a line d p =
      ((u.post (.wbAck a line)).lineWrite line d p).setDir line ⟨.di, [], false, n⟩ := by
  have hpass := State.Passes.passHome s a line
  refine ⟨_, hpass, ?_⟩
  have hsnoops : ((s.passHome a line).2.post (.wbAck a line)).snoops a line = false := by
    have htxn' : ((s.passHome a line).2.post (.wbAck a line)).txn line = none := by
      show (s.passHome a line).2.txn line = none
      rw [State.txn, hpass.beside.coh]
      exact htxn
    rw [State.snoops, htxn']
  have hleave : ∀ w : State, w.leaveInExt a line true = w := fun w => by rw [State.leaveInExt, if_pos ha]
  unfold State.absorbDirty
  simp only [hsnoops, State.remove_owner hdir, hleave, ite_self]
  simp [hdir]

/-- What memory, the entry and the messages are then. -/
theorem State.absorbDirty_spec (ha : a < 128) (htier : isTiered (line * 64) = false) {d : List Byte} (hlen : d.length = 64)
    (p : Bool) :
    ∃ t, s.absorbDirty a line d p = t ∧ t.bytes (line * 64) 64 = d ∧ t.sectorPoison line = (s.sectorPoison line || p) ∧
      s.onlyLine t line ∧ t.dirEntry line = DirEntry.none ∧ t.coh.msgs = s.coh.msgs ++ [.wbAck a line] ∧
      t.coh.waiting = s.coh.waiting := by
  obtain ⟨u, hu, habsorb⟩ := State.absorbDirty_of_owner htxn hdir ha d p
  obtain ⟨hbytes, hpoison, honly, hcoh⟩ := (u.post (.wbAck a line)).lineWrite_spec p htier hlen
  obtain ⟨v, hv⟩ : ∃ v, v = (u.post (.wbAck a line)).lineWrite line d p := ⟨_, rfl⟩
  rw [← hv] at habsorb hbytes hpoison honly hcoh
  have hu' := hu.beside
  have hvcoh : v.coh = { s.coh with msgs := s.coh.msgs ++ [.wbAck a line] } := by
    rw [hcoh, State.post, State.modCoh, hu'.coh]
  refine ⟨_, habsorb, hbytes, hpoison.trans (congrArg (· || p) (hu'.sectorPoison line)),
    fun x hx => (honly x hx).trans (hu'.byte x), dirEntry_setDir_free .., ?_, ?_⟩
  · show v.coh.msgs = _
    rw [hvcoh]
  · show v.coh.waiting = _
    rw [hvcoh]

/-- A clean notice of the only holder frees the entry (12_coherence.md R351). -/
theorem State.absorbClean_of_owner (ha : a < 128) :
    s.absorbClean a line = ((s.post (.wbAck a line)).setDir line ⟨.di, [], false, n⟩).setTxn line none := by
  have hleave : (s.post (.wbAck a line)).leaveInExt a line false = s.post (.wbAck a line) := by
    rw [State.leaveInExt, if_pos ha]
  have hdrop : (s.post (.wbAck a line)).dropHolder line a = (s.post (.wbAck a line)).setDir line ⟨.di, [], false, n⟩ := by
    have htxn' : (s.post (.wbAck a line)).txn line = none := htxn
    rw [State.dropHolder, htxn', State.remove_owner (s := s.post (.wbAck a line)) hdir]
    rfl
  have hhad : ((s.post (.wbAck a line)).setDir line ⟨.di, [], false, n⟩).hadWb a line =
      ((s.post (.wbAck a line)).setDir line ⟨.di, [], false, n⟩).setTxn line none := by
    have htxn' : ((s.post (.wbAck a line)).setDir line ⟨.di, [], false, n⟩).txn line = none := htxn
    rw [State.hadWb, State.modTxn, htxn']
    rfl
  rw [State.absorbClean, hleave, if_neg (by simp [hdir]), hdrop, hhad, State.finish, txn_setTxn]

/-- An owner's handover gives line and pointer to the system cache of its die (12_coherence.md R335). -/
theorem State.absorbMove_of_owner {u : State} (hnone : s.line (128 + a / 64) line = Line.none)
    (halive : s.isDead (128 + a / 64) = false) (hroom : s.cacheRoom (128 + a / 64) line false = some u) (st : LState)
    (d : List Byte) (p : Bool) :
    s.absorbMove a line st d p = ((u.setLine (128 + a / 64) line ⟨st, .stable, d, p⟩).post (.wbAck a line)).setDir line
      ⟨.dx, [128 + a / 64], false, n⟩ := by
  have hutxn : u.txn line = none := by
    obtain ⟨-, -, -, htxns, -⟩ := State.roomOnly_parts (cacheRoom_room hroom)
    rw [State.txn, htxns]; exact htxn
  have huline : u.line (128 + a / 64) line = Line.none :=
    (cacheRoom_line hroom (by rw [hnone]; rfl)).trans hnone
  have hmerged : Line.none.merged st d p = ⟨st, .stable, d, p⟩ := by simp [Line.merged, Line.none]
  have hmoved : (⟨.dx, [a], false, n⟩ : DirEntry).moved a (128 + a / 64) = ⟨.dx, [128 + a / 64], false, n⟩ := by
    simp [DirEntry.moved, DirEntry.owner, DirEntry.owned]
  unfold State.absorbMove
  simp only [hdir, hnone, halive, hroom, hutxn, huline, hmerged, hmoved]
  simp [Line.none]

end

section
variable {s : State} {a line : Nat} {ms : List Msg} (hst : (s.line a line).st = .i)
include hst

theorem exec_wbDirty_of_arriving {d : List Byte} {p : Bool} (harr : s.Arriving (.wbDirty a line d p) ms) :
    exec (.wbDirty a line) s = .next ((s.withMsgs ms).absorbDirty a line d p).wakeHomes := by
  rw [exec_wbDirty, execWbDirty, if_neg (by simp [hst]), harr.arrives (by simp [isWbDirty])]

theorem exec_wbClean_of_arriving (harr : s.Arriving (.wbClean a line) ms) :
    exec (.wbClean a line) s = .next ((s.withMsgs ms).absorbClean a line).wakeHomes := by
  rw [exec_wbClean, execWbClean, if_neg (by simp [hst]), harr.arrives (by simp [isWbClean])]

theorem exec_wbMove_of_arriving {st : LState} {d : List Byte} {p : Bool} (harr : s.Arriving (.wbMove a line st d p) ms) :
    exec (.wbMove a line) s = .next ((s.withMsgs ms).absorbMove a line st d p).wakeHomes := by
  rw [exec_wbMove, execWbMove, if_neg (by simp [hst]), harr.arrives (by simp [isWbMove])]

end

/-- Settles O39: each clause is one arrival at an agent, one sending of a writeback, or one absorption at the home. -/
theorem agentsTakeWhatTheyAreSent : Obligations.AgentsTakeWhatTheyAreSent := by
  unfold Obligations.AgentsTakeWhatTheyAreSent
  intro a line n d p ms s ha
  refine ⟨?home, ?forwarded, ?cacheless, ?completion, ?install, ?retry, ?grant, ?acked, ?sends, ?absorbs⟩
  case home =>
    intro g harr
    exact ⟨_, exec_datHome_of_agent harr, State.recvLine_spec ..⟩
  case forwarded =>
    intro g h harr
    exact ⟨_, exec_datFwd_of_arriving harr, State.recvLine_spec ..⟩
  case cacheless =>
    intro r g harr
    exact ⟨_, exec_datHome_of_cacheless harr, State.putResult_spec ..⟩
  case completion =>
    intro q v harr
    have hexec := exec_cmp_of_agent harr
    refine ⟨fun hupgrades => ?_, fun hsm hom => ?_⟩
    · rw [if_pos hupgrades] at hexec
      exact ⟨_, hexec, State.recvOwn_spec ..⟩
    · rw [if_neg (not_or.mpr ⟨hsm, hom⟩)] at hexec
      exact ⟨_, hexec, State.putResult_spec ..⟩
  case install =>
    intro u harr halive hroom
    exact ⟨_, exec_datInstall_of_room harr halive hroom, u.install_spec ha line d⟩
  case retry => exact exec_retry_of_arriving
  case grant =>
    intro harr
    rw [exec_grant_of_arriving harr, State.sendAgain_eq]
    rfl
  case acked =>
    intro harr hwb
    exact ⟨_, exec_wbAck_of_inWb harr (by simpa [Line.inWb, or_assoc] using hwb), rfl, line_setLine ..⟩
  case sends =>
    intro htr hcredit
    refine ⟨fun hst => ?_, fun hst => ?_, fun hst => ?_⟩
    · obtain ⟨hmsgs, hleft⟩ := State.evictLine_spec (by rcases hst with h | h <;> simp [h]) htr hcredit
      refine ⟨_, by rw [exec_wbDirty, execWbDirty, if_pos hst], hmsgs.trans ?_, hleft.trans ?_⟩
      · rcases hst with h | h <;> simp only [Line.wbMsg, h]
      · rcases hst with h | h <;> simp [LState.wbTr, h]
    · obtain ⟨hmsgs, hleft⟩ := State.evictLine_spec (by rcases hst with h | h <;> simp [h]) htr hcredit
      refine ⟨_, by rw [exec_wbClean, execWbClean, if_pos hst], hmsgs.trans ?_, hleft.trans ?_⟩
      · rcases hst with h | h <;> simp only [Line.wbMsg, h]
      · rcases hst with h | h <;> simp [LState.wbTr, h]
    · exact ⟨_, by rw [exec_wbMove, execWbMove, if_pos ⟨ha, hst⟩], State.sendMove_msgs hst htr hcredit⟩
  case absorbs =>
    intro hwaiting htxn hdir htier hst
    refine ⟨fun harr hlen => ?_, fun harr => ?_, fun st u harr hnone halive hroom => ?_⟩
    · obtain ⟨t, habsorb, hbytes, hpoison, honly, hentry, hmsgs, hwait⟩ :=
        State.absorbDirty_spec (s := s.withMsgs ms) htxn hdir ha htier hlen p
      have hexec := exec_wbDirty_of_arriving hst harr
      rw [habsorb, wakeHomes_none _ (by exact hwait.trans hwaiting)] at hexec
      exact ⟨t, hexec, hbytes, hpoison, honly, hentry, hmsgs⟩
    · have hexec := exec_wbClean_of_arriving hst harr
      rw [State.absorbClean_of_owner (s := s.withMsgs ms) htxn hdir ha, wakeHomes_none _ (by exact hwaiting)] at hexec
      exact ⟨_, hexec, by simp, by rw [State.dirEntry_setTxn, dirEntry_setDir_free], by simp⟩
    · have hroomOnly := cacheRoom_room hroom
      obtain ⟨hmem, -, -, -, hwait, -⟩ := State.roomOnly_parts hroomOnly
      have hexec := exec_wbMove_of_arriving hst harr
      rw [State.absorbMove_of_owner (s := s.withMsgs ms) htxn hdir hnone halive hroom,
        wakeHomes_none _ (by exact hwait.trans hwaiting)] at hexec
      exact ⟨_, hexec, line_setLine .., dirEntry_setDir _ _ _ (by simp) (by simp), rfl,
        fun x => congrArg (Table.get memDefault · x) hmem⟩

end Sys2Proof.Machine

namespace Sys2Proof.Machine

/-! ### The Drone's tick on an empty queue -/

/-- A Drone that has not been loaded does not slew (13_axis_links_and_drone.md R376). -/
theorem Time.tick_of_not_loaded {t : Time} (h : t.loaded = false) :
    t.tick = { t with drone := (t.drone + 1) % 2 ^ 64, prev := t.drone } := by
  simp [Time.tick, h]

theorem step_of_none_pending {s : State} (h : s.pending = []) : step s = .next (idleTick s) := by
  rw [step, h]

theorem idleTick_of_not_held {s : State} (h : s.boot.held = false) : idleTick s = s.modTime Time.tick := by
  simp [idleTick, h]

/-- Settles O2: the tick of a Drone that has not been loaded. -/
theorem idleStepIsOneDroneTick : Obligations.IdleStepIsOneDroneTick := by
  unfold Obligations.IdleStepIsOneDroneTick
  intro s hpending hheld hloaded
  rw [step_of_none_pending hpending, idleTick_of_not_held hheld, State.modTime, Time.tick_of_not_loaded hloaded]

/-! ### Packets that await a response (13_axis_links_and_drone.md R369, R370) -/

theorem exec_ackReceive (q tag : Nat) (s : State) : exec (.ackReceive q tag) s = execAckReceive q tag s := rfl

theorem exec_nackReceive (q tag : Nat) (st : Byte) (s : State) : exec (.nackReceive q tag st) s = execNackReceive q tag st s := rfl

theorem exec_packetDeadline (q tag : Nat) (s : State) : exec (.packetDeadline q tag) s = execPacketDeadline q tag s := rfl

theorem State.queue_forgetTag (s : State) (q tag p j : Nat) : (s.forgetTag q tag).queue p j = s.queue p j := by
  by_cases hp : p = q
  · subst hp; simp [State.forgetTag, State.queue, Quad.queue]
  · simp [State.forgetTag, State.queue, hp]

theorem Quad.tag_of_waitingTag {x : Quad} {tag : Nat} {o : OutPkt} (h : x.waitingTag tag = some o) : o.tag = tag := by
  simpa using List.find?_some h

/-- A failing packet whose command is still there ends that command's sending (13_axis_links_and_drone.md R370). -/
theorem State.failPacket_of_find {s : State} {q : Nat} {o : OutPkt} {c : Cmd} (h : (s.queue q o.j).find o.idx = some c)
    (status : Nat) :
    s.failPacket q o status = ((s.forgetTag q o.tag).setCmd q o.j (c.failSend s.drone status)).pump q := by
  rw [State.failPacket, State.queue_forgetTag, h]; rfl

section
variable {q tag : Nat} {o : OutPkt} {s : State} (hwaits : (s.quad q).waitingTag tag = some o)
include hwaits

theorem State.respondTo_of_inTime (h : s.inTime o.deadline = true) (f : OutPkt → State) : s.respondTo q tag f = f o := by
  rw [State.respondTo, hwaits]; exact if_pos h

theorem State.respondTo_of_late (h : s.inTime o.deadline = false) (f : OutPkt → State) :
    s.respondTo q tag f = s.lateResponse q := by
  rw [State.respondTo, hwaits]; exact if_neg (by simp [h])

/-- In the deadline's deciding cycle a response still wins (13_axis_links_and_drone.md R369). -/
theorem exec_packetDeadline_of_inTime (h : s.inTime o.deadline = true) : exec (.packetDeadline q tag) s = .next s := by
  rw [exec_packetDeadline, execPacketDeadline, hwaits]; simp [h]

end

section
variable {q tag : Nat} {s : State} (hruns : s.quadRuns q = true)
include hruns

theorem exec_ackReceive_of_runs :
    exec (.ackReceive q tag) s = .next (s.respondTo q tag (fun o => (s.forgetTag q o.tag).pump q)) := by
  rw [exec_ackReceive, execAckReceive, if_pos hruns]

theorem exec_nackReceive_of_runs {st : Byte} (hst : st.toNat = stLinkLost ∨ st.toNat = stEpochStale) :
    exec (.nackReceive q tag st) s = .next (s.respondTo q tag (fun o => s.failPacket q o st.toNat)) := by
  rw [exec_nackReceive, execNackReceive, if_pos (by simpa [hruns] using hst)]

theorem exec_packetDeadline_of_late {o : OutPkt} (hwaits : (s.quad q).waitingTag tag = some o)
    (h : s.inTime o.deadline = false) :
    exec (.packetDeadline q tag) s = .next (s.failPacket q o stLinkLost) := by
  rw [exec_packetDeadline, execPacketDeadline, hwaits]; simp [h, hruns]

end

/-- Settles O28: `respondTo` and the deadline ask the same question, whether the deciding cycle is over; the answer to it
picks the clause. -/
theorem responsesAndDeadlines : Obligations.ResponsesAndDeadlines := by
  unfold Obligations.ResponsesAndDeadlines
  intro q tag o c s hruns hwaits let_go failed
  replace hwaits : (s.quad q).waitingTag tag = some o := hwaits
  have htag := Quad.tag_of_waitingTag hwaits
  have hlost : (0x43 : Byte).toNat = stLinkLost ∨ (0x43 : Byte).toNat = stEpochStale := .inl rfl
  have hstale : (0x44 : Byte).toNat = stLinkLost ∨ (0x44 : Byte).toNat = stEpochStale := .inr rfl
  have hgo : s.forgetTag q o.tag = let_go := by rw [htag]; rfl
  have hfail : (s.queue q o.j).find o.idx = some c → ∀ st, s.failPacket q o st = failed st := fun hfind st => by
    rw [State.failPacket_of_find hfind, hgo]; rfl
  refine ⟨fun h => ?inTime, fun hdrone hprev => ?late⟩
  case inTime =>
    have hin := inTime_of h
    refine ⟨?_, fun hfind => ⟨?_, ?_⟩, exec_packetDeadline_of_inTime hwaits hin⟩
    · rw [exec_ackReceive_of_runs hruns, State.respondTo_of_inTime hwaits hin, hgo]
    · rw [exec_nackReceive_of_runs hruns hlost, State.respondTo_of_inTime hwaits hin]
      exact congrArg _ (hfail hfind 0x43)
    · rw [exec_nackReceive_of_runs hruns hstale, State.respondTo_of_inTime hwaits hin]
      exact congrArg _ (hfail hfind 0x44)
  case late =>
    have hlate := not_inTime_of ⟨hdrone, hprev⟩
    refine ⟨fun hfind => ?_, fun i hi => ?_⟩
    · rw [exec_packetDeadline_of_late hruns hwaits hlate]
      exact congrArg _ (hfail hfind 0x43)
    · have hcount : exec i s = .next (s.lateResponse q) := by
        simp only [List.mem_cons, List.not_mem_nil, or_false] at hi
        rcases hi with rfl | rfl | rfl
        · rw [exec_ackReceive_of_runs hruns, State.respondTo_of_late hwaits hlate]
        · rw [exec_nackReceive_of_runs hruns hlost, State.respondTo_of_late hwaits hlate]
        · rw [exec_nackReceive_of_runs hruns hstale, State.respondTo_of_late hwaits hlate]
      rw [hcount]; rfl

/-! ### The way of a packet (13_axis_links_and_drone.md R362 to R364) -/

theorem exec_packetForward_of_not_held {s : State} (h : s.boot.held = false) (arr : Nat) (pk : Packet) :
    exec (.packetForward arr pk) s = .next (s.route arr pk) := by
  show execPacketForward arr pk s = _
  simp [execPacketForward, h]

@[simp] theorem nextAxis_self (me : Coords) : nextAxis me me = none := by simp [nextAxis]

/-- The next axis is the first on which two places differ. -/
theorem nextAxis_of_first {me dest : Coords} {a : Nat} (ha : a < 3) (hsame : ∀ b, b < a → onAxis me b = onAxis dest b)
    (hdiff : onAxis me a ≠ onAxis dest a) : nextAxis me dest = some a := by
  rw [nextAxis, List.find?_range_eq_some]
  exact ⟨by simpa using hdiff, by simpa using ha, fun b hb => by simpa using hsame b hb⟩

/-- In its first stage a packet takes the shorter way of its next axis, where that link is usable. -/
theorem State.nextHop_of_usable {s : State} {arr a : Nat} {p : Packet} (hstage : p.stage = .n)
    (haxis : nextAxis s.self p.dest = some a) (husable : s.linkUsable (linkAt a (s.wayTo p a)) = true) :
    s.nextHop arr p = .link (linkAt a (s.wayTo p a))
      { p with stage := .n, pastDateline := (decide (arr / 2 = a) && p.pastDateline) ||
          crosses (s.ringLen a) (onAxis s.self a) (s.wayTo p a) } none := by
  simp [State.nextHop, State.ringHop, haxis, hstage, husable]

theorem State.route_of_link {s : State} {arr n : Nat} {p p' : Packet} (h : s.nextHop arr p = .link n p' none) :
    s.route arr p = s.sendOn n arr p p' := by
  rw [State.route, State.routeWith, h]

theorem State.route_of_here {s : State} {arr : Nat} {p : Packet} (h : s.nextHop arr p = .here) :
    s.route arr p = s.emit (.packet 6 p) := by
  rw [State.route, State.routeWith, h]

theorem State.nextHop_self {s : State} {p : Packet} (h : p.dest = s.self) (arr : Nat) : s.nextHop arr p = .here := by
  rw [State.nextHop, h, nextAxis_self]

/-- Settles O29: the next hop of the first stage, and of a packet that is where it goes. -/
theorem packetsTakeTheShorterWay : Obligations.PacketsTakeTheShorterWay := by
  unfold Obligations.PacketsTakeTheShorterWay
  intro arr pk s hheld
  rw [exec_packetForward_of_not_held hheld]
  refine ⟨fun a ha hstage hsame hdiff => ?_, fun hdest => congrArg _ (State.route_of_here (State.nextHop_self hdest arr))⟩
  intro len me it minus n husable
  exact congrArg _ (State.route_of_link (State.nextHop_of_usable hstage (nextAxis_of_first ha hsame hdiff) husable))

end Sys2Proof.Machine

namespace Sys2Proof.Machine

/-! ### Flits and replay (13_axis_links_and_drone.md R357, R358) -/

theorem exec_flitReceive (n : Nat) (f : Flit) (s : State) : exec (.flitReceive n f) s = execFlitReceive n f s := rfl

theorem exec_replayRequest (n : Nat) (s : State) : exec (.replayRequest n) s = execReplayRequest n s := rfl

theorem exec_replayTimeout (n : Nat) (s : State) : exec (.replayTimeout n) s = execReplayTimeout n s := rfl

/-- What FEC counts leaves the receive sequence as it was. -/
theorem State.rxSeq_countFec (s : State) (n : Nat) : ((s.countFec n).link n).rxSeq = (s.link n).rxSeq := by
  rw [State.countFec, State.drawNat, State.link_modLink_same]
  split
  · rfl
  · split
    · rfl
    · rfl

section
variable {n : Nat} {s : State} (hheld : s.boot.held = false) (hup : (s.link n).st = .up)
include hheld hup

/-- On a link that is up a flit fails its check, is out of order, or is taken. -/
theorem exec_flitReceive_of_up (f : Flit) :
    exec (.flitReceive n f) s = .next (
      if badFlit f then ((s.countFec n).modLink n (fun l => { l with crc := satAdd 0xFFFF l.crc 1 })).emit (.replayRequest n)
      else if f.seq ≠ (s.link n).rxSeq then (s.countFec n).emit (.replayRequest n)
      else (s.countFec n).acceptFlit n f) := by
  rw [exec_flitReceive, execFlitReceive, if_neg (by simp [hheld, hup])]
  simp only [State.rxSeq_countFec]

theorem exec_replayRequest_of_up :
    exec (.replayRequest n) s = .next (if (s.link n).replayBuf = [] then s else s.replay n) := by
  rw [exec_replayRequest, execReplayRequest]
  by_cases hbuf : (s.link n).replayBuf = []
  · simp [hbuf]
  · simp [hheld, hup, hbuf]

theorem exec_replayTimeout_of_up {g : Flit} {t : Nat} {r : List (Flit × Nat)} (hbuf : (s.link n).replayBuf = (g, t) :: r) :
    exec (.replayTimeout n) s = .next (if s.inTime (t + 2000) then s else s.replay n) := by
  have hdue : s.overdue (s.link n) = !s.inTime (t + 2000) := by rw [State.overdue, hbuf]
  rw [exec_replayTimeout, execReplayTimeout, hdue]
  by_cases hin : s.inTime (t + 2000) = true
  · simp [hin]
  · simp [hheld, hup, hin]

end

/-- A link's replay buffer goes out again, its waiting times begun anew. -/
theorem State.resend_modLink (s : State) (n : Nat) {g : Link → Link} (h : (g (s.link n)).replayBuf = (s.link n).replayBuf) :
    (s.modLink n g).resend n = ((s.modLink n g).modLink n (fun l => { l with
      replayBuf := l.replayBuf.map (fun e => (e.1, s.drone)) })).putFlits n ((s.link n).replayBuf.map Prod.fst) := by
  rw [State.resend, State.link_modLink_same, h]; rfl

/-- Settles O30: a flit's three ways, and `replay` behind both a request and a timeout. -/
theorem flitsInOrderOrReplayed : Obligations.FlitsInOrderOrReplayed := by
  unfold Obligations.FlitsInOrderOrReplayed
  intro n f s hheld hup z acked taken again
  have hflit := exec_flitReceive_of_up hheld hup f
  have hrequest := exec_replayRequest_of_up hheld hup
  have hreplay : s.replay n = again := by
    by_cases height : (s.link n).inRow = 8
    · simp only [State.replay, again, height, if_true]
    · simp only [State.replay, again, height, if_false]
      exact State.resend_modLink s n rfl
  refine ⟨fun hbad => ?bad, fun hgood hseq => ?outOfOrder, fun hgood hseq => ?inOrder, fun hbuf => ?request,
    fun hbuf => ?emptyBuffer, fun g t r hbuf hdrone hprev => ?overdue, fun g t r hbuf hin => ?inTime⟩
  case bad => rw [hflit, if_pos hbad]; rfl
  case outOfOrder => rw [hflit, if_neg (by simp [hgood]), if_pos hseq]
  case inOrder => rw [hflit, if_neg (by simp [hgood]), if_neg (not_not_intro hseq)]; rfl
  case request => rw [hrequest, if_neg hbuf, hreplay]
  case emptyBuffer => rw [hrequest, if_pos hbuf]
  case overdue =>
    rw [exec_replayTimeout_of_up hheld hup hbuf, if_neg (by simp [not_inTime_of ⟨hdrone, hprev⟩]), hreplay]
  case inTime => rw [exec_replayTimeout_of_up hheld hup hbuf, if_pos (inTime_of hin)]

/-! ### Lanes and training (13_axis_links_and_drone.md R359, R360) -/

theorem exec_linkLaneFail (n : Nat) (dir : LinkDir) (lane : Nat) (s : State) :
    exec (.linkLaneFail n dir lane) s = execLinkLaneFail n dir lane s := rfl

theorem exec_linkRetrainTimeout (n : Nat) (s : State) : exec (.linkRetrainTimeout n) s = execLinkRetrainTimeout n s := rfl

theorem exec_linkTrainRetry (n : Nat) (s : State) : exec (.linkTrainRetry n) s = execLinkTrainRetry n s := rfl

theorem exec_linkTrained (n : Nat) (c : Coords) (k : Nat) (s : State) : exec (.linkTrained n c k) s = execLinkTrained n c k s := rfl

theorem modLink_modLink (s : State) (n : Nat) (f g : Link → Link) : (s.modLink n f).modLink n g = s.modLink n (fun l => g (f l)) := by
  unfold State.modLink State.link
  simp only [Table.get_put_same]
  rw [Table.put_put]

/-- A link whose lanes have all been good in both directions. -/
structure Link.LanesGood (l : Link) : Prop where
  failedTx : l.failedTx = []
  failedRx : l.failedRx = []
  spareRx : l.spareRx = false
  spareTx : l.spareTx = false
  width8 : l.width8 = false

/-- The first failed data lane is repaired: its spare is used and the width stays. -/
theorem Link.settleLanes_failLane_tx {l : Link} (h : l.LanesGood) {lane : Nat} (hlane : lane < 16) :
    (l.failLane .tx lane).settleLanes false = { l with failedTx := [lane], spareTx := true, half := false } := by
  obtain ⟨htx, hrx, hspareRx, hspareTx, hwidth⟩ := h
  have hne : lane ≠ 16 := by omega
  simp [Link.failLane, Link.settleLanes, unrepaired, htx, hrx, hspareRx, hspareTx, hwidth, hlane, hne.symm]

theorem State.laneFails_of_first_tx {s : State} {n lane : Nat} (h : (s.link n).LanesGood) (hlane : lane < 16) :
    s.laneFails n .tx lane =
      (s.modLink n (fun l => { l with failedTx := [lane], spareTx := true, half := false })).logErr
        { linkRec 0 0x0003 n with aux0 := 1 } := by
  have htx : goodHalf (unrepaired ((s.link n).failLane .tx lane).failedTx) = some false := by
    have hne : lane ≠ 16 := by omega
    simp [Link.failLane, h.failedTx, unrepaired, goodHalf, hne.symm, hlane]
  have hrx : goodHalf (unrepaired ((s.link n).failLane .tx lane).failedRx) = some false := by
    simp [Link.failLane, h.failedRx, unrepaired, goodHalf]
  rw [State.laneFails, htx, hrx]
  simp [Link.settleLanes_failLane_tx h hlane, h.spareTx, State.modLink]

/-- With nothing waiting to be sent, a link that goes down hands nothing back to routing. -/
theorem State.linkDown_of_none_waiting {s : State} {n : Nat} (h : (s.link n).txWait = []) :
    s.linkDown n = s.modLink n (fun l => { l with
      st := .down, replayBuf := [], txWait := [], used := [], swap := none, inRow := 0, rx := [], since := s.drone }) := by
  rw [State.linkDown, h]; rfl

section
variable {n : Nat} {s : State} (hheld : s.boot.held = false)
include hheld

theorem exec_linkLaneFail_of_first_tx (hup : (s.link n).st = .up) (hgood : (s.link n).LanesGood) {lane : Nat}
    (hlane : lane < 16) :
    exec (.linkLaneFail n .tx lane) s = .next
      ((s.modLink n (fun l => { l with failedTx := [lane], spareTx := true, half := false })).logErr
        { linkRec 0 0x0003 n with aux0 := 1 }) := by
  rw [exec_linkLaneFail, execLinkLaneFail, if_neg (by simp [hheld, hup, hgood.failedTx]),
    State.laneFails_of_first_tx hgood hlane]

theorem exec_linkRetrainTimeout_of_due (hst : (s.link n).st = .retraining) (hdue : (s.link n).since + 1000000 ≤ s.drone) :
    exec (.linkRetrainTimeout n) s = .next (s.linkDown n) := by
  rw [exec_linkRetrainTimeout, execLinkRetrainTimeout, if_pos (by simp [hheld, hst, hdue])]

variable (hused : s.linkUnused n = false)
include hused

theorem exec_linkTrainRetry_of_due (hst : (s.link n).st = .down) (hdue : (s.link n).since + 100000000 ≤ s.drone) :
    exec (.linkTrainRetry n) s = .next (s.startTraining n) := by
  rw [exec_linkTrainRetry, execLinkTrainRetry, if_pos (by simp [hheld, hused, hst, hdue])]

/-- Training ends with the link up where the partner is the one predicted, else down and miswired. -/
theorem exec_linkTrained_of_training (hst : (s.link n).st = .training ∨ (s.link n).st = .retraining) (c : Coords) (k : Nat) :
    exec (.linkTrained n c k) s = .next (
      if s.wired n c k then
        ((s.modLink n (fun l => { l with st := .up, miswired := false, since := s.drone })).resend n).drainLink n
      else (s.modLink n (fun l => { l with miswired := true })).linkDown n) := by
  rw [exec_linkTrained, execLinkTrained, if_neg (by rcases hst with hst | hst <;> simp [hheld, hused, hst])]

end

/-- The partner that the roles and ring lengths predict (13_axis_links_and_drone.md R360). -/
theorem State.wired_iff (s : State) (n : Nat) (c : Coords) (k : Nat) :
    s.wired n c k = true ↔ c = s.neighbour n ∧ k = n / 2 * 2 + (1 - n % 2) := by
  simp [State.wired]

/-- Settles O31: each event of a link by its own lemma. -/
theorem linksFailAndTrain : Obligations.LinksFailAndTrain := by
  unfold Obligations.LinksFailAndTrain
  intro n s hheld
  refine ⟨?laneFails, ?retrained, ?again, ?trained⟩
  case laneFails =>
    intro lane hlane hup htx hrx hspareRx hspareTx hwidth
    exact exec_linkLaneFail_of_first_tx hheld hup ⟨htx, hrx, hspareRx, hspareTx, hwidth⟩ hlane
  case retrained =>
    intro hst hdue
    exact exec_linkRetrainTimeout_of_due hheld hst hdue
  case again =>
    intro hused hst hdue
    refine ⟨_, exec_linkTrainRetry_of_due hheld hused hst hdue, ?_⟩
    simp only [State.startTraining, State.link_modLink_same, true_and]
    exact ⟨rfl, fun m hm => State.link_modLink_ne s _ hm⟩
  case trained =>
    intro c k hused hst
    have htrained := exec_linkTrained_of_training hheld hused hst c k
    rw [← State.wired_iff]
    refine ⟨fun hwired => ?up, fun hwired hnone => ?miswired, fun hwired => ?down⟩
    case up => rw [htrained, if_pos hwired, State.resend_modLink s n rfl]
    case miswired =>
      refine ⟨_, htrained, ?_⟩
      rw [if_neg hwired, State.linkDown_of_none_waiting (by rw [State.link_modLink_same]; exact hnone), modLink_modLink]
      refine ⟨?_, ?_, rfl, fun m hm => State.link_modLink_ne s _ hm⟩
      · rw [State.link_modLink_same]
      · rw [State.link_modLink_same]
    case down => rw [htrained, if_neg hwired]

/-! ### Fault injection (13_axis_links_and_drone.md R373) -/

theorem exec_axlFiCtrlWrite (p : Port) (n : Nat) (v : Word) (s : State) :
    exec (.axlFiCtrlWrite p n v) s = execAxlFiCtrlWrite p n v s := rfl

/-- A write that the register refuses sets denied alone. -/
def State.denyInjection (s : State) (n : Nat) : State := s.modLink n (fun l => { l with fiDenied := true })

/-- Only a management port holds MGMT_SEM (17_configuration_and_security.md R453). -/
theorem State.mgmt_of_mayManage {s : State} {p : Port} (h : s.mayManage p = true) : p = .mgmtA ∨ p = .mgmtB := by
  cases p with
  | mgmtA => exact .inl rfl
  | mgmtB => exact .inr rfl
  | core _ => simp [State.mayManage, State.holdsSem] at h
  | pcie _ => simp [State.mayManage, State.holdsSem] at h

/-- A management port's write is judged by `mayInject`. -/
theorem exec_axlFiCtrlWrite_of_mgmt {p : Port} (hp : p = .mgmtA ∨ p = .mgmtB) {s : State} (hopen : s.mgmtOpen = true) (n : Nat)
    (v : Word) :
    exec (.axlFiCtrlWrite p n v) s = .next (if s.mayInject p then s.modLink n (·.writeFi v) else s.denyInjection n) := by
  rw [exec_axlFiCtrlWrite]
  rcases hp with rfl | rfl
  · simp [execAxlFiCtrlWrite, hopen, State.denyInjection]
  · simp [execAxlFiCtrlWrite, hopen, State.denyInjection]

/-- The fields of AXLn_FI_CTRL read as they were put together (13_axis_links_and_drone.md Table AXL-9). -/
theorem fiCtrl_fields {kind delay rate n e mask : Nat} (hkind : kind < 2 ^ 2) (hdelay : delay < 2 ^ 2) (hrate : rate < 2 ^ 5)
    (hn : n < 2 ^ 4) (he : e < 2 ^ 5) (hmask : mask < 2 ^ 8) :
    let f := (BitVec.ofNat 32 (kind * 2 ^ 24 + delay * 2 ^ 22 + rate * 2 ^ 17 + n * 2 ^ 13 + e * 2 ^ 8 + mask)).toNat
    f / 2 ^ 24 % 4 = kind ∧ f / 2 ^ 17 % 32 = rate ∧ f % 2 ^ 8 = mask := by
  dsimp only
  rw [BitVec.toNat_ofNat]
  omega

theorem bits_lt (v lo width : Nat) : bits v lo width < 2 ^ width := Nat.mod_lt _ (by simp)

/-- A rate below 4 or above 30 is a reserved encoding (13_axis_links_and_drone.md Table AXL-9). -/
theorem rate_reserved_iff (r : Nat) : (decide (r < 4) || decide (30 < r)) = true ↔ ¬ (4 ≤ r ∧ r ≤ 30) := by
  rw [Bool.or_eq_true, decide_eq_true_iff, decide_eq_true_iff]; omega

/-- What a write of the register leaves: a reserved rate keeps the field, and a 1 in denied clears it. -/
theorem Link.writeFi_spec (l : Link) (v : Word) :
    (l.writeFi v).fiEnable = v.getLsbD 31 ∧ (l.writeFi v).fiDenied = (l.fiDenied && !v.getLsbD 30) ∧
    (l.writeFi v).fiCtrl.toNat / 2 ^ 24 % 4 = v.toNat / 2 ^ 24 % 4 ∧
    (l.writeFi v).fiCtrl.toNat / 2 ^ 17 % 32 =
      (if 4 ≤ bits v.toNat 17 5 ∧ bits v.toNat 17 5 ≤ 30 then bits v.toNat 17 5 else bits l.fiCtrl.toNat 17 5) ∧
    (l.writeFi v).fiCtrl.toNat % 2 ^ 8 = v.toNat % 2 ^ 8 := by
  have hkeep : ∀ (b : Bool) (x y lo w : Nat), (if b then bits x lo w else bits y lo w) < 2 ^ w := fun b x y lo w => by
    split
    · exact bits_lt ..
    · exact bits_lt ..
  obtain ⟨hkind, hrate, hmask⟩ := fiCtrl_fields (bits_lt v.toNat 24 2) (hkeep (decide (bits v.toNat 22 2 = 3)) l.fiCtrl.toNat v.toNat 22 2)
    (hkeep (decide (bits v.toNat 17 5 < 4) || decide (30 < bits v.toNat 17 5)) l.fiCtrl.toNat v.toNat 17 5)
    (bits_lt v.toNat 13 4) (hkeep (decide (7 < bits v.toNat 8 5)) l.fiCtrl.toNat v.toNat 8 5) (bits_lt v.toNat 0 8)
  exact ⟨(getLsbD_bit v 31).symm, by rw [getLsbD_bit]; rfl, hkind,
    hrate.trans (by simp only [rate_reserved_iff, ite_not]), hmask.trans (by simp [bits])⟩

/-- Settles O32: the holder's write before its lease ends is `Link.writeFi`, any other only sets denied. -/
theorem faultInjectionIsKeptForTheHolder : Obligations.FaultInjectionIsKeptForTheHolder := by
  unfold Obligations.FaultInjectionIsKeptForTheHolder
  intro p n v s
  refine ⟨fun hmay hlease => ?holder, fun c hp hruns => ?core, fun hp hopen hno => ?other⟩
  case holder =>
    have hopen : s.mgmtOpen = true := (Bool.and_eq_true_iff.mp hmay).1
    have hinject : s.mayInject p = true := by simp [State.mayInject, hmay, hlease]
    obtain ⟨henable, hdenied, hkind, hrate, hmask⟩ := Link.writeFi_spec (s.link n) v
    refine ⟨s.modLink n (·.writeFi v), ?_, rfl, fun m hm => State.link_modLink_ne s _ hm, ?_⟩
    · rw [exec_axlFiCtrlWrite_of_mgmt (State.mgmt_of_mayManage hmay) hopen, if_pos hinject]
    · rw [State.link_modLink_same]
      exact ⟨henable, hdenied, hkind, hmask, fun hrated => hrate.trans (if_pos hrated), fun hreserved => hrate.trans (if_neg hreserved)⟩
  case core => subst hp; simp [exec_axlFiCtrlWrite, execAxlFiCtrlWrite, hruns]
  case other =>
    have hinject : s.mayInject p = false := by
      rcases hno with hsem | hend
      · simp [State.mayInject, State.mayManage, hsem]
      · simp [State.mayInject, Nat.not_lt.mpr hend]
    rw [exec_axlFiCtrlWrite_of_mgmt hp hopen, if_neg (by simp [hinject])]
    rfl

end Sys2Proof.Machine

namespace Sys2Proof.Machine

/-! ### The load of the Drone (13_axis_links_and_drone.md R378) -/

theorem exec_droneLoad (t1 t2 t3 t4 : Dword) (s : State) : exec (.droneLoad t1 t2 t3 t4) s = execDroneLoad t1 t2 t3 t4 s := rfl

theorem exec_droneSyncExchange (t1 t2 t3 t4 : Dword) (s : State) :
    exec (.droneSyncExchange t1 t2 t3 t4) s = execDroneSyncExchange t1 t2 t3 t4 s := rfl

/-- An entry whose changed value is no default reads as changed. -/
theorem Table.get_mapVals_of_ne {α : Type} [DecidableEq α] {d : α} {f : α → α} {t : Table α} {i : Nat}
    (hget : Table.get d t i ≠ d) (hf : f (Table.get d t i) ≠ d) :
    Table.get d (Table.mapVals d f t) i = f (Table.get d t i) := by
  unfold Table.mapVals
  induction t with
  | nil => exact absurd rfl hget
  | cons e t ih =>
    obtain ⟨k, v⟩ := e
    by_cases hk : k = i
    · subst hk
      have hv : f v ≠ d := by simpa [Table.get_cons] using hf
      simp [Table.get_cons, hv]
    · have hskip : Table.get d ((k, v) :: t) i = Table.get d t i := by rw [Table.get_cons, if_neg hk]
      rw [hskip] at hget hf ⊢
      rw [List.map_cons, List.filter_cons]
      split
      · rw [Table.get_cons, if_neg hk]; exact ih hget hf
      · exact ih hget hf

/-- A command's wait moves by the offset, and nothing else of it. -/
theorem Cmd.shift_eq (o : Int) (c : Cmd) :
    c.shift o = { c with deadline := c.deadline.map (fun d => ((d : Int) + o).toNat) } := by
  unfold Cmd.shift
  cases c.deadline with
  | none => rfl
  | some d => rfl

theorem Queue.find_shift (o : Int) (x : Queue) (idx : Word) : (x.shift o).find idx = (x.find idx).map (Cmd.shift o) :=
  List.find?_map ..

theorem Queue.ne_reset_of_find {x : Queue} {idx : Word} {c : Cmd} (h : x.find idx = some c) : x ≠ Queue.reset := by
  rintro rfl; cases h

theorem Quad.ne_reset_of_find {x : Quad} {j : Nat} {idx : Word} {c : Cmd} (h : (x.queue j).find idx = some c) :
    x ≠ Quad.reset := by
  rintro rfl; cases h

/-- A command that a quad's queue finds is found there with its wait moved. -/
theorem Quad.find_shift (o : Int) {x : Quad} {j : Nat} {idx : Word} {c : Cmd} (h : (x.queue j).find idx = some c) :
    ((x.shift o).queue j).find idx = some (c.shift o) := by
  have hfind : ((x.queue j).shift o).find idx = some (c.shift o) := by rw [Queue.find_shift, h]; rfl
  have hqueue : (x.shift o).queue j = (x.queue j).shift o :=
    Table.get_mapVals_of_ne (Queue.ne_reset_of_find h) (Queue.ne_reset_of_find hfind)
  rw [hqueue, hfind]

theorem State.find_shiftDeadlines (o : Int) {s : State} {q j : Nat} {idx : Word} {c : Cmd}
    (h : (s.queue q j).find idx = some c) : ((s.shiftDeadlines o).queue q j).find idx = some (c.shift o) := by
  have hfind : (((s.quad q).shift o).queue j).find idx = some (c.shift o) := Quad.find_shift o h
  have hquad : (s.shiftDeadlines o).quad q = (s.quad q).shift o :=
    Table.get_mapVals_of_ne (Quad.ne_reset_of_find h) (Quad.ne_reset_of_find hfind)
  rw [State.queue, hquad, hfind]

section
variable {s : State} (hheld : s.boot.held = false)
include hheld

theorem exec_droneLoad_of_parent (hloaded : s.time.loaded = false) (hparent : s.hasParent = true) (t1 t2 t3 t4 : Dword) :
    exec (.droneLoad t1 t2 t3 t4) s = .next (s.loadDrone (droneOffset t1 t2 t3 t4)) := by
  rw [exec_droneLoad, execDroneLoad, if_pos (by simp [hheld, hloaded, hparent])]

theorem exec_droneSyncExchange_of_due (hloaded : s.time.loaded = true) (hparent : s.hasParent = true)
    (hdue : s.time.lastExchange + 1024 ≤ s.drone) (t1 t2 t3 t4 : Dword) :
    exec (.droneSyncExchange t1 t2 t3 t4) s = .next (s.modTime (fun t => { t with
      offset := droneOffset t1 t2 t3 t4, lastExchange := t.drone, synced := t.within (droneOffset t1 t2 t3 t4),
      freeRun := t.freeRun && !t.within (droneOffset t1 t2 t3 t4) })) := by
  rw [exec_droneSyncExchange, execDroneSyncExchange, if_pos (by simp [hheld, hloaded, hparent, hdue])]

end

theorem exec_droneLoad_of_loaded {s : State} (h : s.time.loaded = true) (t1 t2 t3 t4 : Dword) :
    exec (.droneLoad t1 t2 t3 t4) s = .next s := by
  rw [exec_droneLoad, execDroneLoad, if_neg (by simp [h])]

/-! ### Election and free running (13_axis_links_and_drone.md R375, R377) -/

theorem exec_rootElection_of_not_held {s : State} (h : s.boot.held = false) (cands : List Candidate) :
    exec (.rootElection cands) s = .next (s.elect cands) := by
  show execRootElection cands s = _
  simp [execRootElection, h]

theorem exec_droneFreeRun_of_not_root {s : State} (hheld : s.boot.held = false) (hroot : s.time.isRoot = false) :
    exec .droneFreeRun s = .next s.freeRunning := by
  show execDroneFreeRun s = _
  simp [execDroneFreeRun, hheld, hroot]

/-- Running free clears synced, names no parent and leaves the Drone. -/
theorem State.freeRunning_time (s : State) :
    s.freeRunning.time = { s.time with freeRun := true, synced := false, isRoot := false, parent := 7, rootAt := 0, hops := 0 } := by
  unfold State.freeRunning
  split
  · rfl
  · simp [State.modTime]

/-- A package that reaches no other is the root if it has a priority. -/
theorem rootOf_alone (c : Candidate) : rootOf [c] = if 0 < c.priority then some c else none := by
  by_cases h : 0 < c.priority
  · simp [rootOf, bestOf, h]
  · simp [rootOf, bestOf, h]

/-- While one candidate is synchronised, one that is not is not eligible (13_axis_links_and_drone.md R378). -/
theorem rootOf_unsynced_synced {a b : Candidate} (ha : a.synced = false) (hb : b.synced = true) (hpriority : 0 < b.priority) :
    rootOf [a, b] = some b := by
  simp [rootOf, bestOf, ha, hb, hpriority]

theorem State.elect_alone_of_priority {s : State} (h : 0 < s.item 4 4 0) :
    s.elect [] = s.modTime (fun t => { t with
      freeRun := false, synced := true, isRoot := true, loaded := true, parent := 7,
      rootAt := BitVec.ofNat 30 (coordsVal s.self), hops := 0, offset := 0 }) := by
  have hroot : rootOf [s.selfCandidate] = some s.selfCandidate := (rootOf_alone _).trans (if_pos h)
  simp only [State.elect, List.filter_nil, hroot]
  exact if_pos rfl

theorem State.elect_alone_of_no_priority {s : State} (h : s.item 4 4 0 = 0) : s.elect [] = s.freeRunning := by
  have hroot : rootOf [s.selfCandidate] = none := (rootOf_alone _).trans (if_neg (by simp [State.selfCandidate, h]))
  simp only [State.elect, List.filter_nil, hroot]

/-- The one synchronised candidate becomes the root, over the link that leads to it. -/
theorem State.elect_of_one_synced {s : State} {c : Candidate} {n : Nat} (hat : c.at_ ≠ s.self) (hsynced : c.synced = true)
    (hpriority : 0 < c.priority) (hloaded : s.time.loaded = false) (hparent : s.parentFor [s.selfCandidate, c] c.at_ = some n) :
    s.elect [c] = s.modTime (fun t => { t with
      isRoot := false, parent := n, rootAt := BitVec.ofNat 30 (coordsVal c.at_),
      hops := s.hopsOver [s.selfCandidate, c] c.at_ n }) := by
  have hothers : [c].filter (fun c => decide (c.at_ ≠ s.self)) = [c] := by simp [hat]
  have hroot : rootOf [s.selfCandidate, c] = some c := rootOf_unsynced_synced hloaded hsynced hpriority
  simp only [State.elect, hothers, hroot, if_neg hat, hparent]

/-! ### Step boundaries (13_axis_links_and_drone.md R379) -/

theorem exec_stepBoundaryPush_of_may {s : State} {p : Port} (h : s.mayWrite p = true) (v : Word) :
    exec (.stepBoundaryPush p v) s = .next (s.modTime (fun t => t.push (t.bndHigh.toNat * 2 ^ 32 + v.toNat))) := by
  show execStepBoundaryPush p v s = _
  rw [execStepBoundaryPush, if_pos h]

theorem Time.push_of_room {t : Time} {b : Nat} (hroom : t.bounds.length < 4) (hnow : t.drone ≤ b) (hpast : ∀ x ∈ t.bounds, x < b) :
    t.push b = { t with bounds := t.bounds ++ [b] } :=
  if_pos ⟨hroom, hnow, by simpa using hpast⟩

theorem Time.push_of_not {t : Time} {b : Nat} (h : 4 ≤ t.bounds.length ∨ b < t.drone ∨ ∃ x ∈ t.bounds, b ≤ x) :
    t.push b = { t with bndErr := true } := by
  refine if_neg (fun ⟨hroom, hnow, hpast⟩ => ?_)
  rcases h with hfull | hbefore | ⟨x, hx, hle⟩
  · omega
  · omega
  · have hlt : x < b := by simpa using List.all_eq_true.mp hpast x hx
    omega

theorem exec_stepBoundary (fits : List CalFit) (s : State) : exec (.stepBoundary fits) s = execStepBoundary fits s := rfl

/-- At the head boundary: it is passed once the Drone has reached it. -/
theorem exec_stepBoundary_of_head {s : State} (hheld : s.boot.held = false) {h : Nat} {rest : List Nat}
    (hbounds : s.time.bounds = h :: rest) (fits : List CalFit) :
    exec (.stepBoundary fits) s = .next (if h ≤ s.drone then s.passBoundary rest fits else s) := by
  rw [exec_stepBoundary, execStepBoundary, hbounds]
  simp [hheld]

/-- The end of protections changes tiles alone. -/
theorem State.unprotect_frame (l : List Nat) (s : State) :
    ∃ z, l.foldl (fun s t => s.setTile t { s.tile t with protTill := none }) s = s.modTier (fun x => { x with tiles := z }) := by
  induction l generalizing s with
  | nil => exact ⟨s.tier.tiles, rfl⟩
  | cons t l ih =>
    obtain ⟨z, hz⟩ := ih (s.setTile t { s.tile t with protTill := none })
    exact ⟨z, by rw [List.foldl_cons, hz]; rfl⟩

theorem State.judgeSched_of_none_active {s : State} (h : s.tier.active = []) (step : Nat) : s.judgeSched step = s := by
  rw [State.judgeSched, h]
  exact State.modTier_active_self (g := List.map _) (by rw [List.filter_nil, List.flatMap_nil, List.foldl_nil, h]; rfl)

/-- Where nothing waits at the tier, a new step changes tiles alone (09_memory_tiers.md R279). -/
theorem State.TierIdle.tierStep {s : State} (h : s.TierIdle) (step : Nat) :
    ∃ z, s.tierStep step = s.modTier (fun x => { x with tiles := z }) := by
  obtain ⟨z, hz⟩ := State.unprotect_frame
    ((s.tier.tiles.filter (fun e => e.2.protTill.any (fun n => decide (n ≤ step)))).map Prod.fst) s
  have hidle : (s.modTier (fun x => { x with tiles := z })).TierIdle := ⟨h.hintQ, h.readQ, h.active, h.owed⟩
  refine ⟨z, ?_⟩
  rw [State.tierStep]
  dsimp only
  rw [hz, State.judgeSched_of_none_active hidle.active, hidle.serveTier]

theorem State.takeFits_frame (l : List CalFit) (s : State) : ∃ p, l.foldl State.takeFit s = s.modPower (fun _ => p) := by
  induction l generalizing s with
  | nil => exact ⟨s.power, rfl⟩
  | cons f l ih =>
    obtain ⟨p, hp⟩ := ih (s.takeFit f)
    exact ⟨p, by rw [List.foldl_cons, hp]; rfl⟩

/-- A recalibration changes power, and where it is rejected the error log and the events (16_power_clocks_thermal.md R433). -/
theorem State.calibrate_frame (s : State) (fits : List CalFit) :
    ∃ p c l, s.calibrate fits = { s with power := p, cfg := c, log := l } := by
  unfold State.calibrate
  split
  · unfold State.recalibrate
    split
    · obtain ⟨p, hp⟩ := State.takeFits_frame (fits.filter (fun f => decide (f.die < 8))) s
      dsimp only
      rw [hp]
      exact ⟨_, s.cfg, s.log, rfl⟩
    · obtain ⟨ev, a, b, l, hlog⟩ := State.logErr_frame (s.modPower (fun p => { p with calReject := true })) powerRec
      exact ⟨_, _, _, hlog⟩
  · exact ⟨s.power, s.cfg, s.log, rfl⟩

/-- The operation that a step boundary sends (13_axis_links_and_drone.md R379). -/
def stepAdd : SyncOp := ⟨.stepUnit, .package, false, 1⟩

/-- What a passed boundary does to its linked object, which takes one addition where the link is enabled. -/
def State.linkStep (s : State) : State :=
  if s.time.linkEn then s.syncOp s.time.linkObj stepAdd else s

/-- An operation that arrives at its home changes objects, registrations and quads alone. -/
theorem State.syncArrive_frame {s : State} {obj : Nat} (h : s.boot.diesInReset.contains (objDie obj) = false) (o : SyncOp) :
    ∃ y r z, s.syncArrive obj o = { s with sync := y, regs := r, quads := z } := by
  rw [State.syncArrive, if_neg (by rw [h]; exact Bool.false_ne_true), State.syncOne]
  obtain ⟨z, hz⟩ := wakes_quads _ _
  exact ⟨_, _, z, hz⟩

section
variable {s : State} (hdie : s.boot.diesInReset.contains (objDie s.time.linkObj) = false)
  (hway : s.pathUp (syncFrom .stepUnit) (objDie s.time.linkObj) 0 = true)
include hdie hway

theorem State.linkStep_frame : ∃ y r z, s.linkStep = { s with sync := y, regs := r, quads := z } := by
  unfold State.linkStep
  split
  · rw [syncOp_open _ stepAdd _ hway]; exact State.syncArrive_frame hdie _
  · exact ⟨s.sync, s.regs, s.quads, rfl⟩

theorem State.syncVal_linkStep :
    s.linkStep.syncVal s.time.linkObj = s.syncVal s.time.linkObj + (if s.time.linkEn then 1 else 0) ∧
    ∀ y, y ≠ s.time.linkObj → s.linkStep.syncVal y = s.syncVal y := by
  unfold State.linkStep
  split
  · rw [syncOp_open _ stepAdd _ hway]
    obtain ⟨hval, hothers, -, -⟩ := syncArrive_one s.time.linkObj stepAdd s hdie
    exact ⟨hval, hothers⟩
  · exact ⟨(BitVec.add_zero _).symm, fun _ _ => rfl⟩

end

theorem State.passBoundary_eq (s : State) (rest : List Nat) (fits : List CalFit) :
    s.passBoundary rest fits =
      ((s.modTime (fun t => { t with step := (t.step + 1) % 2 ^ 64, bounds := rest })).linkStep.tierStep
        (s.modTime (fun t => { t with step := (t.step + 1) % 2 ^ 64, bounds := rest })).linkStep.time.step).calibrate fits := rfl

/-- Where nothing waits at the tier, what follows the linked object's addition changes no object, no time and no byte. -/
theorem State.TierIdle.closeStep {s : State} (h : s.TierIdle) (step : Nat) (fits : List CalFit) :
    ((s.tierStep step).calibrate fits).sync = s.sync ∧ ((s.tierStep step).calibrate fits).time = s.time ∧
    ((s.tierStep step).calibrate fits).mem = s.mem := by
  obtain ⟨z, hz⟩ := h.tierStep step
  obtain ⟨p, c, l, hcal⟩ := (s.tierStep step).calibrate_frame fits
  rw [hcal, hz]
  exact ⟨rfl, rfl, rfl⟩

/-- What passing the head boundary leaves, with the way to the linked object open and nothing waiting at the tier. -/
theorem State.passBoundary_spec {s : State} (hdie : s.boot.diesInReset.contains (objDie s.time.linkObj) = false)
    (hway : s.pathUp (syncFrom .stepUnit) (objDie s.time.linkObj) 0 = true) (hidle : s.TierIdle) (rest : List Nat)
    (fits : List CalFit) :
    ∃ t, s.passBoundary rest fits = t ∧ t.time.step = (s.time.step + 1) % 2 ^ 64 ∧ t.time.bounds = rest ∧
      t.syncVal s.time.linkObj = s.syncVal s.time.linkObj + (if s.time.linkEn then 1 else 0) ∧
      (∀ y, y ≠ s.time.linkObj → t.syncVal y = s.syncVal y) ∧ ∀ a, t.byte a = s.byte a := by
  obtain ⟨u, hu⟩ : ∃ u, u = s.modTime (fun t => { t with step := (t.step + 1) % 2 ^ 64, bounds := rest }) := ⟨_, rfl⟩
  have hudie : u.boot.diesInReset.contains (objDie u.time.linkObj) = false := by rw [hu]; exact hdie
  have huway : u.pathUp (syncFrom .stepUnit) (objDie u.time.linkObj) 0 = true := by rw [hu]; exact hway
  obtain ⟨y, r, z, hlink⟩ := State.linkStep_frame hudie huway
  obtain ⟨hval, hothers⟩ := State.syncVal_linkStep hudie huway
  have hlinkIdle : u.linkStep.TierIdle := by rw [hlink, hu]; exact ⟨hidle.hintQ, hidle.readQ, hidle.active, hidle.owed⟩
  obtain ⟨hsync, htime, hmem⟩ := hlinkIdle.closeStep u.linkStep.time.step fits
  refine ⟨_, (State.passBoundary_eq s rest fits).trans (by rw [← hu]), ?_, ?_, ?_, fun y hy => ?_, fun a => ?_⟩
  · rw [htime, hlink, hu]; rfl
  · rw [htime, hlink, hu]; rfl
  · rw [State.syncVal, hsync]; rw [hu] at hval ⊢; exact hval
  · rw [State.syncVal, hsync]; rw [hu] at hothers ⊢; exact hothers y hy
  · rw [State.byte, hmem, hlink, hu]; rfl

/-- Settles O46: the load by the shift of every deadline, the elections by their root, the boundary by what each of its
parts can change. -/
theorem timeFollowsTheTorus : Obligations.TimeFollowsTheTorus := by
  unfold Obligations.TimeFollowsTheTorus
  intro t1 t2 t3 t4 p v fits s hheld o b
  refine ⟨fun hloaded hparent => ?load, fun hloaded => exec_droneLoad_of_loaded hloaded .., fun hloaded hparent hdue => ?exchange,
    fun hpriority => ?alone, fun hnone => ?unserved, fun c n hat hsynced hpriority hloaded hparent => ?elected,
    fun hroot => ?freeRun, fun hmay => ⟨fun hroom hnow hpast => ?queued, fun hnot => ?noted⟩,
    fun h rest hbounds => ⟨fun hreached hdie hway hquiet => ?passed, fun hbefore => ?waits⟩⟩
  case load =>
    refine ⟨_, exec_droneLoad_of_parent hheld hloaded hparent .., rfl, rfl, rfl, rfl, fun hsome => ?_, rfl, rfl, ?_⟩
    · simp [State.loadDrone, State.modTime, State.shiftDeadlines, hsome]
    · intro q j idx c hfind
      exact (State.find_shiftDeadlines o hfind).trans (congrArg some (Cmd.shift_eq o c))
  case exchange => exact ⟨_, exec_droneSyncExchange_of_due hheld hloaded hparent hdue .., rfl, rfl, rfl, rfl⟩
  case alone =>
    refine ⟨_, exec_rootElection_of_not_held hheld [], ?_⟩
    rw [State.elect_alone_of_priority hpriority]
    exact ⟨rfl, rfl, rfl, rfl, rfl⟩
  case unserved =>
    refine ⟨_, exec_rootElection_of_not_held hheld [], ?_⟩
    rw [State.elect_alone_of_no_priority hnone, State.freeRunning_time]
    exact ⟨rfl, rfl, rfl, rfl, rfl⟩
  case elected =>
    refine ⟨_, exec_rootElection_of_not_held hheld [c], ?_⟩
    rw [State.elect_of_one_synced hat hsynced hpriority hloaded hparent]
    exact ⟨rfl, rfl, rfl⟩
  case freeRun =>
    refine ⟨_, exec_droneFreeRun_of_not_root hheld hroot, ?_⟩
    rw [State.freeRunning_time]
    exact ⟨rfl, rfl, rfl, rfl⟩
  case queued => rw [exec_stepBoundaryPush_of_may hmay, State.modTime, Time.push_of_room hroom hnow hpast]
  case noted => rw [exec_stepBoundaryPush_of_may hmay, State.modTime, Time.push_of_not hnot]
  case passed =>
    obtain ⟨t, ht, hspec⟩ := State.passBoundary_spec hdie hway hquiet.idle rest fits
    exact ⟨t, by rw [exec_stepBoundary_of_head hheld hbounds, if_pos hreached, ht], hspec⟩
  case waits => rw [exec_stepBoundary_of_head hheld hbounds, if_neg (Nat.not_le.mpr hbefore)]

end Sys2Proof.Machine

namespace Sys2Proof.Machine

/-! ### Memory: a write of any length -/

section
variable {s : State} {pa : Nat} {bs : List Byte}

/-- No sector that a range covers only in part is poisoned, so a write of it applies whole (12_coherence.md R350). -/
def State.EndsClean (s : State) (pa n : Nat) : Prop :=
  0 < n → (pa % 64 ≠ 0 → s.sectorPoison (pa / 64) = false) ∧ ((pa + n) % 64 ≠ 0 → s.sectorPoison ((pa + n) / 64) = false)

theorem State.EndsClean.of_poison_eq {t : State} {n : Nat} (h : s.EndsClean pa n) (hpoison : t.poison = s.poison) :
    t.EndsClean pa n := by
  simpa only [State.EndsClean, State.sectorPoison, hpoison] using h

@[simp] theorem State.byte_clearWhole (s : State) (pa n a : Nat) : (s.clearWhole pa n).byte a = s.byte a := by
  rw [State.byte, State.mem_clearWhole]; rfl

/-- Clearing poison poisons no sector. -/
theorem State.sectorPoison_clearWhole (pa n : Nat) {sec : Nat} (h : s.sectorPoison sec = false) :
    (s.clearWhole pa n).sectorPoison sec = false := by
  unfold State.clearWhole
  dsimp only
  split
  · show Table.get false (Table.drop _ _ _) _ = _
    rw [Table.get_drop]
    split
    · rfl
    · exact h
  · exact h

/-- A part of a write at a sector without poison applies. -/
theorem State.byte_writePart {sec : Nat} (h : bs ≠ [] → s.sectorPoison sec = false) (a : Nat) :
    (if bs.isEmpty || s.sectorPoison sec then s else s.setBytes pa bs).byte a =
      if pa ≤ a ∧ a < pa + bs.length then bs.getD (a - pa) 0 else s.byte a := by
  by_cases hbs : bs = []
  · subst hbs; simp
  · rw [if_neg (by simp [hbs, h hbs])]
    exact State.byte_setBytes ..

theorem State.sectorPoison_writePart (sec sec' : Nat) :
    (if bs.isEmpty || s.sectorPoison sec then s else s.setBytes pa bs).sectorPoison sec' = s.sectorPoison sec' := by
  split <;> rfl

/-- A write that meets no poison at its ends leaves its bytes in memory, and no other byte changes: the parts into which it
is cut make up the whole (12_coherence.md R350). -/
theorem State.byte_writeMem (h : s.EndsClean pa bs.length) (a : Nat) :
    (s.writeMem pa bs).byte a = if pa ≤ a ∧ a < pa + bs.length then bs.getD (a - pa) 0 else s.byte a := by
  unfold State.writeMem
  dsimp only
  set lo := ceilDiv pa 64 * 64 with hlo
  set hi := (pa + bs.length) / 64 * 64 with hhi
  unfold ceilDiv at hlo
  split
  case isTrue hone =>
    split
    case isTrue hpoison =>
      obtain ⟨hpoison, hlt⟩ := hpoison
      have hempty : bs.length = 0 := by
        by_contra hne
        obtain ⟨hhead, htail⟩ := h (by omega)
        by_cases hmod : pa % 64 = 0
        · have hclean := htail (by omega)
          rw [show (pa + bs.length) / 64 = pa / 64 by omega, hpoison] at hclean
          exact Bool.noConfusion hclean
        · rw [hhead hmod] at hpoison
          exact Bool.noConfusion hpoison
      rw [if_neg (by omega)]
    case isFalse => rw [State.byte_setBytes, State.byte_clearWhole]; rfl
  case isFalse hmany =>
    have hle : lo ≤ hi ∧ pa ≤ lo ∧ hi ≤ pa + bs.length := by omega
    have hhead : bs.take (lo - pa) ≠ [] → s.sectorPoison (pa / 64) = false := fun hne => by
      simp only [ne_eq, List.take_eq_nil_iff, not_or] at hne
      exact (h (List.length_pos_iff.mpr hne.2)).1 (by omega)
    have htail : bs.drop (hi - pa) ≠ [] → s.sectorPoison (hi / 64) = false := fun hne => by
      simp only [ne_eq, List.drop_eq_nil_iff, not_le] at hne
      rw [show hi / 64 = (pa + bs.length) / 64 by omega]
      exact (h (by omega)).2 (by omega)
    set u := (s.clearWhole lo (hi - lo)).setBytes lo ((bs.drop (lo - pa)).take (hi - lo)) with hu
    have hkeep : ∀ sec, s.sectorPoison sec = false → u.sectorPoison sec = false :=
      fun sec hsec => State.sectorPoison_clearWhole lo (hi - lo) hsec
    rw [State.byte_writePart (fun hne => (State.sectorPoison_writePart ..).trans (hkeep _ (htail hne))),
      State.byte_writePart (fun hne => hkeep _ (hhead hne)), hu, State.byte_setBytes, State.byte_clearWhole]
    simp only [List.length_take, List.length_drop, List.getD_eq_getElem?_getD, List.getElem?_take, List.getElem?_drop]
    grind

end

/-! ### Accesses while no cache holds a line -/

theorem State.Beside.quietCaches {s t : State} (h : s.Beside t) (k : s.quietCaches) : t.quietCaches := by
  rw [State.quietCaches, h.coh]; exact k

section
variable {s : State} (hcaches : s.quietCaches)
include hcaches

theorem State.quietCaches.dirtyCopy (line : Nat) : s.dirtyCopy line = none := by
  obtain ⟨hlines, -, hmsgs, -⟩ := hcaches
  simp [State.dirtyCopy, State.holders, hlines, hmsgs]

theorem State.quietCaches.cohPoison (pa n : Nat) : s.cohPoison pa n = (sectorsOf pa n).any s.basePoison := by
  simp [State.cohPoison, State.quietCaches.trackedIn hcaches, State.quietCaches.dirtyCopy hcaches]

/-- A coherent write outside the tiered range is then one of memory. -/
theorem State.quietCaches.writePhys {pa : Nat} (htier : isTiered pa = false) (bs : List Byte) :
    ∃ u, s.Beside u ∧ s.writePhys true pa bs = u.writeMem pa bs := by
  have hpass := State.Passes.extLookup s pa bs.length true
  refine ⟨_, hpass.beside.trans (.dropReserved _ pa bs.length), ?_⟩
  simp [State.writePhys, htier, State.cohWrite, State.quietCaches.trackedIn (hpass.beside.quietCaches hcaches)]

theorem State.quietCaches.byte_writePhys {pa : Nat} {bs : List Byte} (htier : isTiered pa = false)
    (hclean : s.EndsClean pa bs.length) (a : Nat) :
    (s.writePhys true pa bs).byte a = if pa ≤ a ∧ a < pa + bs.length then bs.getD (a - pa) 0 else s.byte a := by
  obtain ⟨u, hu, hwrite⟩ := State.quietCaches.writePhys hcaches htier bs
  rw [hwrite, State.byte_writeMem (hclean.of_poison_eq hu.poison), hu.byte]

end

end Sys2Proof.Machine

namespace Sys2Proof.Machine

/-! ### What accesses to memory leave of the Ethernet ports -/

/-- Queue pairs, their registers, the ports' own addresses and what has been sent are as they were. -/
structure State.KeepsPairs (s u : State) : Prop where
  qps : u.qps = s.qps
  regs : u.qpRegs = s.qpRegs
  gids : ∀ n, (u.eth n).gids = (s.eth n).gids
  out : u.out = s.out

namespace State.KeepsPairs

theorem of_eths {s u : State} (hqps : u.qps = s.qps) (hregs : u.qpRegs = s.qpRegs) (heths : u.eths = s.eths)
    (hout : u.out = s.out) : s.KeepsPairs u :=
  ⟨hqps, hregs, fun n => congrArg (fun z => (Table.get Eth.reset z n).gids) heths, hout⟩

theorem refl (s : State) : s.KeepsPairs s := ⟨rfl, rfl, fun _ => rfl, rfl⟩

theorem trans {a b c : State} (h : a.KeepsPairs b) (k : b.KeepsPairs c) : a.KeepsPairs c :=
  ⟨k.qps.trans h.qps, k.regs.trans h.regs, fun n => (k.gids n).trans (h.gids n), k.out.trans h.out⟩

theorem foldl {α : Type} {f : State → α → State} (h : ∀ (s : State) a, s.KeepsPairs (f s a)) (l : List α) (s : State) :
    s.KeepsPairs (l.foldl f s) := by
  induction l generalizing s with
  | nil => exact refl s
  | cons a l ih => exact (h s a).trans (ih _)

theorem ite {c : Prop} [Decidable c] {s t u : State} (ht : s.KeepsPairs t) (hu : s.KeepsPairs u) :
    s.KeepsPairs (if c then t else u) := by
  split
  · exact ht
  · exact hu

section
variable {s u : State} (h : s.KeepsPairs u)
include h

theorem qp (x qpn : Nat) : u.qp x qpn = s.qp x qpn := congrArg (Table.get Qp.reset · (x * 8192 + qpn)) h.qps

theorem qpAt (x qpn : Nat) : u.qpAt x qpn = s.qpAt x qpn := by
  unfold State.qpAt State.qpReg; rw [h.regs]

theorem ethHead (n : Nat) (e : List Byte) (off : Nat) : u.ethHead n e off = s.ethHead n e off := by
  unfold State.ethHead; rw [h.gids]

end

/-! #### Memory, caches and the extension -/

theorem of_beside {s u : State} (h : s.Beside u) : s.KeepsPairs u := by
  unfold State.Beside at h; rw [h]; exact of_eths rfl rfl rfl rfl

theorem extLookup (s : State) (pa n : Nat) (w : Bool) : s.KeepsPairs (s.extLookup pa n w) :=
  of_beside (Passes.extLookup s pa n w).beside

theorem clearWhole (s : State) (pa n : Nat) : s.KeepsPairs (s.clearWhole pa n) := by
  obtain ⟨p, hp⟩ := s.clearWhole_frame pa n
  rw [hp]; exact of_eths rfl rfl rfl rfl

theorem setBytes (s : State) (pa : Nat) (bs : List Byte) : s.KeepsPairs (s.setBytes pa bs) := of_eths rfl rfl rfl rfl

theorem setTile (s : State) (t : Nat) (x : Tile) : s.KeepsPairs (s.setTile t x) := of_eths rfl rfl rfl rfl

theorem setSlot (s : State) (d set w : Nat) (x : Slot) : s.KeepsPairs (s.setSlot d set w x) := of_eths rfl rfl rfl rfl

theorem modTier (s : State) (f : Tier → Tier) : s.KeepsPairs (s.modTier f) := of_eths rfl rfl rfl rfl

theorem modCoh (s : State) (f : Coh → Coh) : s.KeepsPairs (s.modCoh f) := of_eths rfl rfl rfl rfl

theorem modTierDie (s : State) (d : Nat) (f : TierDie → TierDie) : s.KeepsPairs (s.modTierDie d f) := modTier ..

theorem noteFlash (s : State) (t : Nat) : s.KeepsPairs (s.noteFlash t) := of_eths rfl rfl rfl rfl

theorem enterGroup (s : State) (t : Nat) : s.KeepsPairs (s.enterGroup t) := of_eths rfl rfl rfl rfl

theorem fillZero (s : State) (t : Nat) : s.KeepsPairs (s.fillZero t) := of_eths rfl rfl rfl rfl

theorem fillFromFlash (s : State) (t : Nat) : s.KeepsPairs (s.fillFromFlash t) := of_eths rfl rfl rfl rfl

theorem writeMem (s : State) (pa : Nat) (bs : List Byte) : s.KeepsPairs (s.writeMem pa bs) := by
  have hpart : ∀ {u : State} pa bs, s.KeepsPairs u → s.KeepsPairs (u.setBytes pa bs) := fun pa bs h => h.trans (setBytes ..)
  unfold State.writeMem
  exact ite (ite (refl s) (hpart _ _ (clearWhole ..)))
    (ite (ite (hpart _ _ (clearWhole ..)) (hpart _ _ (hpart _ _ (clearWhole ..))))
      (hpart _ _ (ite (hpart _ _ (clearWhole ..)) (hpart _ _ (hpart _ _ (clearWhole ..))))))

theorem extDropTile (s : State) (d t : Nat) : s.KeepsPairs (s.extDropTile d t) := by
  have hdrop : ∀ (u : State) l, u.KeepsPairs (u.extDrop d l) := fun u l => by
    unfold State.extDrop
    split
    · exact of_eths rfl rfl rfl rfl
    · exact refl u
  exact ite (refl s) (foldl hdrop ..)

theorem openTile (s : State) (t : Nat) : s.KeepsPairs (s.openTile t) := by
  have hgroup : ∀ {u : State} x, s.KeepsPairs u → s.KeepsPairs ((u.setTile t x).enterGroup t) :=
    fun x h => h.trans ((setTile ..).trans (enterGroup ..))
  unfold State.openTile
  split
  · exact setTile ..
  · exact refl s
  · exact refl s
  · exact hgroup _ (fillFromFlash ..)
  · exact hgroup _ (fillFromFlash ..)
  · exact hgroup _ (fillZero ..)

theorem openLine (s : State) (line : Nat) : s.KeepsPairs (s.openLine line) := ite (openTile ..) (refl s)

theorem lineWrite (s : State) (line : Nat) (d : List Byte) (p : Bool) : s.KeepsPairs (s.lineWrite line d p) :=
  ((openLine s line).trans (extLookup ..)).trans (of_eths rfl rfl rfl rfl)

theorem poisonLine (s : State) (line cause agent : Nat) : s.KeepsPairs (s.poisonLine line cause agent) :=
  (openLine s line).trans (of_eths rfl rfl rfl rfl)

theorem countBcast (s : State) (line : Nat) : s.KeepsPairs (s.countBcast line) := by
  unfold State.countBcast
  exact ite (of_eths rfl rfl rfl rfl) (refl s)

theorem purge (s : State) (line : Nat) (keep : Bool) : s.KeepsPairs (s.purge line keep) := by
  have hforget : ∀ (u : State) (l : List (Nat × Line)) f,
      u.KeepsPairs (((l.foldl (fun s h => s.dropL1 h.1 line) u).countBcast line).modCoh f) := fun u l f =>
    ((foldl (fun s (h : Nat × Line) => of_beside (Beside.dropL1 s h.1 line)) l u).trans
      (countBcast ..)).trans (modCoh ..)
  unfold State.purge
  refine trans (ite (poisonLine ..) ?_) (hforget ..)
  split
  · exact ite (lineWrite ..) (refl s)
  · exact refl s

theorem cohWrite (s : State) (pa : Nat) (bs : List Byte) : s.KeepsPairs (s.cohWrite pa bs) :=
  ((foldl (fun s l => purge s l _) _ s).trans (of_beside (.dropReserved _ pa bs.length))).trans (writeMem ..)

/-! #### Tiles -/

theorem evictTile (s : State) (d t : Nat) : s.KeepsPairs (s.evictTile d t) := by
  unfold State.evictTile State.recallTile
  exact (foldl (fun s l => purge s l true) _ s).trans (ite
    ((((extDropTile ..).trans (setTile ..)).trans (modTierDie ..)).trans (noteFlash ..))
    (ite (((((extLookup ..).trans (extDropTile ..)).trans (setTile ..)).trans (enterGroup ..)).trans (modTierDie ..))
      (refl _)))

theorem evictSlot (s : State) (d set w : Nat) : s.KeepsPairs (s.evictSlot d set w) :=
  (foldl (fun s t => evictTile s d t) _ s).trans (setSlot ..)

theorem walkSet (s : State) (d set n w : Nat) : s.KeepsPairs (s.walkSet d set n w).2 := by
  induction n generalizing s w with
  | zero => exact refl s
  | succ n ih =>
    unfold State.walkSet
    dsimp only
    split
    · exact of_eths rfl rfl rfl rfl
    · exact (setSlot ..).trans (ih ..)

theorem takeSlot (s : State) (g : Nat) : (s.takeSlot g).All s.KeepsPairs := by
  have hvictim : ∀ {u : State} d set w x, s.KeepsPairs u → s.KeepsPairs ((u.evictSlot d set w).setSlot d set w x) :=
    fun d set w x h => h.trans ((evictSlot ..).trans (setSlot ..))
  unfold State.takeSlot
  dsimp only
  split
  · trivial
  · split
    · exact setSlot ..
    · split
      · exact setSlot ..
      · split
        · trivial
        · split
          · exact hvictim _ _ _ _ (refl s)
          · have hwalk := walkSet s (s.tierHome g) (tierSet g (s.tierSlots / 16)) 32
              (Table.get 0 s.tier.walk (s.tierHome g * 2 ^ 24 + tierSet g (s.tierSlots / 16)))
            split
            · next heq => rw [heq] at hwalk; exact hvictim _ _ _ _ hwalk
            · next heq => rw [heq] at hwalk; exact hwalk

theorem urge (s : State) (t k : Nat) : s.KeepsPairs (s.urge t k) := ite (modTier ..) (refl s)

theorem askFlash (s : State) (t k : Nat) : s.KeepsPairs (s.askFlash t k) := ite (urge ..) (ite (refl s) (modTier ..))

theorem intoP (s : State) (t k : Nat) : s.KeepsPairs (s.intoP t k) := (setTile ..).trans (askFlash ..)

theorem askBypass (s : State) (t : Nat) : s.KeepsPairs (s.askBypass t) := ite (urge ..) ((setTile ..).trans (askFlash ..))

theorem countBypass (s : State) (t : Nat) : s.KeepsPairs (s.countBypass t) := modTierDie ..

theorem zeroSlot (s : State) (t : Nat) (st : TileSt) : s.KeepsPairs (s.zeroSlot t st) :=
  ((fillZero s t).trans (setTile ..)).trans (extLookup ..)

theorem freshSlot (s : State) (t : Nat) : s.KeepsPairs (s.freshSlot t) := of_eths rfl rfl rfl rfl

theorem groupWrite (s : State) (t : Nat) : s.KeepsPairs (s.groupWrite t) :=
  (((countBypass s t).trans (setTile ..)).trans (modTier ..)).trans (enterGroup ..)

theorem touchSlot (s : State) (t : Nat) : s.KeepsPairs (s.touchSlot t) := by
  unfold State.touchSlot
  dsimp only
  split
  · exact (modTierDie ..).trans (setSlot ..)
  · exact modTierDie ..

end State.KeepsPairs

/-- The state that an access to a tile answers. -/
def TRes.state : TRes → State
  | .go s => s
  | .wait s => s

namespace State.KeepsPairs

/-- An access that takes a slot, by what it does in each case. -/
theorem accessSlot {s : State} {g : Nat} {got : State → TRes} {pinned : TRes} (hgot : ∀ u : State, u.KeepsPairs (got u).state)
    (hpinned : s.KeepsPairs pinned.state) :
    s.KeepsPairs (match s.takeSlot g with
      | .got s => got s
      | .allPinned => pinned
      | .waits s => TRes.wait s).state := by
  have htake := takeSlot s g
  split
  · next heq => rw [heq] at htake; exact trans htake (hgot _)
  · exact hpinned
  · next heq => rw [heq] at htake; exact htake

theorem accessU (s : State) (k : TAcc) (t : Nat) : s.KeepsPairs (s.accessU k t).state := by
  cases k with
  | read =>
    unfold State.accessU
    dsimp only
    split
    · exact countBypass ..
    · exact accessSlot (fun u => zeroSlot u t .r) (countBypass ..)
  | whole => exact accessSlot (fun u => freshSlot u t) ((fillZero ..).trans (groupWrite ..))
  | part => exact accessSlot (fun u => zeroSlot u t .d) ((fillZero ..).trans (groupWrite ..))

theorem accessF (s : State) (k : TAcc) (t : Nat) : s.KeepsPairs (s.accessF k t).state := by
  cases k with
  | read =>
    unfold State.accessF
    dsimp only
    split
    · exact (setTile ..).trans (countBypass ..)
    · split
      · exact askBypass ..
      · exact accessSlot (fun u => intoP u t 0) (askBypass ..)
  | whole => exact accessSlot (fun u => freshSlot u t) ((fillZero ..).trans (groupWrite ..))
  | part =>
    refine accessSlot (fun u => intoP u t 0) ?_
    split
    · exact (fillFromFlash ..).trans (groupWrite ..)
    · exact askBypass ..

theorem accessTile (s : State) (k : TAcc) (t : Nat) : s.KeepsPairs (s.accessTile k t).state := by
  unfold State.accessTile
  dsimp only
  split
  · exact refl s
  · split
    · exact (ite (refl s) (setTile ..)).trans (touchSlot ..)
    · exact touchSlot ..
    · exact urge ..
    · exact setTile ..
    · exact accessU ..
    · exact accessF ..

theorem accessTiles (s : State) (k : TAcc) (ts : List Nat) : s.KeepsPairs (s.accessTiles k ts).2 := by
  induction ts generalizing s with
  | nil => exact refl s
  | cons t ts ih =>
    have hone := accessTile s k t
    unfold State.accessTiles
    split
    · next heq => rw [heq] at hone; exact hone.trans (ih _)
    · next heq => rw [heq] at hone; exact hone.trans (ih _)

theorem touchTile (s : State) (k : TAcc) (t : Nat) : s.KeepsPairs (s.touchTile k t) := by
  have hone := accessTile s k t
  unfold State.touchTile
  split
  · next heq => rw [heq] at hone; exact hone
  · exact openTile ..

/-! #### Accesses -/

theorem didRead (s : State) (pa n : Nat) : s.KeepsPairs (s.didRead pa n) := by
  unfold State.didRead
  exact (ite (accessTiles ..) (refl s)).trans (extLookup ..)

theorem writePhys (s : State) (coherent : Bool) (pa : Nat) (bs : List Byte) : s.KeepsPairs (s.writePhys coherent pa bs) := by
  unfold State.writePhys
  exact ((ite (foldl (fun s t => touchTile s _ t) _ s) (refl s)).trans (extLookup ..)).trans
    (ite (cohWrite ..) (writeMem ..))

end State.KeepsPairs

end Sys2Proof.Machine

namespace Sys2Proof.Machine

/-! ### Queue pairs and their entries -/

theorem exec_ethQpDb (p : Port) (x : Nat) (v : Word) (s : State) : exec (.ethQpDb p x v) s = execEthQpDb p x v s := rfl

theorem exec_qpMove (p : Port) (x : Nat) (v : Word) (s : State) : exec (.qpMove p x v) s = execQpMove p x v s := rfl

theorem exec_qpMoveError (p : Port) (x qpn : Nat) (s : State) : exec (.qpMoveError p x qpn) s = execQpMoveError p x qpn s := rfl

theorem exec_wqeWrite (x qpn : Nat) (s : State) : exec (.wqeWrite x qpn) s = .next (s.startWqe x qpn 1) := rfl

theorem exec_wqeRead (x qpn : Nat) (s : State) : exec (.wqeRead x qpn) s = .next (s.startWqe x qpn 2) := rfl

theorem exec_wqeSend (x qpn : Nat) (s : State) : exec (.wqeSend x qpn) s = .next (s.startWqe x qpn 3) := rfl

@[simp] theorem State.qp_modQp_same (s : State) (x qpn : Nat) (f : Qp → Qp) :
    (s.modQp x qpn f).qp x qpn = f (s.qp x qpn) := Table.get_put_same ..

theorem Qp.doorbell_eq (y : Qp) (size v : Nat) :
    y.doorbell size v = { y with tail := if doorbellOk16 v y.head y.tail size then v else y.tail } := by
  unfold Qp.doorbell
  split <;> rfl

theorem State.qpAt_modQpReg {s : State} {x : Nat} {f : QpRegs → QpRegs} (hbase : (f (s.qpReg x)).base = (s.qpReg x).base)
    (qpn : Nat) : (s.modQpReg x f).qpAt x qpn = s.qpAt x qpn := by
  simp [State.qpAt, hbase]

/-- An entry that stands, aligned and without poison, in populated DDR5 that no cache holds: what a write of its fields
needs (14_network_and_pcie.md R383). -/
structure State.EntryPlain (s : State) (x qpn : Nat) : Prop where
  backed : s.qpBacked x qpn = true
  aligned : s.qpAt x qpn % 64 = 0
  clean : s.sectorPoison (s.qpAt x qpn / 64) = false
  caches : s.quietCaches

namespace State.EntryPlain

theorem modQp {s : State} {x qpn : Nat} (h : s.EntryPlain x qpn) (f : Qp → Qp) : (s.modQp x qpn f).EntryPlain x qpn :=
  ⟨h.backed, h.aligned, h.clean, h.caches⟩

theorem modQpReg {s : State} {x qpn : Nat} (h : s.EntryPlain x qpn) {f : QpRegs → QpRegs}
    (hbase : (f (s.qpReg x)).base = (s.qpReg x).base) : (s.modQpReg x f).EntryPlain x qpn := by
  have hat := State.qpAt_modQpReg hbase qpn
  obtain ⟨hbacked, haligned, hclean, hcaches⟩ := h
  refine ⟨?_, by rwa [hat], by rw [hat]; exact hclean, hcaches⟩
  unfold State.qpBacked at hbacked ⊢
  rw [hat]; exact hbacked

theorem passes {s t : State} {x qpn : Nat} (h : s.EntryPlain x qpn) (k : s.Passes t) : t.EntryPlain x qpn := by
  unfold State.Passes at k
  rw [k]; exact ⟨h.backed, h.aligned, h.clean, h.caches⟩

section
variable {s : State} {x qpn : Nat} (h : s.EntryPlain x qpn)
include h

theorem below : s.qpAt x qpn + 64 ≤ ddrSize := by
  obtain ⟨-, -, hhi⟩ := (s.backed_iff _ _ _).mp (of_decide_eq_true h.backed)
  simpa [State.populated] using hhi

/-- A write of a field of an entry leaves its bytes there, and no other byte changes. -/
theorem byte_setQpField {off : Nat} {bs : List Byte} (hlen : off + bs.length ≤ 64) (a : Nat) :
    (s.setQpField x qpn off bs).byte a =
      if s.qpAt x qpn + off ≤ a ∧ a < s.qpAt x qpn + off + bs.length then bs.getD (a - (s.qpAt x qpn + off)) 0
      else s.byte a := by
  obtain ⟨hbacked, haligned, hclean, hcaches⟩ := h
  have hbelow := below ⟨hbacked, haligned, hclean, hcaches⟩
  rw [State.setQpField, if_pos hbacked]
  refine State.quietCaches.byte_writePhys hcaches ?_ (fun hpos => ⟨fun hmod => ?_, fun hmod => ?_⟩) a
  · rw [Bool.eq_false_iff, Ne, isTiered_iff]
    unfold ddrSize at hbelow
    omega
  · rwa [show (s.qpAt x qpn + off) / 64 = s.qpAt x qpn / 64 by omega]
  · rwa [show (s.qpAt x qpn + off + bs.length) / 64 = s.qpAt x qpn / 64 by omega]

/-- A write of the state of a pair changes the first byte of its entry alone. -/
theorem byte_setState (b : Byte) :
    (s.setQpField x qpn 0 [b]).byte (s.qpAt x qpn) = b ∧ ∀ a, a ≠ s.qpAt x qpn → (s.setQpField x qpn 0 [b]).byte a = s.byte a := by
  refine ⟨?_, fun a ha => ?_⟩
  · rw [h.byte_setQpField (by simp), if_pos (by simp)]; simp
  · rw [h.byte_setQpField (by simp), if_neg (by simp; omega)]

end

end State.EntryPlain

theorem State.KeepsPairs.setQpField (s : State) (x qpn off : Nat) (bs : List Byte) : s.KeepsPairs (s.setQpField x qpn off bs) :=
  ite (writePhys ..) (refl s)

section
variable {s : State} {x qpn : Nat} (h : s.qpPlain x qpn)
include h

theorem State.qpPlain.ready : s.qpReady x qpn = true := h.1

theorem State.qpPlain.die : x < 2 := by
  have hready := h.ready
  simp only [State.qpReady, Bool.and_eq_true, decide_eq_true_eq] at hready
  obtain ⟨⟨⟨⟨⟨⟨-, hx⟩, -⟩, -⟩, -⟩, -⟩, -⟩ := hready
  exact hx

/-- The entry of such a pair takes writes of its fields. -/
theorem State.qpPlain.entry : s.EntryPlain x qpn := by
  obtain ⟨hready, hbacked, haligned, hcaches⟩ := h
  have hmod : s.qpAt x qpn % 64 = 0 := by unfold State.qpAt; omega
  obtain ⟨-, -, hhi⟩ := (s.backed_iff _ _ _).mp (of_decide_eq_true hbacked)
  have htier : isTiered (s.qpAt x qpn / 64 * 64) = false := by
    rw [Bool.eq_false_iff, Ne, isTiered_iff]
    simp only [State.populated, ddrSize] at hhi
    omega
  refine ⟨hbacked, hmod, ?_, hcaches⟩
  simp only [State.qpReady, Bool.and_eq_true, Bool.not_eq_true'] at hready
  obtain ⟨-, hpoison⟩ := hready
  simpa [State.readPoison, State.quietCaches.cohPoison hcaches, sectorsOf_of_one (by omega : 0 < 64)
    (by omega : s.qpAt x qpn / 64 = (s.qpAt x qpn + 64 - 1) / 64), State.basePoison, htier] using hpoison

end
end Sys2Proof.Machine

namespace Sys2Proof.Machine

/-! ### Queue pairs: moves -/

section
variable {s : State} {x qpn : Nat} (h : s.EntryPlain x qpn)
include h

/-- A move to RESET, INIT, RTR or RTS writes the state into the entry and no other byte (14_network_and_pcie.md R384). -/
theorem State.EntryPlain.qpMove {st : Nat} (hst : st < 4) :
    (s.qpMove x qpn st).byte (s.qpAt x qpn) = BitVec.ofNat 8 st ∧
    (∀ a, a ≠ s.qpAt x qpn → (s.qpMove x qpn st).byte a = s.byte a) ∧
    (s.qpMove x qpn st).qp x qpn = if st = 0 then Qp.reset else s.qp x qpn := by
  unfold State.qpMove
  rw [if_neg (by omega)]
  by_cases hreset : st = 0
  · obtain ⟨hentry, hother⟩ := (h.modQp (fun _ => Qp.reset)).byte_setState 0
    rw [if_pos hreset, if_pos hreset, hreset]
    exact ⟨hentry, hother, ((State.KeepsPairs.setQpField ..).qp x qpn).trans (State.qp_modQp_same ..)⟩
  · obtain ⟨hentry, hother⟩ := h.byte_setState (BitVec.ofNat 8 st)
    rw [if_neg hreset, if_neg hreset]
    exact ⟨hentry, hother, (State.KeepsPairs.setQpField ..).qp x qpn⟩

/-- A command register that names a pair and a state below ERROR moves that pair (14_network_and_pcie.md Table NET-4). -/
theorem State.EntryPlain.writeQpCmd {v : Word} (hqpn : bits v.toNat 0 13 = qpn) (hgo : bit v.toNat 31 = true)
    (hst : bits v.toNat 16 3 < 4) :
    (s.writeQpCmd x v).byte (s.qpAt x qpn) = BitVec.ofNat 8 (bits v.toNat 16 3) ∧
    (∀ a, a ≠ s.qpAt x qpn → (s.writeQpCmd x v).byte a = s.byte a) ∧
    (s.writeQpCmd x v).qp x qpn = if bits v.toNat 16 3 = 0 then Qp.reset else s.qp x qpn := by
  have hnot : ¬ 4 < bits v.toNat 16 3 := by omega
  have hmove := (h.modQpReg (f := fun r => { r with cmdState := bits v.toNat 16 3, cmdQpn := qpn }) rfl).qpMove hst
  rw [State.qpAt_modQpReg rfl] at hmove
  simp only [State.writeQpCmd, hgo, if_true, hqpn, State.qpReg_modQpReg_same, unlessReserved, hnot, decide_false,
    Bool.false_eq_true, if_false]
  exact hmove

end

/-! #### Moves to ERROR -/

theorem State.KeepsPairs.ethAsk (s : State) (n ctx va : Nat) : s.KeepsPairs (s.ethAsk n ctx va) := by
  have hcopy : ∀ (u : State) (f : Eth → Eth), (∀ t, (f t).gids = t.gids) → u.KeepsPairs (u.modEth n f) := fun u f hf =>
    ⟨rfl, rfl, fun m => by
      rw [State.eth_modEth]
      split
      · next heq => rw [hf, heq]
      · rfl, rfl⟩
  have hcount : s.KeepsPairs (s.countLookup ctx) := of_eths rfl rfl rfl rfl
  unfold State.ethAsk
  split
  · exact hcopy s _ (fun _ => rfl)
  · dsimp only
    split
    · exact hcount.trans (hcopy _ _ (fun _ => rfl))
    · exact hcount

theorem State.KeepsPairs.writeCq (s : State) (x : Nat) (e : List Byte) (idx : Nat) (bs : List Byte) :
    s.KeepsPairs (s.writeCq x e idx bs).2 := by
  unfold State.writeCq
  dsimp only
  split
  · split
    · exact ethAsk ..
    · exact (writePhys ..).trans (ethAsk ..)
  · exact ethAsk ..

/-- A request that ends ABORTED leaves its completion entry and signals nothing (14_network_and_pcie.md R386). -/
theorem State.KeepsPairs.endWqe_aborted (s : State) (x : Nat) (e : List Byte) (idx : Nat) (w : List Byte) :
    s.KeepsPairs (s.endWqe x e idx w stAborted 0).2 := by
  have hwrite : (s.endWqe x e idx w stAborted 0).2 = (s.writeCq x e idx (cqBytes w stAborted idx (qpSize e) s.drone 0)).2 := by
    simp [State.endWqe, stAborted, stOk]
  rw [hwrite]
  exact writeCq ..

/-- A move to ERROR leaves nothing posted or in progress (14_network_and_pcie.md R384). -/
theorem State.qp_qpError (s : State) (x qpn : Nat) :
    (s.qpError x qpn).qp x qpn = { s.qp x qpn with
      head := (s.qp x qpn).tail, busy := [], got := 0, retries := 0, rnr := 0, inDone := none } := by
  unfold State.qpError
  dsimp only
  rw [(State.KeepsPairs.setQpField ..).qp, State.qp_modQp_same,
    (State.KeepsPairs.foldl (fun t i => .endWqe_aborted t x (s.qpEntry x qpn) i ((t.wqeAt x (s.qpEntry x qpn) i).getD []))
      ((s.qp x qpn).busy ++ (s.qp x qpn).posted) s).qp]

/-- With nothing posted or in progress it writes the state into the entry and no other byte. -/
theorem State.EntryPlain.byte_qpError {s : State} {x qpn : Nat} (h : s.EntryPlain x qpn) (hbusy : (s.qp x qpn).busy = [])
    (hposted : (s.qp x qpn).posted = []) :
    (s.qpError x qpn).byte (s.qpAt x qpn) = 4 ∧ ∀ a, a ≠ s.qpAt x qpn → (s.qpError x qpn).byte a = s.byte a := by
  simp only [State.qpError, hbusy, hposted, List.append_nil, List.foldl_nil]
  exact (h.modQp _).byte_setState 4

/-! ### Queue pairs: sending -/

theorem State.mem_ethAsk (s : State) (n ctx va : Nat) : (s.ethAsk n ctx va).mem = s.mem := by
  unfold State.ethAsk
  split
  · rfl
  · dsimp only
    split <;> rfl

@[simp] theorem State.byte_ethAsk (s : State) (n ctx va a : Nat) : (s.ethAsk n ctx va).byte a = s.byte a :=
  congrArg (Table.get memDefault · a) (s.mem_ethAsk n ctx va)

@[simp] theorem State.byte_askLocal (s : State) (x : Nat) (e w : List Byte) (a : Nat) :
    (s.askLocal x e w).byte a = s.byte a := by
  unfold State.askLocal
  split
  · exact s.byte_ethAsk ..
  · rfl

theorem State.KeepsPairs.askLocal (s : State) (x : Nat) (e w : List Byte) : s.KeepsPairs (s.askLocal x e w) :=
  ite (ethAsk ..) (refl s)

theorem State.KeepsPairs.advancePsn (s : State) (x qpn off n : Nat) : s.KeepsPairs (s.advancePsn x qpn off n) :=
  setQpField ..

/-- Moving a sequence number on changes no byte but its three. -/
theorem State.EntryPlain.byte_advancePsn {s : State} {x qpn : Nat} (h : s.EntryPlain x qpn) {off a : Nat} (n : Nat)
    (hoff : off + 3 ≤ 64) (ha : a < s.qpAt x qpn + off ∨ s.qpAt x qpn + off + 3 ≤ a) :
    (s.advancePsn x qpn off n).byte a = s.byte a := by
  rw [State.advancePsn, h.byte_setQpField (by simpa [leBytes] using hoff), if_neg (by simp [leBytes]; omega)]

/-- The data that a request's message carries. -/
def State.wqeData (s : State) (w : List Byte) (l : Extent) : List Byte :=
  if wqeOp w = 2 ∨ wqeLen w = 0 then [] else s.readPhys l.coherent l.pa (wqeLen w)

/-- A request's message goes out; beside it, reading the data changes at most what reads do. -/
theorem State.sendWqe_eq (s : State) (x qpn : Nat) (e w : List Byte) (l : Extent) :
    ∃ u, s.KeepsPairs u ∧ (isTiered l.pa = false → s.Passes u) ∧ s.sendWqe x qpn e w l = u.emit (s.wqeMsg x qpn e w l) := by
  have hkeep : s.KeepsPairs (if (s.wqeData w l).isEmpty then s else s.didRead l.pa (wqeLen w)) := .ite (.refl s) (.didRead ..)
  refine ⟨_, hkeep, fun htier => ?_, ?_⟩
  · split
    · exact .refl s
    · exact .didRead s _ htier
  · rw [State.wqeMsg, ← hkeep.ethHead]; rfl

/-- The state after the next request of a pair is sent (14_network_and_pcie.md R385). -/
def State.wqeSent (s : State) (x qpn : Nat) (w : List Byte) (l : Extent) : State :=
  let e := s.qpEntry x qpn
  (((((s.nextWqe x qpn).sendWqe x qpn e w l).advancePsn x qpn 8 (packetsOf e (wqeLen w))).modQp x qpn
    (fun z => { z with busy := z.busy ++ [(s.qp x qpn).head] })).askLocal x e w).ethAsk (qpPort x e) (qpCtx e)
    (sqVa e (s.qp x qpn).head)

/-- Sending takes the request off the ring and into progress, and of memory outside the tiered range it changes the
sequence number of the entry alone. -/
theorem State.wqeSent_spec {s : State} {x qpn : Nat} (h : s.EntryPlain x qpn) (w : List Byte) (l : Extent) :
    (s.wqeSent x qpn w l).qp x qpn = { s.qp x qpn with
      head := ((s.qp x qpn).head + 1) % 65536, busy := (s.qp x qpn).busy ++ [(s.qp x qpn).head] } ∧
    (s.wqeSent x qpn w l).out = s.out ++ [s.wqeMsg x qpn (s.qpEntry x qpn) w l] ∧
    (isTiered l.pa = false → ∀ a, a < s.qpAt x qpn + 8 ∨ s.qpAt x qpn + 11 ≤ a → (s.wqeSent x qpn w l).byte a = s.byte a) := by
  obtain ⟨u, hkeep, hpass, hsend⟩ := (s.nextWqe x qpn).sendWqe_eq x qpn (s.qpEntry x qpn) w l
  have hmsg : (s.nextWqe x qpn).wqeMsg x qpn (s.qpEntry x qpn) w l = s.wqeMsg x qpn (s.qpEntry x qpn) w l := rfl
  rw [hmsg] at hsend
  set e := s.qpEntry x qpn with he
  set v := u.emit (s.wqeMsg x qpn e w l) with hv
  have hpsn := State.KeepsPairs.advancePsn v x qpn 8 (packetsOf e (wqeLen w))
  have hask : ∀ t : State, t.KeepsPairs ((t.askLocal x e w).ethAsk (qpPort x e) (qpCtx e) (sqVa e (s.qp x qpn).head)) :=
    fun t => (State.KeepsPairs.askLocal ..).trans (.ethAsk ..)
  simp only [State.wqeSent, ← he, hsend]
  refine ⟨?_, ?_, fun htier a ha => ?_⟩
  · rw [(hask _).qp, State.qp_modQp_same, hpsn.qp, show v.qp x qpn = u.qp x qpn from rfl, hkeep.qp, State.nextWqe,
      State.qp_modQp_same]
  · rw [(hask _).out]
    exact hpsn.out.trans (congrArg (· ++ [s.wqeMsg x qpn e w l]) hkeep.out)
  · have hu := (h.modQp (fun y => { y with head := (y.head + 1) % 65536 })).passes (hpass htier)
    have hentry : v.EntryPlain x qpn := ⟨hu.backed, hu.aligned, hu.clean, hu.caches⟩
    rw [State.byte_ethAsk, State.byte_askLocal]
    refine (hentry.byte_advancePsn _ (by omega) ?_).trans ((hpass htier).beside.byte a)
    rw [show v.qpAt x qpn = s.qpAt x qpn from hkeep.qpAt x qpn]
    exact ha

/-- What a request needs to be sent now: a pair in RTS, not paused, whose next request is of an opcode from 1 to 3 and
fits, with its rings and its local range there to be used (14_network_and_pcie.md R385). -/
structure State.MaySend (s : State) (x qpn op : Nat) (w : List Byte) (l : Extent) : Prop where
  rts : qpState (s.qpEntry x qpn) = 3
  posted : (s.qp x qpn).head ≠ (s.qp x qpn).tail
  unpaused : bit (s.eth (qpPort x (s.qpEntry x qpn))).paused.toNat (qpPcp (s.qpEntry x qpn)) = false
  rings : s.ringsReady x (s.qpEntry x qpn) (s.qp x qpn).head = true
  request : s.wqeAt x (s.qpEntry x qpn) (s.qp x qpn).head = some w
  opcode : wqeOp w = op
  fence : bit (wqeFlags w) 2 = true → s.readsOut x qpn = false
  short : wqeLen w ≤ 2 ^ 31
  range : s.localRange x (s.qpEntry x qpn) w (decide (op = 2)) = .ok l

theorem State.startWqe_of_maySend {s : State} {x qpn op : Nat} {w : List Byte} {l : Extent} (hready : s.qpReady x qpn = true)
    (hop : 1 ≤ op ∧ op ≤ 3) (h : s.MaySend x qpn op w l) : s.startWqe x qpn op = s.wqeSent x qpn w l := by
  obtain ⟨hrts, hposted, hunpaused, hrings, hrequest, hopcode, hfence, hshort, hrange⟩ := h
  have hfenced : ¬ (bit (wqeFlags w) 2 = true ∧ s.readsOut x qpn = true) := fun ⟨hflag, hout⟩ => by
    rw [hfence hflag] at hout; exact Bool.noConfusion hout
  simp only [State.startWqe, hready, hrts, hposted, hunpaused, hrings, hrequest, hopcode, hop, hfenced, hrange,
    Nat.not_lt.mpr hshort, Bool.not_true, Bool.false_eq_true, ne_eq, not_true_eq_false, or_self, and_self, if_true, if_false]
  rfl

theorem State.startWqe_of_idle {s : State} {x qpn : Nat} (h : qpState (s.qpEntry x qpn) ≠ 3 ∨ (s.qp x qpn).head = (s.qp x qpn).tail)
    (op : Nat) : s.startWqe x qpn op = s := by
  unfold State.startWqe
  dsimp only
  split
  · rfl
  · rw [if_pos (by tauto)]

/-- Settles O56: a doorbell and the moves by what they write of the entry, a send by the state that it leaves. -/
theorem queuePairsTakeAndSendRequests : Obligations.QueuePairsTakeAndSendRequests := by
  unfold Obligations.QueuePairsTakeAndSendRequests
  intro p x qpn s hplain e y only
  have hready := hplain.ready
  have hdie := hplain.die
  have hentry := hplain.entry
  refine ⟨fun hwrite => ⟨fun v hqpn => ?doorbell, fun v hqpn hgo hst => ?move, ?error⟩, ?sends⟩
  case doorbell =>
    subst hqpn
    refine ⟨_, (exec_ethQpDb p x v s).trans (congrArg Host.Outcome.next (if_pos (by simp [hwrite, hready]))), ?_, fun _ => rfl⟩
    rw [State.qp_modQp_same, Qp.doorbell_eq]
    rfl
  case move =>
    obtain ⟨hstate, hother, hqp⟩ := hentry.writeQpCmd hqpn hgo hst
    exact ⟨_, by rw [exec_qpMove, execQpMove, if_pos (by simp [hwrite, hdie, hqpn, hready])], hstate, hother, hqp⟩
  case error =>
    have hnoted := hentry.modQpReg (f := fun r => { r with cmdState := 4, cmdQpn := qpn }) rfl
    have hqp := State.qp_qpError (s.modQpReg x (fun r => { r with cmdState := 4, cmdQpn := qpn })) x qpn
    refine ⟨_, by rw [exec_qpMoveError, execQpMoveError, if_pos (by simp [hwrite, hready])], ?_, ?_, ?_, fun hbusy hposted => ?_⟩
    · rw [hqp]; rfl
    · rw [hqp]; rfl
    · rw [hqp]
    · obtain ⟨hstate, hother⟩ := hnoted.byte_qpError hbusy hposted
      rw [State.qpAt_modQpReg rfl] at hstate hother
      exact ⟨hstate, hother⟩
  case sends =>
    intro ready sent
    have hsend : ∀ op w l, 1 ≤ op ∧ op ≤ 3 → ready op w l → ∃ t, s.startWqe x qpn op = t ∧ sent t w l := by
      intro op w l hop ⟨hrts, hposted, hunpaused, hrings, hrequest, hopcode, hfence, hshort, hrange⟩
      obtain ⟨hqp, hout, hmem⟩ := State.wqeSent_spec hentry w l
      exact ⟨_, State.startWqe_of_maySend hready hop
        ⟨hrts, hposted, hunpaused, hrings, hrequest, hopcode, hfence, hshort, hrange⟩, by rw [hqp], by rw [hqp], hout, hmem⟩
    simp only [exec_wqeWrite, exec_wqeRead, exec_wqeSend, Host.Outcome.next.injEq]
    exact ⟨fun w l => hsend 1 w l (by decide), fun w l => hsend 2 w l (by decide), fun w l => hsend 3 w l (by decide),
      fun hidle => ⟨State.startWqe_of_idle hidle 1, State.startWqe_of_idle hidle 2, State.startWqe_of_idle hidle 3⟩⟩

end Sys2Proof.Machine

namespace Sys2Proof.Machine

/-! ### PCIe ports -/

theorem exec_pcieMemRequest (n : Nat) (r : PcieRequest) (s : State) :
    exec (.pcieMemRequest n r) s = execPcieMemRequest n r s := rfl

/-- What a refused access of a device leaves: its count moves, and no queue, core or byte changes (14_network_and_pcie.md
R394). -/
theorem State.pcieDeny_spec (s : State) (n : Nat) :
    ((s.pcieDeny n).pciePort n).denied = min 0xFFFFFFFF ((s.pciePort n).denied + 1) ∧ (s.pcieDeny n).quads = s.quads ∧
    (s.pcieDeny n).cores = s.cores ∧ ∀ a, (s.pcieDeny n).byte a = s.byte a := by
  obtain ⟨-, hbyte, hdenied⟩ := pcieDeny_facts s n
  exact ⟨hdenied, by simp [State.pcieDeny], by simp [State.pcieDeny], hbyte⟩

@[simp] theorem State.pcieDeny_out (s : State) (n : Nat) : (s.pcieDeny n).out = s.out := by simp [State.pcieDeny]

/-- A doorbell of a port without authority (14_network_and_pcie.md R394; 17_configuration_and_security.md Table CFG-8). -/
theorem execDoorbell_of_not_mayRing {s : State} {p : Port} {q j : Nat} (v : Word) (h : s.mayRing p q j = false) :
    execDoorbell p q j v s = .next (match p with
      | .pcie n => s.pcieDeny n
      | _ => s) := by
  cases p with
  | _ =>
    dsimp only [State.mayRing] at h
    simp [execDoorbell, h]

section
variable {s : State} {n : Nat}

/-- A range that an aperture allows lies in populated memory. -/
theorem State.backed_of_apertured {pa len : Nat} {write : Bool} (h : s.apertured n pa len write = true) :
    ∃ r, s.backed pa len = some r := by
  unfold State.apertured at h
  cases hback : s.backed pa len with
  | none => simp [hback] at h
  | some r => exact ⟨r, rfl⟩

/-- Below the tiered range stand DDR5 and the HBM of four dies (01_package.md Table PKG-9). -/
theorem regionOf_below {pa : Nat} {r : Region} (hlow : pa < 0x100000000000) (hreg : regionOf pa = some r) :
    r = .ddr ∨ ∃ d < 4, r = .hbm d := by
  unfold regionOf at hreg
  rw [if_neg (by omega : ¬ (0x100000000000 ≤ pa ∧ pa < 0x180000000000)),
    if_neg (by omega : ¬ (0x180000000000 ≤ pa ∧ pa < 0x180080000000)),
    if_neg (by omega : ¬ (0x180080000000 ≤ pa ∧ pa < 0x1800A0000000)),
    if_neg (by omega : ¬ (0x190000000000 ≤ pa ∧ pa < 0x190100000000))] at hreg
  split_ifs at hreg with hddr hhbm
  · exact .inl (Option.some.inj hreg).symm
  · exact .inr ⟨_, by omega, (Option.some.inj hreg).symm⟩

/-- A populated range that starts outside the tiered range has none of it (01_package.md Table PKG-9). -/
theorem State.not_tiered_of_backed {pa len a : Nat} {r : Region} (hback : s.backed pa len = some r) (htier : isTiered pa = false)
    (hlo : pa / 64 * 64 ≤ a) (hhi : a < pa + len) : isTiered a = false := by
  obtain ⟨hreg, -, hend⟩ := (s.backed_iff pa len r).mp hback
  rw [Bool.eq_false_iff, Ne, isTiered_iff] at htier ⊢
  by_cases hlow : pa < 0x100000000000
  · have hbelow : (s.populated r).1 + (s.populated r).2 ≤ 0x100000000000 := by
      obtain rfl | ⟨d, hd, rfl⟩ := regionOf_below hlow hreg
      · simp only [State.populated, ddrSize]; omega
      · simp only [State.populated]; omega
    omega
  · omega

/-- A sector outside the tiered range, while no cache holds a line, is poisoned as memory has it. -/
theorem State.quietCaches.cohPoison_sector (hcaches : s.quietCaches) {sec : Nat} (htier : isTiered (sec * 64) = false) :
    s.cohPoison (sec * 64) 1 = s.sectorPoison sec := by
  have hsec : sectorsOf (sec * 64) 1 = [sec] := by rw [sectorsOf_of_one (by omega) (by omega)]; simp
  simp [State.quietCaches.cohPoison hcaches, hsec, State.basePoison, htier]

/-- A write of populated memory that would not meet poison meets none at its ends. -/
theorem State.EndsClean.of_writePoison {pa len : Nat} {r : Region} (hcaches : s.quietCaches) (hback : s.backed pa len = some r)
    (htier : isTiered pa = false) (h : s.writePoison true pa len = false) : s.EndsClean pa len := by
  intro hpos
  simp only [State.writePoison, if_true, Bool.or_eq_false_iff, hpos, decide_true, Bool.and_true, Bool.and_eq_false_iff,
    decide_eq_false_iff_not] at h
  obtain ⟨hhead, htail⟩ := h
  refine ⟨fun hmod => ?_, fun hmod => ?_⟩
  · rw [← State.quietCaches.cohPoison_sector hcaches (State.not_tiered_of_backed hback htier le_rfl (by omega))]
    exact hhead.resolve_left (not_not.mpr hmod)
  · rw [← State.quietCaches.cohPoison_sector hcaches (State.not_tiered_of_backed hback htier (by omega) (by omega))]
    exact htail.resolve_left (not_not.mpr hmod)

end

/-! #### Requests that are taken -/

section
variable {s : State} {n : Nat} (hrun : s.running = true) (hn : n < 2) (hfree : s.pcieHeld n = false)
include hrun hn hfree

/-- Nothing stops a request of a device of a running package that no transaction holds. -/
theorem State.takes_pcie : (!s.running || decide (2 ≤ n) || s.pcieHeld n) = false := by
  simp [hrun, hfree, Nat.not_le.mpr hn]

theorem exec_pcieRead (pa len : Nat) : exec (.pcieMemRequest n (.read pa len)) s = .next (s.pcieRead n pa len) := by
  rw [exec_pcieMemRequest, execPcieMemRequest, State.takes_pcie hrun hn hfree]; rfl

theorem exec_pcieWrite (pa : Nat) (bs : List Byte) :
    exec (.pcieMemRequest n (.write pa bs)) s = .next (s.pcieWrite n pa bs) := by
  rw [exec_pcieMemRequest, execPcieMemRequest, State.takes_pcie hrun hn hfree]; rfl

theorem exec_pcieMsi (hart : Nat) (file : Bool) (i : Nat) :
    exec (.pcieMemRequest n (.msi hart file i)) s = .next (s.pcieMsi n hart file i) := by
  rw [exec_pcieMemRequest, execPcieMemRequest, State.takes_pcie hrun hn hfree]; rfl

end

section
variable {s : State} {n : Nat}

theorem State.pcieRead_outside {pa len : Nat} (hout : s.apertured n pa len false = false) :
    s.pcieRead n pa len = (s.pcieDeny n).emit (.pcieUnsupported n) := by
  simp [State.pcieRead, hout]

theorem State.pcieRead_of_apertured {pa len : Nat} (hin : s.apertured n pa len false = true) (hclosed : s.hostClosed pa = false)
    (hreach : s.dieReachesAll (6 + n) pa len = true) (hready : s.readReady true pa len = true)
    (hpoison : s.readPoison true pa len = false) :
    s.pcieRead n pa len = (s.didRead pa len).emit (.pcieData n (s.readPhys true pa len)) := by
  simp [State.pcieRead, hin, hclosed, hreach, hready, hpoison]

theorem State.pcieWrite_outside {pa : Nat} {bs : List Byte} (hreg : regionOf pa ≠ some .config)
    (hout : s.apertured n pa bs.length true = false) : s.pcieWrite n pa bs = s.pcieDeny n := by
  simp [State.pcieWrite, hreg, hout]

/-- A write inside an aperture, of memory that can be written now, for a port without a stash target. -/
theorem State.pcieWrite_of_apertured {pa : Nat} {bs : List Byte} (hreg : regionOf pa ≠ some .config)
    (hin : s.apertured n pa bs.length true = true) (htier : isTiered pa = false) (hclosed : s.hostClosed pa = false)
    (hreach : s.dieReachesAll (6 + n) pa bs.length = true) (hready : s.writeReady true pa bs.length = true)
    (hpoison : s.writePoison true pa bs.length = false) (hstash : s.item 8 0x13 n = 0) :
    s.pcieWrite n pa bs = (s.passPorts (6 + n) pa bs.length).writePhys true pa bs := by
  have hnone : stashOf (BitVec.ofNat 32 (s.item 8 0x13 n)) = .none := by rw [hstash]; rfl
  simp [State.pcieWrite, hreg, hin, htier, hclosed, hreach, hready, hpoison, hnone, State.hintedReady, State.hintReady,
    stashAgent, State.writeHinted]

/-- The place of a queue's doorbell in configuration space (07_commands_and_queues.md R223). -/
def doorbellOff (q j : Nat) : Nat := 0x1000000 * (q / 16 + 1) + 0x800000 + q % 16 * 0x10000 + j * 0x1000

/-- A write of a doorbell's place is that doorbell where the image grants it, and refused elsewhere (07_commands_and_queues.md
R214, R223). -/
theorem State.pcieWrite_doorbell {q j : Nat} {bs : List Byte} (hq : q < 64) (hj : j < 16) (hlen : bs.length = 4) :
    s.pcieWrite n (0x190000000000 + doorbellOff q j) bs =
      if s.dbGranted n (16 * q + j) then
        (if s.quadOpen q && s.pathUp (6 + n) (q / 16) (doorbellOff q j) then
          s.modQueue q j (·.doorbell (BitVec.ofNat 32 (ofLe bs))) else s)
      else s.pcieDeny n := by
  obtain ⟨off, hoff⟩ : ∃ off, doorbellOff q j = off := ⟨_, rfl⟩
  rw [hoff]
  unfold doorbellOff at hoff
  have hreg : regionOf (0x190000000000 + off) = some .config := by
    unfold regionOf
    rw [if_neg (by omega), if_neg (by omega), if_neg (by omega), if_neg (by omega), if_neg (by omega), if_pos (by omega)]
  have hdie : off / 2 ^ 24 - 1 = q / 16 := by omega
  have hin : off % 2 ^ 24 = 0x800000 + q % 16 * 0x10000 + j * 0x1000 := by omega
  have hquad : 16 * (q / 16) + (0x800000 + q % 16 * 0x10000 + j * 0x1000 - 0x800000) / 0x10000 = q := by omega
  have hqueue : (0x800000 + q % 16 * 0x10000 + j * 0x1000) % 0x10000 / 0x1000 = j := by omega
  rw [State.pcieWrite, if_pos hreg, show 0x190000000000 + off - 0x190000000000 = off by omega]
  simp only [State.pcieConfig, hdie, hin]
  rw [if_neg (by omega), if_pos (by omega), hquad, hqueue]

/-- A granted message of a valid identity pends in the file that it names (11_host_cores_and_cache.md R315). -/
theorem State.pcieMsi_of_granted {hart i : Nat} (hgrant : s.msiGranted n hart = true) (hlo : 0 < i) (hhi : i < 2048)
    (hpath : s.pathUp (6 + n) (4 + hart / 64) 0 = true) (file : Bool) :
    s.pcieMsi n hart file i = s.modCore hart (fun c =>
      if file then { c with irqS := c.irqS.insert i } else { c with irqM := c.irqM.insert i }) := by
  rw [State.pcieMsi, if_neg (by simp [hgrant]), if_neg (by simp [hpath]; omega)]

theorem State.pcieMsi_of_not_granted {hart i : Nat} {file : Bool} (h : s.msiGranted n hart = false) :
    s.pcieMsi n hart file i = s.pcieDeny n := by
  simp [State.pcieMsi, h]

end

/-- Settles O58: a refusal by what its count leaves, each grant by what the request does inside it. -/
theorem portsStayWithinTheirGrants : Obligations.PortsStayWithinTheirGrants := by
  unfold Obligations.PortsStayWithinTheirGrants
  refine ⟨fun p q j v s hring => ?ring, fun n s hrun hn hfree => ?device⟩
  case ring =>
    refine ⟨_, (exec_doorbell p q j v s).trans (execDoorbell_of_not_mayRing v hring), ?_⟩
    cases p with
    | pcie n =>
      obtain ⟨hqueue, hbyte, hdenied⟩ := pcieDeny_facts s n
      exact ⟨hqueue, hbyte, hdenied⟩
    | _ => exact ⟨fun _ _ => rfl, fun _ => rfl, rfl⟩
  case device =>
    intro denied
    have hread := exec_pcieRead hrun hn hfree
    have hwrite := exec_pcieWrite hrun hn hfree
    have hmsi := exec_pcieMsi hrun hn hfree
    have hdeny : denied (s.pcieDeny n) := s.pcieDeny_spec n
    refine ⟨fun pa len => ⟨fun hout => ?readOut, fun hin htier hclosed hreach hready hpoison => ?readIn⟩,
      fun pa bs hreg => ⟨fun hout => ?writeOut, fun hin htier hclosed hreach hready hpoison hcaches hstash => ?writeIn⟩,
      fun q j bs hq hj hlen => ?doorbell,
      fun hart i => ⟨fun hgrant hlo hhi hpath => ?message, fun hrefuse f => ?refused⟩⟩
    case readOut =>
      exact ⟨_, (hread pa len).trans (congrArg _ (State.pcieRead_outside hout)), hdeny,
        congrArg (· ++ [Out.pcieUnsupported n]) (s.pcieDeny_out n)⟩
    case readIn =>
      have hpass := (State.Passes.didRead s len htier).beside
      refine ⟨_, (hread pa len).trans (congrArg _ (State.pcieRead_of_apertured hin hclosed hreach hready hpoison)), ?_,
        hpass.byte⟩
      exact congrArg (· ++ [.pcieData n (s.readPhys true pa len)]) (State.KeepsPairs.didRead s pa len).out
    case writeOut => exact ⟨_, by rw [hwrite, State.pcieWrite_outside hreg hout], hdeny⟩
    case writeIn =>
      have hpass := (State.Passes.passPorts s (6 + n) pa bs.length).beside
      obtain ⟨r, hback⟩ := State.backed_of_apertured hin
      have hclean := (State.EndsClean.of_writePoison hcaches hback htier hpoison).of_poison_eq hpass.poison
      have hbyte := State.quietCaches.byte_writePhys (hpass.quietCaches hcaches) htier hclean
      refine ⟨_, by rw [hwrite, State.pcieWrite_of_apertured hreg hin htier hclosed hreach hready hpoison hstash],
        fun i hi => ?_, fun a ha => ?_⟩
      · rw [hbyte, if_pos (by omega), Nat.add_sub_cancel_left]
      · rw [hbyte, if_neg (by omega), hpass.byte]
    case doorbell =>
      intro pa
      have hpa : pa = 0x190000000000 + doorbellOff q j := by unfold doorbellOff; omega
      refine ⟨fun hgrant hopen hpath => ?_, fun hrefuse => ⟨_, ?_, hdeny⟩⟩
      · rw [hpa, Nat.add_sub_cancel_left] at hpath
        rw [hwrite, hpa, State.pcieWrite_doorbell hq hj hlen, if_pos hgrant, if_pos (by simp [hopen, hpath])]
      · rw [hwrite, hpa, State.pcieWrite_doorbell hq hj hlen, if_neg (by simp [hrefuse])]
    case message =>
      refine ⟨⟨_, by rw [hmsi, State.pcieMsi_of_granted hgrant hlo hhi hpath], rfl, ?_⟩,
        ⟨_, by rw [hmsi, State.pcieMsi_of_granted hgrant hlo hhi hpath], rfl, ?_⟩⟩
      · rw [State.core_modCore_same]; exact List.mem_insert_self ..
      · rw [State.core_modCore_same]; exact List.mem_insert_self ..
    case refused => exact ⟨_, by rw [hmsi, State.pcieMsi_of_not_granted hrefuse], hdeny⟩

end Sys2Proof.Machine

namespace Sys2Proof.Machine

set_option Elab.async false


/-- A slice of a canonical table is canonical at its new place. -/
theorem Table.wf_slice {α : Type} [DecidableEq α] {d : α} {t : Table α} {lo n to_ : Nat} (h : Table.wf d t = true) :
    Table.wf d (t.slice lo n to_) = true := by
  have hcut : Table.wf d ((t.from lo).below (lo + n)) = true := Table.wf_filter d _ (Table.wf_filter d _ h)
  obtain ⟨hrise, hne⟩ := (Table.wf_iff d _).mp hcut
  refine (Table.wf_iff d _).mpr ⟨?_, ?_⟩
  · rw [Table.slice, List.map_map, List.pairwise_map]
    refine (List.pairwise_map.mp hrise).imp_of_mem fun {a b} ha hb hab => ?_
    have hlo := (Table.mem_from (Table.mem_below ha).1).2
    show a.1 - lo + to_ < b.1 - lo + to_
    omega
  · rintro e he
    obtain ⟨x, hx, rfl⟩ := List.mem_map.mp he
    exact hne x hx

/-- A slice lies wholly at its new place. -/
theorem Table.mem_slice {α : Type} {t : Table α} {lo n to_ : Nat} {e : Nat × α} (h : e ∈ t.slice lo n to_) :
    to_ ≤ e.1 ∧ e.1 < to_ + n := by
  obtain ⟨x, hx, rfl⟩ := List.mem_map.mp h
  obtain ⟨hfrom, hlt⟩ := Table.mem_below hx
  have hlo := (Table.mem_from hfrom).2
  show to_ ≤ x.1 - lo + to_ ∧ x.1 - lo + to_ < to_ + n
  omega

/-- The newest bytes of canonical memory are canonical. -/
theorem newestMem_wf {s : State} {lo hi : Nat} (h : s.memWf = true) : Memory.wf (s.newestMem lo hi) = true := by
  have hfold : ∀ (ls : List Nat) (u : State), Memory.wf u.mem = true →
      Memory.wf (ls.foldl (fun t l => t.setBytes (l * 64) (s.newest l).1) u).mem = true := by
    intro ls
    induction ls with
    | nil => exact fun _ hu => hu
    | cons l ls ih => exact fun u hu => ih _ (State.wf_setBytes _ _ hu)
  exact hfold _ s (Bool.and_eq_true_iff.mp h).1

/-! ### What every command keeps -/

/-- A run that comes to a state keeps a property when each state that it may come to has it. -/
def Run.All {α : Type} (P : State → Prop) : Run α → Prop
  | .ok _ s => P s
  | .wait s => P s
  | .fail s _ _ => P s
  | .stop s _ _ _ => P s

/-- What a look at a request's local memory leaves has a property. -/
def LocalRes.All (P : State → Prop) : LocalRes → Prop
  | .waits s => P s
  | _ => True

/-- The queue of waiting commands stands, and memory and flash stay canonical. -/
def State.Tidy (s t : State) : Prop := t.pending = s.pending ∧ (s.memWf = true → t.memWf = true)

/-- A quad has the same counts of suspicion and replay, and its queues hold commands at the same indices. -/
def Quad.SameMarks (x y : Quad) : Prop :=
  y.score = x.score ∧ y.replays = x.replays ∧ y.control = x.control ∧ y.exhausted = x.exhausted ∧
    ∀ j idx, ((y.queue j).find idx).isSome = ((x.queue j).find idx).isSome

/-- What every command but the key commands keeps: the queue of waiting commands, the fused keys, the minimum security
version, and the canonical form of memory and flash. Where `marks` holds, the marks of the quads too: that is what the work
of a station keeps besides. -/
def State.Keeps (marks : Prop) (s t : State) : Prop :=
  s.Tidy t ∧ t.cfg.keys = s.cfg.keys ∧ t.cfg.minSvn = s.cfg.minSvn ∧ (marks → ∀ q, (s.quad q).SameMarks (t.quad q))

/-- A command answers a next state, one that keeps what `State.Keeps` names. -/
def State.KeepsIn (s : State) : Host.Outcome State Fault Refusal → Prop
  | .next t => s.Keeps False t
  | _ => False

namespace Quad.SameMarks

variable {x y z : Quad}

/-- A change of a quad that leaves these fields alone. -/
theorem of_fields (hscore : y.score = x.score := by rfl) (hreplays : y.replays = x.replays := by rfl)
    (hcontrol : y.control = x.control := by rfl) (hexhausted : y.exhausted = x.exhausted := by rfl)
    (hqueues : y.queues = x.queues := by rfl) : x.SameMarks y :=
  ⟨hscore, hreplays, hcontrol, hexhausted, fun _ _ => by unfold Quad.queue; rw [hqueues]⟩

theorem refl (x : Quad) : x.SameMarks x := of_fields

theorem trans (h : x.SameMarks y) (k : y.SameMarks z) : x.SameMarks z := by
  obtain ⟨hs, hr, hc, he, hq⟩ := h
  obtain ⟨ks, kr, kc, ke, kq⟩ := k
  exact ⟨ks.trans hs, kr.trans hr, kc.trans hc, ke.trans he, fun j idx => (kq j idx).trans (hq j idx)⟩

end Quad.SameMarks

namespace State.Keeps

variable {marks : Prop} {s₀ s t : State}

theorem refl (s : State) : s.Keeps marks s := ⟨⟨rfl, id⟩, rfl, rfl, fun _ _ => .refl _⟩

/-- A step that changes memory, flash and quads alone: memory and flash stay canonical, and where the marks count, the
quads keep them. -/
theorem step (h : s₀.Keeps marks s) (hmem : Memory.wf s.mem = true → Memory.wf t.mem = true)
    (hflash : s.memWf = true → Memory.wf t.flash = true) (hquads : marks → ∀ q, (s.quad q).SameMarks (t.quad q))
    (hpending : t.pending = s.pending := by rfl) (hkeys : t.cfg.keys = s.cfg.keys := by rfl)
    (hsvn : t.cfg.minSvn = s.cfg.minSvn := by rfl) : s₀.Keeps marks t := by
  obtain ⟨⟨hp, hwf⟩, hk, hv, hq⟩ := h
  refine ⟨⟨hpending.trans hp, fun h₀ => ?_⟩, hkeys.trans hk, hsvn.trans hv, fun hm q => (hq hm q).trans (hquads hm q)⟩
  have hs := hwf h₀
  exact Bool.and_eq_true_iff.mpr ⟨hmem (Bool.and_eq_true_iff.mp hs).1, hflash hs⟩

theorem flash_wf (h : s.memWf = true) : Memory.wf s.flash = true := (Bool.and_eq_true_iff.mp h).2

/-- A step that leaves the fields of interest alone. -/
theorem same (h : s₀.Keeps marks s) (hpending : t.pending = s.pending := by rfl) (hmem : t.mem = s.mem := by rfl)
    (hflash : t.flash = s.flash := by rfl) (hkeys : t.cfg.keys = s.cfg.keys := by rfl)
    (hsvn : t.cfg.minSvn = s.cfg.minSvn := by rfl) (hquads : marks → t.quads = s.quads := by exact fun _ => rfl) :
    s₀.Keeps marks t :=
  h.step (fun hwf => hmem ▸ hwf) (fun hwf => hflash ▸ flash_wf hwf)
    (fun hm q => by unfold State.quad; rw [hquads hm]; exact .refl _) hpending hkeys hsvn

/-- A step that changes quads, but no other field of interest. -/
theorem besides (h : s₀.Keeps False s) (hpending : t.pending = s.pending := by rfl) (hmem : t.mem = s.mem := by rfl)
    (hflash : t.flash = s.flash := by rfl) (hkeys : t.cfg.keys = s.cfg.keys := by rfl)
    (hsvn : t.cfg.minSvn = s.cfg.minSvn := by rfl) : s₀.Keeps False t :=
  h.same hpending hmem hflash hkeys hsvn False.elim

/-- A step that changes memory and flash alone, and keeps them canonical. -/
theorem store (h : s₀.Keeps marks s) (hmem : Memory.wf s.mem = true → Memory.wf t.mem = true)
    (hflash : s.memWf = true → Memory.wf t.flash = true) (hpending : t.pending = s.pending := by rfl)
    (hkeys : t.cfg.keys = s.cfg.keys := by rfl) (hsvn : t.cfg.minSvn = s.cfg.minSvn := by rfl)
    (hquads : marks → t.quads = s.quads := by exact fun _ => rfl) : s₀.Keeps marks t :=
  h.step hmem hflash (fun hm q => by unfold State.quad; rw [hquads hm]; exact .refl _) hpending hkeys hsvn

theorem ite {c : Prop} {_ : Decidable c} (hs : s₀.Keeps marks s) (ht : s₀.Keeps marks t) :
    s₀.Keeps marks (if c then s else t) := by
  split
  · exact hs
  · exact ht

theorem ite_snd {α : Type} {c : Prop} {_ : Decidable c} {x y : α × State} (hx : s₀.Keeps marks x.2)
    (hy : s₀.Keeps marks y.2) :
    s₀.Keeps marks (if c then x else y).2 := by
  split
  · exact hx
  · exact hy

theorem foldl {α : Type} {f : State → α → State} {l : List α} (hf : ∀ u, s₀.Keeps marks u → ∀ a, s₀.Keeps marks (f u a))
    (h : s₀.Keeps marks s) :
    s₀.Keeps marks (l.foldl f s) := by
  induction l generalizing s with
  | nil => exact h
  | cons a l ih => exact ih (hf s h a)

/-- Free values drawn. -/
theorem drawn (h : s₀.Keeps marks s) {n : Nat} : s₀.Keeps marks { s with free := s.free + n } := h.same

theorem of_eq {α : Type} {x : α × State} {a : α} (h : s₀.Keeps marks x.2) (hx : x = (a, s)) : s₀.Keeps marks s := by
  rw [hx] at h; exact h

theorem of_eq₂ {α β : Type} {x : α × β × State} {a : α} {b : β} (h : s₀.Keeps False x.2.2) (hx : x = (a, b, s)) :
    s₀.Keeps False s := by
  rw [hx] at h; exact h

theorem some (h : s₀.Keeps marks s) : ∀ t ∈ Option.some s, s₀.Keeps marks t := by
  rintro _ ⟨⟩; exact h

theorem none : ∀ t ∈ (Option.none : Option State), s₀.Keeps marks t := by
  rintro _ ⟨⟩

theorem getD {o : Option State} (ho : ∀ t ∈ o, s₀.Keeps False t) (h : s₀.Keeps False s) : s₀.Keeps False (o.getD s) := by
  cases o with
  | none => exact h
  | some t => exact ho t rfl

theorem of_msg {α : Type} {o : Option (α × State)} {a : α} (ho : ∀ p ∈ o, s₀.Keeps False p.2) (hx : o = Option.some (a, s)) :
    s₀.Keeps False s :=
  ho _ hx

end State.Keeps

theorem Run.All.andThen {α β : Type} {P : State → Prop} {r : Run α} {f : α → State → Run β} (h : r.All P)
    (hf : ∀ a s, P s → (f a s).All P) : (r.andThen f).All P := by
  cases r with
  | ok a s => exact hf a s h
  | wait s => exact h
  | fail s st d => exact h
  | stop s st d n => exact h

theorem Run.All.ite {α : Type} {P : State → Prop} {c : Prop} {_ : Decidable c} {r r' : Run α} (h : r.All P) (h' : r'.All P) :
    (if c then r else r').All P := by
  split
  · exact h
  · exact h'

theorem LocalRes.All.of_waits {P : State → Prop} {x : LocalRes} {s : State} (h : x.All P) (hx : x = .waits s) : P s := by
  rw [hx] at h; exact h

theorem SlotRes.All.of_got {P : State → Prop} {x : SlotRes} {s : State} (h : x.All P) (hx : x = .got s) : P s := by
  rw [hx] at h; exact h

theorem SlotRes.All.of_waits {P : State → Prop} {x : SlotRes} {s : State} (h : x.All P) (hx : x = .waits s) : P s := by
  rw [hx] at h; exact h

/-- The quad after a note that a tile has reached flash: its commands wait for one tile fewer. -/
theorem State.quad_noteFlash (s : State) (t q : Nat) : (s.noteFlash t).quad q =
    { s.quad q with queues := (s.quad q).queues.map (fun y => (y.1, y.2.reached t)) } :=
  Table.get_map (f := fun x : Quad => { x with queues := x.queues.map (fun y => (y.1, y.2.reached t)) }) rfl s.quads q

/-! One lemma for each operation of the model, in the order of the model's files: an operation keeps what its parts keep,
branch by branch. -/

namespace State.Keeps

variable {marks : Prop} {s₀ s t : State}

theorem of_go {x : TRes} (h : s₀.Keeps marks x.state) (hx : x = .go s) : s₀.Keeps marks s := by
  rw [hx] at h; exact h

theorem of_wait {x : TRes} (h : s₀.Keeps marks x.state) (hx : x = .wait s) : s₀.Keeps marks s := by
  rw [hx] at h; exact h

/-! #### The modifiers -/

theorem setBytes (h : s₀.Keeps marks s) {pa bs} : s₀.Keeps marks (s.setBytes pa bs) :=
  h.store (State.wf_setBytes pa bs) flash_wf
theorem setPoison (h : s₀.Keeps marks s) {sector : Nat} {b : Bool} : s₀.Keeps marks (s.setPoison sector b) := h.same
theorem clearWhole (h : s₀.Keeps marks s) {pa n : Nat} : s₀.Keeps marks (s.clearWhole pa n) := ite h.same h

theorem writeMem (h : s₀.Keeps marks s) {pa : Nat} {bs : List Byte} : s₀.Keeps marks (s.writeMem pa bs) :=
  ite (ite h h.clearWhole.setBytes) (ite (ite h.clearWhole.setBytes h.clearWhole.setBytes.setBytes) ((ite
    h.clearWhole.setBytes h.clearWhole.setBytes.setBytes).setBytes))

theorem drawNat (h : s₀.Keeps marks s) {n : Nat} : s₀.Keeps marks (s.drawNat n).2 := h.drawn
theorem drawDword (h : s₀.Keeps False s) : s₀.Keeps False s.drawDword.2 := h.drawn
theorem scramble (h : s₀.Keeps marks s) {pa n : Nat} : s₀.Keeps marks (s.scramble pa n) := h.drawn.setBytes
theorem modQuad (h : s₀.Keeps marks s) {q : Nat} {f : Quad → Quad}
    (hf : marks → ∀ x : Quad, x.SameMarks (f x) := by exact False.elim) :
    s₀.Keeps marks (s.modQuad q f) :=
  h.step id flash_wf fun hm p => by
    rw [State.quad_modQuad]
    split
    · next hp => rw [hp]; exact hf hm _
    · exact .refl _

/-- A change of a quad's other counters. -/
theorem countQuad (h : s₀.Keeps marks s) {q : Nat} {f : Quad → Quad}
    (hf : ∀ x : Quad, x.SameMarks (f x) := by exact fun _ => .of_fields) :
    s₀.Keeps marks (s.modQuad q f) := h.modQuad fun _ => hf

theorem modQueue (h : s₀.Keeps False s) {q j : Nat} {f : Queue → Queue} : s₀.Keeps False (s.modQueue q j f) := h.modQuad
theorem modWindow (h : s₀.Keeps False s) {q w : Nat} {f : Window → Window} : s₀.Keeps False (s.modWindow q w f) := h.modQuad
theorem modStu (h : s₀.Keeps False s) {u : Nat} {f : Stu → Stu} : s₀.Keeps False (s.modStu u f) := h.same
theorem modCore (h : s₀.Keeps marks s) {c : Nat} {f : Core → Core} : s₀.Keeps marks (s.modCore c f) := h.same
theorem modLink (h : s₀.Keeps False s) {n : Nat} {f : Link → Link} : s₀.Keeps False (s.modLink n f) := h.same
theorem modPower (h : s₀.Keeps False s) {f : Power → Power} : s₀.Keeps False (s.modPower f) := h.same
theorem modDiePower (h : s₀.Keeps False s) {d : Nat} {f : DiePower → DiePower} : s₀.Keeps False (s.modDiePower d f) :=
  h.modPower

theorem modCfg (h : s₀.Keeps False s) {f : Cfg → Cfg} (hkeys : ∀ c, (f c).keys = c.keys := by exact fun _ => rfl)
    (hsvn : ∀ c, (f c).minSvn = c.minSvn := by exact fun _ => rfl) :
    s₀.Keeps False (s.modCfg f) := h.same (hkeys := hkeys _) (hsvn := hsvn _)

theorem modBoot (h : s₀.Keeps False s) {f : Boot → Boot} : s₀.Keeps False (s.modBoot f) := h.same
theorem modLog (h : s₀.Keeps False s) {f : ErrLog → ErrLog} : s₀.Keeps False (s.modLog f) := h.same
theorem modTier (h : s₀.Keeps marks s) {f : Tier → Tier} : s₀.Keeps marks (s.modTier f) := h.same
theorem modTime (h : s₀.Keeps False s) {f : Time → Time} : s₀.Keeps False (s.modTime f) := h.same
theorem modCoh (h : s₀.Keeps marks s) {f : Coh → Coh} : s₀.Keeps marks (s.modCoh f) := h.same
theorem modFabric (h : s₀.Keeps False s) {f : Fabric → Fabric} : s₀.Keeps False (s.modFabric f) := h.same
theorem modHostDie (h : s₀.Keeps marks s) {n : Nat} {f : HostDie → HostDie} : s₀.Keeps marks (s.modHostDie n f) := h.same
theorem modEth (h : s₀.Keeps False s) {n : Nat} {f : Eth → Eth} : s₀.Keeps False (s.modEth n f) := h.same
theorem modPcie (h : s₀.Keeps False s) {n : Nat} {f : Pcie → Pcie} : s₀.Keeps False (s.modPcie n f) := h.same
theorem modQp (h : s₀.Keeps False s) {x qpn : Nat} {f : Qp → Qp} : s₀.Keeps False (s.modQp x qpn f) := h.same
theorem modQpReg (h : s₀.Keeps False s) {x : Nat} {f : QpRegs → QpRegs} : s₀.Keeps False (s.modQpReg x f) := h.same
theorem modHome (h : s₀.Keeps marks s) {n : Nat} {f : Home → Home} : s₀.Keeps marks (s.modHome n f) := h.modCoh
theorem modTierDie (h : s₀.Keeps marks s) {d : Nat} {f : TierDie → TierDie} : s₀.Keeps marks (s.modTierDie d f) := h.modTier
theorem modFlashDie (h : s₀.Keeps False s) {d : Nat} {f : FlashDie → FlashDie} : s₀.Keeps False (s.modFlashDie d f) :=
  h.modTier
theorem modChannel (h : s₀.Keeps marks s) {c : Nat} {f : Channel → Channel} : s₀.Keeps marks (s.modChannel c f) := h.modTier
theorem emit (h : s₀.Keeps False s) {o : Out} : s₀.Keeps False (s.emit o) := h.same
theorem setItem (h : s₀.Keeps False s) {i : CfgItem} : s₀.Keeps False (s.setItem i) := h.modCfg

/-! #### Error records -/

theorem sendEventTo (h : s₀.Keeps False s) {port e} : s₀.Keeps False (s.sendEventTo port e) := by
  rw [State.sendEventTo_frame, State.sendEventTo_cfg]
  exact h.same

theorem sendEvent (h : s₀.Keeps False s) {e : Event} : s₀.Keeps False (s.sendEvent e) := h.sendEventTo.sendEventTo

theorem logErr (h : s₀.Keeps marks s) {r0} : s₀.Keeps marks (s.logErr r0) := by
  obtain ⟨_, _, _, _, hr⟩ := State.logErr_frame s r0
  rw [hr]
  exact h.same

theorem fatal (h : s₀.Keeps False s) {source code die unit : Nat} : s₀.Keeps False (s.fatal source code die unit) := h.logErr
theorem raiseIrq (h : s₀.Keeps False s) {src : Nat} : s₀.Keeps False (s.raiseIrq src) := ite h.modCore h

/-! #### Places -/

theorem setTile (h : s₀.Keeps marks s) {t : Nat} {x : Tile} : s₀.Keeps marks (s.setTile t x) := h.modTier
theorem enterGroup (h : s₀.Keeps marks s) {t : Nat} : s₀.Keeps marks (s.enterGroup t) := h.modChannel
theorem fillFromFlash (h : s₀.Keeps marks s) {t : Nat} : s₀.Keeps marks (s.fillFromFlash t) := h.setBytes.same
theorem fillZero (h : s₀.Keeps marks s) {t} : s₀.Keeps marks (s.fillZero t) := h.store (State.wf_fillZero t) flash_wf

theorem extFill (h : s₀.Keeps marks s) {d line : Nat} {dirty : Bool} : s₀.Keeps marks (s.extFill d line dirty) := by
  unfold State.extFill
  refine ite ?_ ?_
  · split
    · exact h.same
    · exact h
  · exact h

theorem extSet (h : s₀.Keeps marks s) {d line : Nat} {dirty : Bool} : s₀.Keeps marks (s.extSet d line dirty) := by
  unfold State.extSet
  split
  · exact h.same
  · exact h

theorem extDrop (h : s₀.Keeps marks s) {d line : Nat} : s₀.Keeps marks (s.extDrop d line) := by
  unfold State.extDrop
  split
  · exact h.same
  · exact h

theorem extLookup (h : s₀.Keeps marks s) {pa n : Nat} {write : Bool} : s₀.Keeps marks (s.extLookup pa n write) := by
  unfold State.extLookup
  dsimp only
  split
  · exact h
  · exact ite ((ite (foldl (fun _ h1 _ => h1.extSet) h) h).same) h

theorem extDropTile (h : s₀.Keeps marks s) {d t : Nat} : s₀.Keeps marks (s.extDropTile d t) :=
  ite h (foldl (fun _ h1 _ => h1.extDrop) h)

theorem openTile (h : s₀.Keeps marks s) {t : Nat} : s₀.Keeps marks (s.openTile t) := by
  unfold State.openTile
  dsimp only
  split
  · exact h.setTile
  · exact h
  · exact h
  · exact h.fillFromFlash.setTile.enterGroup
  · exact h.fillFromFlash.setTile.enterGroup
  · exact h.fillZero.setTile.enterGroup

theorem openLine (h : s₀.Keeps marks s) {line : Nat} : s₀.Keeps marks (s.openLine line) := ite h.openTile h

theorem lineWrite (h : s₀.Keeps marks s) {line : Nat} {d : List Byte} {poison : Bool} :
    s₀.Keeps marks (s.lineWrite line d poison) :=
  h.openLine.extLookup.setBytes.setPoison

/-! #### Caching agents and their messages -/

theorem setLine (h : s₀.Keeps marks s) {a line : Nat} {x : Line} : s₀.Keeps marks (s.setLine a line x) := h.modCoh
theorem setDir (h : s₀.Keeps marks s) {line : Nat} {e : DirEntry} : s₀.Keeps marks (s.setDir line e) := h.modCoh

theorem poisonLine (h : s₀.Keeps marks s) {line cause agent : Nat} : s₀.Keeps marks (s.poisonLine line cause agent) :=
  h.openLine.setPoison.modHome

theorem dropReserved (h : s₀.Keeps marks s) {pa n : Nat} : s₀.Keeps marks (s.dropReserved pa n) :=
  foldl (fun _ h1 _ => h1.modCore) h

theorem dropReservations (h : s₀.Keeps marks s) {line : Nat} {but : Requester} :
    s₀.Keeps marks (s.dropReservations line but) :=
  foldl (fun _ h1 _ => h1.modCore) h

theorem dropL1 (h : s₀.Keeps marks s) {a line : Nat} : s₀.Keeps marks (s.dropL1 a line) := ite h.modCore h
theorem dropCopy (h : s₀.Keeps marks s) {a line : Nat} : s₀.Keeps marks (s.dropCopy a line) := h.setLine.dropL1
theorem countBcast (h : s₀.Keeps marks s) {line : Nat} : s₀.Keeps marks (s.countBcast line) := ite h.modHome h

theorem purge (h : s₀.Keeps marks s) {line : Nat} {keep : Bool} : s₀.Keeps marks (s.purge line keep) := by
  unfold State.purge
  dsimp only
  refine modCoh ?_
  refine countBcast ?_
  refine foldl (fun _ h1 _ => h1.dropL1) ?_
  refine ite ?_ ?_
  · exact h.poisonLine
  · split
    · exact ite h.lineWrite h
    · exact h

theorem dirRoom (h : s₀.Keeps marks s) {line : Nat} : ∀ t ∈ s.dirRoom line, s₀.Keeps marks t := by
  unfold State.dirRoom
  dsimp only
  split
  · exact some h
  · split
    · exact some h
    · split
      · exact none
      · split
        · exact none
        · exact some h.purge.modHome

theorem nextStamp (h : s₀.Keeps marks s) : s₀.Keeps marks (s.nextStamp).2 := h.modCoh
theorem post (h : s₀.Keeps marks s) {m : Msg} : s₀.Keeps marks (s.post m) := h.modCoh

theorem takeMsg (h : s₀.Keeps False s) {f : Msg → Bool} : ∀ p ∈ s.takeMsg f, s₀.Keeps False p.2 := by
  unfold State.takeMsg
  split
  · rintro _ ⟨⟩
  · split
    · rintro _ ⟨⟩
      exact h.modCoh
    · rintro _ ⟨⟩

theorem lateMsg (h : s₀.Keeps False s) {line : Nat} : s₀.Keeps False (s.lateMsg line) := h.modHome

theorem takeStale (h : s₀.Keeps False s) {f : Msg → Bool} : ∀ t ∈ s.takeStale f, s₀.Keeps False t := by
  unfold State.takeStale
  split
  · split
    · exact some h.modCoh.lateMsg
    · exact none
  · exact none

theorem orStale (h : s₀.Keeps False s) {f : Msg → Bool} : s₀.Keeps False (s.orStale f) := getD h.takeStale h
theorem countEvent (h : s₀.Keeps False s) {c code n : Nat} : s₀.Keeps False (s.countEvent c code n) := h.modCore
theorem streamWrite (h : s₀.Keeps marks s) {det line : Nat} : s₀.Keeps marks (s.streamWrite det line).2 := ite_snd h.same h
theorem streamPart (h : s₀.Keeps marks s) {det line : Nat} : s₀.Keeps marks (s.streamPart det line) := ite h.same h

theorem streamRange (h : s₀.Keeps False s) {det pa n : Nat} : s₀.Keeps False (s.streamRange det pa n) :=
  foldl (fun _ h1 _ => ite h1.streamWrite h1.streamPart) h

theorem sendWb (h : s₀.Keeps False s) {a line : Nat} : s₀.Keeps False (s.sendWb a line) := by
  unfold State.sendWb
  dsimp only
  split
  · exact h.dropL1.setLine.post
  · exact h.dropL1.setLine.post
  · exact h.dropL1.setLine.post
  · exact h.dropL1.setLine.post
  · exact h.dropL1

theorem passOut (h : s₀.Keeps False s) {a line : Nat} : s₀.Keeps False (s.passOut a line).2 :=
  ite_snd (ite_snd h.streamWrite.countEvent h.streamWrite) h

theorem evictLine (h : s₀.Keeps False s) {a line : Nat} : s₀.Keeps False (s.evictLine a line) := ite h.passOut.sendWb h

theorem sendMove (h : s₀.Keeps False s) {a line : Nat} : s₀.Keeps False (s.sendMove a line) := by
  unfold State.sendMove
  dsimp only
  refine ite ?_ ?_
  · split
    · exact (h.passOut.of_eq ‹_›).sendWb
    · exact (((h.passOut.of_eq ‹_›).setLine).dropL1).post
  · exact h

theorem scTouch (h : s₀.Keeps False s) {n line : Nat} {stash : Bool} {i : Nat} : s₀.Keeps False (s.scTouch n line stash i) :=
  h.same

theorem scHit (h : s₀.Keeps False s) {n line : Nat} : s₀.Keeps False (s.scHit n line) := by
  unfold State.scHit
  split
  · exact h.scTouch
  · split
    · exact h.scTouch
    · exact h

theorem scFill (h : s₀.Keeps False s) {n line : Nat} {stash : Bool} : ∀ t ∈ s.scFill n line stash, s₀.Keeps False t := by
  unfold State.scFill
  dsimp only
  split
  · exact some h.scHit
  · split
    · exact none
    · split
      · exact none
      · exact some (((ite h h.evictLine).same).scTouch)

theorem l2Room (h : s₀.Keeps False s) {a line : Nat} : ∀ t ∈ s.l2Room a line, s₀.Keeps False t := by
  unfold State.l2Room
  dsimp only
  split
  · exact some h
  · split
    · exact some h
    · split
      · exact some h.drawn.sendMove
      · exact none

theorem cacheRoom (h : s₀.Keeps False s) {a line : Nat} {stash : Bool} :
    ∀ t ∈ s.cacheRoom a line stash, s₀.Keeps False t := by
  unfold State.cacheRoom
  split
  · exact h.l2Room
  · exact h.scFill

theorem dropHint (h : s₀.Keeps marks s) {n : Nat} : s₀.Keeps marks (s.dropHint n) := h.modHostDie

theorem dropStash (h : s₀.Keeps marks s) {t : Stash} : s₀.Keeps marks (s.dropStash t) := by
  unfold State.dropStash
  split
  · exact h.dropHint
  · exact h

theorem ownedBy (h : s₀.Keeps marks s) {line a : Nat} : s₀.Keeps marks (s.ownedBy line a) := ite h.nextStamp.setDir h.setDir

theorem sendInstall (h : s₀.Keeps marks s) {t : Stash} {line : Nat} {d : List Byte} :
    s₀.Keeps marks (s.sendInstall t line d) := by
  unfold State.sendInstall
  split
  · exact h
  · split
    · exact h.extFill
    · exact h
  · split
    · exact h.dropStash
    · split
      · exact h.dropStash
      · exact ((h.dirRoom _ ‹_›).ownedBy).post

theorem cohWrite (h : s₀.Keeps marks s) {pa : Nat} {bs : List Byte} : s₀.Keeps marks (s.cohWrite pa bs) :=
  ((foldl (fun _ h1 _ => h1.purge) h).dropReserved).writeMem

/-! #### The tier -/

theorem setSlot (h : s₀.Keeps marks s) {d set way : Nat} {x : Slot} : s₀.Keeps marks (s.setSlot d set way x) := h.modTier
theorem recallTile (h : s₀.Keeps marks s) {t : Nat} : s₀.Keeps marks (s.recallTile t) := foldl (fun _ h1 _ => h1.purge) h
theorem noteFlash (h : s₀.Keeps marks s) {t : Nat} : s₀.Keeps marks (s.noteFlash t) :=
  h.step id flash_wf fun _ q => by
    have hquad := State.quad_noteFlash s t q
    refine ⟨?_, ?_, ?_, ?_, fun j idx => ?_⟩
    · rw [hquad]
    · rw [hquad]
    · rw [hquad]
    · rw [hquad]
    · show (((s.noteFlash t).queue q j).find idx).isSome = _
      rw [State.queue_noteFlash, Queue.find_reached, Option.isSome_map]
      rfl

theorem evictTile (h : s₀.Keeps marks s) {d t : Nat} : s₀.Keeps marks (s.evictTile d t) :=
  ite h.recallTile.extDropTile.setTile.modTierDie.noteFlash (ite
    h.recallTile.extLookup.extDropTile.setTile.enterGroup.modTierDie h.recallTile)

theorem evictSlot (h : s₀.Keeps marks s) {d set way : Nat} : s₀.Keeps marks (s.evictSlot d set way) :=
  (foldl (fun _ h1 _ => h1.evictTile) h).setSlot

theorem walkSet (h : s₀.Keeps marks s) {d set n w} : s₀.Keeps marks (s.walkSet d set n w).2 := by
  induction n generalizing s w with
  | zero => exact h
  | succ n ih =>
    unfold State.walkSet
    dsimp only
    split
    · exact h.modTier
    · exact ih h.setSlot

theorem takeSlot (h : s₀.Keeps marks s) {g : Nat} : (s.takeSlot g).All (s₀.Keeps marks) := by
  unfold State.takeSlot
  dsimp only
  split
  · exact trivial
  · split
    · exact h.setSlot
    · split
      · exact h.setSlot
      · split
        · exact trivial
        · split
          · exact h.evictSlot.setSlot
          · split
            · exact ((h.walkSet.of_eq ‹_›).evictSlot).setSlot
            · exact h.walkSet.of_eq ‹_›

theorem touchSlot (h : s₀.Keeps marks s) {t : Nat} : s₀.Keeps marks (s.touchSlot t) := by
  unfold State.touchSlot
  dsimp only
  split
  · exact h.modTierDie.setSlot
  · exact h.modTierDie

theorem countBypass (h : s₀.Keeps marks s) {t : Nat} : s₀.Keeps marks (s.countBypass t) := h.modTierDie
theorem urge (h : s₀.Keeps marks s) {t k : Nat} : s₀.Keeps marks (s.urge t k) := ite h.modTier h
theorem askFlash (h : s₀.Keeps marks s) {t k : Nat} : s₀.Keeps marks (s.askFlash t k) := ite h.urge (ite h h.modTier)
theorem noRead (h : s₀.Keeps marks s) {t : Nat} : s₀.Keeps marks (s.noRead t) := h.modTier
theorem intoP (h : s₀.Keeps marks s) {t k : Nat} : s₀.Keeps marks (s.intoP t k) := h.setTile.askFlash

theorem promote (h : s₀.Keeps False s) {t k : Nat} : s₀.Keeps False (s.promote t k).2 := by
  unfold State.promote
  split
  · exact (h.takeSlot.of_got ‹_›).intoP
  · exact h
  · exact h.takeSlot.of_waits ‹_›

theorem askBypass (h : s₀.Keeps marks s) {t : Nat} : s₀.Keeps marks (s.askBypass t) := ite h.urge h.setTile.askFlash
theorem zeroSlot (h : s₀.Keeps marks s) {t : Nat} {st : TileSt} : s₀.Keeps marks (s.zeroSlot t st) :=
  h.fillZero.setTile.extLookup
theorem freshSlot (h : s₀.Keeps marks s) {t : Nat} : s₀.Keeps marks (s.freshSlot t) := h.fillZero.setTile.noRead
theorem groupWrite (h : s₀.Keeps marks s) {t : Nat} : s₀.Keeps marks (s.groupWrite t) :=
  h.countBypass.setTile.noRead.enterGroup

theorem accessU (h : s₀.Keeps marks s) {k : TAcc} {t : Nat} : s₀.Keeps marks (s.accessU k t).state := by
  unfold State.accessU
  split
  · split
    · exact h.countBypass
    · split
      · exact (h.takeSlot.of_got ‹_›).zeroSlot
      · exact h.countBypass
      · exact h.takeSlot.of_waits ‹_›
  · split
    · exact (h.takeSlot.of_got ‹_›).freshSlot
    · exact h.fillZero.groupWrite
    · exact h.takeSlot.of_waits ‹_›
  · split
    · exact (h.takeSlot.of_got ‹_›).zeroSlot
    · exact h.fillZero.groupWrite
    · exact h.takeSlot.of_waits ‹_›

theorem accessF (h : s₀.Keeps marks s) {k : TAcc} {t : Nat} : s₀.Keeps marks (s.accessF k t).state := by
  unfold State.accessF
  dsimp only
  split
  · split
    · exact h.setTile.countBypass
    · split
      · exact h.askBypass
      · split
        · exact (h.takeSlot.of_got ‹_›).intoP
        · exact h.askBypass
        · exact h.takeSlot.of_waits ‹_›
  · split
    · exact (h.takeSlot.of_got ‹_›).freshSlot
    · exact h.fillZero.groupWrite
    · exact h.takeSlot.of_waits ‹_›
  · split
    · exact (h.takeSlot.of_got ‹_›).intoP
    · split
      · exact h.fillFromFlash.groupWrite
      · exact h.askBypass
    · exact h.takeSlot.of_waits ‹_›

theorem accessTile (h : s₀.Keeps marks s) {k : TAcc} {t : Nat} : s₀.Keeps marks (s.accessTile k t).state := by
  unfold State.accessTile
  dsimp only
  split
  · exact h
  · split
    · exact (ite h h.setTile).touchSlot
    · exact h.touchSlot
    · exact h.urge
    · exact h.setTile
    · exact h.accessU
    · exact h.accessF

theorem accessTiles (h : s₀.Keeps marks s) {k ts} : s₀.Keeps marks (s.accessTiles k ts).2 := by
  induction ts generalizing s with
  | nil => exact h
  | cons t ts ih =>
    unfold State.accessTiles
    split
    · exact ih (h.accessTile.of_go ‹_›)
    · exact ih (h.accessTile.of_wait ‹_›)

theorem requestTiles (h : s₀.Keeps marks s) {k : TAcc} {ts : List Nat} : s₀.Keeps marks (s.requestTiles k ts) := by
  unfold State.requestTiles
  refine foldl (fun _ h1 _ => ?_) h
  split
  · exact h1
  · exact h1.accessTile.of_wait ‹_›

/-! #### Translation -/

theorem countLookup (h : s₀.Keeps False s) {ctx : Nat} : s₀.Keeps False (s.countLookup ctx) := h.modStu

theorem segMiss (h : s₀.Keeps False s) {q ctx va : Nat} : s₀.Keeps False (s.segMiss q ctx va).2 := by
  unfold State.segMiss
  dsimp only
  split
  · exact h.countLookup.modQuad
  · exact h.countLookup.modQuad.modQuad

theorem segLookup (h : s₀.Keeps False s) {q ctx va : Nat} : s₀.Keeps False (s.segLookup q ctx va).2 := by
  unfold State.segLookup
  split
  · exact h.modQuad
  · exact h.segMiss

theorem ethAsk (h : s₀.Keeps False s) {n ctx va : Nat} : s₀.Keeps False (s.ethAsk n ctx va) := by
  unfold State.ethAsk
  dsimp only
  split
  · exact h.modEth
  · split
    · exact h.countLookup.modEth
    · exact h.countLookup

theorem reportFault (h : s₀.Keeps False s) {pq ctx va : Nat} : s₀.Keeps False (s.reportFault pq ctx va).2 := by
  unfold State.reportFault
  dsimp only
  split
  · exact h.modStu
  · split
    · exact h.modStu
    · exact h.modStu.raiseIrq

theorem leaveFault (h : s₀.Keeps False s) {u r : Nat} : s₀.Keeps False (s.leaveFault u r) := h.modStu

/-! #### Accesses -/

theorem requestRead (h : s₀.Keeps marks s) {pa n : Nat} : s₀.Keeps marks (s.requestRead pa n) := ite h.requestTiles h

theorem requestWrite (h : s₀.Keeps marks s) {pa n : Nat} : s₀.Keeps marks (s.requestWrite pa n) :=
  ite (foldl (fun _ h1 _ => h1.requestTiles) h) h

theorem didRead (h : s₀.Keeps marks s) {pa n : Nat} : s₀.Keeps marks (s.didRead pa n) := (ite h.accessTiles h).extLookup

theorem touchTile (h : s₀.Keeps marks s) {k : TAcc} {t : Nat} : s₀.Keeps marks (s.touchTile k t) := by
  unfold State.touchTile
  split
  · exact h.accessTile.of_go ‹_›
  · exact h.openTile

theorem writePhys (h : s₀.Keeps marks s) {coherent : Bool} {pa : Nat} {bs : List Byte} :
    s₀.Keeps marks (s.writePhys coherent pa bs) :=
  ite (((ite (foldl (fun _ h1 _ => h1.touchTile) h) h).extLookup).cohWrite) (((ite (foldl (fun _ h1 _ =>
    h1.touchTile) h) h).extLookup).writeMem)

theorem passPorts (h : s₀.Keeps marks s) {from_ pa n : Nat} : s₀.Keeps marks (s.passPorts from_ pa n) := by
  unfold State.passPorts
  refine foldl (fun _ h1 _ => ?_) h
  split
  · exact ite h1.streamWrite h1.streamPart
  · exact h1

theorem writeHinted (h : s₀.Keeps marks s) {from_ : Nat} {t : Stash} {coherent : Bool} {pa : Nat} {bs : List Byte} :
    s₀.Keeps marks (s.writeHinted from_ t coherent pa bs) :=
  ite h.passPorts.writePhys (foldl (fun _ h1 _ => ite h1.sendInstall h1.dropStash) h.passPorts.writePhys)

/-! #### Sync objects -/

theorem wake (h : s₀.Keeps False s) {r : Reg} : s₀.Keeps False (s.wake r) := h.modQuad

theorem syncOne (h : s₀.Keeps False s) {obj : Nat} {o : SyncOp} : s₀.Keeps False (s.syncOne obj o) :=
  foldl (fun _ h1 _ => h1.wake) h.same

theorem holdSync (h : s₀.Keeps False s) {obj : Nat} {o : SyncOp} : s₀.Keeps False (s.holdSync obj o) := h.modBoot
theorem syncArrive (h : s₀.Keeps False s) {obj : Nat} {o : SyncOp} : s₀.Keeps False (s.syncArrive obj o) :=
  ite h.holdSync h.syncOne
theorem syncOp (h : s₀.Keeps False s) {obj : Nat} {o : SyncOp} : s₀.Keeps False (s.syncOp obj o) :=
  ite h.syncArrive h.holdSync
theorem register (h : s₀.Keeps False s) {r : Reg} : s₀.Keeps False (s.register r) := h.same
theorem unregister (h : s₀.Keeps False s) {q j : Nat} {idx : Word} {obj : Nat} : s₀.Keeps False (s.unregister q j idx obj) :=
  h.same
theorem dropWakes (h : s₀.Keeps False s) {q j : Nat} {idx : Word} : s₀.Keeps False (s.dropWakes q j idx) := h.modQuad
theorem syncAll (h : s₀.Keeps False s) {l : List (Nat × SyncOp)} : s₀.Keeps False (s.syncAll l) :=
  foldl (fun _ h1 _ => h1.syncOp) h
theorem releaseSync (h : s₀.Keeps False s) : s₀.Keeps False (s.releaseSync) := h.modBoot.syncAll

/-! #### The end of a command -/

theorem writeRecord (h : s₀.Keeps False s) {q j : Nat} {idx : Word} {bs : List Byte} :
    s₀.Keeps False (s.writeRecord q j idx bs).2 := by
  unfold State.writeRecord
  dsimp only
  split
  · exact ite_snd h (ite_snd h h.writePhys)
  · exact h

theorem releaseWait (h : s₀.Keeps False s) {q j : Nat} {c : Cmd} : s₀.Keeps False (s.releaseWait q j c) := by
  unfold State.releaseWait
  split
  · exact h.unregister.dropWakes
  · exact h.leaveFault
  · exact h

theorem promoteOne (h : s₀.Keeps False s) {q j : Nat} : s₀.Keeps False (s.promoteOne q j) := by
  unfold State.promoteOne
  split
  · exact ite h.modQueue h
  · exact h

theorem promoteAll (h : s₀.Keeps False s) {q : Nat} : s₀.Keeps False (s.promoteAll q) := foldl (fun _ h1 _ => h1.promoteOne) h

theorem finishCmd (h : s₀.Keeps False s) {q j : Nat} {c : Cmd} {status : Nat} {detail : Dword} :
    s₀.Keeps False (s.finishCmd q j c status detail).2 := by
  unfold State.finishCmd
  dsimp only
  exact (ite ((ite ((ite_snd h.modQuad.writeRecord h.modQuad).syncAll) (ite_snd h.modQuad.writeRecord h.modQuad)).raiseIrq)
    (ite ((ite_snd h.modQuad.writeRecord h.modQuad).syncAll) (ite_snd h.modQuad.writeRecord h.modQuad))).promoteAll

theorem noteErr (h : s₀.Keeps False s) {q j status opcode : Nat} {idx : Word} :
    s₀.Keeps False (s.noteErr q j status opcode idx) :=
  h.modQueue

theorem recordFault (h : s₀.Keeps False s) {q j : Nat} {c : Cmd} {f : Nat} : s₀.Keeps False (s.recordFault q j c f) :=
  ite h h.noteErr.modQueue

theorem endUnstarted (h : s₀.Keeps False s) {q j : Nat} : s₀.Keeps False (s.endUnstarted q j) := by
  unfold State.endUnstarted
  dsimp only
  exact foldl (fun _ h1 _ => h1.releaseWait.finishCmd.recordFault) h

theorem errorStop (h : s₀.Keeps False s) {q j : Nat} : s₀.Keeps False (s.errorStop q j) := h.modQueue.endUnstarted.modQueue

theorem endCmd (h : s₀.Keeps False s) {q j : Nat} {c : Cmd} {status : Nat} {detail : Dword} :
    s₀.Keeps False (s.endCmd q j c status detail) := by
  unfold State.endCmd
  dsimp only
  exact ite (((ite h.finishCmd.noteErr h.finishCmd).recordFault).errorStop) (((ite h.finishCmd.noteErr
    h.finishCmd).recordFault).modQueue)

theorem setCmd (h : s₀.Keeps False s) {q j : Nat} {c : Cmd} : s₀.Keeps False (s.setCmd q j c) := h.modQueue

/-! #### The link layer -/

theorem faultHere (h : s₀.Keeps False s) {n vc : Nat} : s₀.Keeps False (s.faultHere n vc).2 :=
  ite_snd h (ite_snd h.drawn (ite_snd h h))

theorem flipBits (h : s₀.Keeps False s) {k places f} : s₀.Keeps False (s.flipBits k places f).2 := by
  induction k generalizing s places f with
  | zero => exact h
  | succ k ih => exact ih h.drawn

theorem corrupt (h : s₀.Keeps False s) {n : Nat} {f : Flit} : s₀.Keeps False (s.corrupt n f).2 := h.flipBits

theorem putFlit (h : s₀.Keeps False s) {n : Nat} {f : Flit} : s₀.Keeps False (s.putFlit n f) := by
  unfold State.putFlit
  dsimp only
  split
  · exact h.modLink.emit.modLink.emit
  · exact h.modLink.emit

theorem putFlits (h : s₀.Keeps False s) {n l} : s₀.Keeps False (s.putFlits n l) := by
  induction l generalizing s with
  | nil => exact h
  | cons f l ih =>
    have hseen := (h.faultHere (n := n) (vc := f.vc)).modLink (n := n) (f := fun l =>
      { l with fiSeen := (l.fiSeen + 1) % 2 ^ 30 })
    exact ite (ih hseen.putFlit) (ite (ih hseen.modLink)
      (ite (ih hseen.modLink.corrupt.putFlit) (ite (ih hseen.modLink.putFlit) (ih hseen.modLink.modLink))))

theorem drainLink (h : s₀.Keeps False s) {n : Nat} : s₀.Keeps False (s.drainLink n) :=
  ite (ite h.modLink.putFlits h.modLink) h
theorem sendOn (h : s₀.Keeps False s) {n arr : Nat} {p p' : Packet} : s₀.Keeps False (s.sendOn n arr p p') :=
  h.modLink.drainLink

/-! #### Packets on the torus -/

theorem routeWith {onBlocked : State → State} (h : s₀.Keeps False s)
    (honBlocked : ∀ u1, s₀.Keeps False u1 → s₀.Keeps False (onBlocked u1))
    {arr : Nat} {p : Packet} :
    s₀.Keeps False (s.routeWith onBlocked arr p) := by
  unfold State.routeWith
  dsimp only
  split
  · exact h.emit
  · refine sendOn ?_
    split
    · exact h.modLink
    · exact h
  · exact ite h (honBlocked _ h.modLink)

theorem route (h : s₀.Keeps False s) {arr : Nat} {p : Packet} : s₀.Keeps False (s.route arr p) :=
  h.routeWith (fun _ h1 => h1.routeWith (fun _ h2 => h2))

theorem sendSome (h : s₀.Keeps False s) {q j c n l} : s₀.Keeps False (s.sendSome q j c n l).2 := by
  induction n generalizing s l with
  | zero => exact h
  | succ n ih =>
    cases l with
    | nil => exact h
    | cons p l =>
      unfold State.sendSome
      dsimp only
      split
      · exact h
      · exact ih h.drawn.modQuad.route

theorem pump (h : s₀.Keeps False s) {q : Nat} : s₀.Keeps False (s.pump q) :=
  foldl (fun _ h1 _ => foldl (fun _ h2 _ => h2.sendSome.setCmd) h1) h

/-! #### Runs -/

theorem runAll_keeps {α β : Type} {f : α → State → Run β} (hf : ∀ a u, s₀.Keeps marks u → (f a u).All (s₀.Keeps marks))
    (h : s₀.Keeps marks s) {l} :
    (runAll f l s).All (s₀.Keeps marks) := by
  induction l generalizing s with
  | nil => exact h
  | cons a l ih => exact (hf a s h).andThen fun _ _ h1 => (ih h1).andThen fun _ _ h2 => h2

theorem askRead (h : s₀.Keeps marks s) {r : RunIn} {e : Extent} : (r.askRead e s).All (s₀.Keeps marks) :=
  Run.All.ite h (Run.All.ite h (Run.All.ite h (Run.All.ite h h.requestRead)))

theorem askWrite (h : s₀.Keeps marks s) {r : RunIn} {e : Extent} : (r.askWrite e s).All (s₀.Keeps marks) :=
  Run.All.ite h (Run.All.ite h (Run.All.ite h (Run.All.ite h h.requestWrite)))

theorem askAll {ask : RunIn → Extent → State → Run Unit} (h : s₀.Keeps marks s) (hask : ∀ x1 x2, ∀ u3, s₀.Keeps marks u3 →
    (ask x1 x2 u3).All (s₀.Keeps marks)) {r : RunIn} {offs : List Nat} :
    (r.askAll ask offs s).All (s₀.Keeps marks) :=
  runAll_keeps (fun _ _ h1 => hask _ _ _ h1) h

theorem readExt (h : s₀.Keeps marks s) {r : RunIn} {e : Extent} : (r.readExt e s).All (s₀.Keeps marks) :=
  Run.All.ite h (Run.All.ite h.didRead h.didRead)

theorem read (h : s₀.Keeps marks s) {r : RunIn} {off : Nat} : (r.read off s).All (s₀.Keeps marks) := by
  unfold RunIn.read
  split
  · exact h.readExt
  · exact h

theorem checkFailed (h : s₀.Keeps marks s) {r : RunIn} {addr : Nat} : (r.checkFailed addr s).All (s₀.Keeps marks) :=
  h.countQuad.logErr
theorem checkPassed (h : s₀.Keeps marks s) {r : RunIn} {addr : Nat} : s₀.Keeps marks (r.checkPassed addr s) :=
  ((h.drawNat (n := 2)).countQuad (q := r.q)
    (f := fun x => { x with checkRetry := satAdd 0xFFFF x.checkRetry (s.drawNat 2).1 })).same

theorem checkTile (h : s₀.Keeps marks s) {r : RunIn} {named : Option Nat} {fromMem : Bool} {dataAt recAt : Nat} {t : Tile0} :
    (r.checkTile named fromMem dataAt recAt t s).All (s₀.Keeps marks) :=
  Run.All.ite h (Run.All.ite (h.checkFailed.andThen fun _ _ h1 => h1) (Run.All.ite (ite h.checkPassed h) (Run.All.ite
    (((ite h.checkPassed h).checkFailed).andThen fun _ _ h1 => h1) (ite ((ite h.checkPassed h).checkPassed) (ite
    h.checkPassed h)))))

theorem tiles (h : s₀.Keeps marks s) {r : RunIn} {f : Nat} {named : Option Nat} {dOff rOff : Nat} :
    (r.tiles f named dOff rOff s).All (s₀.Keeps marks) := by
  unfold RunIn.tiles
  dsimp only
  split
  · exact h
  · refine Run.All.andThen h.readExt (fun _ _ h1 => ?_)
    split
    · exact h1
    · exact h1.readExt.andThen fun _ _ h2 => runAll_keeps (fun _ _ h3 => h3.checkTile) h2

theorem matrix (h : s₀.Keeps marks s) {r : RunIn} {f rows cols dOff rOff : Nat} :
    (r.matrix f rows cols dOff rOff s).All (s₀.Keeps marks) :=
  h.tiles.andThen fun _ _ h1 => h1

theorem crook (h : s₀.Keeps marks s) {r : RunIn} {f rows cols dOff rOff : Nat} :
    (r.crook f rows cols dOff rOff s).All (s₀.Keeps marks) :=
  Run.All.ite (h.matrix.andThen fun _ _ h1 => h1) h

theorem vectors (h : s₀.Keeps marks s) {r : RunIn} {f count len dOff rOff : Nat} :
    (r.vectors f count len dOff rOff s).All (s₀.Keeps marks) :=
  h.tiles.andThen fun _ _ h1 => h1

theorem part (h : s₀.Keeps marks s) {r : RunIn} {n : Nat} : s₀.Keeps marks (r.part n s).2 := by
  unfold RunIn.part
  split
  · exact h
  · exact h.drawNat

theorem countTiles (h : s₀.Keeps marks s) {q st n : Nat} : s₀.Keeps marks (s.countTiles q st n) := ite h h.drawn.countQuad
theorem countReed (h : s₀.Keeps marks s) {q n : Nat} : s₀.Keeps marks (s.countReed q n) := h.countQuad
theorem countArray (h : s₀.Keeps marks s) {q a mac muted : Nat} : s₀.Keeps marks (s.countArray q a mac muted) := h.countQuad
theorem countChanter (h : s₀.Keeps marks s) {q n : Nat} : s₀.Keeps marks (s.countChanter q n) := h.countQuad
theorem countGrads (h : s₀.Keeps marks s) {q : Nat} {ts : List OutTile} : s₀.Keeps marks (s.countGrads q ts) := h.countQuad

theorem writeExt (h : s₀.Keeps marks s) {r : RunIn} {e : Extent} {bs : List Byte} :
    (r.writeExt e bs s).All (s₀.Keeps marks) :=
  Run.All.ite h h.writeHinted

theorem write (h : s₀.Keeps marks s) {r : RunIn} {off : Nat} {bs : List Byte} : (r.write off bs s).All (s₀.Keeps marks) := by
  unfold RunIn.write
  split
  · exact h.writeExt
  · exact h

theorem side (h : s₀.Keeps marks s) {r : RunIn} {off : Nat} {bs : List Byte} : (r.side off bs s).All (s₀.Keeps marks) := by
  unfold RunIn.side
  dsimp only
  split
  · exact h.write
  · exact h.drawn.write

theorem keepFirst_keeps (h : s₀.Keeps marks s) {kept i l} : s₀.Keeps marks (keepFirst kept i l s).2 := by
  induction l generalizing s i with
  | nil => exact h
  | cons p l ih =>
    unfold keepFirst
    dsimp only
    split
    · exact ih h
    · exact ih h.drawn

theorem leave (h : s₀.Keeps marks s) {r : RunIn} {order : List Nat} {ps : List (List Byte)} :
    s₀.Keeps marks (r.leave order ps s).2 := by
  unfold RunIn.leave
  split
  · exact h
  · exact h.keepFirst_keeps

theorem freePort (h : s₀.Keeps marks s) : s₀.Keeps marks (s.freePort).2 := h.drawn.drawn.drawn

theorem sink (h : s₀.Keeps marks s) {r : RunIn} {order : List Nat} {cOff cRec : Nat} {ts : List (OutTile × List Byte)} :
    (r.sink order cOff cRec ts s).All (s₀.Keeps marks) :=
  Run.All.ite (h.leave.leave.write.andThen fun _ _ h1 => h1.write.andThen fun _ _ h2 => h2) h.freePort

theorem reduction (h : s₀.Keeps marks s) {r : RunIn} {off : Nat} {v : List Fp} :
    (r.reduction off v s).All (s₀.Keeps marks) := h.side

theorem doneCmd (h : s₀.Keeps False s) {q j : Nat} {c : Cmd} {o : RunOut} : s₀.Keeps False (s.doneCmd q j c o) :=
  (foldl (fun _ h1 _ => h1.countTiles) h).setCmd

theorem breakRun {f : RunIn → State → Run RunOut} (h : s₀.Keeps False s)
    (hf : ∀ r u, s₀.Keeps False u → (f r u).All (s₀.Keeps False))
    {q j : Nat} {c : Cmd} {status : Nat} {detail : Dword} : s₀.Keeps False (s.breakRun q j c f status detail) := by
  have hrun := hf ⟨q, j, c, Option.some (s.drawNat (2 ^ 32)).1⟩ (s.drawNat (2 ^ 32)).2 h.drawNat
  unfold State.breakRun
  dsimp only
  split
  · rename_i hx
    rw [hx] at hrun
    exact (foldl (fun _ h1 _ => h1.drawn.countTiles) hrun).setCmd
  · exact h.drawn.setCmd

theorem runCmd {f : RunIn → State → Run RunOut} (h : s₀.Keeps False s)
    (hf : ∀ r u, s₀.Keeps False u → (f r u).All (s₀.Keeps False))
    {q j : Nat} {idx : Word} {op : Nat} : s₀.Keeps False (s.runCmd q j idx op f) := by
  unfold State.runCmd
  split
  · exact h
  · rename_i c _
    split
    · have hrun := hf ⟨q, j, c, Option.none⟩ s h
      split <;> rename_i hx <;> rw [hx] at hrun
      · exact hrun.doneCmd.pump
      · exact hrun
      · exact hrun.breakRun hf
      · exact hrun.setCmd
    · exact h

/-! #### Products -/

theorem factors (h : s₀.Keeps marks s) {r : RunIn} {fa fb m k n : Nat} {side : Bool} :
    (r.factors fa fb m k n side s).All (s₀.Keeps marks) :=
  Run.All.andThen (.ite h.crook h.matrix) fun _ _ h1 => Run.All.ite (Run.All.ite (h1.matrix.andThen fun _ _ h2 =>
    h2) h1) (h1.matrix.andThen fun _ _ h2 => h2)

theorem countProduct (h : s₀.Keeps marks s) {r : RunIn} {x : Factors} : s₀.Keeps marks (r.countProduct x s) :=
  h.part.part.countArray

theorem plainTiles (h : s₀.Keeps marks s) {r : RunIn} {f off : Nat} : (r.plainTiles f off s).All (s₀.Keeps marks) :=
  h.tiles.andThen fun _ _ h1 => h1

theorem secondOperand (h : s₀.Keeps marks s) {r : RunIn} {c : ReedCtl} {rows cols : Nat} {vecs : Bool} :
    (r.secondOperand c rows cols vecs s).All (s₀.Keeps marks) :=
  Run.All.ite h (Run.All.ite (Run.All.andThen (.ite h.vectors h.matrix) fun _ _ h1 => h1) (h.vectors.andThen fun _ _ h1 =>
    h1))

theorem reedBehind (h : s₀.Keeps marks s) {r : RunIn} {c : ReedCtl} {rows cols : Nat} {vecs : Bool} {x : List (List Fp)} :
    (r.reedBehind c rows cols vecs x s).All (s₀.Keeps marks) :=
  h.secondOperand.andThen fun _ _ h1 => h1.part.countReed

theorem throughReed (h : s₀.Keeps marks s) {r : RunIn} {fc rows cols : Nat} {vecs : Bool} {vals : List (List Fp)} :
    (r.throughReed fc rows cols vecs vals s).All (s₀.Keeps marks) := by
  unfold RunIn.throughReed
  split
  · exact h.reedBehind.andThen fun _ _ h1 => h1
  · exact h

theorem finishRun (h : s₀.Keeps marks s) {r : RunIn} {fc rows cols : Nat} {vecs grads : Bool} {e : Int} {prod : List (List
    (Fp × Bool))} {cOff cRec : Nat} {counts : List (Nat × Nat)} :
    (r.finish fc rows cols vecs grads e prod cOff cRec counts s).All (s₀.Keeps marks) := by
  unfold RunIn.finish
  dsimp only
  refine Run.All.andThen h.throughReed (fun _ _ h1 => ?_)
  refine Run.All.andThen ((ite h1.countGrads h1).sink) (fun _ _ h2 => ?_)
  refine Run.All.andThen ?_ (fun _ _ h3 => h3)
  split
  · exact h2.reduction
  · exact h2

theorem askBoth (h : s₀.Keeps marks s) {r : RunIn} {reads writes : List Nat} :
    (r.askBoth reads writes s).All (s₀.Keeps marks) :=
  (h.askAll (fun _ _ _ h1 => h1.askRead)).andThen fun _ _ h1 => h1.askAll (fun _ _ _ h2 => h2.askWrite)

theorem scrambleAt (h : s₀.Keeps marks s) {r : RunIn} {off : Nat} : s₀.Keeps marks (r.scrambleAt off s) := by
  unfold RunIn.scrambleAt
  dsimp only
  split
  · exact h.drawn.writePhys
  · exact h

/-! #### GEMM, GEMM_T and GEMV -/

theorem runProduct (h : s₀.Keeps marks s) {r : RunIn} {side grads : Bool} {e : Int} :
    (r.runProduct side grads e s).All (s₀.Keeps marks) :=
  h.askBoth.andThen fun _ _ h1 => h1.factors.andThen fun _ _ h2 => h2.countProduct.finishRun

theorem runGemm (h : s₀.Keeps marks s) {r : RunIn} : (r.runGemm s).All (s₀.Keeps marks) := h.runProduct

theorem execGemm_keeps (h : s₀.Keeps False s) {q j : Nat} {idx : Word} : s₀.KeepsIn (execGemm q j idx s) :=
  h.runCmd (fun _ _ h1 => h1.runGemm)

theorem runGemmT (h : s₀.Keeps marks s) {r : RunIn} : (r.runGemmT s).All (s₀.Keeps marks) := h.runProduct

theorem execGemmT_keeps (h : s₀.Keeps False s) {q j : Nat} {idx : Word} : s₀.KeepsIn (execGemmT q j idx s) :=
  h.runCmd (fun _ _ h1 => h1.runGemmT)

theorem runGemv (h : s₀.Keeps marks s) {r : RunIn} : (r.runGemv s).All (s₀.Keeps marks) :=
  h.askBoth.andThen fun _ _ h1 => h1.vectors.andThen fun _ _ h2 => h2.matrix.andThen fun _ _ h3 =>
    h3.part.countChanter.finishRun

theorem execGemv_keeps (h : s₀.Keeps False s) {q j : Nat} {idx : Word} : s₀.KeepsIn (execGemv q j idx s) :=
  h.runCmd (fun _ _ h1 => h1.runGemv)

/-! #### Authority -/

theorem pcieDeny (h : s₀.Keeps False s) {port : Nat} : s₀.Keeps False (s.pcieDeny port) := h.modPcie.logErr

/-! #### Links -/

theorem execPacketForward_keeps (h : s₀.Keeps False s) {arr : Nat} {pk : Packet} : s₀.KeepsIn (execPacketForward arr pk s) :=
  ite h h.route

theorem lateResponse (h : s₀.Keeps False s) {q : Nat} : s₀.Keeps False (s.lateResponse q) := h.modQuad
theorem forgetTag (h : s₀.Keeps False s) {q tag : Nat} : s₀.Keeps False (s.forgetTag q tag) := h.modQuad

theorem failPacket (h : s₀.Keeps False s) {q : Nat} {o : OutPkt} {status : Nat} :
    s₀.Keeps False (s.failPacket q o status) := by
  unfold State.failPacket
  dsimp only
  refine pump ?_
  split
  · exact h.forgetTag.setCmd
  · exact h.forgetTag

theorem respondTo {f : OutPkt → State} (h : s₀.Keeps False s) (hf : ∀ x1, s₀.Keeps False (f x1)) {q tag : Nat} :
    s₀.Keeps False (s.respondTo q tag f) := by
  unfold State.respondTo
  split
  · exact ite (hf _) h.lateResponse
  · exact h.lateResponse

theorem execAckReceive_keeps (h : s₀.Keeps False s) {q tag : Nat} : s₀.KeepsIn (execAckReceive q tag s) :=
  ite (h.respondTo (fun _ => h.forgetTag.pump)) h

theorem execNackReceive_keeps (h : s₀.Keeps False s) {q tag : Nat} {st : Byte} : s₀.KeepsIn (execNackReceive q tag st s) :=
  ite (h.respondTo (fun _ => h.failPacket)) h

theorem execPacketDeadline_keeps (h : s₀.Keeps False s) {q tag : Nat} : s₀.KeepsIn (execPacketDeadline q tag s) := by
  unfold execPacketDeadline
  show s₀.Keeps False _
  split
  · exact ite h.failPacket h
  · exact h

theorem takePayload (h : s₀.Keeps False s) {n vc : Nat} {payload : List Byte} : s₀.Keeps False (s.takePayload n vc payload) :=
  foldl (fun _ h1 _ => h1.emit) h.modLink

theorem acceptFlit (h : s₀.Keeps False s) {n : Nat} {f : Flit} : s₀.Keeps False (s.acceptFlit n f) :=
  (ite h.modLink.takePayload h.modLink).drainLink

theorem countFec (h : s₀.Keeps False s) {n : Nat} : s₀.Keeps False (s.countFec n) := h.drawn.modLink

theorem execFlitReceive_keeps (h : s₀.Keeps False s) {n : Nat} {f : Flit} : s₀.KeepsIn (execFlitReceive n f s) :=
  ite h (ite h.countFec.modLink.emit (ite h.countFec.emit h.countFec.acceptFlit))

theorem resend (h : s₀.Keeps False s) {n : Nat} : s₀.Keeps False (s.resend n) := h.modLink.putFlits
theorem replay (h : s₀.Keeps False s) {n : Nat} : s₀.Keeps False (s.replay n) := ite h.modLink h.modLink.resend
theorem execReplayRequest_keeps (h : s₀.Keeps False s) {n : Nat} : s₀.KeepsIn (execReplayRequest n s) := ite h.replay h
theorem execReplayTimeout_keeps (h : s₀.Keeps False s) {n : Nat} : s₀.KeepsIn (execReplayTimeout n s) := ite h.replay h
theorem linkDown (h : s₀.Keeps False s) {n : Nat} : s₀.Keeps False (s.linkDown n) := foldl (fun _ h1 _ => h1.route) h.modLink

theorem laneFails (h : s₀.Keeps False s) {n : Nat} {dir : LinkDir} {lane : Nat} :
    s₀.Keeps False (s.laneFails n dir lane) := by
  unfold State.laneFails
  dsimp only
  split
  · exact ite ((ite h.modLink.logErr h.modLink).logErr) (ite h.modLink.logErr h.modLink)
  · exact h.modLink.linkDown

theorem execLinkLaneFail_keeps (h : s₀.Keeps False s) {n : Nat} {dir : LinkDir} {lane : Nat} :
    s₀.KeepsIn (execLinkLaneFail n dir lane s) :=
  ite h h.laneFails

theorem execLinkRetrainTimeout_keeps (h : s₀.Keeps False s) {n : Nat} : s₀.KeepsIn (execLinkRetrainTimeout n s) :=
  ite h.linkDown h

theorem startTraining (h : s₀.Keeps False s) {n : Nat} : s₀.Keeps False (s.startTraining n) := h.modLink
theorem execLinkTrainRetry_keeps (h : s₀.Keeps False s) {n : Nat} : s₀.KeepsIn (execLinkTrainRetry n s) :=
  ite h.startTraining h

theorem execLinkTrained_keeps (h : s₀.Keeps False s) {n : Nat} {partner : Coords} {partnerLink : Nat} :
    s₀.KeepsIn (execLinkTrained n partner partnerLink s) :=
  ite h (ite h.modLink.resend.drainLink h.modLink.linkDown)

theorem execAxlFiCtrlWrite_keeps (h : s₀.Keeps False s) {p : Port} {n : Nat} {v : Word} :
    s₀.KeepsIn (execAxlFiCtrlWrite p n v s) := by
  unfold execAxlFiCtrlWrite
  show s₀.Keeps False _
  split
  · exact h.pcieDeny
  · exact ite h.modLink h
  · exact ite h.modLink (ite h.modLink h)

/-! #### The torus time -/

theorem execDroneSyncExchange_keeps (h : s₀.Keeps False s) {t1 t2 t3 t4 : Dword} :
    s₀.KeepsIn (execDroneSyncExchange t1 t2 t3 t4 s) :=
  ite h.modTime h

theorem shiftDeadlines (h : s₀.Keeps False s) {o : Int} : s₀.Keeps False (s.shiftDeadlines o) := h.besides
theorem loadDrone (h : s₀.Keeps False s) {o : Int} : s₀.Keeps False (s.loadDrone o) := h.shiftDeadlines.modTime

theorem execDroneLoad_keeps (h : s₀.Keeps False s) {t1 t2 t3 t4 : Dword} : s₀.KeepsIn (execDroneLoad t1 t2 t3 t4 s) :=
  ite h.loadDrone h

theorem freeRunning (h : s₀.Keeps False s) : s₀.Keeps False (s.freeRunning) := (ite h h.logErr).modTime

theorem elect (h : s₀.Keeps False s) {cands : List Candidate} : s₀.Keeps False (s.elect cands) := by
  unfold State.elect
  dsimp only
  split
  · exact h.freeRunning
  · refine ite ?_ ?_
    · exact h.modTime
    · split
      · exact h.freeRunning
      · exact h.modTime

theorem execRootElection_keeps (h : s₀.Keeps False s) {cands : List Candidate} : s₀.KeepsIn (execRootElection cands s) :=
  ite h h.elect

theorem execDroneFreeRun_keeps (h : s₀.Keeps False s) : s₀.KeepsIn (execDroneFreeRun s) := ite h h.freeRunning

theorem execStepBoundaryPush_keeps (h : s₀.Keeps False s) {p : Port} {v : Word} : s₀.KeepsIn (execStepBoundaryPush p v s) :=
  ite h.modTime h

/-! #### Power -/

theorem unclean (h : s₀.Keeps False s) : s₀.Keeps False (s.unclean) := h.modPower
theorem endStretch (h : s₀.Keeps False s) {d : Nat} : s₀.Keeps False (s.endStretch d) := h.modDiePower

theorem startMode (h : s₀.Keeps False s) {mode : Nat} : s₀.Keeps False (s.startMode mode) :=
  foldl (fun _ h1 _ => h1.modDiePower) h.unclean.modPower

theorem requestMode (h : s₀.Keeps False s) {mode : Nat} : s₀.Keeps False (s.requestMode mode) :=
  ite h.modPower (ite h h.startMode)

theorem endMode (h : s₀.Keeps False s) {mode : Nat} : s₀.Keeps False (s.endMode mode) :=
  foldl (fun _ h1 _ => h1.modDiePower) h.unclean.modPower

theorem finishMode (h : s₀.Keeps False s) {mode : Nat} : s₀.Keeps False (s.finishMode mode) := by
  unfold State.finishMode
  split
  · exact h.endMode.requestMode
  · exact h.endMode

theorem writePwrMode (h : s₀.Keeps False s) {v : Word} : s₀.Keeps False (s.writePwrMode v) :=
  ite h.modPower h.modPower.modPower.requestMode

theorem execPwrModeWrite_keeps (h : s₀.Keeps False s) {p : Port} {v : Word} : s₀.KeepsIn (execPwrModeWrite p v s) :=
  ite h.writePwrMode h

theorem deferMove (h : s₀.Keeps False s) {d : Nat} : s₀.Keeps False (s.deferMove d) := h.modDiePower

theorem makeMove (h : s₀.Keeps False s) {d : Nat} : s₀.Keeps False (s.makeMove d) := by
  have hmove : s₀.Keeps False (match s.nextMove d with
      | .ramp mv => s.modDiePower d (fun x => { x with railMv := mv, deferredAt := .none, nextRamp := s.drone + 1000 })
      | .divide n => s.modDiePower d (fun x => { x with divider := n, deferredAt := .none })
      | .done => s) := by
    split
    · exact h.modDiePower
    · exact h.modDiePower
    · exact h
  exact ite (ite hmove.modDiePower hmove).finishMode (ite hmove.modDiePower hmove)

theorem rampWrite (h : s₀.Keeps False s) {d : Nat} : s₀.Keeps False (s.rampWrite d) := ite h.drawn.makeMove h.drawn.deferMove

theorem execModeStep_keeps (h : s₀.Keeps False s) {d : Nat} : s₀.KeepsIn (execModeStep d s) := by
  unfold execModeStep
  dsimp only
  show s₀.Keeps False _
  refine ite ?_ ?_
  · exact h
  · split
    · exact ite h.deferMove (ite h h.rampWrite)
    · exact ite h.makeMove h.deferMove
    · exact h.makeMove

theorem abandonMode (h : s₀.Keeps False s) : s₀.Keeps False (s.abandonMode) :=
  (((foldl (fun _ h1 _ => h1.modDiePower) h).modPower).logErr).finishMode

theorem execModeChangeAbandon_keeps (h : s₀.Keeps False s) : s₀.KeepsIn (execModeChangeAbandon s) := ite h.abandonMode h
theorem execDroopTrip_keeps (h : s₀.Keeps False s) {d : Nat} : s₀.KeepsIn (execDroopTrip d s) := ite h h.modDiePower

theorem execDroopRelease_keeps (h : s₀.Keeps False s) {d : Nat} : s₀.KeepsIn (execDroopRelease d s) :=
  ite h h.endStretch.modDiePower

theorem execVrAlert_keeps (h : s₀.Keeps False s) {b : Nat} : s₀.KeepsIn (execVrAlert b s) := ite h h.unclean.modPower.logErr

theorem execFloorExit_keeps (h : s₀.Keeps False s) : s₀.KeepsIn (execFloorExit s) :=
  ite (foldl (fun _ h1 _ => h1.endStretch) h.unclean.modPower) h

theorem evaluateCap (h : s₀.Keeps False s) {last : Nat} : s₀.Keeps False (s.evaluateCap last) :=
  ite h.modPower.modPower.logErr h.modPower

theorem execEnergyInterval_keeps (h : s₀.Keeps False s) {e : List DieActivity} : s₀.KeepsIn (execEnergyInterval e s) :=
  ite h (((foldl (fun _ h1 _ => h1.modPower.modDiePower) h).modPower).evaluateCap)

theorem heatDie (h : s₀.Keeps False s) {d sensor t : Nat} : s₀.Keeps False (s.heatDie d sensor t) :=
  ite (((ite ((ite h.modDiePower.endStretch h.modDiePower).unclean) (ite h.modDiePower.endStretch
    h.modDiePower)).unclean).modPower) (ite ((ite h.modDiePower.endStretch h.modDiePower).unclean) (ite
    h.modDiePower.endStretch h.modDiePower))

theorem execThermalSample_keeps (h : s₀.Keeps False s) {r : ThermalReadings} : s₀.KeepsIn (execThermalSample r s) :=
  ite h ((foldl (fun _ h1 _ => h1.modPower) (foldl (fun _ h1 _ => h1.modPower) (foldl (fun _ h1 _ =>
    h1.heatDie) h))).modPower)

theorem execThermalTrip_keeps (h : s₀.Keeps False s) {d sensor reading : Nat} :
    s₀.KeepsIn (execThermalTrip d sensor reading s) :=
  ite h h.unclean.modPower.modBoot.logErr

theorem takeFit (h : s₀.Keeps False s) {f : CalFit} : s₀.Keeps False (s.takeFit f) := h.modPower.modDiePower

theorem recalibrate (h : s₀.Keeps False s) {fits : List CalFit} : s₀.Keeps False (s.recalibrate fits) :=
  ite ((foldl (fun _ h1 _ => h1.takeFit) h).modPower) h.modPower.logErr

theorem calibrate (h : s₀.Keeps False s) {fits : List CalFit} : s₀.Keeps False (s.calibrate fits) := ite h.recalibrate h

/-! #### GATHER_POOL and SCATTER_ADD -/

theorem poolLengths (h : s₀.Keeps marks s) {r : RunIn} {g : GatherB} : (r.poolLengths g s).All (s₀.Keeps marks) :=
  Run.All.ite (h.read.andThen fun _ _ h1 => h1) h

theorem walk (h : s₀.Keeps marks s) {r : RunIn} {g : GatherB} : (r.walk g s).All (s₀.Keeps marks) := by
  unfold RunIn.walk
  refine Run.All.andThen h.poolLengths (fun _ _ h1 => ?_)
  split
  · exact h1.readExt.andThen fun _ _ h2 => h2
  · exact h1

theorem countRows (h : s₀.Keeps marks s) {q n : Nat} : s₀.Keeps marks (s.countRows q n) := h.countQuad

theorem walkFail (h : s₀.Keeps marks s) {r : RunIn} {α : Type} {f : Nat × Nat} :
    (r.walkFail (α := α) f s).All (s₀.Keeps marks) :=
  Run.All.ite h.countQuad h

theorem readRow (h : s₀.Keeps marks s) {r : RunIn} {g : GatherB} {e : Extent} : (r.readRow g e s).All (s₀.Keeps marks) :=
  h.readExt.andThen fun _ _ h1 => h1

theorem gatherReed (h : s₀.Keeps marks s) {r : RunIn} {g : GatherB} {m : List (List Fp)} :
    (r.gatherReed g m s).All (s₀.Keeps marks) := by
  unfold RunIn.gatherReed
  split
  · exact h
  · exact h.reedBehind.andThen fun _ _ h1 => h1

theorem runGather (h : s₀.Keeps marks s) {r : RunIn} : (r.runGather s).All (s₀.Keeps marks) := by
  unfold RunIn.runGather
  dsimp only
  split
  · exact h
  · refine Run.All.andThen h.askBoth (fun _ _ h1 => ?_)
    refine Run.All.andThen h1.walk (fun _ _ h2 => ?_)
    refine Run.All.andThen (runAll_keeps (fun _ _ h3 => h3.askRead) h2) (fun _ _ h3 => ?_)
    split
    · exact h3.countRows.walkFail
    · exact (runAll_keeps (fun _ _ h4 => runAll_keeps (fun _ _ h5 => h5.readRow) h4) h3.part.countRows).andThen fun _ _ h4
        => h4.gatherReed.andThen fun _ _ h5 => h5.sink.andThen fun _ _ h6 => h6

theorem execGatherPool_keeps (h : s₀.Keeps False s) {q j : Nat} {idx : Word} : s₀.KeepsIn (execGatherPool q j idx s) :=
  h.runCmd (fun _ _ h1 => h1.runGather)

theorem applyRow_keeps (h : s₀.Keeps marks s) {g : GatherB} {e : Extent} {incs : List Fp} :
    (applyRow g e incs s).All (s₀.Keeps marks) :=
  Run.All.ite h h.writePhys

theorem freeRows_keeps (h : s₀.Keeps marks s) {g : GatherB} {e : Extent} {rows : List Nat} :
    s₀.Keeps marks (freeRows g e rows s) :=
  foldl (fun _ h1 _ => ite h1 h1.drawn.writePhys) h

theorem walkStop (h : s₀.Keeps marks s) {r : RunIn} {α : Type} {f n} : (r.walkStop (α := α) f n s).All (s₀.Keeps marks) := by
  have hfail : (r.walkFail (α := α) f (s.drawNat (n + 1)).2).All (s₀.Keeps marks) := h.drawn.walkFail
  unfold RunIn.walkStop
  dsimp only
  split
  · rename_i hx; rw [hx] at hfail; exact hfail
  · exact hfail

theorem runScatter (h : s₀.Keeps marks s) {r : RunIn} : (r.runScatter s).All (s₀.Keeps marks) := by
  unfold RunIn.runScatter
  dsimp only
  split
  · exact h
  · refine Run.All.andThen h.askBoth (fun _ _ h1 => ?_)
    refine Run.All.andThen h1.walk (fun _ _ h2 => ?_)
    refine Run.All.andThen (runAll_keeps (fun _ _ h3 => h3.askWrite) h2) (fun _ _ h3 => ?_)
    refine Run.All.andThen h3.matrix (fun _ _ h4 => ?_)
    refine Run.All.andThen ?_ (fun _ _ h5 => ?_)
    · split
      · exact h4
      · exact h4.reedBehind.andThen fun _ _ h5 => h5
    · split
      · exact h5.part.countRows.freeRows_keeps
      · refine Run.All.andThen (runAll_keeps (fun _ _ h6 => runAll_keeps (fun _ _ h7 =>
          h7.applyRow_keeps) h6) h5.part.countRows) (fun _ _ h6 => ?_)
        split
        · exact h6.walkStop
        · exact h6

theorem execScatterAdd_keeps (h : s₀.Keeps False s) {q j : Nat} {idx : Word} : s₀.KeepsIn (execScatterAdd q j idx s) :=
  h.runCmd (fun _ _ h1 => h1.runScatter)

/-! #### VECOP and the fused kernels -/

theorem vecOperand (h : s₀.Keeps marks s) {r : RunIn} {v : Vctl} {m n : Nat} : (r.vecOperand v m n s).All (s₀.Keeps marks) :=
  h.plainTiles.andThen fun _ _ h1 => h1

theorem affine (h : s₀.Keeps marks s) {r : RunIn} {v : Vctl} {n : Nat} : (r.affine v n s).All (s₀.Keeps marks) :=
  Run.All.ite (h.read.andThen fun _ _ h1 => h1) h

theorem vecKernel (h : s₀.Keeps marks s) {r : RunIn} {v : Vctl} {m n : Nat} {x : List (List Fp)} :
    (r.vecKernel v m n x s).All (s₀.Keeps marks) :=
  Run.All.ite (h.affine.andThen fun _ _ h1 => h1) (Run.All.ite h (h.vecOperand.andThen fun _ _ h1 => h1))

theorem runVecop (h : s₀.Keeps marks s) {r : RunIn} : (r.runVecop s).All (s₀.Keeps marks) :=
  h.askBoth.andThen fun _ _ h1 => h1.matrix.andThen fun _ _ h2 => h2.vecKernel.andThen fun _ _ h3 =>
    ((ite h3.part.countReed h3.part.countReed.scrambleAt).sink).andThen fun _ _ h4 =>
    Run.All.andThen (.ite h4 h4.reduction) fun _ _ h5 => h5

theorem execVecop_keeps (h : s₀.Keeps False s) {q j : Nat} {idx : Word} : s₀.KeepsIn (execVecop q j idx s) :=
  h.runCmd (fun _ _ h1 => h1.runVecop)

theorem fusedProduct (h : s₀.Keeps marks s) {r : RunIn} : (r.fusedProduct s).All (s₀.Keeps marks) :=
  h.factors.andThen fun _ _ h1 => h1.countProduct

theorem statRec (h : s₀.Keeps marks s) {r : RunIn} {f kind recAt : Nat} {rcd : List Byte} :
    (r.statRec f kind recAt rcd s).All (s₀.Keeps marks) :=
  Run.All.ite h (Run.All.ite (h.checkFailed.andThen fun _ _ h1 => h1) (Run.All.ite h.checkPassed h.checkPassed))

theorem rowStats (h : s₀.Keeps marks s) {r : RunIn} {m n : Nat} : (r.rowStats m n s).All (s₀.Keeps marks) := by
  unfold RunIn.rowStats
  dsimp only
  split
  · exact h
  · exact h.readExt.andThen fun _ _ h1 => (runAll_keeps (fun _ _ h2 => h2.statRec) h1).andThen fun _ _ h2 =>
      Run.All.ite h2 (Run.All.ite h2 h2)

theorem fusedOperand (h : s₀.Keeps marks s) {r : RunIn} {norm : Bool} {m n : Nat} :
    (r.fusedOperand norm m n s).All (s₀.Keeps marks) :=
  h.read.andThen fun _ _ h1 => h1.read.andThen fun _ _ h2 => h2

theorem fusedOut (h : s₀.Keeps marks s) {r : RunIn} {ovf : List (List Bool)} {dx : List (List Fp)} {params : List OutTile} :
    (r.fusedOut ovf dx params s).All (s₀.Keeps marks) :=
  h.countGrads.part.countReed.scrambleAt.sink.andThen fun _ _ h1 => h1.side.andThen fun _ _ h2 => h2

theorem runNormBack (h : s₀.Keeps marks s) {r : RunIn} : (r.runNormBack s).All (s₀.Keeps marks) :=
  h.askBoth.andThen fun _ _ h1 => h1.fusedProduct.andThen fun _ _ h2 => h2.fusedOperand.andThen fun _ _ h3 =>
    Run.All.andThen (.ite h3 (h3.rowStats.andThen fun _ _ h4 => h4)) fun _ _ h4 => h4.fusedOut

theorem execNormBack_keeps (h : s₀.Keeps False s) {q j : Nat} {idx : Word} : s₀.KeepsIn (execNormBack q j idx s) :=
  h.runCmd (fun _ _ h1 => h1.runNormBack)

theorem runSoftmaxBack (h : s₀.Keeps marks s) {r : RunIn} : (r.runSoftmaxBack s).All (s₀.Keeps marks) :=
  h.askBoth.andThen fun _ _ h1 => h1.fusedProduct.andThen fun _ _ h2 => h2.fusedOperand.andThen fun _ _ h3 => h3.fusedOut

theorem execSoftmaxBack_keeps (h : s₀.Keeps False s) {q j : Nat} {idx : Word} : s₀.KeepsIn (execSoftmaxBack q j idx s) :=
  h.runCmd (fun _ _ h1 => h1.runSoftmaxBack)

/-! #### MOVE, SEND and INLINE_SEND -/

theorem moved (h : s₀.Keeps marks s) {r : RunIn} : (r.moved s).All (s₀.Keeps marks) :=
  Run.All.ite h (h.tiles.andThen fun _ _ h1 => Run.All.ite (Run.All.ite h1 (Run.All.ite h1 h1)) h1)

theorem writeTiles (h : s₀.Keeps marks s) {r : RunIn} {off : Nat} {ts : List (List Byte)} :
    (r.writeTiles off ts s).All (s₀.Keeps marks) := by
  unfold RunIn.writeTiles
  dsimp only
  split
  · exact h.leave.write
  · split
    · exact (runAll_keeps (fun _ _ h1 => h1.writeExt) h.leave).andThen fun _ _ h1 => h1
    · exact h.leave

theorem runMove (h : s₀.Keeps marks s) {r : RunIn} : (r.runMove s).All (s₀.Keeps marks) :=
  h.askBoth.andThen fun _ _ h1 => h1.moved.andThen fun _ _ h2 => h2.writeTiles.andThen fun _ _ h3 =>
    h3.leave.write.andThen fun _ _ h4 => h4

theorem execMove_keeps (h : s₀.Keeps False s) {q j : Nat} {idx : Word} : s₀.KeepsIn (execMove q j idx s) :=
  h.runCmd (fun _ _ h1 => h1.runMove)

theorem runSend (h : s₀.Keeps marks s) {r : RunIn} : (r.runSend s).All (s₀.Keeps marks) :=
  h.askBoth.andThen fun _ _ h1 => h1.moved.andThen fun _ _ h2 => h2

theorem execSend_keeps (h : s₀.Keeps False s) {q j : Nat} {idx : Word} : s₀.KeepsIn (execSend q j idx s) :=
  h.runCmd (fun _ _ h1 => h1.runSend)

theorem runInline (h : s₀.Keeps marks s) {r : RunIn} : (r.runInline s).All (s₀.Keeps marks) := h

theorem execInlineSend_keeps (h : s₀.Keeps False s) {q j : Nat} {idx : Word} : s₀.KeepsIn (execInlineSend q j idx s) :=
  h.runCmd (fun _ _ h1 => h1.runInline)

/-! #### Commands that end early -/

theorem stationRun_keeps (h : s₀.Keeps marks s) {op : Nat} {r : RunIn} : (stationRun op r s).All (s₀.Keeps marks) :=
  Run.All.ite h.runMove (Run.All.ite h.runSend (Run.All.ite h.runInline (Run.All.ite h.runGemm (Run.All.ite h.runGemmT
    (Run.All.ite h.runGemv (Run.All.ite h.runVecop (Run.All.ite h.runNormBack (Run.All.ite h.runSoftmaxBack (Run.All.ite
    h.runGather (Run.All.ite h.runScatter h))))))))))

theorem breakCmd (h : s₀.Keeps False s) {q j : Nat} {c : Cmd} {status : Nat} {detail : Dword} :
    s₀.Keeps False (s.breakCmd q j c status detail) :=
  ite h.setCmd (h.breakRun (fun _ _ h1 => h1.stationRun_keeps))

theorem abortRunning (h : s₀.Keeps False s) {q j : Nat} : s₀.Keeps False (s.abortRunning q j) :=
  foldl (fun _ h1 _ => h1.breakCmd) h

theorem abortQueue (h : s₀.Keeps False s) {q j : Nat} {disable : Bool} : s₀.Keeps False (s.abortQueue q j disable) :=
  h.modQueue.endUnstarted.abortRunning.modQueue

/-! #### Home agents -/

theorem setTxn (h : s₀.Keeps False s) {line : Nat} {t : Option Txn} : s₀.Keeps False (s.setTxn line t) := h.modCoh
theorem modTxn (h : s₀.Keeps False s) {line : Nat} {f : Txn → Txn} : s₀.Keeps False (s.modTxn line f) := h.setTxn

theorem snoop (h : s₀.Keeps False s) {line : Nat} {who : Requester} {l : List (Nat × Snp)} :
    s₀.Keeps False (s.snoop line who l) :=
  (foldl (fun _ h1 _ => h1.post) h).modTxn

theorem dropDead (h : s₀.Keeps False s) {line : Nat} : s₀.Keeps False (s.dropDead line) := by
  unfold State.dropDead
  dsimp only
  refine ite ?_ ?_
  · exact h
  · refine setDir ?_
    split
    · exact ite h.poisonLine.setLine.dropL1 h
    · exact h

theorem sendCmp (h : s₀.Keeps False s) {who : Requester} {line : Nat} {poison : Bool} {r : Dword} :
    s₀.Keeps False (s.sendCmp who line poison r) :=
  h.post

theorem extCmo (h : s₀.Keeps False s) {k : CmoKind} {line : Nat} : s₀.Keeps False (s.extCmo k line) := by
  unfold State.extCmo
  split
  · exact h
  · split
    · exact h.extSet
    · exact h.extDrop
    · exact (ite h.scramble h).extDrop

theorem emptied (h : s₀.Keeps False s) {line : Nat} {who : Requester} : s₀.Keeps False (s.emptied line who) := by
  unfold State.emptied
  dsimp only
  refine dropReservations ?_
  refine setDir ?_
  split
  · exact ite h.dropCopy h
  · exact h

theorem serve (h : s₀.Keeps False s) {line : Nat} {t : Txn} : s₀.Keeps False (s.serve line t).2 := by
  unfold State.serve
  dsimp only
  split
  · split
    · exact h
    · show s₀.Keeps False _
      refine post ?_
      refine ite ?_ ?_
      · refine ownedBy ?_
        split
        · exact h.lineWrite
        · exact h
      · refine setDir ?_
        split
        · exact h.lineWrite
        · exact h
  · exact ite h.ownedBy.dropReservations h.ownedBy.dropReservations.post
  · exact h.ownedBy.dropReservations.sendCmp
  · show s₀.Keeps False _
    refine post ?_
    refine ite ?_ ?_
    · exact h
    · split
      · exact h.lineWrite
      · exact h
  · exact ite_snd h.emptied.sendCmp h.emptied.writePhys.sendInstall.sendCmp
  · split
    · show s₀.Keeps False _
      refine sendCmp ?_
      refine emptied ?_
      split
      · exact h.lineWrite
      · exact h
    · show s₀.Keeps False _
      refine sendCmp ?_
      refine writePhys ?_
      refine emptied ?_
      split
      · exact h.lineWrite
      · exact h
  · split
    · show s₀.Keeps False _
      refine sendCmp ?_
      refine extLookup ?_
      refine emptied ?_
      split
      · exact h.lineWrite
      · exact h
    · show s₀.Keeps False _
      refine sendCmp ?_
      refine writePhys ?_
      refine extLookup ?_
      refine emptied ?_
      split
      · exact h.lineWrite
      · exact h
  · show s₀.Keeps False _
    refine sendCmp ?_
    refine setDir ?_
    refine extCmo ?_
    split
    · exact h.lineWrite
    · exact h
  · show s₀.Keeps False _
    refine sendCmp ?_
    refine extCmo ?_
    refine emptied ?_
    split
    · exact h.lineWrite
    · exact h
  · exact h.emptied.extCmo.sendCmp
  · exact h

theorem lineAsk (h : s₀.Keeps False s) {line : Nat} {req : Req} : s₀.Keeps False (s.lineAsk line req) := by
  unfold State.lineAsk
  split
  · exact h.requestWrite
  · exact h.requestWrite
  · exact h.requestWrite
  · exact h.requestRead

theorem grantNext (h : s₀.Keeps False s) {n : Nat} : s₀.Keeps False (s.grantNext n) := by
  unfold State.grantNext
  split
  · split
    · exact ((h.dirRoom _ ‹_›).modCoh).post
    · exact h
  · exact h

theorem closeTxn (h : s₀.Keeps False s) {line : Nat} : s₀.Keeps False (s.closeTxn line) := h.setTxn.grantNext

theorem finish (h : s₀.Keeps False s) {line : Nat} : s₀.Keeps False (s.finish line) := by
  unfold State.finish
  dsimp only
  split
  · exact h
  · exact ite (ite h.serve.closeTxn h.serve.modTxn) h

theorem openTxn (h : s₀.Keeps False s) {line : Nat} {who : Requester} {req : Req} : s₀.Keeps False (s.openTxn line who req) :=
  ((ite ((ite h.modCoh.dropDead.setTxn.countBcast h.modCoh.dropDead.setTxn).didRead) (ite
    h.modCoh.dropDead.setTxn.countBcast h.modCoh.dropDead.setTxn)).snoop).finish

theorem accept (h : s₀.Keeps False s) {line : Nat} {who : Requester} {req : Req} :
    ∀ t ∈ s.accept line who req, s₀.Keeps False t := by
  unfold State.accept
  dsimp only
  split
  · exact none
  · split
    · split
      · exact some ((h.dirRoom _ ‹_›).openTxn)
      · exact some h.modCoh.modHome.post
      · exact none
    · exact some h.openTxn

theorem serveWaiting (h : s₀.Keeps False s) {l seen} : s₀.Keeps False (s.serveWaiting l seen) := by
  induction l generalizing s seen with
  | nil => exact h
  | cons w l ih =>
    unfold State.serveWaiting
    split
    · exact ih h
    · split
      · exact ih (h.accept _ ‹_›).same
      · exact ih h

theorem servePasses (h : s₀.Keeps False s) {n} : s₀.Keeps False (State.servePasses n s) := by
  induction n generalizing s with
  | zero => exact h
  | succ n ih => exact ih h.serveWaiting

theorem wakeHomes (h : s₀.Keeps False s) : s₀.Keeps False (s.wakeHomes) := h.servePasses

theorem request (h : s₀.Keeps False s) {line : Nat} {who : Requester} {req : Req} :
    s₀.Keeps False (s.request line who req) := by
  unfold State.request
  dsimp only
  refine ite ?_ ?_
  · exact ite h.post h.sendCmp
  · refine ite ?_ ?_
    · exact h.modCoh.wakeHomes
    · split
      · exact h.accept _ ‹_›
      · exact (ite h h.lineAsk).modCoh

theorem answerSnoop (h : s₀.Keeps False s) {k : Snp} {a line : Nat} {who : Requester} :
    s₀.Keeps False (s.answerSnoop k a line who) := by
  unfold State.answerSnoop
  dsimp only
  refine ite ?_ ?_
  · exact (ite h.scHit h).post
  · split
    · split
      · refine post ?_
        split
        · exact (ite (((ite h.scHit h).setLine).dropL1) ((ite h.scHit h).setLine)).post
        · exact ite (((ite h.scHit h).setLine).dropL1) ((ite h.scHit h).setLine)
      · refine post ?_
        split
        · exact (ite h.scHit h).post
        · exact ite h.scHit h
      · refine post ?_
        split
        · exact (ite (((ite h.scHit h).setLine).dropL1) ((ite h.scHit h).setLine)).post
        · exact ite (((ite h.scHit h).setLine).dropL1) ((ite h.scHit h).setLine)
      · refine post ?_
        split
        · exact (ite h.scHit h).post
        · exact ite h.scHit h
      · exact (ite h.scHit h).post
    · split
      · refine post ?_
        split
        · exact (ite (((ite h.scHit h).setLine).dropL1) ((ite h.scHit h).setLine)).post
        · exact ite (((ite h.scHit h).setLine).dropL1) ((ite h.scHit h).setLine)
      · refine post ?_
        split
        · exact (ite (((ite h.scHit h).setLine).dropL1) ((ite h.scHit h).setLine)).post
        · exact ite (((ite h.scHit h).setLine).dropL1) ((ite h.scHit h).setLine)
      · refine post ?_
        split
        · exact (ite (((ite h.scHit h).setLine).dropL1) ((ite h.scHit h).setLine)).post
        · exact ite (((ite h.scHit h).setLine).dropL1) ((ite h.scHit h).setLine)
      · exact (ite (((ite h.scHit h).setLine).dropL1) ((ite h.scHit h).setLine)).post
      · exact (ite h.scHit h).post
    · split
      · exact ((ite (((ite h.scHit h).setLine).dropL1) ((ite h.scHit h).setLine)).post).post
      · exact ((ite (((ite h.scHit h).setLine).dropL1) ((ite h.scHit h).setLine)).post).post
      · exact (ite (((ite h.scHit h).setLine).dropL1) ((ite h.scHit h).setLine)).post
      · exact (ite (((ite h.scHit h).setLine).dropL1) ((ite h.scHit h).setLine)).post
      · exact (ite h.scHit h).post
    · split
      · exact (ite h.scHit h).post
      · exact (ite h.scHit h).post
    · split
      · exact (ite h.scHit h).post
      · exact (ite (((ite h.scHit h).setLine).dropL1) ((ite h.scHit h).setLine)).post
      · exact (ite (((ite h.scHit h).setLine).dropL1) ((ite h.scHit h).setLine)).post
      · exact (ite h.scHit h).post

theorem answered (h : s₀.Keeps False s) {a line : Nat} : s₀.Keeps False (s.answered a line) := h.modTxn

theorem dropHolder (h : s₀.Keeps False s) {line a : Nat} : s₀.Keeps False (s.dropHolder line a) := by
  unfold State.dropHolder
  dsimp only
  split
  · exact ite h.setDir h.setDir
  · exact h.setDir

theorem takeRsp (h : s₀.Keeps False s) {st : LState} {a line : Nat} {fwd : Bool} {k : Snp} :
    s₀.Keeps False (s.takeRsp st a line fwd k) :=
  ((ite h.answered.setDir (ite h.answered.dropHolder h.answered)).modTxn).finish

theorem takeDat (h : s₀.Keeps False s) {a line : Nat} {d : List Byte} {p : Bool} : s₀.Keeps False (s.takeDat a line d p) := by
  unfold State.takeDat
  dsimp only
  refine finish ?_
  refine modTxn ?_
  split
  · exact h.answered
  · exact h.answered
  · exact h

theorem recvLine (h : s₀.Keeps False s) {a line : Nat} {grant : LState} {d : List Byte} {p : Bool} :
    s₀.Keeps False (s.recvLine a line grant d p) :=
  h.setLine.post

theorem leaveInExt (h : s₀.Keeps False s) {a line : Nat} {dirty : Bool} : s₀.Keeps False (s.leaveInExt a line dirty) := by
  unfold State.leaveInExt
  refine ite ?_ ?_
  · exact h
  · split
    · exact h.extFill
    · exact h

theorem hadWb (h : s₀.Keeps False s) {a line : Nat} : s₀.Keeps False (s.hadWb a line) := h.modTxn

theorem passHome (h : s₀.Keeps False s) {a line : Nat} : s₀.Keeps False (s.passHome a line).2 := by
  unfold State.passHome
  split
  · exact h.streamWrite
  · exact h

theorem absorbDirty (h : s₀.Keeps False s) {a line : Nat} {d : List Byte} {p : Bool} :
    s₀.Keeps False (s.absorbDirty a line d p) :=
  ite h.passHome.post.dropHolder.hadWb.modTxn.finish (ite (ite h.passHome.post.lineWrite.setDir
    h.passHome.post.lineWrite.setDir.leaveInExt) h.passHome.post)

theorem absorbClean (h : s₀.Keeps False s) {a line : Nat} : s₀.Keeps False (s.absorbClean a line) :=
  ((ite h.post.leaveInExt h.post.leaveInExt.dropHolder).hadWb).finish

theorem snoopMoved (h : s₀.Keeps False s) {t line : Nat} : s₀.Keeps False (s.snoopMoved t line) := by
  unfold State.snoopMoved
  dsimp only
  split
  · exact h.snoop.finish
  · exact h

theorem absorbMove (h : s₀.Keeps False s) {a line : Nat} {st : LState} {d : List Byte} {p : Bool} :
    s₀.Keeps False (s.absorbMove a line st d p) := by
  unfold State.absorbMove
  dsimp only
  refine ite ?_ ?_
  · exact h.post
  · refine ite ?_ ?_
    · exact ite h.absorbDirty h.absorbClean
    · split
      · exact ite h.absorbDirty h.absorbClean
      · exact ite ((((((h.cacheRoom _ ‹_›).setLine).post).setDir).hadWb).snoopMoved) (ite (((((h.cacheRoom _
          ‹_›).setLine).post).setDir).modTxn) ((((h.cacheRoom _ ‹_›).setLine).post).setDir))

theorem homeRec (h : s₀.Keeps False s) {line agent : Nat} : s₀.Keeps False (s.homeRec line agent) := h.logErr
theorem poisonTxn (h : s₀.Keeps False s) {line : Nat} : s₀.Keeps False (s.poisonTxn line) := h.modCoh.modTxn

theorem snoopDies (h : s₀.Keeps False s) {a line : Nat} : s₀.Keeps False (s.snoopDies a line) :=
  h.poisonLine.modHome.homeRec.modCoh.setLine.dropL1.dropHolder.answered.poisonTxn.finish

/-! #### Bridges and clocks -/

theorem execBridgeLaneFail_keeps (h : s₀.Keeps False s) {b : Nat} {repaired : Bool} :
    s₀.KeepsIn (execBridgeLaneFail b repaired s) :=
  ite h (ite h.logErr h.modFabric.logErr)

theorem execBridgeRetrainStart_keeps (h : s₀.Keeps False s) {b : Nat} : s₀.KeepsIn (execBridgeRetrainStart b s) :=
  ite h.modFabric h

theorem bridgePasses (h : s₀.Keeps False s) : s₀.Keeps False (s.bridgePasses) :=
  foldl (fun _ h1 _ => h1.drainLink) h.releaseSync

theorem execBridgeRetrainDone_keeps (h : s₀.Keeps False s) {b : Nat} : s₀.KeepsIn (execBridgeRetrainDone b s) :=
  ite h.modFabric.bridgePasses h

theorem strand (h : s₀.Keeps False s) {b line : Nat} : s₀.Keeps False (s.strand b line) := h.modCoh

theorem endPoisoned (h : s₀.Keeps False s) {b line : Nat} : s₀.Keeps False (s.endPoisoned b line) := by
  unfold State.endPoisoned
  dsimp only
  split
  · exact h.modTxn
  · exact ite ((ite_snd h.modTxn h.modTxn.serve).closeTxn) ((ite_snd h.modTxn h.modTxn.serve).modTxn)

theorem clearBeyond (h : s₀.Keeps False s) {line : Nat} {l : List Nat} : s₀.Keeps False (s.clearBeyond line l) :=
  (foldl (fun _ h1 _ => h1.post) h).setDir

theorem breakTxn (h : s₀.Keeps False s) {b line : Nat} : s₀.Keeps False (s.breakTxn b line) :=
  h.poisonLine.homeRec.strand.endPoisoned.clearBeyond

theorem execBridgeRetrainLong_keeps (h : s₀.Keeps False s) {b : Nat} : s₀.KeepsIn (execBridgeRetrainLong b s) :=
  ite ((foldl (fun _ h1 _ => h1.breakTxn) h.modFabric).wakeHomes) h

theorem execBridgeLost_keeps (h : s₀.Keeps False s) {b : Nat} : s₀.KeepsIn (execBridgeLost b s) := ite h.modFabric.fatal h

theorem execClockFault_keeps (h : s₀.Keeps False s) {k : ClockFaultKind} : s₀.KeepsIn (execClockFault k s) := by
  unfold execClockFault
  show s₀.Keeps False _
  refine ite ?_ ?_
  · exact h
  · split
    · exact h.modFabric.fatal
    · exact h.modFabric.fatal
    · exact h.fatal

/-! #### Errors in caches -/

theorem scError (h : s₀.Keeps False s) {n line : Nat} {found : EccFinding} : s₀.Keeps False (s.scError n line found) :=
  h.modHostDie
theorem loseCopy (h : s₀.Keeps False s) {a line : Nat} : s₀.Keeps False (s.loseCopy a line) :=
  ite h.dropCopy h.dropCopy.setDir

theorem scrubCache (h : s₀.Keeps False s) {a line : Nat} {x : Line} {found : EccFinding} :
    s₀.Keeps False (s.scrubCache a line x found) :=
  ite h (ite ((ite h.scError h).logErr) (ite (((ite h.scError h).loseCopy).logErr) (ite (((ite h.scError h).setLine).fatal)
    (((ite h.scError h).setLine).logErr))))

theorem disableWay (h : s₀.Keeps False s) {d w : Nat} : s₀.Keeps False (s.disableWay d w) := h.same.logErr
theorem wayError (h : s₀.Keeps False s) {d w : Nat} : s₀.Keeps False (s.wayError d w) := ite h.same.disableWay h.same
theorem extError (h : s₀.Keeps False s) {d : Nat} {found : EccFinding} : s₀.Keeps False (s.extError d found) := h.same

theorem scrubExt (h : s₀.Keeps False s) {d line w : Nat} {found : EccFinding} :
    s₀.Keeps False (s.scrubExt d line w found) := by
  have hdropped : s₀.Keeps False
      { s.extError d found with ext := Table.put 0 (s.extError d found).ext (s.extKey d line w) 0 } :=
    h.same
  exact ite h (ite h.extError.logErr (ite hdropped.logErr (ite hdropped.fatal h.extError.setPoison.logErr))).wayError

theorem l1dError (h : s₀.Keeps False s) {c line : Nat} {found : EccFinding} : s₀.Keeps False (s.l1dError c line found) :=
  ite h.logErr (ite h.modCore.logErr h.setLine.logErr)

theorem l1iError (h : s₀.Keeps False s) {c line : Nat} : s₀.Keeps False (s.l1iError c line) := h.modCore.logErr

theorem heldError (h : s₀.Keeps False s) {a line : Nat} {found : EccFinding} : s₀.Keeps False (s.heldError a line found) :=
  ite h.scrubCache h

theorem extMeets (h : s₀.Keeps False s) {line : Nat} {found : EccFinding} : s₀.Keeps False (s.extMeets line found) := by
  unfold State.extMeets
  split
  · split
    · exact ite h.scrubExt h
    · exact h
  · exact h

theorem controlError (h : s₀.Keeps False s) {line : Nat} : s₀.Keeps False (s.controlError line) := h.fatal

theorem meets (h : s₀.Keeps False s) {c line : Nat} {o : Option (CacheLevel × EccFinding)} :
    s₀.Keeps False (s.meets c line o) := by
  unfold State.meets
  split
  · exact h
  · exact h
  · exact h
  · exact h.controlError
  · exact ite h h.l1iError
  · exact ite h.l1dError h
  · exact h.heldError
  · exact h.heldError
  · exact h.extMeets

/-! #### Coherence commands -/

theorem askFor (h : s₀.Keeps False s) {a line : Nat} {tr : Transient} {req : Req} :
    s₀.Keeps False (s.askFor a line tr req) := by
  unfold State.askFor
  dsimp only
  refine ite ?_ ?_
  · split
    · exact ((h.cacheRoom _ ‹_›).setLine).request
    · exact h
  · exact h

theorem execRdShared_keeps (h : s₀.Keeps False s) {a line : Nat} : s₀.KeepsIn (execRdShared a line s) := h.askFor
theorem execRdOwn_keeps (h : s₀.Keeps False s) {a line : Nat} : s₀.KeepsIn (execRdOwn a line s) := h.askFor
theorem execUpgrade_keeps (h : s₀.Keeps False s) {a line : Nat} : s₀.KeepsIn (execUpgrade a line s) := ite h.setLine.request h

theorem ask (h : s₀.Keeps False s) {r : Requester} {line : Nat} {req : Req} : s₀.Keeps False (s.ask r line req) :=
  ite h.request.wakeHomes h

theorem execRdOnce_keeps (h : s₀.Keeps False s) {r : Requester} {line : Nat} : s₀.KeepsIn (execRdOnce r line s) := h.ask

theorem passStream (h : s₀.Keeps False s) {r : Requester} {line : Nat} {full : Bool} :
    s₀.Keeps False (s.passStream r line full) := by
  unfold State.passStream
  split
  · exact ite (ite h.streamWrite h.streamPart) h
  · exact h

theorem execWrFull_keeps (h : s₀.Keeps False s) {r : Requester} {line : Nat} {data : List Byte} {stash : Stash} :
    s₀.KeepsIn (execWrFull r line data stash s) :=
  ite h.passStream.ask h

theorem execWrPart_keeps (h : s₀.Keeps False s) {r : Requester} {line : Nat} {mask : Dword} {data : List Byte} :
    s₀.KeepsIn (execWrPart r line mask data s) :=
  ite h.passStream.ask h

theorem execAtomic_keeps (h : s₀.Keeps False s) {r : Requester} {line : Nat} {op : LineAtomic} :
    s₀.KeepsIn (execAtomic r line op s) :=
  ite h.ask h

theorem execCmo_keeps (h : s₀.Keeps False s) {r : Requester} {line : Nat} {k : CmoKind} : s₀.KeepsIn (execCmo r line k s) :=
  h.ask

theorem arrives {g : Msg → State → State} (h : s₀.Keeps False s)
    (hg : ∀ x1, ∀ u2, s₀.Keeps False u2 → s₀.Keeps False (g x1 u2))
    {f : Msg → Bool} :
    s₀.Keeps False (s.arrives f g) := by
  unfold State.arrives
  split
  · exact hg _ _ (of_msg h.takeMsg ‹_›)
  · exact h.orStale

theorem settleInstall (h : s₀.Keeps False s) {t line : Nat} : s₀.Keeps False (s.settleInstall t line) := by
  unfold State.settleInstall
  split
  · exact (getD ((of_msg h.takeMsg ‹_›).cacheRoom) (of_msg h.takeMsg ‹_›)).setLine
  · exact h

theorem dropReservation (h : s₀.Keeps False s) {a line : Nat} : s₀.Keeps False (s.dropReservation a line) := ite h.modCore h

theorem takeAway (h : s₀.Keeps False s) {k : Snp} {a line : Nat} {who : Requester} :
    s₀.Keeps False (s.takeAway k a line who) :=
  h.answerSnoop.dropReservation

theorem snooped {f : State → Requester → State} (h : s₀.Keeps False s)
    (hf : ∀ u1, s₀.Keeps False u1 → ∀ x2, s₀.Keeps False (f u1 x2))
    {k : Snp} {a line : Nat} :
    s₀.Keeps False (s.snooped k a line f) := by
  unfold State.snooped
  refine arrives h (fun _ _ h1 => ?_)
  split
  · exact hf _ h1.settleInstall _
  · exact h1

theorem snoopedAway (h : s₀.Keeps False s) {k : Snp} {a line : Nat} : s₀.Keeps False (s.snoopedAway k a line) :=
  h.snooped (fun _ h1 _ => ite h1.modCore h1.takeAway)

theorem execSnpShr_keeps (h : s₀.Keeps False s) {a line : Nat} : s₀.KeepsIn (execSnpShr a line s) :=
  h.snooped (fun _ h1 _ => h1.answerSnoop)

theorem execSnpOwn_keeps (h : s₀.Keeps False s) {a line : Nat} : s₀.KeepsIn (execSnpOwn a line s) := h.snoopedAway
theorem execSnpInv_keeps (h : s₀.Keeps False s) {a line : Nat} : s₀.KeepsIn (execSnpInv a line s) := h.snoopedAway

theorem execSnpOnce_keeps (h : s₀.Keeps False s) {a line : Nat} : s₀.KeepsIn (execSnpOnce a line s) :=
  h.snooped (fun _ h1 _ => h1.answerSnoop)

theorem execSnpCln_keeps (h : s₀.Keeps False s) {a line : Nat} : s₀.KeepsIn (execSnpCln a line s) :=
  h.snooped (fun _ h1 _ => h1.answerSnoop)

theorem execLrSnoopDelayEnd_keeps (h : s₀.Keeps False s) {c : Nat} : s₀.KeepsIn (execLrSnoopDelayEnd c s) := by
  unfold execLrSnoopDelayEnd
  show s₀.Keeps False _
  split
  · exact h.modCore.answerSnoop
  · exact h

theorem execRspState_keeps (h : s₀.Keeps False s) {a line : Nat} : s₀.KeepsIn (execRspState a line s) := by
  unfold execRspState
  show s₀.Keeps False _
  refine arrives h (fun _ _ h1 => ?_)
  split
  · exact h1.takeRsp.wakeHomes
  · exact h1.lateMsg

theorem takeInwb (h : s₀.Keeps False s) {a line : Nat} : s₀.Keeps False (s.takeInwb a line) :=
  ite h.answered.modTxn (ite h.answered.modTxn.snoopMoved.wakeHomes h.answered.finish.wakeHomes)

theorem execRspInwb_keeps (h : s₀.Keeps False s) {a line : Nat} : s₀.KeepsIn (execRspInwb a line s) := by
  unfold execRspInwb
  show s₀.Keeps False _
  refine arrives h (fun _ _ h1 => ?_)
  split
  · exact h1.takeInwb
  · exact h1.lateMsg

theorem execDatSnp_keeps (h : s₀.Keeps False s) {a line : Nat} : s₀.KeepsIn (execDatSnp a line s) := by
  unfold execDatSnp
  show s₀.Keeps False _
  refine arrives h (fun _ _ h1 => ?_)
  split
  · exact ite h1.lateMsg h1.takeDat.wakeHomes
  · exact h1

theorem takeAck (h : s₀.Keeps False s) {a line : Nat} : s₀.Keeps False (s.takeAck a line) := by
  unfold State.takeAck
  split
  · exact ite h (ite h.closeTxn.wakeHomes h.modTxn)
  · exact h

theorem execCmpAck_keeps (h : s₀.Keeps False s) {a line : Nat} : s₀.KeepsIn (execCmpAck a line s) :=
  h.arrives (fun _ _ h1 => h1.takeAck)

theorem execSnoopTimeout_keeps (h : s₀.Keeps False s) {a line : Nat} : s₀.KeepsIn (execSnoopTimeout a line s) := by
  unfold execSnoopTimeout
  show s₀.Keeps False _
  split
  · exact ite h.snoopDies.wakeHomes h
  · exact h

theorem putResult (h : s₀.Keeps False s) {r : Requester} {bs : List Byte} : s₀.Keeps False (s.putResult r bs) := h.modCoh
theorem recvOwn (h : s₀.Keeps False s) {a line : Nat} {p : Bool} : s₀.Keeps False (s.recvOwn a line p) := h.setLine.post

theorem execCmp_keeps (h : s₀.Keeps False s) {r : Requester} {line : Nat} : s₀.KeepsIn (execCmp r line s) := by
  unfold execCmp
  show s₀.Keeps False _
  refine arrives h (fun _ _ h1 => ?_)
  split
  · exact ite h1.recvOwn h1.putResult
  · exact h1.putResult
  · exact h1

theorem execDatHome_keeps (h : s₀.Keeps False s) {r : Requester} {line : Nat} : s₀.KeepsIn (execDatHome r line s) := by
  unfold execDatHome
  show s₀.Keeps False _
  refine arrives h (fun _ _ h1 => ?_)
  split
  · exact h1.recvLine
  · exact h1.putResult
  · exact h1

theorem execDatFwd_keeps (h : s₀.Keeps False s) {a line : Nat} : s₀.KeepsIn (execDatFwd a line s) := by
  unfold execDatFwd
  show s₀.Keeps False _
  refine arrives h (fun _ _ h1 => ?_)
  split
  · exact h1.recvLine
  · exact h1

theorem execRetry_keeps (h : s₀.Keeps False s) {a line : Nat} : s₀.KeepsIn (execRetry a line s) :=
  h.arrives (fun _ _ h1 => h1)

theorem sendAgain (h : s₀.Keeps False s) {a line : Nat} : s₀.Keeps False (s.sendAgain a line) := by
  unfold State.sendAgain
  dsimp only
  split
  · exact h.accept _ ‹_›
  · exact h.modCoh

theorem execGrant_keeps (h : s₀.Keeps False s) {a line : Nat} : s₀.KeepsIn (execGrant a line s) :=
  h.arrives (fun _ _ h1 => h1.sendAgain)

theorem execWbAck_keeps (h : s₀.Keeps False s) {a line : Nat} : s₀.KeepsIn (execWbAck a line s) :=
  h.arrives (fun _ _ h1 => ite h1.setLine h1)

theorem install (h : s₀.Keeps False s) {t line : Nat} {d : List Byte} : s₀.Keeps False (s.install t line d) :=
  ite h.setLine.countEvent h.setLine

theorem execDatInstall_keeps (h : s₀.Keeps False s) {t line : Nat} : s₀.KeepsIn (execDatInstall t line s) := by
  unfold execDatInstall
  show s₀.Keeps False _
  split
  · refine ite ?_ ?_
    · exact of_msg h.takeMsg ‹_›
    · split
      · exact ((((of_msg h.takeMsg ‹_›).cacheRoom) _ ‹_›)).install
      · exact h
  · exact h.orStale

theorem execWbDirty_keeps (h : s₀.Keeps False s) {a line : Nat} : s₀.KeepsIn (execWbDirty a line s) := by
  unfold execWbDirty
  show s₀.Keeps False _
  refine ite ?_ ?_
  · exact h.evictLine
  · refine arrives h (fun _ _ h1 => ?_)
    split
    · exact h1.absorbDirty.wakeHomes
    · exact h1

theorem execWbClean_keeps (h : s₀.Keeps False s) {a line : Nat} : s₀.KeepsIn (execWbClean a line s) :=
  ite h.evictLine (h.arrives (fun _ _ h1 => h1.absorbClean.wakeHomes))

theorem execWbMove_keeps (h : s₀.Keeps False s) {a line : Nat} : s₀.KeepsIn (execWbMove a line s) := by
  unfold execWbMove
  show s₀.Keeps False _
  refine ite ?_ ?_
  · exact h.sendMove
  · refine arrives h (fun _ _ h1 => ?_)
    split
    · exact h1.absorbMove.wakeHomes
    · exact h1

theorem execStreamRunTimeout_keeps (h : s₀.Keeps False s) {det run : Nat} : s₀.KeepsIn (execStreamRunTimeout det run s) :=
  h.same

/-! #### Harts -/

theorem readCounter (h : s₀.Keeps False s) {c k : Nat} : s₀.Keeps False (s.readCounter c k).2 := ite_snd h.drawn.modCore h

theorem hartAccess (h : s₀.Keeps False s) {c : Nat} {o : HartAccess} : s₀.Keeps False (s.hartAccess c o).2 := by
  unfold State.hartAccess
  dsimp only
  split
  · split
    · exact h
    · exact h.readCounter
    · exact h.drawn
  · exact h.modCore
  · exact h
  · exact h.modCore
  · exact h
  · exact h.modCore
  · exact h
  · exact h.modCore
  · exact h
  · exact h
  · exact h.drawn.modCfg

/-! #### Accesses of host cores -/

theorem report (h : s₀.Keeps False s) {c : Nat} {r : HostResult} : s₀.Keeps False (s.report c r) := h.modCore

theorem settleWbs (h : s₀.Keeps False s) {n line} : s₀.Keeps False (State.settleWbs n line s) := by
  induction n generalizing s with
  | zero => exact h
  | succ n ih =>
    unfold State.settleWbs
    split
    · exact ih (of_msg h.takeMsg ‹_›).absorbDirty
    · exact ih (of_msg h.takeMsg ‹_›).absorbClean
    · exact ih (of_msg h.takeMsg ‹_›).absorbMove
    · exact h

theorem settle (h : s₀.Keeps False s) {line : Nat} : s₀.Keeps False (s.settle line) :=
  foldl (fun _ h1 _ => h1.settleInstall) h.settleWbs

theorem shareSc (h : s₀.Keeps False s) {c line : Nat} : s₀.Keeps False (s.shareSc c line) := by
  unfold State.shareSc
  dsimp only
  refine ite ?_ ?_
  · exact h
  · split
    · exact h
    · exact ((h.scFill _ ‹_›).setLine).setDir

theorem fillShared (h : s₀.Keeps False s) {c line : Nat} : s₀.Keeps False (s.fillShared c line) := by
  unfold State.fillShared
  dsimp only
  split
  · exact ((ite h.setLine.setLine.scHit h.setLine.setLine).setDir).shareSc
  · exact ite h.didRead.setLine.ownedBy ((((ite h.scHit h.didRead).setLine).setDir).shareSc)

theorem fillOwned (h : s₀.Keeps False s) {c line : Nat} : s₀.Keeps False (s.fillOwned c line) :=
  ite (((((ite h h.didRead).purge).dropReservations).setLine).ownedBy) (((((ite h
    h.didRead).purge).dropReservations).setLine).setDir)

theorem countMiss (h : s₀.Keeps False s) {c line : Nat} : s₀.Keeps False (s.countMiss c line) :=
  ite h.countEvent.countEvent h.countEvent

theorem hostFill (h : s₀.Keeps False s) {c line : Nat} {own : Bool} : s₀.Keeps False (s.hostFill c line own).2 := by
  unfold State.hostFill
  dsimp only
  split
  · exact h
  · split
    · exact h
    · split
      · exact h
      · split
        · exact h.lineAsk
        · split
          · exact h
          · split
            · exact h.settle.dropDead.cacheRoom _ ‹_›
            · exact ite ((ite (((((h.settle.dropDead.cacheRoom _ ‹_›).dirRoom) _ ‹_›)).countMiss)
                ((((h.settle.dropDead.cacheRoom _ ‹_›).dirRoom) _ ‹_›))).fillOwned) ((ite (((((h.settle.dropDead.cacheRoom
                _ ‹_›).dirRoom) _ ‹_›)).countMiss) ((((h.settle.dropDead.cacheRoom _ ‹_›).dirRoom) _ ‹_›))).fillShared)

theorem hostFills (h : s₀.Keeps False s) {c own l} : s₀.Keeps False (s.hostFills c own l).2 := by
  induction l generalizing s with
  | nil => exact h
  | cons x l ih =>
    unfold State.hostFills
    split
    · exact ih (h.hostFill.of_eq ‹_›)
    · exact h.hostFill

theorem l2Write (h : s₀.Keeps False s) {c pa : Nat} {bs : List Byte} : s₀.Keeps False (s.l2Write c pa bs) :=
  foldl (fun _ h1 _ => h1.setLine) h

theorem touchL1d (h : s₀.Keeps False s) {c line : Nat} : s₀.Keeps False (s.touchL1d c line) :=
  ite h (((ite_snd h h.drawNat).modCore).countEvent)

theorem touchL1ds (h : s₀.Keeps False s) {c : Nat} {ls : List Nat} : s₀.Keeps False (s.touchL1ds c ls) :=
  foldl (fun _ h1 _ => h1.touchL1d) h

theorem fillL1i (h : s₀.Keeps False s) {c line : Nat} : s₀.Keeps False (s.fillL1i c line) :=
  ((ite_snd h h.drawNat).modCore).countEvent
theorem countUncached (h : s₀.Keeps False s) {c : Nat} : s₀.Keeps False (s.countUncached c) := h.countEvent

theorem hostAtomic (h : s₀.Keeps False s) {c pa n : Nat} {pbmt : Pbmt} {op : LineAtomic} :
    s₀.Keeps False (s.hostAtomic c pa n pbmt op) := by
  unfold State.hostAtomic
  dsimp only
  split
  · exact h.report
  · exact ite h.report (ite h.report (ite h.report (ite (((((((ite h
      h.countUncached).settle).dropDead).purge).dropReservations).didRead).report) ((((((((ite h
      h.countUncached).settle).dropDead).purge).dropReservations).didRead).writePhys).report))))

theorem execAmo_keeps (h : s₀.Keeps False s) {c : Nat} {a : CoreAt} {wide : Bool} {op : AmoOp} {v : Dword} :
    s₀.KeepsIn (execAmo c a wide op v s) :=
  ite h.hostAtomic h

theorem execAmocas_keeps (h : s₀.Keeps False s) {c : Nat} {a : CoreAt} {size : Nat} {expect new : Dword} :
    s₀.KeepsIn (execAmocas c a size expect new s) :=
  ite h (ite h.report h.hostAtomic)

theorem reserve (h : s₀.Keeps False s) {c line : Nat} : s₀.Keeps False (s.reserve c line) := h.modCore

theorem cachedReserve (h : s₀.Keeps False s) {c pa n : Nat} : s₀.Keeps False (s.cachedReserve c pa n) := by
  unfold State.cachedReserve
  dsimp only
  split
  · exact (h.hostFill.of_eq ‹_›).report
  · exact (h.hostFill.of_eq ‹_›).report
  · exact ite (((h.hostFill.of_eq ‹_›).touchL1d).report) ((((h.hostFill.of_eq ‹_›).touchL1d).reserve).report)

theorem uncachedReserve (h : s₀.Keeps False s) {c pa n : Nat} : s₀.Keeps False (s.uncachedReserve c pa n) :=
  ite h.report (ite h.countUncached.didRead.report h.countUncached.didRead.reserve.report)

theorem loadReserved (h : s₀.Keeps False s) {c pa n : Nat} {pbmt : Pbmt} : s₀.Keeps False (s.loadReserved c pa n pbmt) := by
  unfold State.loadReserved
  split
  · exact h.report
  · exact ite h.report (ite h.cachedReserve h.uncachedReserve)

theorem execLr_keeps (h : s₀.Keeps False s) {c : Nat} {a : CoreAt} {wide : Bool} : s₀.KeepsIn (execLr c a wide s) :=
  ite h.loadReserved h

theorem failSc (h : s₀.Keeps False s) {c : Nat} : s₀.Keeps False (s.failSc c) := h.countEvent.report

theorem uncachedSc (h : s₀.Keeps False s) {c pa : Nat} {bs : List Byte} : s₀.Keeps False (s.uncachedSc c pa bs) :=
  (ite h.countUncached h.countUncached.writePhys).report

theorem storeConditional (h : s₀.Keeps False s) {c pa n : Nat} {v : Dword} {pbmt : Pbmt} :
    s₀.Keeps False (s.storeConditional c pa n v pbmt) := by
  unfold State.storeConditional
  dsimp only
  split
  · exact h.report
  · exact ite h.report (ite (ite h.modCore.l2Write.report h.modCore.failSc) (ite h.report (ite h.modCore.uncachedSc
      h.modCore.failSc)))

theorem execSc_keeps (h : s₀.Keeps False s) {c : Nat} {a : CoreAt} {wide : Bool} {v : Dword} :
    s₀.KeepsIn (execSc c a wide v s) :=
  ite h.storeConditional h

theorem execLrReservationExpire_keeps (h : s₀.Keeps False s) {c : Nat} : s₀.KeepsIn (execLrReservationExpire c s) := h.modCore

theorem cleanLine (h : s₀.Keeps False s) {line : Nat} : s₀.Keeps False (s.cleanLine line) := by
  unfold State.cleanLine
  dsimp only
  split
  · exact ite h.lineWrite.setLine.setDir h
  · exact h

theorem blockOp (h : s₀.Keeps False s) {c line : Nat} {o : CmoKind} : s₀.Keeps False (s.blockOp c line o) := by
  unfold State.blockOp
  split
  · exact h.cleanLine.extCmo
  · exact h.purge.dropReservations.extCmo
  · exact h.purge.dropReservations.extCmo

theorem openOp (h : s₀.Keeps False s) {c line : Nat} {k : CmoKind} : s₀.Keeps False (s.openOp c line k) :=
  ite h.report (ite h.report h.settle.dropDead.blockOp.report)

theorem cacheOp (h : s₀.Keeps False s) {c pa : Nat} {k : CmoKind} {err : Option (CacheLevel × EccFinding)} :
    s₀.Keeps False (s.cacheOp c pa k err) := by
  unfold State.cacheOp
  dsimp only
  split
  · exact h.report
  · exact ite h.report (ite h.report h.meets.openOp)

theorem execCboClean_keeps (h : s₀.Keeps False s) {c pa : Nat} {o : Pbmt} : s₀.KeepsIn (execCboClean c pa o s) :=
  ite h.cacheOp h
theorem execCboFlush_keeps (h : s₀.Keeps False s) {c pa : Nat} {o : Pbmt} : s₀.KeepsIn (execCboFlush c pa o s) :=
  ite h.cacheOp h

theorem execCboInval_keeps (h : s₀.Keeps False s) {c pa : Nat} {o : Pbmt} {err : Option (CacheLevel × EccFinding)} :
    s₀.KeepsIn (execCboInval c pa o err s) :=
  ite h (ite h.cacheOp (ite h.cacheOp h.report))

theorem zeroLine (h : s₀.Keeps False s) {c line : Nat} : s₀.Keeps False (s.zeroLine c line) :=
  ite h.streamWrite.passPorts.settle.dropDead.purge.dropReservations.writePhys.report h.lineAsk.report

theorem execCboZero_keeps (h : s₀.Keeps False s) {c pa : Nat} {o : Pbmt} : s₀.KeepsIn (execCboZero c pa o s) := by
  unfold execCboZero
  show s₀.Keeps False _
  refine ite ?_ ?_
  · exact h
  · split
    · exact h.report
    · exact ite h.report (ite h.report (ite h.report (ite h.report (ite h.report h.zeroLine))))

theorem prefetch (h : s₀.Keeps False s) {c pa : Nat} {pbmt : Pbmt} {own : Bool} :
    s₀.Keeps False (s.prefetch c pa pbmt own) := by
  unfold State.prefetch
  split
  · exact ite h.hostFill h
  · exact h

theorem execPrefetchR_keeps (h : s₀.Keeps False s) {c pa : Nat} {pbmt : Pbmt} : s₀.KeepsIn (execPrefetchR c pa pbmt s) :=
  h.prefetch

theorem execPrefetchW_keeps (h : s₀.Keeps False s) {c pa : Nat} {pbmt : Pbmt} : s₀.KeepsIn (execPrefetchW c pa pbmt s) :=
  ite h.prefetch h

theorem execTimerCompare_keeps (h : s₀.Keeps False s) {c : Nat} : s₀.KeepsIn (execTimerCompare c s) := h.modCore

theorem execExtErrorWindowExpire_keeps (h : s₀.Keeps False s) {d way : Nat} : s₀.KeepsIn (execExtErrorWindowExpire d way s) :=
  ite h.same h

/-! #### Tier commands -/

theorem programPage (h : s₀.Keeps False s) {ch : Nat} {ts : List Nat} : s₀.Keeps False (s.programPage ch ts) :=
  foldl (fun _ h1 _ => h1.modTier) h.modChannel.modFlashDie

theorem programPages (h : s₀.Keeps False s) {ch n ts} : s₀.Keeps False (State.programPages ch n ts s) := by
  induction n generalizing s ts with
  | zero => exact h
  | succ n ih => exact ite h (ih h.programPage)

theorem moveBlock (h : s₀.Keeps False s) {ch b : Nat} : s₀.Keeps False (s.moveBlock ch b) := h.modChannel.programPages
theorem eraseBlock (h : s₀.Keeps False s) {ch b : Nat} : s₀.Keeps False (s.eraseBlock ch b) := h.modChannel
theorem countRetired (h : s₀.Keeps False s) {ch : Nat} {r : ErrRec} : s₀.Keeps False (s.countRetired ch r) :=
  h.logErr.modFlashDie

theorem retireBlock (h : s₀.Keeps False s) {ch b retries : Nat} : s₀.Keeps False (s.retireBlock ch b retries) :=
  ite (((ite h.modChannel.countRetired.logErr h.modChannel.countRetired).logErr).modTier) (ite
    h.modChannel.countRetired.logErr h.modChannel.countRetired)

theorem refresh (h : s₀.Keeps False s) {t b : Nat} : s₀.Keeps False (s.refresh t b) :=
  ite h.modFlashDie.logErr h.modFlashDie.moveBlock

theorem flashRead (h : s₀.Keeps False s) {t retries : Nat} : s₀.Keeps False (s.flashRead t retries) :=
  ite (((ite ((((ite h.modFlashDie.modChannel.refresh h.modFlashDie.modChannel).same).modFlashDie).logErr) (ite
    h.modFlashDie.modChannel.refresh h.modFlashDie.modChannel)).moveBlock).retireBlock) (ite ((((ite
    h.modFlashDie.modChannel.refresh h.modFlashDie.modChannel).same).modFlashDie).logErr) (ite
    h.modFlashDie.modChannel.refresh h.modFlashDie.modChannel))

theorem wantTile (h : s₀.Keeps False s) {t k : Nat} : s₀.Keeps False (s.wantTile t k).2 := by
  unfold State.wantTile
  split
  · exact h.promote
  · split
    · exact (h.takeSlot.of_got ‹_›).zeroSlot
    · exact h
    · exact h.takeSlot.of_waits ‹_›
  · exact h
  · exact h.urge
  · exact h

theorem startRead (h : s₀.Keeps False s) {x : Nat} : s₀.Keeps False (s.startRead x) := by
  unfold State.startRead
  refine ite ?_ ?_
  · split
    · exact h.modTier
    · exact h
  · exact h

theorem serveHint (h : s₀.Keeps False s) {t : Nat} : s₀.Keeps False (s.serveHint t) := by
  unfold State.serveHint
  dsimp only
  split
  · split
    · exact ((h.takeSlot.of_got ‹_›).intoP).modTier
    · exact h.modTier
    · exact h.takeSlot.of_waits ‹_›
  · exact h
  · exact h.modTier

theorem serveHints (h : s₀.Keeps False s) {l} : s₀.Keeps False (s.serveHints l) := by
  induction l generalizing s with
  | nil => exact h
  | cons t l ih => exact ih (ite h.serveHint h)

theorem freeSlot (h : s₀.Keeps False s) {d g : Nat} : s₀.Keeps False (s.freeSlot d g) := by
  unfold State.freeSlot
  dsimp only
  split
  · exact ite h h.setSlot
  · exact h

theorem evictNow (h : s₀.Keeps False s) {t : Nat} : s₀.Keeps False (s.evictNow t) := ite h.evictTile.freeSlot h

theorem payTile (h : s₀.Keeps False s) {e : Nat × Bool} : s₀.Keeps False (s.payTile e) := by
  unfold State.payTile
  dsimp only
  refine ite ?_ ?_
  · exact h.modTier
  · refine ite ?_ ?_
    · exact ite h.evictNow.modTier (ite h h.modTier)
    · refine ite ?_ ?_
      · split
        · exact (h.wantTile.of_eq ‹_›).modTier
        · exact h.wantTile.of_eq ‹_›
      · exact h.modTier

theorem payOwed (h : s₀.Keeps False s) : s₀.Keeps False (s.payOwed) := foldl (fun _ h1 _ => h1.payTile) h
theorem countLate (h : s₀.Keeps False s) {t : Nat} : s₀.Keeps False (s.countLate t) := h.modTierDie
theorem protect (h : s₀.Keeps False s) {till t : Nat} : s₀.Keeps False (s.protect till t) := ite h h.setTile

theorem schedTile (h : s₀.Keeps False s) {till t : Nat} : s₀.Keeps False (s.schedTile till t).2 := by
  unfold State.schedTile
  split
  · exact h.protect
  · exact h.protect
  · exact h.urge.protect
  · exact h
  · split
    · exact h.countLate
    · split
      · exact (h.wantTile.of_eq ‹_›).protect
      · exact h.wantTile.of_eq ‹_›

theorem schedTiles (h : s₀.Keeps False s) {till l} : s₀.Keeps False (State.schedTiles till l s).2 := by
  induction l generalizing s with
  | nil => exact h
  | cons t l ih => exact ih h.schedTile

theorem goOn (h : s₀.Keeps False s) {e : Sched} : s₀.Keeps False (s.goOn e) := h.schedTiles.modTier
theorem serveSched (h : s₀.Keeps False s) : s₀.Keeps False (s.serveSched) := (foldl (fun _ h1 _ => h1.goOn) h).modTier
theorem serveTier (h : s₀.Keeps False s) : s₀.Keeps False (s.serveTier) := h.startRead.startRead.serveSched.payOwed.serveHints
theorem landed (h : s₀.Keeps False s) {t : Nat} : s₀.Keeps False (s.landed t) := h.modTier

theorem land (h : s₀.Keeps False s) {t retries : Nat} : s₀.Keeps False (s.land t retries) :=
  h.flashRead.fillFromFlash.setTile.modTierDie.extLookup.landed.serveTier

theorem execPromotionLands_keeps (h : s₀.Keeps False s) {r : FlashRead} : s₀.KeepsIn (execPromotionLands r s) :=
  ite h.land.wakeHomes h

theorem execBypassReadDone_keeps (h : s₀.Keeps False s) {r : FlashRead} : s₀.KeepsIn (execBypassReadDone r s) :=
  ite h.flashRead.setTile.serveTier.wakeHomes h

theorem execWriteGroupTimeout_keeps (h : s₀.Keeps False s) {ch : Nat} : s₀.KeepsIn (execWriteGroupTimeout ch s) :=
  ite h.modChannel h

theorem tileToFlash (h : s₀.Keeps False s) {t} : s₀.Keeps False (s.tileToFlash t) := by
  have hflash : s₀.Keeps False { s with
      flash := Table.splice memDefault s.flash (tileAddr t) (s.bytes (tileAddr t) 4096),
      flashPoison := Table.put false s.flashPoison t (s.anyPoison (tileAddr t) 4096) } :=
    h.store id fun hwf => Table.wf_splice _ _ _ (flash_wf hwf)
  unfold State.tileToFlash
  dsimp only
  split
  · exact hflash.fillZero.besides.requestTiles
  · exact hflash.fillZero.besides

theorem execPageProgrammed_keeps (h : s₀.Keeps False s) {ch : Nat} : s₀.KeepsIn (execPageProgrammed ch s) := by
  unfold execPageProgrammed
  dsimp only
  show s₀.Keeps False _
  split
  · exact h
  · exact ite h (((foldl (fun _ h1 _ => h1.tileToFlash) h.modChannel.programPage.modTier).serveTier).wakeHomes)

theorem execProgramFailure_keeps (h : s₀.Keeps False s) {ch : Nat} : s₀.KeepsIn (execProgramFailure ch s) :=
  ite h h.modChannel.moveBlock.retireBlock

theorem collect (h : s₀.Keeps False s) {ch b : Nat} {ok : Bool} : s₀.Keeps False (s.collect ch b ok) :=
  ite h.moveBlock.eraseBlock h.moveBlock.retireBlock

theorem levelWear (h : s₀.Keeps False s) {ch : Nat} {ok : Bool} : s₀.Keeps False (s.levelWear ch ok) := by
  unfold State.levelWear
  dsimp only
  split
  · exact ite h.collect h
  · exact h

theorem execGarbageCollection_keeps (h : s₀.Keeps False s) {g : Collection} : s₀.KeepsIn (execGarbageCollection g s) := by
  unfold execGarbageCollection
  dsimp only
  show s₀.Keeps False _
  refine ite ?_ ?_
  · exact h
  · refine levelWear ?_
    refine ite ?_ ?_
    · split
      · exact h.collect
      · exact h
    · exact h

theorem execMapCheckpoint_keeps (h : s₀.Keeps False s) {x : Nat} : s₀.KeepsIn (execMapCheckpoint x s) := ite h.modTier h
theorem setObject (h : s₀.Keeps False s) {k : Nat} {o : TObj} : s₀.Keeps False (s.setObject k o) := h.modTier
theorem pinEffect (h : s₀.Keeps False s) {was : Nat} {o : TObj} : s₀.Keeps False (s.pinEffect was o) :=
  ite h h.modTier.payOwed

theorem pinCmd (h : s₀.Keeps False s) {c : Cmd} : s₀.Keeps False (s.pinCmd c) := by
  unfold State.pinCmd
  dsimp only
  split
  · exact h
  · split
    · exact h
    · exact ite h.setObject.pinEffect (ite h.setObject h)

theorem doneHere (h : s₀.Keeps False s) {q j : Nat} {idx : Word} : s₀.Keeps False (s.doneHere q j idx) := by
  unfold State.doneHere
  split
  · exact h.setCmd
  · exact h

theorem beginMigrate (h : s₀.Keeps False s) {q j : Nat} {c : Cmd} : s₀.Keeps False (s.beginMigrate q j c) := h.pinCmd.setCmd
theorem wantResident (h : s₀.Keeps False s) {t : Nat} : s₀.Keeps False (s.wantResident t) := ite h.wantTile.setTile h.wantTile

theorem stepMigrate (h : s₀.Keeps False s) {q j : Nat} {idx : Word} : s₀.Keeps False (s.stepMigrate q j idx) := by
  unfold State.stepMigrate
  dsimp only
  split
  · exact h
  · refine ite ?_ ?_
    · exact ite ((foldl (fun _ h1 _ => h1.wantResident) h).doneHere) (foldl (fun _ h1 _ => h1.wantResident) h)
    · split
      · exact ite ((foldl (fun _ h1 _ => h1.evictNow) h).doneHere) (foldl (fun _ h1 _ => h1.evictNow) h)
      · exact foldl (fun _ h1 _ => h1.evictNow) h

theorem execMigrate_keeps (h : s₀.Keeps False s) {q j : Nat} {idx : Word} : s₀.KeepsIn (execMigrate q j idx s) := by
  unfold execMigrate
  show s₀.Keeps False _
  split
  · exact h
  · exact ite ((ite h.beginMigrate h).stepMigrate) h

theorem queueHints (h : s₀.Keeps False s) {l} : s₀.Keeps False (s.queueHints l).2 := by
  induction l generalizing s with
  | nil => exact h
  | cons t l ih =>
    unfold State.queueHints
    split
    · exact ih h.same
    · exact h

theorem execPrefetchHint_keeps (h : s₀.Keeps False s) {q j : Nat} {idx : Word} : s₀.KeepsIn (execPrefetchHint q j idx s) := by
  unfold execPrefetchHint
  dsimp only
  show s₀.Keeps False _
  split
  · exact h
  · exact ite (ite h.serveHints.queueHints.setCmd.serveHints.doneHere h.serveHints.queueHints.setCmd.serveHints) h

theorem evictStray (h : s₀.Keeps False s) {p : Nat × Nat} : s₀.Keeps False (s.evictStray p) :=
  (foldl (fun _ h1 _ => ite h1.evictTile h1) h).freeSlot

theorem rehome (h : s₀.Keeps False s) : s₀.Keeps False (s.rehome) := (foldl (fun _ h1 _ => h1.evictStray) h).modTier
theorem objError (h : s₀.Keeps False s) {n : Nat} : s₀.Keeps False (s.objError n) := h.modTier

theorem writeObject (h : s₀.Keeps False s) {k : Nat} {v : Word} : s₀.Keeps False (s.writeObject k v) :=
  ite (ite h.objError ((ite h.setObject.objError h.setObject.objError.rehome).pinEffect)) (ite h.setObject.objError.rehome
    h.setObject.objError)

theorem writeObjectWord (h : s₀.Keeps False s) {k w : Nat} {v : Word} : s₀.Keeps False (s.writeObjectWord k w v) :=
  ite h.writeObject (ite h (ite h.setObject (ite h.setObject h)))

theorem execObjectTableWrite_keeps (h : s₀.Keeps False s) {p : Port} {n : Nat} {v : Word} :
    s₀.KeepsIn (execObjectTableWrite p n v s) :=
  ite h.writeObjectWord h

theorem execObjectEvictDone_keeps (h : s₀.Keeps False s) : s₀.KeepsIn (execObjectEvictDone s) :=
  ((foldl (fun _ h1 _ => h1.evictStray) h).modTier).serveTier

theorem execSchedEnableWrite_keeps (h : s₀.Keeps False s) {p : Port} {v : Word} : s₀.KeepsIn (execSchedEnableWrite p v s) :=
  ite h.modTier h

theorem execSchedTailWrite_keeps (h : s₀.Keeps False s) {p : Port} {v : Word} : s₀.KeepsIn (execSchedTailWrite p v s) :=
  ite h.modTier h

theorem judgeSched (h : s₀.Keeps False s) {step : Nat} : s₀.Keeps False (s.judgeSched step) :=
  (foldl (fun _ h1 _ => h1.countLate) h).modTier

theorem releaseTile (h : s₀.Keeps False s) {t : Nat} : s₀.Keeps False (s.releaseTile t) := by
  unfold State.releaseTile
  dsimp only
  split
  · exact ite h.setSlot h
  · exact h

theorem takeSched (h : s₀.Keeps False s) {bs : List Byte} : s₀.Keeps False (s.takeSched bs) :=
  ite h.modTier.modTier (ite h (ite (foldl (fun _ h1 _ => h1.releaseTile) h.modTier) (ite h.modTier.schedTiles
    h.modTier.schedTiles.modTier.judgeSched)))

theorem execSchedEntryActivate_keeps (h : s₀.Keeps False s) : s₀.KeepsIn (execSchedEntryActivate s) :=
  ite h (ite h (ite h.modTier h.didRead.takeSched))

theorem execProtectionExpire_keeps (h : s₀.Keeps False s) {t : Nat} : s₀.KeepsIn (execProtectionExpire t s) :=
  ite h.setTile.countLate.serveTier h

theorem tierStep (h : s₀.Keeps False s) {step : Nat} : s₀.Keeps False (s.tierStep step) := by
  unfold State.tierStep
  dsimp only
  exact ((foldl (fun _ h1 _ => h1.setTile) h).judgeSched).serveTier

theorem rejectRegion (h : s₀.Keeps False s) {code : Nat} : s₀.Keeps False (s.rejectRegion code) := h.modTier

theorem clearRegion (h : s₀.Keeps False s) {r : Nat} : s₀.Keeps False (s.clearRegion r) :=
  (foldl (fun _ h1 _ => h1.recallTile.extDropTile.fillZero.noteFlash) h).modTier

theorem startRegion (h : s₀.Keeps False s) {r : Nat} {load : Bool} : s₀.Keeps False (s.startRegion r load) :=
  h.clearRegion.modTier

theorem regionCmd (h : s₀.Keeps False s) {r op : Nat} : s₀.Keeps False (s.regionCmd r op) :=
  ite h.modTier.rejectRegion (ite h.modTier.rejectRegion (ite h.modTier.rejectRegion (ite h.modTier.rejectRegion (ite
    h.modTier.rejectRegion h.modTier.startRegion))))

theorem execRegionLoad_keeps (h : s₀.Keeps False s) {p : Port} {r : Nat} : s₀.KeepsIn (execRegionLoad p r s) :=
  ite h.regionCmd h

theorem execRegionErase_keeps (h : s₀.Keeps False s) {p : Port} {r : Nat} : s₀.KeepsIn (execRegionErase p r s) :=
  ite h.regionCmd h

theorem programRegion (h : s₀.Keeps False s) {r load src} : s₀.Keeps False (s.programRegion r load src) := by
  refine h.store id fun hwf => ?_
  refine Table.wf_patch _ _ _ (flash_wf hwf) ?_ ?_
  · split
    · exact Table.wf_slice (newestMem_wf hwf)
    · exact Table.wf_nil _
  · split
    · exact fun e he => Table.mem_slice he
    · exact fun e he => absurd he List.not_mem_nil

theorem failBlock (h : s₀.Keeps False s) {r ch plane : Nat} : s₀.Keeps False (s.failBlock r ch plane).2 := by
  unfold State.failBlock
  dsimp only
  split
  · exact h.modChannel.countRetired.modChannel
  · exact h.modChannel.countRetired

theorem failBlocks (h : s₀.Keeps False s) {r l} : s₀.Keeps False (s.failBlocks r l).2 := by
  induction l generalizing s with
  | nil => exact h
  | cons x l ih => exact ih h.failBlock

theorem wearRegion (h : s₀.Keeps False s) {r : Nat} {load : Bool} : s₀.Keeps False (s.wearRegion r load) :=
  ite (foldl (fun _ h1 _ => h1.modFlashDie) (foldl (fun _ h1 _ => h1.modChannel) h)) (foldl (fun _ h1 _ => h1.modChannel) h)

theorem execRegionOpDone_keeps (h : s₀.Keeps False s) {fails : List (Nat × Nat)} : s₀.KeepsIn (execRegionOpDone fails s) := by
  unfold execRegionOpDone
  dsimp only
  show s₀.Keeps False _
  split
  · exact h
  · exact ite h ((((ite h.failBlocks.wearRegion.programRegion h.failBlocks.wearRegion).modTier).serveTier).wakeHomes)

/-! #### Receive windows -/

theorem windowCount (h : s₀.Keeps False s) {q w n : Nat} : s₀.Keeps False (s.windowCount q w n) :=
  ite h.modWindow.syncOp h.modWindow

theorem windowWrite (h : s₀.Keeps False s) {x : Window} {e : Extent} {p : Packet} : s₀.Keeps False (s.windowWrite x e p) := by
  unfold State.windowWrite
  dsimp only
  split
  · exact (ite h h.writePhys).writePhys
  · exact ite h h.writePhys

theorem answer (h : s₀.Keeps False s) {p : Packet} {kind : PacketKind} {status : Nat} :
    s₀.Keeps False (s.answer p kind status) :=
  h.route

theorem takePacket (h : s₀.Keeps False s) {q w : Nat} {p : Packet} : ∀ t ∈ s.takePacket q w p, s₀.Keeps False t := by
  unfold State.takePacket
  dsimp only
  split
  · exact none
  · split
    · exact some h.windowWrite.windowCount.answer
    · exact none
  · exact some h.modWindow.answer

theorem takeHeld (h : s₀.Keeps False s) {q w l} : s₀.Keeps False (s.takeHeld q w l) := by
  induction l generalizing s with
  | nil => exact h.besides
  | cons p l ih =>
    unfold State.takeHeld
    split
    · exact ih (h.takePacket _ ‹_›)
    · exact h.besides

theorem releaseHeld (h : s₀.Keeps False s) {q w : Nat} : s₀.Keeps False (s.releaseHeld q w) := h.takeHeld

theorem closeWindows (h : s₀.Keeps False s) {ctx slot : Nat} : s₀.Keeps False (s.closeWindows ctx slot) :=
  foldl (fun _ h1 _ => h1.modWindow.releaseHeld) h

/-! #### Window commands -/

theorem writeWindowCtrl (h : s₀.Keeps False s) {q w : Nat} {v : Word} : s₀.Keeps False (s.writeWindowCtrl q w v) := by
  unfold State.writeWindowCtrl
  dsimp only
  refine ite ?_ ?_
  · exact h.modWindow
  · refine ite ?_ ?_
    · split
      · exact h.modWindow
      · exact h.modWindow
    · exact h.modWindow

theorem execWindowCtrlWrite_keeps (h : s₀.Keeps False s) {p : Port} {q w : Nat} {v : Word} :
    s₀.KeepsIn (execWindowCtrlWrite p q w v s) :=
  ite h.writeWindowCtrl.releaseHeld h

theorem execWindowCounterWrite_keeps (h : s₀.Keeps False s) {p : Port} {q w : Nat} {r : WindowCounter} {v : Word} :
    s₀.KeepsIn (execWindowCounterWrite p q w r v s) :=
  ite h.modWindow.releaseHeld h

theorem arrive (h : s₀.Keeps False s) {q w : Nat} {p : Packet} : s₀.Keeps False (s.arrive q w p) :=
  ite (getD h.releaseHeld.takePacket h.releaseHeld.modWindow) h.releaseHeld.modWindow

theorem execPacketDeliver_keeps (h : s₀.Keeps False s) {pk : Packet} : s₀.KeepsIn (execPacketDeliver pk s) :=
  ite h (ite h.arrive h.answer)

/-! #### Resets -/

theorem settleRegions (h : s₀.Keeps False s) : s₀.Keeps False (s.settleRegions) := foldl (fun _ h1 _ => h1.drawn.modTier) h

theorem restart (h : s₀.Keeps False s) {cause powerLost} : s₀.Keeps False (s.restart cause powerLost) :=
  h.settleRegions.step (fun _ => Table.wf_nil _) flash_wf False.elim

theorem powerLost (h : s₀.Keeps False s) : s₀.Keeps False (s.powerLost).2 := ite_snd h h.drawn

theorem execPackageReset_keeps (h : s₀.Keeps False s) {c : ResetCause} : s₀.KeepsIn (execPackageReset c s) := by
  unfold execPackageReset
  dsimp only
  show s₀.Keeps False _
  split
  · exact h.powerLost.restart
  · exact h.restart
  · exact ite h.restart h

theorem execPackageResetRelease_keeps (h : s₀.Keeps False s) {straps : BitVec 16} :
    s₀.KeepsIn (execPackageResetRelease straps s) :=
  ite h.modBoot h

theorem killQueue (h : s₀.Keeps False s) {q j : Nat} : s₀.Keeps False (s.killQueue q j) :=
  foldl (fun _ h1 _ => h1.endCmd) (ite h.abortQueue h)

theorem shutWindow (h : s₀.Keeps False s) {q w : Nat} : s₀.Keeps False (s.shutWindow q w) := h.modWindow.releaseHeld

theorem resetQuad (h : s₀.Keeps False s) {q : Nat} : s₀.Keeps False (s.resetQuad q) := by
  have hlatches : ∀ u l, s₀.Keeps False u → s₀.Keeps False { u with latches := l } := fun _ _ hu => hu.same
  unfold State.resetQuad
  dsimp only
  exact (hlatches _ _ (foldl (fun _ h1 _ => h1.shutWindow) (foldl (fun _ h1 _ => h1.killQueue) h))).modQuad

theorem execQuadReset_keeps (h : s₀.Keeps False s) {p : Port} {q : Nat} : s₀.KeepsIn (execQuadReset p q s) :=
  ite h.resetQuad h
theorem zeroMem (h : s₀.Keeps False s) {pa n} : s₀.Keeps False (s.zeroMem pa n) := h.store (State.wf_zeroMem pa n) flash_wf

theorem resetDie (h : s₀.Keeps False s) {d : Nat} : s₀.Keeps False (s.resetDie d) := by
  have hext : ∀ u, s₀.Keeps False u → s₀.Keeps False { u with
      ext := u.ext.filter (fun e => decide (e.1 / 16 / 2 ^ 24 ≠ d)), extLfsr := Table.put 1 u.extLfsr d 1 } := fun _ hu =>
        hu.same
  have hsync : ∀ u, s₀.Keeps False u → s₀.Keeps False { u with
      sync := Table.drop u.sync (4096 * d) 4096, regs := Table.put [] u.regs d [] } := fun _ hu => hu.same
  unfold State.resetDie
  dsimp only
  exact (hsync _ (hext _ (foldl (fun _ h1 _ => h1.purge) (foldl (fun _ h1 _ => h1.resetQuad) h))).zeroMem.zeroMem).modBoot

theorem execComputeDieReset_keeps (h : s₀.Keeps False s) {p : Port} {d : Nat} : s₀.KeepsIn (execComputeDieReset p d s) :=
  ite h.resetDie h

theorem setPhys (h : s₀.Keeps False s) {d p v : Nat} : s₀.Keeps False (s.setPhys d p v) := h.modBoot

theorem failPhys (h : s₀.Keeps False s) {d : Nat} {failed : Nat → Bool} {p : Nat} :
    s₀.Keeps False (s.failPhys d failed p) := by
  unfold State.failPhys
  dsimp only
  refine ite ?_ ?_
  · split
    · exact h.setPhys.setItem.modQuad
    · exact h.setPhys
  · exact ite h.setPhys h

theorem selfTest (h : s₀.Keeps False s) {d : Nat} {failed : Nat → Bool} : s₀.Keeps False (s.selfTest d failed) :=
  foldl (fun _ h1 _ => ite h1.failPhys h1) h

theorem rewait (h : s₀.Keeps False s) {r : Reg} : s₀.Keeps False (s.rewait r) := ite h (ite h.wake h.register)

theorem dieReturns (h : s₀.Keeps False s) {d : Nat} {ok : List Bool} : s₀.Keeps False (s.dieReturns d ok) :=
  ((foldl (fun _ h1 _ => h1.rewait) h.selfTest.modBoot.modBoot).releaseSync).wakeHomes

theorem execDieResetDone_keeps (h : s₀.Keeps False s) {d : Nat} {selfTest : List Bool} :
    s₀.KeepsIn (execDieResetDone d selfTest s) :=
  ite h.dieReturns h

theorem cutTxn (h : s₀.Keeps False s) {line : Nat} : s₀.Keeps False (s.cutTxn line) := by
  unfold State.cutTxn
  dsimp only
  split
  · exact h
  · refine setTxn ?_
    split
    · exact ite ((ite h.poisonLine.homeRec h).modTxn) (((ite h.poisonLine.homeRec h).modTxn).serve)
    · exact (ite h.poisonLine.homeRec h).modTxn

theorem loseOwner (h : s₀.Keeps False s) {line : Nat} : s₀.Keeps False (s.loseOwner line) := by
  unfold State.loseOwner
  split
  · exact h.poisonLine.homeRec
  · exact h

theorem hostDown (h : s₀.Keeps False s) : s₀.Keeps False s.hostDown := by
  have hgone : ∀ u, s₀.Keeps False u → s₀.Keeps False { u with
      cores := [], hostDies := [], routes := [], scWays := [], scTrees := [], streams := [] } := fun _ hu => hu.same
  exact hgone _ (foldl (fun _ h1 _ => h1.loseOwner) (foldl (fun _ h1 _ => h1.cutTxn) h.modCoh.modBoot.modCoh)).modCoh

theorem execHostComplexReset_keeps (h : s₀.Keeps False s) {src : HostResetSource} : s₀.KeepsIn (execHostComplexReset src s) :=
  ite h h.hostDown.modBoot

theorem execRstCauseFatalClear_keeps (h : s₀.Keeps False s) {p : Port} : s₀.KeepsIn (execRstCauseFatalClear p s) :=
  ite h.modBoot.modLog h

/-! #### Transactions -/

theorem reply (h : s₀.Keeps False s) {p : Port} {r : Response} : s₀.Keeps False (s.reply p r) := by
  unfold State.reply
  split
  · exact h.modCfg
  · exact h

theorem replyCode (h : s₀.Keeps False s) {p : Port} {code : Nat} : s₀.Keeps False (s.replyCode p code) := h.reply

theorem whenOpen {f : State → State} (h : s₀.Keeps False s) (hf : ∀ u1, s₀.Keeps False u1 → s₀.Keeps False (f u1))
    {p : Port} :
    s₀.Keeps False (s.whenOpen p f) :=
  ite (hf _ h) h

theorem whenOpenOrRecovery {f : State → State} (h : s₀.Keeps False s) (hf : ∀ u1, s₀.Keeps False u1 → s₀.Keeps False (f u1))
    {p : Port} :
    s₀.Keeps False (s.whenOpenOrRecovery p f) :=
  ite (hf _ h) h

theorem withSem {f : State → State} (h : s₀.Keeps False s) (hf : ∀ u1, s₀.Keeps False u1 → s₀.Keeps False (f u1)) {p : Port} :
    s₀.Keeps False (s.withSem p f) :=
  ite (hf _ h) h.replyCode

theorem endTxn (h : s₀.Keeps False s) {result : Nat} : s₀.Keeps False (s.endTxn result) := h.modCfg.sendEvent

theorem rollBack (h : s₀.Keeps False s) {result : Nat} : s₀.Keeps False (s.rollBack result) :=
  ite h.modCfg.endTxn.logErr h.modCfg.endTxn

theorem leaseEnds (h : s₀.Keeps False s) : s₀.Keeps False (s.leaseEnds) :=
  (ite h.modCfg.same.rollBack h.modCfg.same).sendEvent

theorem execSemAcquire_keeps (h : s₀.Keeps False s) {p : Port} : s₀.KeepsIn (execSemAcquire p s) :=
  h.whenOpenOrRecovery (fun _ h1 => ite h1.modCfg.replyCode h1.reply)

theorem execSemRenew_keeps (h : s₀.Keeps False s) {p : Port} : s₀.KeepsIn (execSemRenew p s) :=
  h.whenOpenOrRecovery (fun _ h1 => h1.withSem (fun _ h2 => h2.modCfg.replyCode))

theorem execSemRelease_keeps (h : s₀.Keeps False s) {p : Port} : s₀.KeepsIn (execSemRelease p s) :=
  h.whenOpenOrRecovery (fun _ h1 => h1.withSem (fun _ h2 => h2.leaseEnds.replyCode))

theorem execLeaseExpire_keeps (h : s₀.Keeps False s) : s₀.KeepsIn (execLeaseExpire s) := ite h.leaseEnds h

theorem execTxnBegin_keeps (h : s₀.Keeps False s) {p : Port} : s₀.KeepsIn (execTxnBegin p s) :=
  h.whenOpen (fun _ h1 => h1.withSem (fun _ h2 => ite h2.replyCode h2.modCfg.replyCode))

theorem withTxn {f : State → State} (h : s₀.Keeps False s) (hf : ∀ u1, s₀.Keeps False u1 → s₀.Keeps False (f u1)) {p : Port} :
    s₀.Keeps False (s.withTxn p f) :=
  h.withSem (fun _ h1 => ite h1.replyCode (ite h1.replyCode (ite h1.replyCode (hf _ h1))))

theorem execTxnStage_keeps (h : s₀.Keeps False s) {p : Port} {items : List CfgItem} : s₀.KeepsIn (execTxnStage p items s) :=
  h.whenOpen (fun _ h1 => h1.withTxn (fun _ h2 => ite h2.replyCode (ite h2.replyCode h2.modCfg.replyCode)))

theorem execTxnRead_keeps (h : s₀.Keeps False s) {p : Port} : s₀.KeepsIn (execTxnRead p s) :=
  h.whenOpen (fun _ h1 => h1.reply)

theorem execTxnRollback_keeps (h : s₀.Keeps False s) {p : Port} : s₀.KeepsIn (execTxnRollback p s) :=
  h.whenOpen (fun _ h1 => h1.withSem (fun _ h2 => ite h2.replyCode (ite h2.replyCode (ite h2.replyCode
    h2.rollBack.replyCode))))

theorem execTxnAutoRollback_keeps (h : s₀.Keeps False s) : s₀.KeepsIn (execTxnAutoRollback s) := ite h.rollBack h

theorem execTxnCommit_keeps (h : s₀.Keeps False s) {p : Port} : s₀.KeepsIn (execTxnCommit p s) := by
  unfold execTxnCommit
  show s₀.Keeps False _
  refine whenOpen h (fun _ h1 => ?_)
  refine withTxn h1 (fun _ h2 => ?_)
  split
  · exact h2.modCfg.rollBack.replyCode
  · exact h2.modCfg.replyCode

theorem execTxnQuiet_keeps (h : s₀.Keeps False s) : s₀.KeepsIn (execTxnQuiet s) := ite h.modCfg h
theorem recordField (h : s₀.Keeps False s) {it : CfgItem} : s₀.Keeps False (s.recordField it) := ite h (ite h.logErr h.modCfg)

theorem retire (h : s₀.Keeps False s) {d p : Nat} : s₀.Keeps False (s.retire d p) := by
  unfold State.retire
  dsimp only
  split
  · exact h.setPhys.modQuad.setItem.zeroMem
  · exact h.setPhys.modQuad

theorem scDrop (h : s₀.Keeps False s) {n line : Nat} : s₀.Keeps False (s.scDrop n line) :=
  ((ite h.lineWrite h).setLine).setDir

theorem emptyWays (h : s₀.Keeps False s) {n : Nat} {ws : List Nat} : s₀.Keeps False (s.emptyWays n ws) :=
  (foldl (fun _ h1 _ => ite h1 h1.scDrop) h).same

theorem changeSc (h : s₀.Keeps False s) {it : CfgItem} : s₀.Keeps False (s.changeSc it) :=
  ite h.setItem h.emptyWays.setItem.same
theorem changeExt (h : s₀.Keeps False s) {it : CfgItem} : s₀.Keeps False (s.changeExt it) := h.same.setItem
theorem changeExtWays (h : s₀.Keeps False s) {it : CfgItem} : s₀.Keeps False (s.changeExtWays it) := h.same.setItem
theorem changePool (h : s₀.Keeps False s) {it : CfgItem} : s₀.Keeps False (s.changePool it) :=
  ite h.changeExt.scramble h.changeExt

theorem applyItem (h : s₀.Keeps False s) {it : CfgItem} : s₀.Keeps False (s.applyItem it) :=
  ite h.retire.recordField (ite h.changePool (ite h.changeExt (ite h.changeExtWays.recordField (ite h.changeSc (ite
    h.changeSc.recordField (ite (foldl (fun _ h1 _ => ite h1 h1.modLink) h.setItem) h.setItem))))))

theorem extend (h : s₀.Keeps False s) {m : Nat} {bs : List Byte} : s₀.Keeps False (s.extend m bs) := h.modCfg
theorem applyTxn (h : s₀.Keeps False s) : s₀.Keeps False (s.applyTxn) :=
  (((foldl (fun _ h1 _ => h1.applyItem) h).extend).modCfg).endTxn
theorem execTxnApply_keeps (h : s₀.Keeps False s) : s₀.KeepsIn (execTxnApply s) := ite h.applyTxn h

/-! #### The board store -/

theorem withItems (h : s₀.Keeps False s) {l : List CfgItem} : s₀.Keeps False (s.withItems l) :=
  foldl (fun _ h1 _ => h1.setItem) h.modCfg

theorem execStoreRead_keeps (h : s₀.Keeps False s) {p : Port} {off n : Nat} : s₀.KeepsIn (execStoreRead p off n s) :=
  h.whenOpenOrRecovery (fun _ h1 => ite h1.replyCode (ite h1.drawn.reply h1.reply))

theorem withBank {f : State → State} (h : s₀.Keeps False s) (hf : ∀ u1, s₀.Keeps False u1 → s₀.Keeps False (f u1)) {p : Port}
    {bank : Nat} :
    s₀.Keeps False (s.withBank p bank f) :=
  h.withSem (fun _ h1 => ite h1.replyCode (ite h1.replyCode (hf _ h1)))

theorem execStoreErase_keeps (h : s₀.Keeps False s) {p : Port} {bank : Nat} : s₀.KeepsIn (execStoreErase p bank s) :=
  h.whenOpenOrRecovery (fun _ h1 => h1.withBank (fun _ h2 => h2.modCfg.replyCode))

theorem execStoreWrite_keeps (h : s₀.Keeps False s) {p : Port} {bank off : Nat} {bs : List Byte} :
    s₀.KeepsIn (execStoreWrite p bank off bs s) :=
  h.whenOpenOrRecovery (fun _ h1 => h1.withBank (fun _ h2 => ite h2.replyCode h2.modCfg.replyCode))

theorem execStoreFinish_keeps (h : s₀.Keeps False s) {p : Port} {bank len : Nat} {digest : List Byte} :
    s₀.KeepsIn (execStoreFinish p bank len digest s) :=
  h.whenOpenOrRecovery (fun _ h1 => h1.withBank (fun _ h2 => ite h2.replyCode (ite h2.modCfg.replyCode (ite
    h2.modCfg.modCfg.replyCode h2.modCfg.modCfg.replyCode))))

theorem withKeyOp {f : State → State} (h : s₀.Keeps False s) (hf : ∀ u1, s₀.Keeps False u1 → s₀.Keeps False (f u1)) {p : Port}
    {signer : Nat} {msg sig : List Byte} :
    s₀.Keeps False (s.withKeyOp p signer msg sig f) :=
  h.whenOpen (fun _ h1 => h1.withSem (fun _ h2 => ite (hf _ h2) h2.replyCode))

/-! #### Boot -/

theorem bootMode (h : s₀.Keeps False s) : s₀.Keeps False (s.bootMode) := foldl (fun _ h1 _ => h1.modDiePower) h.modPower

theorem takeImage (h : s₀.Keeps False s) {b : Nat} : s₀.Keeps False (s.takeImage b) :=
  (((((ite h.modCfg.logErr h.modCfg).extend).extend).extend).withItems).modCfg

theorem haltBoot (h : s₀.Keeps False s) {stage err : Nat} : s₀.Keeps False (s.haltBoot stage err) := h.modBoot.drawn.logErr

theorem selectBank (h : s₀.Keeps False s) : s₀.Keeps False (s.selectBank) := by
  unfold State.selectBank
  dsimp only
  split
  · exact h.modCfg.takeImage.modBoot
  · exact h.modCfg.modBoot.haltBoot

theorem applyField (h : s₀.Keeps False s) {e : List CfgItem × List Byte} : s₀.Keeps False (s.applyField e) :=
  ite h (((foldl (fun _ h1 _ => ite h1.retire h1.setItem) h).extend).modCfg)

theorem startQuads (h : s₀.Keeps False s) {failed : List Nat} : s₀.Keeps False (s.startQuads failed) :=
  (foldl (fun _ h1 _ => h1.selfTest) (foldl (fun _ h1 _ => h1.applyField) h)).modBoot

theorem fillMemory (h : s₀.Keeps False s) : s₀.Keeps False s.fillMemory := h.store (fun _ => Table.wf_nil _) flash_wf

theorem startFlash (h : s₀.Keeps False s) : s₀.Keeps False s.startFlash := by
  have hempty : ∀ u, s₀.Keeps False u → s₀.Keeps False { u with flash := [], flashPoison := [] } := fun _ hu =>
    hu.store id fun _ => Table.wf_nil _
  exact ite h.modTier (hempty _ h.modTier.modTier).logErr

theorem startLinks (h : s₀.Keeps False s) : s₀.Keeps False (s.startLinks) := foldl (fun _ h1 _ => ite h1 h1.startTraining) h
theorem joinStages (h : s₀.Keeps False s) : s₀.Keeps False (s.joinStages) := ite h.modBoot.startLinks h
theorem copyHostStage (h : s₀.Keeps False s) : s₀.Keeps False (s.copyHostStage) := h.writeMem
theorem finishBoot (h : s₀.Keeps False s) : s₀.Keeps False (s.finishBoot) := h.copyHostStage.modPower.modBoot

theorem endStage (h : s₀.Keeps False s) {r : BootReport} : s₀.Keeps False (s.endStage r) := by
  unfold State.endStage
  split
  · exact h.extend.modBoot
  · exact h.selectBank
  · exact h.bootMode.modBoot
  · exact h.startQuads
  · exact h.fillMemory.modBoot.joinStages
  · exact h.startFlash.modBoot.joinStages
  · exact h.finishBoot
  · exact h

theorem execBootStage_keeps (h : s₀.Keeps False s) {r : BootReport} : s₀.KeepsIn (execBootStage r s) :=
  ite h (ite h.haltBoot (ite h.haltBoot h.endStage))

theorem execHostResetRelease_keeps (h : s₀.Keeps False s) : s₀.KeepsIn (execHostResetRelease s) :=
  ite h ((ite h.modCoh.modBoot.copyHostStage.modBoot h.modCoh.modBoot).wakeHomes)

/-! #### Decode -/

theorem checkSpec (h : s₀.Keeps False s) {q j : Nat} {d : List Byte} {x : XSpec} :
    s₀.Keeps False (s.checkSpec q j d x).2 := by
  unfold State.checkSpec
  dsimp only
  split
  · split
    · exact h.segLookup.reportFault.of_eq ‹_›
    · exact h.segLookup.reportFault.of_eq ‹_›
  · exact h.segLookup
  · exact h.segLookup
  · exact ite_snd h.segLookup (ite_snd h.segLookup h.segLookup)

theorem checkSpecs (h : s₀.Keeps False s) {q j d l acc} : s₀.Keeps False (s.checkSpecs q j d l acc).2 := by
  induction l generalizing s acc with
  | nil => exact h
  | cons x l ih =>
    unfold State.checkSpecs
    split
    · exact ih (h.checkSpec.of_eq ‹_›)
    · exact h.checkSpec

theorem checkProg (h : s₀.Keeps False s) {q j : Nat} {c : Cmd} {exts : Table Extent} :
    s₀.Keeps False (s.checkProg q j c exts).2 := by
  unfold State.checkProg
  dsimp only
  split
  · exact h
  · split
    · exact h
    · exact ite_snd h (ite_snd h.requestRead (ite_snd h.logErr (ite_snd h.didRead h.didRead)))

theorem checkMemory (h : s₀.Keeps False s) {q j c} : s₀.Keeps False (s.checkMemory q j c).2 := by
  unfold State.checkMemory
  split
  · exact (h.checkSpecs.of_eq ‹_›).checkProg
  · exact h.checkSpecs

theorem checkCmd (h : s₀.Keeps False s) {q j : Nat} {c : Cmd} : s₀.Keeps False (s.checkCmd q j c).2.2 := by
  unfold State.checkCmd
  dsimp only
  split
  · exact h
  · split
    · exact h
    · exact h.checkMemory

theorem toSlot (h : s₀.Keeps False s) {q j : Nat} {c : Cmd} : s₀.Keeps False (s.toSlot q j c) := h.modQueue

theorem place (h : s₀.Keeps False s) {q j : Nat} {c : Cmd} : s₀.Keeps False (s.place q j c) := by
  unfold State.place
  dsimp only
  split
  · exact h.register.toSlot
  · exact ite h.modQueue h.toSlot

theorem settleDecode (h : s₀.Keeps False s) {q j : Nat} {c : Cmd} {o : Dec} : s₀.Keeps False (s.settleDecode q j c o) := by
  unfold State.settleDecode
  split
  · exact h.endCmd
  · exact h.toSlot
  · exact h
  · exact h.place

/-! #### The sequencer -/

theorem ringFault (h : s₀.Keeps False s) {q j status : Nat} : s₀.Keeps False (s.ringFault q j status) := h.noteErr.errorStop
theorem takeDesc (h : s₀.Keeps False s) {q j : Nat} {bs : List Byte} : s₀.Keeps False (s.takeDesc q j bs) := h.modQuad

theorem fetchOne (h : s₀.Keeps False s) {q j : Nat} : s₀.Keeps False (s.fetchOne q j) := by
  unfold State.fetchOne
  dsimp only
  split
  · exact ite h.ringFault (ite h.requestRead (ite h.ringFault h.didRead.takeDesc))
  · exact h.ringFault

theorem execDescriptorFetch_keeps (h : s₀.Keeps False s) {q : Nat} : s₀.KeepsIn (execDescriptorFetch q s) := by
  unfold execDescriptorFetch
  show s₀.Keeps False _
  refine ite ?_ ?_
  · split
    · exact h.fetchOne
    · exact h
  · exact h

theorem decodeHead (h : s₀.Keeps False s) {q j : Nat} : s₀.Keeps False (s.decodeHead q j) := by
  unfold State.decodeHead
  dsimp only
  split
  · exact h
  · split
    · exact h.checkCmd.of_eq₂ ‹_›
    · exact ((h.checkCmd.of_eq₂ ‹_›).modQueue).settleDecode

theorem execCommandDecode_keeps (h : s₀.Keeps False s) {q j : Nat} : s₀.KeepsIn (execCommandDecode q j s) :=
  ite h.decodeHead h

theorem Arb_win {a : Arb} (h : s₀.Keeps False a.s) {q j c need} : s₀.Keeps False (a.win q j c need).s := by
  unfold Arb.win
  dsimp only
  split
  · exact h.besides
  · exact h.besides

theorem Arb_claim {a : Arb} (h : s₀.Keeps False a.s) {q j c} : s₀.Keeps False (a.claim q j c).s := by
  unfold Arb.claim
  dsimp only
  split
  · exact Arb_win h
  · split
    · exact Arb_win h
    · exact h

theorem Arb_again {a : Arb} (h : s₀.Keeps False a.s) {q j c} : s₀.Keeps False (a.again q j c).s := by
  unfold Arb.again
  split
  · exact Arb_claim (h.checkMemory.of_eq ‹_›).besides
  · exact (h.checkMemory.of_eq ‹_›).endCmd
  · dsimp only
    split
    · exact (h.checkMemory.of_eq ‹_›).besides
    · exact (h.checkMemory.of_eq ‹_›).besides
  · exact h.checkMemory.of_eq ‹_›

theorem Arb_step {a : Arb} (h : s₀.Keeps False a.s) {q k} : s₀.Keeps False (a.step q k).s := by
  unfold Arb.step
  split
  · split
    · split
      · exact Arb_again h
      · exact Arb_claim h
    · exact h
  · exact h

theorem arbitrate (h : s₀.Keeps False s) {q} : s₀.Keeps False (s.arbitrate q) := by
  have hpass : ∀ (l : List (Nat × Word)) (a : Arb), s₀.Keeps False a.s → s₀.Keeps False (l.foldl (Arb.step q) a).s := by
    intro l
    induction l with
    | nil => exact fun _ ha => ha
    | cons k l ih => exact fun a ha => ih _ (Arb_step ha)
  exact hpass _ ⟨s, _⟩ h

theorem execCommandStart_keeps (h : s₀.Keeps False s) {q : Nat} : s₀.KeepsIn (execCommandStart q s) := ite h.arbitrate h

theorem execStationRelease_keeps (h : s₀.Keeps False s) {q j : Nat} {idx : Word} {stn : Nat} :
    s₀.KeepsIn (execStationRelease q j idx stn s) := by
  unfold execStationRelease
  show s₀.Keeps False _
  split
  · exact ite h.setCmd h
  · exact h

theorem execCommandComplete_keeps (h : s₀.Keeps False s) {q j : Nat} {idx : Word} :
    s₀.KeepsIn (execCommandComplete q j idx s) := by
  unfold execCommandComplete
  show s₀.Keeps False _
  split
  · exact ite h.endCmd h
  · exact h

/-! #### The error log -/

theorem execCeMergeExpire_keeps (h : s₀.Keeps False s) {d k : Nat} : s₀.KeepsIn (execCeMergeExpire d k s) := by
  unfold execCeMergeExpire
  dsimp only
  show s₀.Keeps False _
  split
  · exact ite h.modLog h
  · exact h

theorem writeLog (h : s₀.Keeps False s) {r : ErrRec} : s₀.Keeps False (s.writeLog r) := h.writePhys.modLog.raiseIrq

theorem leaveStaging (h : s₀.Keeps False s) {d k : Nat} {r : ErrRec} : s₀.Keeps False (s.leaveStaging d k r) :=
  ite (ite h.modLog.writeLog h) (ite h.modLog h)

theorem execRecordToLog_keeps (h : s₀.Keeps False s) : s₀.KeepsIn (execRecordToLog s) := by
  unfold execRecordToLog
  show s₀.Keeps False _
  refine ite ?_ ?_
  · exact h
  · split
    · exact h.leaveStaging
    · exact h

theorem writeLogCtrl (h : s₀.Keeps False s) {v : Word} : s₀.Keeps False (s.writeLogCtrl v) :=
  ite (ite h.modLog (ite h.modLog.modLog h.modLog)) h.modLog.modLog

theorem execErrLogCtrlWrite_keeps (h : s₀.Keeps False s) {p : Port} {v : Word} : s₀.KeepsIn (execErrLogCtrlWrite p v s) :=
  ite h.writeLogCtrl h

theorem execErrLogReadWrite_keeps (h : s₀.Keeps False s) {p : Port} {v : Word} : s₀.KeepsIn (execErrLogReadWrite p v s) :=
  ite h.modLog h

/-! #### Ethernet -/

theorem setQpField (h : s₀.Keeps False s) {x qpn off : Nat} {bs : List Byte} : s₀.Keeps False (s.setQpField x qpn off bs) :=
  ite h.writePhys h

theorem advancePsn (h : s₀.Keeps False s) {x qpn off n : Nat} : s₀.Keeps False (s.advancePsn x qpn off n) := h.setQpField

theorem requestRings (h : s₀.Keeps False s) {x : Nat} {e : List Byte} {idx : Nat} :
    s₀.Keeps False (s.requestRings x e idx) := by
  unfold State.requestRings
  dsimp only
  split
  · refine requestWrite ?_
    split
    · exact h.requestRead
    · exact h
  · split
    · exact h.requestRead
    · exact h

theorem writeCq (h : s₀.Keeps False s) {x : Nat} {e : List Byte} {idx : Nat} {bs : List Byte} :
    s₀.Keeps False (s.writeCq x e idx bs).2 := by
  unfold State.writeCq
  dsimp only
  split
  · exact ite_snd h.ethAsk h.writePhys.ethAsk
  · exact h.ethAsk

theorem endWqe (h : s₀.Keeps False s) {x : Nat} {e : List Byte} {idx : Nat} {w : List Byte} {status bytes : Nat} :
    s₀.Keeps False (s.endWqe x e idx w status bytes).2 :=
  ite ((ite_snd h.writeCq h).syncOp) (ite_snd h.writeCq h)

theorem qpError (h : s₀.Keeps False s) {x qpn : Nat} : s₀.Keeps False (s.qpError x qpn) :=
  ((foldl (fun _ h1 _ => h1.endWqe) h).modQp).setQpField

theorem closeWqe (h : s₀.Keeps False s) {x qpn idx : Nat} {w : List Byte} {status bytes : Nat} :
    s₀.Keeps False (s.closeWqe x qpn idx w status bytes) :=
  ite h.endWqe.modQp h.endWqe.modQp.qpError

theorem qpMove (h : s₀.Keeps False s) {x qpn st : Nat} : s₀.Keeps False (s.qpMove x qpn st) :=
  ite h.qpError (ite h.modQp.setQpField h.setQpField)

theorem writeQpCmd (h : s₀.Keeps False s) {x : Nat} {v : Word} : s₀.Keeps False (s.writeQpCmd x v) :=
  ite h.modQpReg.qpMove h.modQpReg

theorem execQpMove_keeps (h : s₀.Keeps False s) {p : Port} {x : Nat} {v : Word} : s₀.KeepsIn (execQpMove p x v s) :=
  ite h.writeQpCmd h

theorem execQpMoveError_keeps (h : s₀.Keeps False s) {p : Port} {x qpn : Nat} : s₀.KeepsIn (execQpMoveError p x qpn s) :=
  ite h.modQpReg.qpError h

theorem execEthQpDb_keeps (h : s₀.Keeps False s) {p : Port} {x : Nat} {v : Word} : s₀.KeepsIn (execEthQpDb p x v s) :=
  ite h.modQpReg.modQp h

theorem localRange (h : s₀.Keeps False s) {x : Nat} {e w : List Byte} {write : Bool} :
    (s.localRange x e w write).All (s₀.Keeps False) := by
  unfold State.localRange
  dsimp only
  split
  · exact trivial
  · split
    · exact trivial
    · split
      · split
        · exact trivial
        · split
          · exact h
          · split
            · split
              · exact trivial
              · exact h.requestWrite
            · split
              · exact h.requestRead
              · split
                · exact trivial
                · exact trivial
      · exact trivial

theorem askLocal (h : s₀.Keeps False s) {x : Nat} {e w : List Byte} : s₀.Keeps False (s.askLocal x e w) := ite h.ethAsk h

theorem sendWqe (h : s₀.Keeps False s) {x qpn : Nat} {e w : List Byte} {l : Extent} :
    s₀.Keeps False (s.sendWqe x qpn e w l) :=
  (ite h h.didRead).emit

theorem nextWqe (h : s₀.Keeps False s) {x qpn : Nat} : s₀.Keeps False (s.nextWqe x qpn) := h.modQp

theorem startWqe (h : s₀.Keeps False s) {x qpn op : Nat} : s₀.Keeps False (s.startWqe x qpn op) := by
  unfold State.startWqe
  dsimp only
  refine ite ?_ ?_
  · exact h
  · refine ite ?_ ?_
    · exact h
    · refine ite ?_ ?_
      · exact h.requestRings
      · split
        · exact h.qpError
        · refine ite ?_ ?_
          · refine ite ?_ ?_
            · exact h
            · refine ite ?_ ?_
              · exact h.nextWqe.closeWqe
              · split
                · exact h.localRange.of_waits ‹_›
                · exact h.nextWqe.closeWqe.askLocal.ethAsk
                · exact h.nextWqe.sendWqe.advancePsn.modQp.askLocal.ethAsk
          · exact h.nextWqe.closeWqe

theorem execWqeWrite_keeps (h : s₀.Keeps False s) {x qpn : Nat} : s₀.KeepsIn (execWqeWrite x qpn s) := h.startWqe
theorem execWqeRead_keeps (h : s₀.Keeps False s) {x qpn : Nat} : s₀.KeepsIn (execWqeRead x qpn s) := h.startWqe
theorem execWqeSend_keeps (h : s₀.Keeps False s) {x qpn : Nat} : s₀.KeepsIn (execWqeSend x qpn s) := h.startWqe
theorem ethDrop (h : s₀.Keeps False s) {n : Nat} : s₀.Keeps False (s.ethDrop n) := h.modEth

theorem onOldest {f : List Byte → Nat → List Byte → State → State} (h : s₀.Keeps False s)
    (hf : ∀ x1 x2 x3, ∀ u4, s₀.Keeps False u4 → s₀.Keeps False (f x1 x2 x3 u4)) {x qpn : Nat} :
    s₀.Keeps False (s.onOldest x qpn f) := by
  unfold State.onOldest
  dsimp only
  refine ite ?_ ?_
  · exact h
  · refine ite ?_ ?_
    · exact h.ethDrop
    · split
      · exact h
      · exact ite h.requestRings (hf _ _ _ _ h)

theorem takeReadData (h : s₀.Keeps False s) {x qpn : Nat} {e : List Byte} {i : Nat} {w bs : List Byte} :
    s₀.Keeps False (s.takeReadData x qpn e i w bs) := by
  unfold State.takeReadData
  dsimp only
  split
  · exact h.localRange.of_waits ‹_›
  · exact h.closeWqe.askLocal
  · exact ite h.closeWqe.askLocal (ite h ((ite ((ite h h.writeHinted).closeWqe) ((ite h h.writeHinted).modQp)).askLocal))

theorem execRdmaResponseReceive_keeps (h : s₀.Keeps False s) {x qpn : Nat} {bs : List Byte} :
    s₀.KeepsIn (execRdmaResponseReceive x qpn bs s) :=
  h.onOldest (fun _ _ _ _ h1 => ite h1.takeReadData h1.closeWqe)

theorem resendLater (h : s₀.Keeps False s) {x qpn e l} : s₀.Keeps False (s.resendLater x qpn e l) := by
  induction l generalizing s with
  | nil => exact h
  | cons i l ih =>
    unfold State.resendLater
    dsimp only
    split
    · exact ih h.sendWqe.askLocal
    · exact h

theorem resendWqe (h : s₀.Keeps False s) {x qpn i : Nat} {e w : List Byte} {note : Qp → Qp} :
    s₀.Keeps False (s.resendWqe x qpn i e w note) := by
  unfold State.resendWqe
  split
  · exact h.sendWqe.modQp.askLocal.resendLater
  · exact h.closeWqe.askLocal
  · exact h.localRange.of_waits ‹_›

theorem loseLink (h : s₀.Keeps False s) {x qpn i : Nat} {w : List Byte} : s₀.Keeps False (s.loseLink x qpn i w) :=
  h.closeWqe.qpError

theorem execRdmaNakReceive_keeps (h : s₀.Keeps False s) {x qpn : Nat} {k : NakKind} :
    s₀.KeepsIn (execRdmaNakReceive x qpn k s) := by
  unfold execRdmaNakReceive
  dsimp only
  show s₀.Keeps False _
  refine onOldest h (fun _ _ _ _ h1 => ?_)
  split
  · exact h1.closeWqe
  · exact h1.closeWqe
  · exact h1.loseLink
  · exact ite h1.resendWqe h1.loseLink

theorem execRdmaAckTimeout_keeps (h : s₀.Keeps False s) {x qpn : Nat} : s₀.KeepsIn (execRdmaAckTimeout x qpn s) :=
  h.onOldest (fun _ _ _ _ h1 => ite h1.resendWqe h1.loseLink)

theorem nakIn (h : s₀.Keeps False s) {n qpn : Nat} {k : NakKind} : s₀.Keeps False (s.nakIn n qpn k) := h.emit.ethDrop

theorem inboundAt {f : List Byte → State → State} (h : s₀.Keeps False s)
    (hf : ∀ x1, ∀ u2, s₀.Keeps False u2 → s₀.Keeps False (f x1 u2))
    {n qpn : Nat} :
    s₀.Keeps False (s.inboundAt n qpn f) :=
  ite h (ite (hf _ _ h) h.ethDrop)

theorem windowIn {f : Extent → State → State} (h : s₀.Keeps False s)
    (hf : ∀ x1, ∀ u2, s₀.Keeps False u2 → s₀.Keeps False (f x1 u2))
    {n qpn q w : Nat} {epoch : Half} {off len : Nat} :
    s₀.Keeps False (s.windowIn n qpn q w epoch off len f) := by
  unfold State.windowIn
  refine ite ?_ ?_
  · exact h.nakIn
  · refine ite ?_ ?_
    · exact h.nakIn
    · split
      · exact hf _ _ h
      · exact h.nakIn
      · exact h.modWindow.nakIn

theorem writeIn (h : s₀.Keeps False s) {n qpn q w : Nat} {e : Extent} {x : RdmaIn} :
    s₀.Keeps False (s.writeIn n qpn q w e x) :=
  ite h.requestWrite (ite h (ite (((((ite h h.writeHinted).advancePsn).windowCount).modQp).emit) (((ite h
    h.writeHinted).advancePsn).modQp)))

theorem execRdmaWriteIn_keeps (h : s₀.Keeps False s) {n : Nat} {x : RdmaIn} : s₀.KeepsIn (execRdmaWriteIn n x s) := by
  unfold execRdmaWriteIn
  dsimp only
  show s₀.Keeps False _
  refine inboundAt h (fun _ _ h1 => ?_)
  split
  · exact h1.modQp.nakIn
  · exact (ite h1 h1.modQp).windowIn (fun _ _ h2 => ite h2.modQp.nakIn (ite h2.ethDrop h2.writeIn))

theorem execRdmaReadIn_keeps (h : s₀.Keeps False s) {n qpn : Nat} {rkey : Word} {off len : Nat} :
    s₀.KeepsIn (execRdmaReadIn n qpn rkey off len s) := by
  unfold execRdmaReadIn
  dsimp only
  show s₀.Keeps False _
  refine inboundAt h (fun _ _ h1 => ?_)
  split
  · exact h1.nakIn
  · refine ite ?_ ?_
    · exact h1.nakIn
    · split
      · exact ite h1.requestRead (ite h1.nakIn.ethAsk h1.didRead.emit.advancePsn.ethAsk)
      · exact h1.nakIn.ethAsk

theorem execRdmaSendIn_keeps (h : s₀.Keeps False s) {n qpn : Nat} {bs : List Byte} : s₀.KeepsIn (execRdmaSendIn n qpn bs s) :=
  h.inboundAt (fun _ _ h1 => h1.windowIn (fun _ _ h2 => ite h2.requestWrite (ite h2 (((((ite h2
    h2.writeHinted).windowCount).advancePsn).setQpField).emit))))

theorem execPfcPauseReceive_keeps (h : s₀.Keeps False s) {n : Nat} {paused mask : Byte} :
    s₀.KeepsIn (execPfcPauseReceive n paused mask s) :=
  ite h h.modEth

theorem execCnpReceive_keeps (h : s₀.Keeps False s) {n qpn : Nat} : s₀.KeepsIn (execCnpReceive n qpn s) := ite h h.modQp

/-! #### Queue commands -/

theorem execDoorbell_keeps (h : s₀.Keeps False s) {p : Port} {q j : Nat} {v : Word} :
    s₀.KeepsIn (execDoorbell p q j v s) := by
  unfold execDoorbell
  show s₀.Keeps False _
  split
  · exact ite (ite h.modQueue h) h.pcieDeny
  · exact ite h.modQueue h

theorem writeQueueCtrl (h : s₀.Keeps False s) {q j : Nat} {v : Word} : s₀.Keeps False (s.writeQueueCtrl q j v) := by
  unfold State.writeQueueCtrl
  dsimp only
  refine ite ?_ ?_
  · split
    · exact h.modQueue.modQueue
    · exact h.modQueue.modQueue
    · exact h.modQueue
  · split
    · exact h.modQueue.abortQueue
    · exact h.modQueue.modQueue
    · exact h.modQueue.modQueue
    · exact h.modQueue

theorem execQueueCtrlWrite_keeps (h : s₀.Keeps False s) {p : Port} {q j : Nat} {v : Word} :
    s₀.KeepsIn (execQueueCtrlWrite p q j v s) :=
  ite h.writeQueueCtrl h

theorem execQueueHeadWrite_keeps (h : s₀.Keeps False s) {p : Port} {q j : Nat} {v : Word} :
    s₀.KeepsIn (execQueueHeadWrite p q j v s) :=
  ite h.modQueue h

theorem abortWrite (h : s₀.Keeps False s) {q j : Nat} : s₀.Keeps False (s.abortWrite q j) := ite h.abortQueue h

theorem execQueueAbort_keeps (h : s₀.Keeps False s) {p : Port} {q j : Nat} : s₀.KeepsIn (execQueueAbort p q j s) :=
  ite h.abortWrite h

theorem execQueueResume_keeps (h : s₀.Keeps False s) {p : Port} {q j : Nat} : s₀.KeepsIn (execQueueResume p q j s) :=
  ite h.modQueue h

/-! #### Register values -/

theorem inProgress (h : s₀.Keeps False s) {q st bound : Nat} : s₀.Keeps False (s.inProgress q st bound).2 :=
  ite_snd h.drawNat h
theorem arrayStatus (h : s₀.Keeps False s) {q n : Nat} : s₀.Keeps False (s.arrayStatus q n).2 := h.inProgress
theorem drawSlots (h : s₀.Keeps False s) {q : Nat} : s₀.Keeps False (s.drawSlots q) := ite h.drawn.modQuad h

theorem gatherStatus (h : s₀.Keeps False s) {q : Nat} : s₀.Keeps False (s.gatherStatus q).2 := by
  unfold State.gatherStatus
  dsimp only
  exact h.drawSlots.inProgress

theorem crookStatus (h : s₀.Keeps False s) {q : Nat} : s₀.Keeps False (s.crookStatus q).2 := ite_snd h h.drawn.drawn.drawn

theorem quadNow (h : s₀.Keeps False s) {q o : Nat} : s₀.Keeps False (s.quadNow q o).2 :=
  ite_snd h.arrayStatus (ite_snd h.arrayStatus (ite_snd h.crookStatus (ite_snd h.gatherStatus h)))

theorem gatherSlots (h : s₀.Keeps False s) {d : Nat} : s₀.Keeps False (s.gatherSlots d).2 := by
  unfold State.gatherSlots
  dsimp only
  exact foldl (fun _ h1 _ => h1.drawSlots) h

/-! #### Register reads -/

theorem clearPkg (h : s₀.Keeps False s) {o : Nat} : s₀.Keeps False (s.clearPkg o) :=
  ite h.modLog (ite h.modPower (ite h.modCfg (ite h.modCfg (ite h.modBoot h))))

theorem clearQuad (h : s₀.Keeps False s) {q o : Nat} : s₀.Keeps False (s.clearQuad q o) := h.modQuad

theorem clearCompute (h : s₀.Keeps False s) {d o : Nat} : s₀.Keeps False (s.clearCompute d o) :=
  ite h.same (ite h.modTierDie (ite h.modTierDie (ite h.modTierDie (ite h.modTierDie (ite h.same h)))))

theorem clearHost (h : s₀.Keeps False s) {n o : Nat} : s₀.Keeps False (s.clearHost n o) :=
  ite h.modStu (ite h.modStu (ite h.modHostDie (ite h.modHostDie h)))

theorem clearIo (h : s₀.Keeps False s) {x o : Nat} : s₀.Keeps False (s.clearIo x o) :=
  ite h.modFlashDie (ite h.modLink (ite h.modEth (ite h.modPcie h)))

theorem clearDie (h : s₀.Keeps False s) {d o : Nat} : s₀.Keeps False (s.clearDie d o) :=
  ite h.modDiePower (ite h.modHome (ite h.clearCompute (ite h.clearHost h.clearIo)))

theorem pcieStatus (h : s₀.Keeps False s) {n : Nat} : s₀.Keeps False (s.pcieStatus n).2 :=
  ite_snd h h.drawn.drawn.drawn.modPcie

theorem readPlain (h : s₀.Keeps False s) {off : Nat} : s₀.Keeps False (s.readPlain off).2 := by
  unfold State.readPlain
  dsimp only
  split
  · exact h.clearPkg
  · exact ite_snd h.quadNow.clearQuad h
  · exact h
  · exact h
  · exact ite_snd h.gatherSlots (ite_snd h.pcieStatus h.clearDie)
  · exact h.drawn.emit
  · exact h

theorem drawGated (h : s₀.Keeps False s) {off : Nat} : s₀.Keeps False (s.drawGated off) := by
  unfold State.drawGated
  dsimp only
  split
  · exact h.drawn.modQuad
  · exact h

theorem readLo (h : s₀.Keeps False s) {off : Nat} : s₀.Keeps False (s.readLo off).2 := (ite h.drawGated h).same

theorem readWord (h : s₀.Keeps False s) {off : Nat} : s₀.Keeps False (s.readWord off).2 :=
  ite_snd h (ite_snd h.readLo (ite_snd h h.readPlain))

theorem readWords (h : s₀.Keeps False s) {off n} : s₀.Keeps False (s.readWords off n).2 := by
  induction n generalizing s off with
  | zero => exact h
  | succ n ih => exact ih h.readWord

/-! #### Translation units -/

theorem stuGo {f : State → State} (h : s₀.Keeps False s) (hf : ∀ u1, s₀.Keeps False u1 → s₀.Keeps False (f u1))
    {u op ctx slot : Nat} :
    s₀.Keeps False (s.stuGo u op ctx slot f) :=
  ite h.modStu (ite h.modStu.modStu (hf _ h.modStu))

theorem execSegRead_keeps (h : s₀.Keeps False s) {p : Port} {u ctx slot : Nat} : s₀.KeepsIn (execSegRead p u ctx slot s) :=
  ite (h.stuGo (fun _ h1 => h1.modStu)) h

theorem execSegOpDone_keeps (h : s₀.Keeps False s) {u : Nat} : s₀.KeepsIn (execSegOpDone u s) := by
  unfold execSegOpDone
  dsimp only
  show s₀.Keeps False _
  split
  · exact h.modStu
  · exact h.modStu
  · exact h

theorem installSeg (h : s₀.Keeps False s) {u ctx slot : Nat} : s₀.Keeps False (s.installSeg u ctx slot) :=
  ite h.modStu h.modStu

theorem execSegInstall_keeps (h : s₀.Keeps False s) {p : Port} {u ctx slot : Nat} :
    s₀.KeepsIn (execSegInstall p u ctx slot s) :=
  ite (h.stuGo (fun _ h1 => h1.installSeg)) h

theorem dropEthCopies (h : s₀.Keeps False s) {ctx slot : Nat} : s₀.Keeps False (s.dropEthCopies ctx slot) :=
  foldl (fun _ h1 _ => h1.modEth) h

theorem stopHolders (h : s₀.Keeps False s) {ctx slot : Nat} : s₀.Keeps False (s.stopHolders ctx slot) :=
  foldl (fun _ h1 _ => h1.breakCmd) h

theorem withdrawSeg (h : s₀.Keeps False s) {u ctx slot : Nat} : s₀.Keeps False (s.withdrawSeg u ctx slot) :=
  ite h.modStu ((((foldl (fun _ h1 _ => h1.modQuad) h.modStu).dropEthCopies).stopHolders).closeWindows)

theorem execSegWithdraw_keeps (h : s₀.Keeps False s) {p : Port} {u ctx slot : Nat} :
    s₀.KeepsIn (execSegWithdraw p u ctx slot s) :=
  ite (h.stuGo (fun _ h1 => h1.withdrawSeg)) h

theorem execWithdrawDrained_keeps (h : s₀.Keeps False s) {u : Nat} : s₀.KeepsIn (execWithdrawDrained u s) := by
  unfold execWithdrawDrained
  show s₀.Keeps False _
  split
  · exact h.modStu
  · exact h

theorem execSegLookupMiss_keeps (h : s₀.Keeps False s) {q ctx va : Nat} : s₀.KeepsIn (execSegLookupMiss q ctx va s) :=
  ite h.segMiss h

theorem retryOne (h : s₀.Keeps False s) {p : Nat × Nat × Cmd × Bool} : s₀.Keeps False (s.retryOne p) := by
  unfold State.retryOne
  dsimp only
  refine ite ?_ ?_
  · split
    · exact (h.modQueue.checkMemory.of_eq ‹_›).place
    · exact (h.modQueue.checkMemory.of_eq ‹_›).settleDecode
  · exact h.setCmd

theorem freeRecord (h : s₀.Keeps False s) {u r : Nat} {fail : Bool} : s₀.Keeps False (s.freeRecord u r fail) := h.modStu

theorem execFaultRetry_keeps (h : s₀.Keeps False s) {p : Port} {u r : Nat} : s₀.KeepsIn (execFaultRetry p u r s) :=
  ite (ite (foldl (fun _ h1 _ => h1.retryOne) h.freeRecord) h.modStu) h

theorem execFaultFail_keeps (h : s₀.Keeps False s) {p : Port} {u r : Nat} : s₀.KeepsIn (execFaultFail p u r s) :=
  ite (ite (foldl (fun _ h1 _ => h1.endCmd) h.freeRecord) h.modStu) h

/-! #### The step boundary -/

theorem passBoundary (h : s₀.Keeps False s) {rest : List Nat} {fits : List CalFit} :
    s₀.Keeps False (s.passBoundary rest fits) :=
  ((ite h.modTime.syncOp h.modTime).tierStep).calibrate

theorem execStepBoundary_keeps (h : s₀.Keeps False s) {fits : List CalFit} : s₀.KeepsIn (execStepBoundary fits s) := by
  unfold execStepBoundary
  show s₀.Keeps False _
  split
  · exact h
  · exact ite h.passBoundary h

/-! #### Synchronisation -/

theorem runPlain (h : s₀.Keeps False s) {q j : Nat} {idx : Word} {op : Nat} : s₀.Keeps False (s.runPlain q j idx op) := by
  unfold State.runPlain
  split
  · exact h
  · exact ite h.endCmd h

theorem execSignal_keeps (h : s₀.Keeps False s) {q j : Nat} {idx : Word} : s₀.KeepsIn (execSignal q j idx s) := h.runPlain
theorem execWait_keeps (h : s₀.Keeps False s) {q j : Nat} {idx : Word} : s₀.KeepsIn (execWait q j idx s) := h.runPlain
theorem execFence_keeps (h : s₀.Keeps False s) {q j : Nat} {idx : Word} : s₀.KeepsIn (execFence q j idx s) := h.runPlain
theorem wakeCmd (h : s₀.Keeps False s) {q j : Nat} {c : Cmd} : s₀.Keeps False (s.wakeCmd q j c) := h.modQueue.place
theorem lateWake (h : s₀.Keeps False s) {q : Nat} : s₀.Keeps False (s.lateWake q) := h.modQuad

theorem takeWake (h : s₀.Keeps False s) {q j : Nat} {idx : Word} {w : Wake} : s₀.Keeps False (s.takeWake q j idx w) := by
  unfold State.takeWake
  dsimp only
  split
  · exact ite h.modQuad.wakeCmd h.modQuad.lateWake
  · exact h.modQuad.lateWake

theorem execWakeArrive_keeps (h : s₀.Keeps False s) {q j : Nat} {idx : Word} : s₀.KeepsIn (execWakeArrive q j idx s) := by
  unfold execWakeArrive
  show s₀.Keeps False _
  split
  · exact ite h.takeWake h
  · exact h

theorem timeOut (h : s₀.Keeps False s) {q j : Nat} {c : Cmd} : s₀.Keeps False (s.timeOut q j c) := h.unregister.endCmd

theorem execWaitTimeout_keeps (h : s₀.Keeps False s) {q j : Nat} {idx : Word} : s₀.KeepsIn (execWaitTimeout q j idx s) := by
  unfold execWaitTimeout
  show s₀.Keeps False _
  split
  · exact ite h.timeOut h
  · exact h

theorem sweep (h : s₀.Keeps False s) {d : Nat} : s₀.Keeps False (s.sweep d) := foldl (fun _ h1 _ => h1.wake) h.same
theorem execSweepWake_keeps (h : s₀.Keeps False s) {d : Nat} : s₀.KeepsIn (execSweepWake d s) := ite h.sweep h

theorem execSyncObjectOp_keeps (h : s₀.Keeps False s) {d i : Nat} {ops : List SyncOp} :
    s₀.KeepsIn (execSyncObjectOp d i ops s) :=
  ite (foldl (fun _ h1 _ => h1.syncArrive) h) h

theorem syncOpt (h : s₀.Keeps False s) {obj : Nat} {o : Option SyncOp} : s₀.Keeps False (s.syncOpt obj o) := by
  unfold State.syncOpt
  split
  · exact h.syncArrive
  · exact h

theorem writeSync (h : s₀.Keeps False s) {p : Port} {obj : Nat} {isSet : Bool} {half : WordHalf} {v : Dword} :
    s₀.Keeps False (s.writeSync p obj isSet half v) := by
  unfold State.writeSync
  split
  · exact ite h.syncOpt h
  · exact ite h.syncOpt h
  · exact ite h.syncOpt h
  · exact ite h.syncOpt h.pcieDeny

theorem execDieSyncAdd_keeps (h : s₀.Keeps False s) {p : Port} {d i : Nat} {half : WordHalf} {v : Dword} :
    s₀.KeepsIn (execDieSyncAdd p d i half v s) :=
  ite h.writeSync h

theorem execDieSyncSet_keeps (h : s₀.Keeps False s) {p : Port} {d i : Nat} {half : WordHalf} {v : Dword} :
    s₀.KeepsIn (execDieSyncSet p d i half v s) :=
  ite h.writeSync h

/-! #### Register writes -/

theorem after (h : s₀.Keeps False s) {o} (ho : s₀.KeepsIn o) : s₀.Keeps False (s.after o) := by
  unfold State.after
  split
  · exact ho
  · exact h

theorem writeRstCtrl (h : s₀.Keeps False s) {p : Port} {v : Word} : s₀.Keeps False (s.writeRstCtrl p v) :=
  ite h (ite h.modBoot (ite (h.modBoot.after h.modBoot.execPackageReset_keeps) (ite (h.modBoot.after
    h.modBoot.execComputeDieReset_keeps) (ite (h.modBoot.after h.modBoot.execHostComplexReset_keeps) (ite (h.modBoot.after
    h.modBoot.execQuadReset_keeps) h.modBoot)))))

theorem writeRegionCmd (h : s₀.Keeps False s) {p : Port} {v : Word} : s₀.Keeps False (s.writeRegionCmd p v) :=
  ite h.modTier (ite (h.after h.execRegionLoad_keeps) (ite (h.after h.execRegionErase_keeps) h.regionCmd))

theorem writeTier (h : s₀.Keeps False s) {p : Port} {o : Nat} {v : Word} : s₀.Keeps False (s.writeTier p o v) :=
  ite h.modTier (ite h.modTier (ite h.modTier (ite (h.after h.execSchedEnableWrite_keeps) (ite (h.after
    h.execSchedTailWrite_keeps) (ite h.writeRegionCmd (ite h.modTier (ite h.modTier (ite (h.after
    h.execObjectTableWrite_keeps) h))))))))

theorem writePkg (h : s₀.Keeps False s) {p : Port} {o : Nat} {v : Word} : s₀.Keeps False (s.writePkg p o v) :=
  ite h.modFabric (ite (h.after h.execStepBoundaryPush_keeps) (ite h.modTime (ite h.modTime (ite h.modLog (ite h.modLog
    (ite (h.after h.execErrLogCtrlWrite_keeps) (ite (h.after h.execErrLogReadWrite_keeps) (ite (h.after
    h.execPwrModeWrite_keeps) (ite h.modPower (ite h.modPower (ite h.writeTier h)))))))))))

theorem writeQueueCmd (h : s₀.Keeps False s) {p : Port} {q j : Nat} {v : Word} : s₀.Keeps False (s.writeQueueCmd p q j v) :=
  ite ((ite (h.after h.execQueueAbort_keeps) h).after ((ite (h.after h.execQueueAbort_keeps) h).execQueueResume_keeps))
    (ite (h.after h.execQueueAbort_keeps) h)

theorem writeQueue (h : s₀.Keeps False s) {p : Port} {q j o : Nat} {v : Word} : s₀.Keeps False (s.writeQueue p q j o v) :=
  ite (h.after h.execQueueCtrlWrite_keeps) (ite (h.after h.execQueueHeadWrite_keeps) (ite h.writeQueueCmd h.modQueue))

theorem writeWindow (h : s₀.Keeps False s) {p : Port} {q w o : Nat} {v : Word} :
    s₀.Keeps False (s.writeWindow p q w o v) := by
  unfold State.writeWindow
  refine ite ?_ ?_
  · exact h.after h.execWindowCtrlWrite_keeps
  · split
    · exact h.after h.execWindowCounterWrite_keeps
    · exact h.modWindow

theorem writeQuad (h : s₀.Keeps False s) {p : Port} {q o : Nat} {v : Word} : s₀.Keeps False (s.writeQuad p q o v) :=
  ite h.modQuad (ite h.modQuad (ite h.writeQueue (ite h.modQuad (ite h.writeWindow h))))

theorem writeSegCmd (h : s₀.Keeps False s) {p : Port} {u : Nat} {v : Word} : s₀.Keeps False (s.writeSegCmd p u v) :=
  ite (ite (h.after h.execSegRead_keeps) (ite (h.after h.execSegInstall_keeps) (ite (h.after h.execSegWithdraw_keeps)
    h.modStu))) h.modStu

theorem writeResolve (h : s₀.Keeps False s) {p : Port} {u : Nat} {v : Word} : s₀.Keeps False (s.writeResolve p u v) :=
  ite (ite (h.after h.execFaultFail_keeps) (h.after h.execFaultRetry_keeps)) h.modStu

theorem writeStu (h : s₀.Keeps False s) {p : Port} {u o : Nat} {v : Word} : s₀.Keeps False (s.writeStu p u o v) :=
  ite h.modStu (ite h.writeSegCmd (ite h.writeResolve (ite h.modStu h)))

theorem writeProbe (h : s₀.Keeps False s) {n : Nat} {v : Word} : s₀.Keeps False (s.writeProbe n v) := h.modHome

theorem writeHome (h : s₀.Keeps False s) {n o : Nat} {v : Word} : s₀.Keeps False (s.writeHome n o v) :=
  ite h.modHome (ite h.writeProbe h)

theorem writeFiSeed (h : s₀.Keeps False s) {p : Port} {n : Nat} {v : Word} : s₀.Keeps False (s.writeFiSeed p n v) := h.modLink

theorem writeIo (h : s₀.Keeps False s) {p : Port} {x o : Nat} {v : Word} : s₀.Keeps False (s.writeIo p x o v) :=
  ite h.modEth (ite h.modQpReg (ite h.modQpReg (ite (h.after h.execQpMove_keeps) (ite (h.after h.execEthQpDb_keeps) h))))

theorem writeDie (h : s₀.Keeps False s) {p : Port} {d o : Nat} {v : Word} : s₀.Keeps False (s.writeDie p d o v) :=
  ite h.writeHome (ite h (ite (ite h.writeStu (ite h.same h)) h.writeIo))

theorem writeGroup (h : s₀.Keeps False s) {p : Port} {obj r : Nat} {half : WordHalf} {v : Dword} :
    s₀.Keeps False (s.writeGroup p obj r half v) :=
  ite (h.after h.execDieSyncAdd_keeps) (ite (h.after h.execDieSyncSet_keeps) h)

theorem writeReset (h : s₀.Keeps False s) {p : Port} {o : Nat} {v : Word} : s₀.Keeps False (s.writeReset p o v) :=
  ite h.writeRstCtrl (ite (h.after h.execRstCauseFatalClear_keeps) h)

theorem writeWord (h : s₀.Keeps False s) {p : Port} {off : Nat} {v : Word} : s₀.Keeps False (s.writeWord p off v) := by
  unfold State.writeWord
  split
  · exact h.pcieDeny
  · split
    · exact ite h.writeReset (ite h.writePkg h)
    · exact ite h.writeQuad h
    · exact ite (h.after h.execDoorbell_keeps) h
    · exact h.writeGroup
    · split
      · exact h.after h.execAxlFiCtrlWrite_keeps
      · exact ite h.writeFiSeed h
      · exact ite h.writeDie h
    · exact ite h.emit h
    · exact h

theorem writeWords (h : s₀.Keeps False s) {p off l} : s₀.Keeps False (s.writeWords p off l) := by
  induction l generalizing s off with
  | nil => exact h
  | cons v l ih => exact ih h.writeWord

/-! #### Loads and stores -/

theorem cfgLoad (h : s₀.Keeps False s) {c off n : Nat} : s₀.Keeps False (s.cfgLoad c off n) := by
  unfold State.cfgLoad
  dsimp only
  refine ite ?_ ?_
  · exact h.report
  · refine ite ?_ ?_
    · exact h.report
    · split
      · exact h.drawn.emit.report
      · exact h.readWords.report

theorem cfgStore (h : s₀.Keeps False s) {c off : Nat} {bs : List Byte} : s₀.Keeps False (s.cfgStore c off bs) := by
  unfold State.cfgStore
  dsimp only
  refine ite ?_ ?_
  · exact h.report
  · refine ite ?_ ?_
    · exact h.report
    · refine report ?_
      split
      · exact h.emit
      · exact ite h.writeGroup h.writeWord
      · exact ite h.writeWord.writeWord h.writeWord

theorem uncachedLoad (h : s₀.Keeps False s) {c pa n : Nat} : s₀.Keeps False (s.uncachedLoad c pa n) :=
  ite h.requestRead.report (ite h.didRead.countUncached.report h.didRead.countUncached.report)

theorem cachedLoad (h : s₀.Keeps False s) {c pa n : Nat} : s₀.Keeps False (s.cachedLoad c pa n) := by
  unfold State.cachedLoad
  dsimp only
  split
  · exact (h.hostFills.of_eq ‹_›).report
  · exact (h.hostFills.of_eq ‹_›).report
  · exact ite (((h.hostFills.of_eq ‹_›).touchL1ds).report) (((h.hostFills.of_eq ‹_›).touchL1ds).report)

theorem fetchLine (h : s₀.Keeps False s) {c line} : s₀.Keeps False (s.fetchLine c line).2 := by
  unfold State.fetchLine
  split
  · exact h
  · split
    · split
      · exact h.hostFill.of_eq ‹_›
      · exact (h.hostFill.of_eq ‹_›).fillL1i
    · exact h.hostFill

theorem fetchLines (h : s₀.Keeps False s) {c l} : s₀.Keeps False (s.fetchLines c l).2 := by
  induction l generalizing s with
  | nil => exact h
  | cons x l ih =>
    unfold State.fetchLines
    split
    · exact ih (h.fetchLine.of_eq ‹_›)
    · exact h.fetchLine

theorem cachedFetch (h : s₀.Keeps False s) {c pa n : Nat} : s₀.Keeps False (s.cachedFetch c pa n) := by
  unfold State.cachedFetch
  split
  · exact (h.fetchLines.of_eq ‹_›).report
  · exact (h.fetchLines.of_eq ‹_›).report
  · exact (h.fetchLines.of_eq ‹_›).report

theorem fenceI (h : s₀.Keeps False s) {c : Nat} {o : LoadKind} : s₀.Keeps False (s.fenceI c o) := by
  unfold State.fenceI
  split
  · exact h.modCore
  · exact h

theorem memLoad (h : s₀.Keeps False s) {c pa n : Nat} {pbmt : Pbmt} {k : LoadKind} :
    s₀.Keeps False (s.memLoad c pa n pbmt k) := by
  unfold State.memLoad
  split
  · exact h.report
  · refine ite ?_ ?_
    · exact h.uncachedLoad
    · split
      · exact h.cachedFetch
      · exact h.cachedLoad

theorem deliver (h : s₀.Keeps False s) {c : Nat} {o : LoadKind} : s₀.Keeps False (s.deliver c o) := by
  unfold State.deliver
  split
  · split
    · exact h.modCore.countEvent
    · exact h
  · exact h

theorem coreLoad (h : s₀.Keeps False s) {c : Nat} {a : CoreAt} {n : Nat} {how : LoadHow} :
    s₀.Keeps False (s.coreLoad c a n how) :=
  (ite h.fenceI.report (ite h.fenceI.cfgLoad h.fenceI.meets.memLoad)).deliver

theorem execHostLoad_keeps (h : s₀.Keeps False s) {c : Nat} {a : CoreAt} {n : Nat} {how : LoadHow} :
    s₀.KeepsIn (execHostLoad c a n how s) :=
  ite h.coreLoad h

theorem uncachedStore (h : s₀.Keeps False s) {c pa : Nat} {bs : List Byte} : s₀.Keeps False (s.uncachedStore c pa bs) :=
  ite h.requestWrite.report (ite h.countUncached.report h.countUncached.streamRange.passPorts.writePhys.report)

theorem cachedStore (h : s₀.Keeps False s) {c pa : Nat} {bs : List Byte} : s₀.Keeps False (s.cachedStore c pa bs) := by
  unfold State.cachedStore
  split
  · exact (h.hostFills.of_eq ‹_›).report
  · exact (h.hostFills.of_eq ‹_›).report
  · exact (((h.hostFills.of_eq ‹_›).touchL1ds).l2Write).report

theorem coreStore (h : s₀.Keeps False s) {c pa : Nat} {bs : List Byte} {pbmt : Pbmt} :
    s₀.Keeps False (s.coreStore c pa bs pbmt) := by
  unfold State.coreStore
  refine ite ?_ ?_
  · exact h.report
  · refine ite ?_ ?_
    · exact h.cfgStore
    · split
      · exact h.report
      · exact ite h.report (ite h.cachedStore h.uncachedStore)

theorem storeVector (h : s₀.Keeps False s) {c pa : Nat} {bs : List Byte} {pbmt : Pbmt} :
    s₀.Keeps False (s.storeVector c pa bs pbmt) :=
  ite h.coreStore.countEvent h.coreStore

theorem execHostStore_keeps (h : s₀.Keeps False s) {c pa : Nat} {src : StoreSrc} {pbmt : Pbmt} :
    s₀.KeepsIn (execHostStore c pa src pbmt s) := by
  unfold execHostStore
  show s₀.Keeps False _
  refine ite ?_ ?_
  · exact h
  · split
    · exact h.coreStore
    · exact h.storeVector

/-! #### Management messages -/

theorem whenUp {f : State → State} (h : s₀.Keeps False s) (hf : ∀ u1, s₀.Keeps False u1 → s₀.Keeps False (f u1)) {p : Port} :
    s₀.Keeps False (s.whenUp p f) :=
  ite (hf _ h) h

theorem whenReadable {f : State → State} (h : s₀.Keeps False s) (hf : ∀ u1, s₀.Keeps False u1 → s₀.Keeps False (f u1))
    {p : Port} :
    s₀.Keeps False (s.whenReadable p f) :=
  ite (hf _ h) h

theorem replyWords (h : s₀.Keeps False s) {p : Port} {ws : List Word} : s₀.Keeps False (s.replyWords p ws) := h.reply
theorem replyBytes (h : s₀.Keeps False s) {p : Port} {bs : List Byte} : s₀.Keeps False (s.replyBytes p bs) := h.reply
theorem execGetInfo_keeps (h : s₀.Keeps False s) {p : Port} : s₀.KeepsIn (execGetInfo p s) :=
  h.whenUp (fun _ h1 => h1.replyWords)

theorem execRegRead_keeps (h : s₀.Keeps False s) {p : Port} {off n : Nat} : s₀.KeepsIn (execRegRead p off n s) :=
  h.whenReadable (fun _ h1 => ite h1.replyCode (ite h1.replyCode h1.readWords.replyWords))

theorem execRegWrite_keeps (h : s₀.Keeps False s) {p : Port} {off : Nat} {vs : List Word} :
    s₀.KeepsIn (execRegWrite p off vs s) :=
  h.whenOpen (fun _ h1 => h1.withSem (fun _ h2 => ite h2.replyCode (ite h2.replyCode h2.writeWords.replyCode)))

theorem readLogAt (h : s₀.Keeps False s) {p : Port} {i : Word} : s₀.Keeps False (s.readLogAt p i) :=
  ite h.replyCode (ite h.replyCode h.replyBytes)

theorem execLogRead_keeps (h : s₀.Keeps False s) {p : Port} {src : LogSource} : s₀.KeepsIn (execLogRead p src s) := by
  unfold execLogRead
  show s₀.Keeps False _
  refine whenReadable h (fun _ h1 => ?_)
  split
  · exact h1.readLogAt
  · exact ite h1.replyCode h1.replyBytes

theorem execAttest_keeps (h : s₀.Keeps False s) {p : Port} {nonce : List Byte} : s₀.KeepsIn (execAttest p nonce s) :=
  h.whenUp (fun _ h1 => ite h1.replyCode h1.replyBytes)

theorem execGetCert_keeps (h : s₀.Keeps False s) {p : Port} : s₀.KeepsIn (execGetCert p s) :=
  h.whenUp (fun _ h1 => h1.replyBytes)

theorem execDebug_keeps (h : s₀.Keeps False s) {p : Port} {hart : Nat} {req : HartAccess} :
    s₀.KeepsIn (execDebug p hart req s) :=
  h.whenOpen (fun _ h1 => h1.withSem (fun _ h2 => ite h2.replyCode (ite h2.replyCode h2.hartAccess.replyWords)))

/-! #### PCIe -/

theorem pcieRead (h : s₀.Keeps False s) {n pa len : Nat} : s₀.Keeps False (s.pcieRead n pa len) :=
  ite h.pcieDeny.emit (ite h.requestRead (ite h.didRead.emit h.didRead.emit))

theorem pcieConfig (h : s₀.Keeps False s) {n off : Nat} {bs : List Byte} : s₀.Keeps False (s.pcieConfig n off bs) :=
  ite h.pcieDeny (ite (ite (ite h.modQueue h) h.pcieDeny) (ite (ite h (ite h.writeSync (ite h.writeSync h.pcieDeny)))
    h.pcieDeny))

theorem pcieWrite (h : s₀.Keeps False s) {n pa : Nat} {bs : List Byte} : s₀.Keeps False (s.pcieWrite n pa bs) :=
  ite h.pcieConfig (ite h.pcieDeny (ite h.requestWrite (ite h (ite h.writeHinted h))))

theorem pcieMsi (h : s₀.Keeps False s) {n hart : Nat} {file : Bool} {identity : Nat} :
    s₀.Keeps False (s.pcieMsi n hart file identity) :=
  ite h.pcieDeny (ite h h.modCore)

theorem execPcieMemRequest_keeps (h : s₀.Keeps False s) {n : Nat} {r : PcieRequest} :
    s₀.KeepsIn (execPcieMemRequest n r s) := by
  unfold execPcieMemRequest
  show s₀.Keeps False _
  refine ite ?_ ?_
  · exact h
  · split
    · exact h.pcieRead
    · exact h.pcieWrite
    · exact h.pcieMsi

/-! #### Register commands -/

theorem pcieNoRead (h : s₀.Keeps False s) {n : Nat} : s₀.Keeps False (s.pcieNoRead n) := h.pcieDeny.emit

theorem portRead (h : s₀.Keeps False s) {p : Port} {off : Nat} : s₀.Keeps False (s.portRead p off) := by
  unfold State.portRead
  dsimp only
  split
  · exact h.pcieNoRead
  · exact ite h.readWord.same h

theorem execCounterLoRead_keeps (h : s₀.Keeps False s) {p : Port} {off : Nat} : s₀.KeepsIn (execCounterLoRead p off s) :=
  ite h.portRead h

theorem execRcRegisterRead_keeps (h : s₀.Keeps False s) {p : Port} {off : Nat} : s₀.KeepsIn (execRcRegisterRead p off s) :=
  ite h h.portRead

theorem execRegisterWrite_keeps (h : s₀.Keeps False s) {p : Port} {off : Nat} {v : Word} :
    s₀.KeepsIn (execRegisterWrite p off v s) :=
  ite h.writeWord h

/-! #### Resilience -/

theorem blame (h : s₀.Keeps False s) {q n : Nat} : s₀.Keeps False (s.blame q n) := ite h.modQuad.modQuad.logErr h.modQuad
theorem execMarginWarning_keeps (h : s₀.Keeps False s) {q : Nat} : s₀.KeepsIn (execMarginWarning q s) := ite h.blame h
theorem execSuspicionDecay_keeps (h : s₀.Keeps False s) : s₀.KeepsIn (execSuspicionDecay s) := ite h h.besides

theorem exhaust (h : s₀.Keeps False s) {q j : Nat} {c : Cmd} {source code check passes : Nat} :
    s₀.Keeps False (s.exhaust q j c source code check passes) :=
  h.blame.logErr.breakCmd

theorem markUnit (h : s₀.Keeps False s) {q j : Nat} {c : Cmd} {stn unit check : Nat} :
    s₀.Keeps False (s.markUnit q j c stn unit check) :=
  ite h.modQuad.modQuad.exhaust (ite h.modQuad.modQuad.blame.logErr.setCmd h.modQuad.modQuad.exhaust)

theorem execReplayUnit_keeps (h : s₀.Keeps False s) {q j : Nat} {idx : Word} {stn unit check : Nat} :
    s₀.KeepsIn (execReplayUnit q j idx stn unit check s) := by
  unfold execReplayUnit
  show s₀.Keeps False _
  split
  · exact ite h.fatal (ite h.markUnit h)
  · exact h

theorem badAdd (h : s₀.Keeps False s) {q j : Nat} {idx : Word} {sec : Nat} : s₀.Keeps False (s.badAdd q j idx sec) := by
  unfold State.badAdd
  dsimp only
  split
  · exact ite h.setPoison.exhaust h.setPoison
  · exact h.setPoison

theorem execSectorAdd_keeps (h : s₀.Keeps False s) {a : AddAt} {fmt : Nat} {mask : Dword} {incs : List Word} {err : Bool} :
    s₀.KeepsIn (execSectorAdd a fmt mask incs err s) :=
  ite (ite h.badAdd (ite h h.writePhys)) (ite h.requestWrite h)

theorem scrubWord (h : s₀.Keeps False s) {pa : Nat} {found : EccFinding} : s₀.Keeps False (s.scrubWord pa found) := by
  unfold State.scrubWord
  dsimp only
  split
  · exact h
  · refine ite ?_ ?_
    · exact h
    · split
      · exact h
      · exact h
      · exact h
      · exact ite h.logErr h
      · exact h.logErr
      · exact h.setPoison.logErr

theorem scrub (h : s₀.Keeps False s) {pa : Nat} {found : EccFinding} : s₀.Keeps False (s.scrub pa found) := by
  unfold State.scrub
  dsimp only
  refine ite ?_ ?_
  · exact h.controlError
  · refine ite ?_ ?_
    · exact h.scrubWord
    · split
      · exact ite h.scrubCache h.scrubWord
      · split
        · split
          · exact ite h.scrubExt h.scrubWord
          · exact h.scrubWord
        · exact h.scrubWord

theorem execScrubRead_keeps (h : s₀.Keeps False s) {pa : Nat} {found : EccFinding} : s₀.KeepsIn (execScrubRead pa found s) :=
  ite h h.scrub

/-! ### The commands -/

end State.Keeps

/-- The three commands that change the fused keys or the minimum security version (17_configuration_and_security.md R455). -/
def isKeyOp : Instr → Bool
  | .keyFuse .. => true
  | .keyRevoke .. => true
  | .keySvnRaise .. => true
  | _ => false

/-- Every other command answers a next state and keeps the queue, the keys, the version and the canonical form. -/
theorem State.Keeps.exec_keeps {s₀ s : State} (h : s₀.Keeps False s) : ∀ c : Instr, isKeyOp c = false → s₀.KeepsIn (exec c s)
  | .doorbell .., _ => h.execDoorbell_keeps
  | .queueCtrlWrite .., _ => h.execQueueCtrlWrite_keeps
  | .queueHeadWrite .., _ => h.execQueueHeadWrite_keeps
  | .queueAbort .., _ => h.execQueueAbort_keeps
  | .queueResume .., _ => h.execQueueResume_keeps
  | .descriptorFetch .., _ => h.execDescriptorFetch_keeps
  | .commandDecode .., _ => h.execCommandDecode_keeps
  | .segLookupMiss .., _ => h.execSegLookupMiss_keeps
  | .commandStart .., _ => h.execCommandStart_keeps
  | .stationRelease .., _ => h.execStationRelease_keeps
  | .commandComplete .., _ => h.execCommandComplete_keeps
  | .move .., _ => h.execMove_keeps
  | .gemm .., _ => h.execGemm_keeps
  | .gemmT .., _ => h.execGemmT_keeps
  | .gemv .., _ => h.execGemv_keeps
  | .gatherPool .., _ => h.execGatherPool_keeps
  | .scatterAdd .., _ => h.execScatterAdd_keeps
  | .vecop .., _ => h.execVecop_keeps
  | .normBack .., _ => h.execNormBack_keeps
  | .softmaxBack .., _ => h.execSoftmaxBack_keeps
  | .send .., _ => h.execSend_keeps
  | .inlineSend .., _ => h.execInlineSend_keeps
  | .signal .., _ => h.execSignal_keeps
  | .wait .., _ => h.execWait_keeps
  | .fence .., _ => h.execFence_keeps
  | .prefetchHint .., _ => h.execPrefetchHint_keeps
  | .migrate .., _ => h.execMigrate_keeps
  | .wakeArrive .., _ => h.execWakeArrive_keeps
  | .waitTimeout .., _ => h.execWaitTimeout_keeps
  | .sweepWake .., _ => h.execSweepWake_keeps
  | .syncObjectOp .., _ => h.execSyncObjectOp_keeps
  | .dieSyncAdd .., _ => h.execDieSyncAdd_keeps
  | .dieSyncSet .., _ => h.execDieSyncSet_keeps
  | .replayUnit .., _ => h.execReplayUnit_keeps
  | .sectorAdd .., _ => h.execSectorAdd_keeps
  | .segRead .., _ => h.execSegRead_keeps
  | .segInstall .., _ => h.execSegInstall_keeps
  | .segWithdraw .., _ => h.execSegWithdraw_keeps
  | .segOpDone .., _ => h.execSegOpDone_keeps
  | .withdrawDrained .., _ => h.execWithdrawDrained_keeps
  | .faultRetry .., _ => h.execFaultRetry_keeps
  | .faultFail .., _ => h.execFaultFail_keeps
  | .windowCtrlWrite .., _ => h.execWindowCtrlWrite_keeps
  | .windowCounterWrite .., _ => h.execWindowCounterWrite_keeps
  | .packetDeliver .., _ => h.execPacketDeliver_keeps
  | .packetForward .., _ => h.execPacketForward_keeps
  | .ackReceive .., _ => h.execAckReceive_keeps
  | .nackReceive .., _ => h.execNackReceive_keeps
  | .packetDeadline .., _ => h.execPacketDeadline_keeps
  | .flitReceive .., _ => h.execFlitReceive_keeps
  | .replayRequest .., _ => h.execReplayRequest_keeps
  | .replayTimeout .., _ => h.execReplayTimeout_keeps
  | .linkLaneFail .., _ => h.execLinkLaneFail_keeps
  | .linkRetrainTimeout .., _ => h.execLinkRetrainTimeout_keeps
  | .linkTrainRetry .., _ => h.execLinkTrainRetry_keeps
  | .linkTrained .., _ => h.execLinkTrained_keeps
  | .axlFiCtrlWrite .., _ => h.execAxlFiCtrlWrite_keeps
  | .bridgeLaneFail .., _ => h.execBridgeLaneFail_keeps
  | .bridgeRetrainStart .., _ => h.execBridgeRetrainStart_keeps
  | .bridgeRetrainDone .., _ => h.execBridgeRetrainDone_keeps
  | .bridgeRetrainLong .., _ => h.execBridgeRetrainLong_keeps
  | .bridgeLost .., _ => h.execBridgeLost_keeps
  | .clockFault .., _ => h.execClockFault_keeps
  | .rdShared .., _ => h.execRdShared_keeps
  | .rdOwn .., _ => h.execRdOwn_keeps
  | .upgrade .., _ => h.execUpgrade_keeps
  | .rdOnce .., _ => h.execRdOnce_keeps
  | .wrFull .., _ => h.execWrFull_keeps
  | .wrPart .., _ => h.execWrPart_keeps
  | .atomic .., _ => h.execAtomic_keeps
  | .cmo .., _ => h.execCmo_keeps
  | .snpShr .., _ => h.execSnpShr_keeps
  | .snpOwn .., _ => h.execSnpOwn_keeps
  | .snpInv .., _ => h.execSnpInv_keeps
  | .snpOnce .., _ => h.execSnpOnce_keeps
  | .snpCln .., _ => h.execSnpCln_keeps
  | .rspState .., _ => h.execRspState_keeps
  | .rspInwb .., _ => h.execRspInwb_keeps
  | .cmp .., _ => h.execCmp_keeps
  | .cmpAck .., _ => h.execCmpAck_keeps
  | .retry .., _ => h.execRetry_keeps
  | .grant .., _ => h.execGrant_keeps
  | .wbAck .., _ => h.execWbAck_keeps
  | .datHome .., _ => h.execDatHome_keeps
  | .datFwd .., _ => h.execDatFwd_keeps
  | .datSnp .., _ => h.execDatSnp_keeps
  | .datInstall .., _ => h.execDatInstall_keeps
  | .wbDirty .., _ => h.execWbDirty_keeps
  | .wbClean .., _ => h.execWbClean_keeps
  | .wbMove .., _ => h.execWbMove_keeps
  | .snoopTimeout .., _ => h.execSnoopTimeout_keeps
  | .amo .., _ => h.execAmo_keeps
  | .amocas .., _ => h.execAmocas_keeps
  | .lr .., _ => h.execLr_keeps
  | .sc .., _ => h.execSc_keeps
  | .lrReservationExpire .., _ => h.execLrReservationExpire_keeps
  | .cboClean _ _ o, _ => h.execCboClean_keeps (o := o)
  | .cboFlush _ _ o, _ => h.execCboFlush_keeps (o := o)
  | .cboInval _ _ o _, _ => h.execCboInval_keeps (o := o)
  | .cboZero _ _ o, _ => h.execCboZero_keeps (o := o)
  | .prefetchR .., _ => h.execPrefetchR_keeps
  | .prefetchW .., _ => h.execPrefetchW_keeps
  | .timerCompare .., _ => h.execTimerCompare_keeps
  | .streamRunTimeout .., _ => h.execStreamRunTimeout_keeps
  | .extErrorWindowExpire .., _ => h.execExtErrorWindowExpire_keeps
  | .scrubRead .., _ => h.execScrubRead_keeps
  | .promotionLands .., _ => h.execPromotionLands_keeps
  | .writeGroupTimeout .., _ => h.execWriteGroupTimeout_keeps
  | .pageProgrammed .., _ => h.execPageProgrammed_keeps
  | .programFailure .., _ => h.execProgramFailure_keeps
  | .garbageCollection .., _ => h.execGarbageCollection_keeps
  | .mapCheckpoint .., _ => h.execMapCheckpoint_keeps
  | .objectTableWrite .., _ => h.execObjectTableWrite_keeps
  | .objectEvictDone, _ => h.execObjectEvictDone_keeps
  | .schedEnableWrite .., _ => h.execSchedEnableWrite_keeps
  | .schedTailWrite .., _ => h.execSchedTailWrite_keeps
  | .schedEntryActivate, _ => h.execSchedEntryActivate_keeps
  | .protectionExpire .., _ => h.execProtectionExpire_keeps
  | .regionLoad .., _ => h.execRegionLoad_keeps
  | .regionErase .., _ => h.execRegionErase_keeps
  | .regionOpDone .., _ => h.execRegionOpDone_keeps
  | .droneSyncExchange .., _ => h.execDroneSyncExchange_keeps
  | .droneLoad .., _ => h.execDroneLoad_keeps
  | .rootElection .., _ => h.execRootElection_keeps
  | .droneFreeRun, _ => h.execDroneFreeRun_keeps
  | .stepBoundaryPush .., _ => h.execStepBoundaryPush_keeps
  | .stepBoundary .., _ => h.execStepBoundary_keeps
  | .suspicionDecay, _ => h.execSuspicionDecay_keeps
  | .pwrModeWrite .., _ => h.execPwrModeWrite_keeps
  | .modeStep .., _ => h.execModeStep_keeps
  | .modeChangeAbandon, _ => h.execModeChangeAbandon_keeps
  | .energyInterval .., _ => h.execEnergyInterval_keeps
  | .droopTrip .., _ => h.execDroopTrip_keeps
  | .droopRelease .., _ => h.execDroopRelease_keeps
  | .vrAlert .., _ => h.execVrAlert_keeps
  | .floorExit, _ => h.execFloorExit_keeps
  | .thermalSample .., _ => h.execThermalSample_keeps
  | .thermalTrip .., _ => h.execThermalTrip_keeps
  | .ceMergeExpire .., _ => h.execCeMergeExpire_keeps
  | .recordToLog, _ => h.execRecordToLog_keeps
  | .errLogCtrlWrite .., _ => h.execErrLogCtrlWrite_keeps
  | .errLogReadWrite .., _ => h.execErrLogReadWrite_keeps
  | .getInfo .., _ => h.execGetInfo_keeps
  | .regRead .., _ => h.execRegRead_keeps
  | .regWrite .., _ => h.execRegWrite_keeps
  | .semAcquire .., _ => h.execSemAcquire_keeps
  | .semRenew .., _ => h.execSemRenew_keeps
  | .semRelease .., _ => h.execSemRelease_keeps
  | .leaseExpire, _ => h.execLeaseExpire_keeps
  | .txnBegin .., _ => h.execTxnBegin_keeps
  | .txnStage .., _ => h.execTxnStage_keeps
  | .txnRead .., _ => h.execTxnRead_keeps
  | .txnCommit .., _ => h.execTxnCommit_keeps
  | .txnRollback .., _ => h.execTxnRollback_keeps
  | .txnAutoRollback, _ => h.execTxnAutoRollback_keeps
  | .txnQuiet, _ => h.execTxnQuiet_keeps
  | .txnApply, _ => h.execTxnApply_keeps
  | .storeRead .., _ => h.execStoreRead_keeps
  | .storeErase .., _ => h.execStoreErase_keeps
  | .storeWrite .., _ => h.execStoreWrite_keeps
  | .storeFinish .., _ => h.execStoreFinish_keeps
  | .logRead .., _ => h.execLogRead_keeps
  | .attest .., _ => h.execAttest_keeps
  | .getCert .., _ => h.execGetCert_keeps
  | .debug .., _ => h.execDebug_keeps
  | .packageReset .., _ => h.execPackageReset_keeps
  | .computeDieReset .., _ => h.execComputeDieReset_keeps
  | .hostComplexReset .., _ => h.execHostComplexReset_keeps
  | .hostResetRelease, _ => h.execHostResetRelease_keeps
  | .quadReset .., _ => h.execQuadReset_keeps
  | .dieResetDone .., _ => h.execDieResetDone_keeps
  | .bootStage .., _ => h.execBootStage_keeps
  | .rstCauseFatalClear .., _ => h.execRstCauseFatalClear_keeps
  | .ethQpDb .., _ => h.execEthQpDb_keeps
  | .qpMove .., _ => h.execQpMove_keeps
  | .qpMoveError .., _ => h.execQpMoveError_keeps
  | .wqeWrite .., _ => h.execWqeWrite_keeps
  | .wqeRead .., _ => h.execWqeRead_keeps
  | .wqeSend .., _ => h.execWqeSend_keeps
  | .rdmaNakReceive .., _ => h.execRdmaNakReceive_keeps
  | .rdmaWriteIn .., _ => h.execRdmaWriteIn_keeps
  | .rdmaReadIn .., _ => h.execRdmaReadIn_keeps
  | .rdmaSendIn .., _ => h.execRdmaSendIn_keeps
  | .pcieMemRequest .., _ => h.execPcieMemRequest_keeps
  | .counterLoRead .., _ => h.execCounterLoRead_keeps
  | .rcRegisterRead .., _ => h.execRcRegisterRead_keeps
  | .registerWrite .., _ => h.execRegisterWrite_keeps
  | .packageResetRelease .., _ => h.execPackageResetRelease_keeps
  | .hostLoad .., _ => h.execHostLoad_keeps
  | .hostStore .., _ => h.execHostStore_keeps
  | .marginWarning .., _ => h.execMarginWarning_keeps
  | .lrSnoopDelayEnd .., _ => h.execLrSnoopDelayEnd_keeps
  | .rdmaResponseReceive .., _ => h.execRdmaResponseReceive_keeps
  | .rdmaAckTimeout .., _ => h.execRdmaAckTimeout_keeps
  | .pfcPauseReceive .., _ => h.execPfcPauseReceive_keeps
  | .cnpReceive .., _ => h.execCnpReceive_keeps
  | .bypassReadDone .., _ => h.execBypassReadDone_keeps

namespace State.Tidy

variable {s₀ s t : State}

theorem keeps (h : s₀.Tidy s) (hk : s.Keeps False t) : s₀.Tidy t := ⟨hk.1.1.trans h.1, fun hwf => hk.1.2 (h.2 hwf)⟩

theorem replyCode (h : s₀.Tidy s) {p : Port} {code : Nat} : s₀.Tidy (s.replyCode p code) :=
  h.keeps (State.Keeps.refl s).replyCode

theorem ite {c : Prop} {_ : Decidable c} (hs : s₀.Tidy s) (ht : s₀.Tidy t) : s₀.Tidy (if c then s else t) := by
  split
  · exact hs
  · exact ht

/-- A signed operation is refused, or leaves what its effect leaves. -/
theorem withKeyOp {p : Port} {signer : Nat} {msg sig : List Byte} {f : State → State} (hf : s₀.Tidy (f s)) (h : s₀.Tidy s) :
    s₀.Tidy (s.withKeyOp p signer msg sig f) := ite (ite (ite hf h.replyCode) h.replyCode) h

end State.Tidy

/-- A key command leaves the queue and memory as they were. -/
theorem exec_keyOp_tidy (s : State) : ∀ c : Instr, isKeyOp c = true → ∃ t, exec c s = .next t ∧ s.Tidy t := by
  have h : s.Tidy s := (State.Keeps.refl (marks := False) s).1
  have hset : ∀ f, s.Tidy (s.modCfg f) := fun _ => h
  intro c hc
  cases c with
  | keyFuse => exact ⟨_, rfl, .withKeyOp (.ite h.replyCode (.ite h.replyCode (hset _).replyCode)) h⟩
  | keyRevoke => exact ⟨_, rfl, .withKeyOp (.ite h.replyCode (.ite h.replyCode (hset _).replyCode)) h⟩
  | keySvnRaise => exact ⟨_, rfl, .withKeyOp (.ite h.replyCode (.ite h.replyCode (hset _).replyCode)) h⟩
  | _ => cases hc

theorem State.KeepsIn.next {s : State} {o : Host.Outcome State Fault Refusal} (h : s.KeepsIn o) :
    ∃ t, o = .next t ∧ s.Keeps False t := by
  cases o with
  | next t => exact ⟨t, rfl, h⟩
  | fault _ => exact h.elim
  | refused _ => exact h.elim

/-- Every command answers a next state, with the queue of waiting commands as it was and memory in canonical form. -/
theorem exec_tidy (c : Instr) (s : State) : ∃ t, exec c s = .next t ∧ s.Tidy t := by
  cases hc : isKeyOp c with
  | true => exact exec_keyOp_tidy s c hc
  | false =>
    obtain ⟨t, ht, hk⟩ := ((State.Keeps.refl s).exec_keeps c hc).next
    exact ⟨t, ht, hk.1⟩

/-- What a command answers is tidy. -/
theorem tidy_of_exec {c : Instr} {s t : State} (h : exec c s = .next t) : s.Tidy t := by
  obtain ⟨u, hu, hk⟩ := exec_tidy c s
  obtain rfl : u = t := Host.Outcome.next.inj (hu.symm.trans h)
  exact hk

/-- Settles O1: with a command at the front, this is what a step is. -/
theorem stepRunsFrontCommand : Obligations.StepRunsFrontCommand := by
  unfold Obligations.StepRunsFrontCommand
  intro s c rest h
  unfold step
  rw [h]

/-- Settles O3: every command is tidy. -/
theorem commandsLeaveTheQueue : Obligations.CommandsLeaveTheQueue := by
  unfold Obligations.CommandsLeaveTheQueue
  exact fun c s t h => (tidy_of_exec h).1

/-- Settles O4: every command answers a next state. -/
theorem everyCommandAnswers : Obligations.EveryCommandAnswers := by
  unfold Obligations.EveryCommandAnswers
  intro c s
  obtain ⟨t, ht, -⟩ := exec_tidy c s
  exact ⟨t, ht⟩

/-- Settles O5: a command is tidy, and an idle tick changes the time alone. -/
theorem stepKeepsMemoryForm : Obligations.StepKeepsMemoryForm := by
  unfold Obligations.StepKeepsMemoryForm
  intro s t hwf hstep
  unfold step at hstep
  split at hstep
  · obtain rfl := Host.Outcome.next.inj hstep
    unfold idleTick
    split
    · exact hwf
    · exact hwf
  · exact (tidy_of_exec hstep).2 hwf

/-- Settles O6: the reset state lists nothing. -/
theorem resetMemoryForm : Obligations.ResetMemoryForm := by
  unfold Obligations.ResetMemoryForm
  exact ⟨rfl, rfl, fun _ => rfl, fun _ _ => rfl, fun _ _ => rfl⟩

/-- Settles O7: every other command keeps the keys and the version. -/
theorem fusedKeysAndFloorStand : Obligations.FusedKeysAndFloorStand := by
  unfold Obligations.FusedKeysAndFloorStand
  intro c s t h hfuse hrevoke hraise
  have hc : isKeyOp c = false := by
    cases c with
    | keyFuse => exact absurd rfl (hfuse _ _ _ _ _)
    | keyRevoke => exact absurd rfl (hrevoke _ _ _ _)
    | keySvnRaise => exact absurd rfl (hraise _ _ _ _)
    | _ => rfl
  obtain ⟨u, hu, hk⟩ := ((State.Keeps.refl s).exec_keeps c hc).next
  obtain rfl : u = t := Host.Outcome.next.inj (hu.symm.trans h)
  obtain ⟨-, hkeys, hsvn, -⟩ := hk
  exact ⟨hkeys, hsvn⟩

end Sys2Proof.Machine

namespace Sys2Proof.Machine

/-! ### A record of a die that cannot reach the log (15_resilience.md R413, R415) -/

/-- A package that runs with the log enabled in DDR5 and one record staged at a compute die, no bridge of which is up. -/
def strandedRecord : State :=
  { State.reset with
    boot := { Boot.reset with done := true, stage := 15, hostHeld := false }
    fabric := { State.reset.fabric with up := 0 }
    log := { ErrLog.reset with enable := true, log2Size := 6, staging := [(0, [errRec 2 0x01 0x0010 0 0])] } }

/-- The die does not reach the log's home: the record stays where it is. -/
theorem strandedRecord_stays : exec .recordToLog strandedRecord = .next strandedRecord := by
  have hheld : strandedRecord.boot.held = false := rfl
  have hnext : strandedRecord.nextRecord = some (0, 0, errRec 2 0x01 0x0010 0 0) := by decide +kernel
  have hroom : strandedRecord.logRoom = true := by decide +kernel
  have hway : strandedRecord.dieReachesAll 0 (strandedRecord.log.slotAt strandedRecord.log.write) 64 = false := by decide +kernel
  show execRecordToLog strandedRecord = _
  simp [execRecordToLog, State.leaveStaging, hheld, hnext, hroom, hway]

/-- Refutes O50: with the log enabled and room in it, the record of a die whose bridges are down stays staged, so the write
index does not move on. -/
theorem not_recordsReachTheLog : ¬ Obligations.RecordsReachTheLog := by
  unfold Obligations.RecordsReachTheLog
  intro h
  obtain ⟨-, hlog, -⟩ := h 0 0 (.core 0) 0 (errRec 2 0x01 0x0010 0 0) strandedRecord
  obtain ⟨hwritten, -⟩ := hlog rfl
  obtain ⟨t, ht, hwrite, -⟩ := hwritten (by decide +kernel) (by decide +kernel) ⟨rfl, rfl, rfl, rfl⟩ (by decide +kernel)
    (by decide +kernel)
  obtain rfl : strandedRecord = t := Host.Outcome.next.inj (strandedRecord_stays.symm.trans ht)
  exact absurd hwrite (by decide)

end Sys2Proof.Machine

namespace Sys2Proof.Machine

/-! ### Answers to the management ports (17_configuration_and_security.md R452, Table CFG-6) -/

section
variable {p : Port} {n : Nat} (hport : portNo p = some n)
include hport

/-- An answer stands at its port and changes nothing else. -/
theorem State.reply_answers (s : State) (r : Response) : s.onlyAnswer (s.reply p r) ∧ (s.reply p r).mgmtAnswer n = r := by
  unfold State.reply
  rw [hport]
  exact ⟨rfl, Table.get_put_same ..⟩

/-- An answer that is a code alone. -/
theorem State.replyCode_tells (s : State) (code : Nat) :
    s.onlyAnswer (s.replyCode p code) ∧ ((s.replyCode p code).mgmtAnswer n).code = code := by
  obtain ⟨honly, hanswer⟩ := State.reply_answers hport s { Response.none with code := code }
  exact ⟨honly, congrArg Response.code hanswer⟩

/-- What an answer leaves outside the configuration unit, and there but for the answers. -/
theorem State.reply_frame (s : State) (r : Response) :
    (s.reply p r).cores = s.cores ∧ (s.reply p r).cfg.debug = s.cfg.debug := by
  unfold State.reply
  rw [hport]
  exact ⟨rfl, rfl⟩

theorem State.whenUp_of (s : State) (f : State → State) (hheld : s.boot.held = false) : s.whenUp p f = f s := by
  simp [State.whenUp, hheld, hport]

theorem State.whenReadable_of (s : State) (f : State → State) (hread : s.mayRead p = true) : s.whenReadable p f = f s := by
  simp [State.whenReadable, hread, hport]

theorem State.whenOpen_of (s : State) (f : State → State) (hopen : s.mgmtOpen = true) : s.whenOpen p f = f s := by
  simp [State.whenOpen, hopen, hport]

/-- A command of the holder, while the ports answer every message. -/
theorem State.whenOpen_withSem (s : State) (f : State → State) (hopen : s.mgmtOpen = true) (hsem : s.holdsSem p = true) :
    s.whenOpen p (fun s => s.withSem p f) = f s := by
  rw [State.whenOpen_of hport s _ hopen, State.withSem, if_pos hsem]

/-- Without the semaphore the answer is NO_SEM (17_configuration_and_security.md R454). -/
theorem State.whenOpen_noSem (s : State) (f : State → State) (hopen : s.mgmtOpen = true) (hsem : s.holdsSem p = false) :
    s.whenOpen p (fun s => s.withSem p f) = s.replyCode p ccNoSem := by
  rw [State.whenOpen_of hport s _ hopen, State.withSem, if_neg (by simp [hsem])]

end

theorem exec_getInfo (p : Port) (s : State) : exec (.getInfo p) s = execGetInfo p s := rfl
theorem exec_attest (p : Port) (nonce : List Byte) (s : State) : exec (.attest p nonce) s = execAttest p nonce s := rfl
theorem exec_getCert (p : Port) (s : State) : exec (.getCert p) s = execGetCert p s := rfl
theorem exec_regRead (p : Port) (off m : Nat) (s : State) : exec (.regRead p off m) s = execRegRead p off m s := rfl
theorem exec_regWrite (p : Port) (off : Nat) (vs : List Word) (s : State) :
    exec (.regWrite p off vs) s = execRegWrite p off vs s := rfl
theorem exec_logRead (p : Port) (src : LogSource) (s : State) : exec (.logRead p src) s = execLogRead p src s := rfl
theorem exec_debug (p : Port) (hart : Nat) (req : HartAccess) (s : State) :
    exec (.debug p hart req) s = execDebug p hart req s := rfl

theorem runOk_iff (off n : Nat) : runOk off n = true ↔ 0 < n ∧ n ≤ 16 ∧ off % 4 = 0 := by
  simp [runOk, and_assoc]

/-- A run of another form. -/
theorem runOk_eq_false {off n : Nat} (h : n = 0 ∨ 16 < n ∨ off % 4 ≠ 0) : runOk off n = false := by
  rw [Bool.eq_false_iff, Ne, runOk_iff]
  omega

/-- A record that the log holds and that can be read. -/
theorem State.readLogAt_of_held {p : Port} {s : State} {i : Word} (henable : s.log.enable = true)
    (hback : 0 < dist32 s.log.write i) (hsize : dist32 s.log.write i ≤ s.log.size) (hclosed : s.coh.closed = false)
    (hpoison : s.readPoison true (s.log.slotAt i) 64 = false) :
    s.readLogAt p i = s.replyBytes p (s.readPhys true (s.log.slotAt i) 64) := by
  simp [State.readLogAt, henable, hback.ne', hsize.not_gt, hclosed, hpoison]

/-- An index that holds no record. -/
theorem State.readLogAt_of_none {p : Port} {s : State} {i : Word}
    (hnone : s.log.enable = false ∨ dist32 s.log.write i = 0 ∨ s.log.size < dist32 s.log.write i) :
    s.readLogAt p i = s.replyCode p ccInvalid := by
  obtain h | h | h := hnone
  · simp [State.readLogAt, h]
  · simp [State.readLogAt, h]
  · simp [State.readLogAt, h]

section
variable {p : Port} {n : Nat} (hport : portNo p = some n)
include hport

/-- GET_INFO, ATTEST and GET_CERT, once the package is out of reset. -/
theorem State.identification_answers {s : State} (hheld : s.boot.held = false) :
    (∃ t, exec (.getInfo p) s = .next t ∧ s.onlyAnswer t ∧
      t.mgmtAnswer n = ⟨ccOk, [0x00, 0x04, 0x08, 0x500, 0x524].map (fun o => loWord (s.pkgReg o)), []⟩) ∧
    (∀ nonce, nonce.length = 32 → ∃ t, exec (.attest p nonce) s = .next t ∧ s.onlyAnswer t ∧
      t.mgmtAnswer n = ⟨ccOk, [], s.report512 nonce ++ Config.slhSign (s.report512 nonce)⟩) ∧
    (∀ nonce, nonce.length ≠ 32 → ∃ t, exec (.attest p nonce) s = .next t ∧ s.onlyAnswer t ∧
      (t.mgmtAnswer n).code = ccInvalid) ∧
    ∃ t, exec (.getCert p) s = .next t ∧ s.onlyAnswer t ∧ t.mgmtAnswer n = ⟨ccOk, [], Config.identityKey ++ Config.certificate⟩ := by
  refine ⟨?info, fun nonce hlen => ?attest, fun nonce hlen => ?refused, ?cert⟩
  case info =>
    rw [exec_getInfo, execGetInfo, State.whenUp_of hport s _ hheld]
    exact ⟨_, rfl, State.reply_answers hport ..⟩
  case attest =>
    rw [exec_attest, execAttest, State.whenUp_of hport s _ hheld, if_neg (not_not.mpr hlen)]
    exact ⟨_, rfl, State.reply_answers hport ..⟩
  case refused =>
    rw [exec_attest, execAttest, State.whenUp_of hport s _ hheld, if_pos hlen]
    exact ⟨_, rfl, State.replyCode_tells hport ..⟩
  case cert =>
    rw [exec_getCert, execGetCert, State.whenUp_of hport s _ hheld]
    exact ⟨_, rfl, State.reply_answers hport ..⟩

/-- REG_READ: what a run of words answers, by its form. -/
theorem State.regRead_answers {s : State} (hread : s.mayRead p = true) (off m : Nat) :
    (∀ ws u, runOk off m = true → cfgBacked off (4 * m) = true → s.readWords off m = (ws, u) →
      ∃ t, exec (.regRead p off m) s = .next t ∧ u.onlyAnswer t ∧ t.mgmtAnswer n = ⟨ccOk, ws, []⟩) ∧
    (runOk off m = false → ∃ t, exec (.regRead p off m) s = .next t ∧ s.onlyAnswer t ∧ (t.mgmtAnswer n).code = ccInvalid) ∧
    (runOk off m = true → cfgBacked off (4 * m) = false →
      ∃ t, exec (.regRead p off m) s = .next t ∧ s.onlyAnswer t ∧ (t.mgmtAnswer n).code = ccError) := by
  rw [exec_regRead, execRegRead, State.whenReadable_of hport s _ hread]
  refine ⟨fun ws u hok hback hwords => ?_, fun hok => ?_, fun hok hback => ?_⟩
  · simp only [hok, hback, hwords, Bool.not_true, Bool.false_eq_true, if_false]
    exact ⟨_, rfl, State.reply_answers hport ..⟩
  · simp only [hok, Bool.not_false, if_true]
    exact ⟨_, rfl, State.replyCode_tells hport ..⟩
  · simp only [hok, hback, Bool.not_true, Bool.not_false, Bool.false_eq_true, if_false, if_true]
    exact ⟨_, rfl, State.replyCode_tells hport ..⟩

/-- LOG_READ of a die's staged records. -/
theorem State.logRead_staging {s : State} (hread : s.mayRead p = true) {d : Nat} (hd : d < 8) :
    ∃ t, exec (.logRead p (.staging d)) s = .next t ∧ s.onlyAnswer t ∧
      t.mgmtAnswer n = ⟨ccOk, [], (s.log.queue d).flatMap (fun r => r.bytes 0xFFFFFFFF)⟩ := by
  rw [exec_logRead, execLogRead, State.whenReadable_of hport s _ hread]
  dsimp only
  rw [if_neg (by omega)]
  exact ⟨_, rfl, State.reply_answers hport ..⟩

/-- LOG_READ of an index: the record where the log holds it and it can be read. -/
theorem State.logRead_index {s : State} (hread : s.mayRead p = true) (i : Word) :
    (s.log.enable = true → 0 < (s.log.write - i).toNat → (s.log.write - i).toNat ≤ s.log.size → s.coh.closed = false →
      s.readPoison true (s.log.slotAt i) 64 = false → ∃ t, exec (.logRead p (.log i)) s = .next t ∧ s.onlyAnswer t ∧
        t.mgmtAnswer n = ⟨ccOk, [], s.readPhys true (s.log.slotAt i) 64⟩) ∧
    (s.log.enable = false ∨ (s.log.write - i).toNat = 0 ∨ s.log.size < (s.log.write - i).toNat →
      ∃ t, exec (.logRead p (.log i)) s = .next t ∧ s.onlyAnswer t ∧ (t.mgmtAnswer n).code = ccInvalid) := by
  rw [exec_logRead, execLogRead, State.whenReadable_of hport s _ hread]
  refine ⟨fun henable hback hsize hclosed hpoison => ?_, fun hnone => ?_⟩
  · dsimp only
    rw [State.readLogAt_of_held henable hback hsize hclosed hpoison]
    exact ⟨_, rfl, State.reply_answers hport ..⟩
  · dsimp only
    rw [State.readLogAt_of_none hnone]
    exact ⟨_, rfl, State.replyCode_tells hport ..⟩

/-- REG_WRITE by the holder: the words are written, unless the run has another form. -/
theorem State.regWrite_answers {s : State} (hopen : s.mgmtOpen = true) (hsem : s.holdsSem p = true) (off : Nat) (vs : List Word) :
    (runOk off vs.length = true → cfgBacked off (4 * vs.length) = true →
      exec (.regWrite p off vs) s = .next ((s.writeWords p off vs).replyCode p ccOk)) ∧
    (runOk off vs.length = false →
      ∃ t, exec (.regWrite p off vs) s = .next t ∧ s.onlyAnswer t ∧ (t.mgmtAnswer n).code = ccInvalid) := by
  rw [exec_regWrite, execRegWrite, State.whenOpen_withSem hport s _ hopen hsem]
  refine ⟨fun hok hback => ?_, fun hok => ?_⟩
  · simp only [hok, hback, Bool.not_true, Bool.false_eq_true, if_false]
  · simp only [hok, Bool.not_false, if_true]
    exact ⟨_, rfl, State.replyCode_tells hport ..⟩

/-- DEBUG where the image does not permit it. -/
theorem State.debug_denied {s : State} (hopen : s.mgmtOpen = true) (hsem : s.holdsSem p = true) (hitem : s.item 8 0x15 0 = 0)
    (h : Nat) (r : HartAccess) :
    ∃ t, exec (.debug p h r) s = .next t ∧ s.onlyAnswer t ∧ (t.mgmtAnswer n).code = ccDenied := by
  rw [exec_debug, execDebug, State.whenOpen_withSem hport s _ hopen hsem, if_pos hitem]
  exact ⟨_, rfl, State.replyCode_tells hport ..⟩

/-- DEBUG where the image permits it: the hart's debug module answers. -/
theorem State.debug_reaches {s u : State} (hopen : s.mgmtOpen = true) (hsem : s.holdsSem p = true) (hitem : s.item 8 0x15 0 ≠ 0)
    {h : Nat} (hh : h < 128) {r : HartAccess} {ws : List Word} (haccess : s.hartAccess h r = (ws, u)) :
    ∃ t, exec (.debug p h r) s = .next t ∧ u.onlyAnswer t ∧ t.mgmtAnswer n = ⟨ccOk, ws, []⟩ ∧ t.cores = u.cores ∧
      t.cfg.debug = u.cfg.debug := by
  rw [exec_debug, execDebug, State.whenOpen_withSem hport s _ hopen hsem, if_neg hitem, if_neg (by omega), haccess]
  obtain ⟨honly, hanswer⟩ := State.reply_answers hport u ⟨ccOk, ws, []⟩
  exact ⟨_, rfl, honly, hanswer, State.reply_frame hport ..⟩

end

/-- A vector register reads as it was written. -/
theorem Core.vreg_putVreg_same (x : Core) (r : Nat) (bs : List Byte) : (x.putVreg r bs).vreg r = bs := Table.get_put_same ..

/-- A core of a state with the cores of another that changed it. -/
theorem State.core_of_cores {s t : State} {c : Nat} {f : Core → Core} (h : t.cores = (s.modCore c f).cores) :
    t.core c = f (s.core c) := by
  rw [State.core, h]
  exact Table.get_put_same ..

/-- Settles O51: message by message, as `State.reply_answers` says of the answer each makes. -/
theorem managementMessagesAreAnswered : Obligations.ManagementMessagesAreAnswered := by
  unfold Obligations.ManagementMessagesAreAnswered
  intro p n s hport told
  refine ⟨fun hheld => ?identification, fun hread => ?readable, fun hopen => ⟨fun hsem => ?noSem, fun hsem => ?holder⟩⟩
  case identification =>
    obtain ⟨⟨t, ht, honly, hinfo⟩, hattest, hinvalid, ⟨u, hu, hcertOnly, hcert⟩⟩ := State.identification_answers hport hheld
    refine ⟨⟨t, ht, ⟨honly, by rw [hinfo]⟩, by rw [hinfo]; rfl⟩, fun nonce hlen => ?_, hinvalid,
      ⟨u, hu, ⟨hcertOnly, by rw [hcert]⟩, by rw [hcert]⟩⟩
    obtain ⟨v, hv, hreportOnly, hreport⟩ := hattest nonce hlen
    exact ⟨v, hv, ⟨hreportOnly, by rw [hreport]⟩, by rw [hreport]⟩
  case readable =>
    refine ⟨fun off m ws u hm hle hal => (State.regRead_answers hport hread off m).1 ws u ((runOk_iff ..).mpr ⟨hm, hle, hal⟩),
      fun off m hform => (State.regRead_answers hport hread off m).2.1 (runOk_eq_false hform),
      fun off m hm hle hal => (State.regRead_answers hport hread off m).2.2 ((runOk_iff ..).mpr ⟨hm, hle, hal⟩),
      fun d hd => ?_, fun i => ?_⟩
    · obtain ⟨t, ht, honly, hbytes⟩ := State.logRead_staging hport hread hd
      exact ⟨t, ht, ⟨honly, by rw [hbytes]⟩, by rw [hbytes]⟩
    · obtain ⟨hheld, hnone⟩ := State.logRead_index hport hread i
      refine ⟨fun henable hback hsize hclosed hpoison => ?_, hnone⟩
      obtain ⟨t, ht, honly, hbytes⟩ := hheld henable hback hsize hclosed hpoison
      exact ⟨t, ht, ⟨honly, by rw [hbytes]⟩, by rw [hbytes]⟩
  case noSem =>
    refine ⟨fun off vs => ?_, fun h r => ?_⟩
    · rw [exec_regWrite, execRegWrite, State.whenOpen_noSem hport s _ hopen hsem]
      exact ⟨_, rfl, State.replyCode_tells hport ..⟩
    · rw [exec_debug, execDebug, State.whenOpen_noSem hport s _ hopen hsem]
      exact ⟨_, rfl, State.replyCode_tells hport ..⟩
  case holder =>
    refine ⟨fun off vs hne hle hal => (State.regWrite_answers hport hopen hsem off vs).1
        ((runOk_iff ..).mpr ⟨List.length_pos_iff.mpr hne, hle, hal⟩),
      fun off vs hform => (State.regWrite_answers hport hopen hsem off vs).2
        (runOk_eq_false (hform.imp_left List.length_eq_zero_iff.mpr)),
      State.debug_denied hport hopen hsem, fun hitem h hh => ?_⟩
    have hreach {r ws u} := State.debug_reaches (r := r) (ws := ws) (u := u) hport hopen hsem hitem hh
    refine ⟨fun r => ?module, fun k v hcsr => ?csrRead, ?timeRead, fun v => ⟨?timeWrite, ?timecmpWrite⟩, fun r bs => ?vecWrite⟩
    case module =>
      obtain ⟨t, ht, -, hanswer, -, hdebug⟩ := hreach (r := .module r) rfl
      exact ⟨t, ht, by rw [hanswer], by rw [hanswer]; rfl, hdebug⟩
    case csrRead =>
      have haccess : s.hartAccess h (.csrRead k) = ([loWord v, hiWord v], s) := by simp [State.hartAccess, hcsr]
      obtain ⟨t, ht, honly, hanswer, -⟩ := hreach haccess
      exact ⟨t, ht, honly, hanswer⟩
    case timeRead =>
      obtain ⟨t, ht, honly, hanswer, -⟩ := hreach (r := .timeRead) rfl
      exact ⟨t, ht, honly, hanswer⟩
    case timeWrite =>
      obtain ⟨t, ht, honly, hanswer, -⟩ := hreach (r := .timeWrite v) rfl
      exact ⟨t, ht, honly, by rw [hanswer]⟩
    case timecmpWrite =>
      obtain ⟨t, ht, -, hanswer, hcores, -⟩ := hreach (r := .timecmpWrite v) rfl
      exact ⟨t, ht, congrArg Core.mtimecmp (State.core_of_cores hcores), by rw [hanswer]⟩
    case vecWrite =>
      obtain ⟨t, ht, -, hanswer, hcores, -⟩ := hreach (r := .vecWrite r bs) rfl
      exact ⟨t, ht, (congrArg (·.vreg r) (State.core_of_cores hcores)).trans (Core.vreg_putVreg_same ..), by rw [hanswer]⟩

end Sys2Proof.Machine

namespace Sys2Proof.Machine

/-! ### The power state of the dies -/

/-- Only the dies' part of the power state differs. -/
def State.OnlyDies (s t : State) : Prop := t = { s with power := { s.power with dies := t.power.dies } }

theorem State.OnlyDies.modDiePower {s t : State} (h : s.OnlyDies t) (d : Nat) (f : DiePower → DiePower) :
    s.OnlyDies (t.modDiePower d f) := by
  rw [State.OnlyDies] at h ⊢
  conv_lhs => rw [h]
  rfl

/-- One change to each of the first dies, which does not depend on what the others have become. -/
theorem State.foldl_modDiePower {s : State} {F : State → Nat → DiePower → DiePower}
    (hF : ∀ t, s.OnlyDies t → F t = F s) (n : Nat) :
    s.OnlyDies ((List.range n).foldl (fun s d => s.modDiePower d (F s d)) s) ∧
    ∀ i, ((List.range n).foldl (fun s d => s.modDiePower d (F s d)) s).diePower i =
      if i < n then F s i (s.diePower i) else s.diePower i := by
  induction n with
  | zero => exact ⟨rfl, fun i => rfl⟩
  | succ n ih =>
    obtain ⟨honly, hdie⟩ := ih
    rw [List.range_succ, List.foldl_append, List.foldl_cons, List.foldl_nil, hF _ honly]
    refine ⟨honly.modDiePower .., fun i => ?_⟩
    by_cases hi : i = n
    · subst hi
      rw [State.diePower_modDiePower_same, hdie, if_neg (Nat.lt_irrefl i), if_pos (Nat.lt_succ_self i)]
    · rw [State.diePower_modDiePower_ne _ _ hi, hdie]
      split
      · rw [if_pos (by omega)]
      · rw [if_neg (by omega)]

/-! ### Changes of mode (16_power_clocks_thermal.md R426, R427) -/

/-- The start of a change: every compute die has its steps to make, and its rail and divider stand. -/
theorem State.startMode_spec (s : State) (m : Nat) :
    (s.startMode m).power = { s.power with cleanSince := s.drone, target := m, transition := true, dies := (s.startMode m).power.dies } ∧
    ∀ i, (s.startMode m).diePower i =
      if i < 4 then { s.diePower i with stepDone := false, deferredAt := none, nextRamp := s.drone + 1000 } else s.diePower i := by
  obtain ⟨honly, hdie⟩ := State.foldl_modDiePower (s := s.unclean.modPower (fun p => { p with target := m, transition := true }))
    (F := fun s _ x => { x with stepDone := false, deferredAt := none, nextRamp := s.drone + 1000 })
    (fun t ht => by rw [ht]; rfl) 4
  exact ⟨congrArg State.power honly, hdie⟩

/-- The end of a change: its mode is in force, and no die's rail or divider moves. -/
theorem State.endMode_spec (s : State) (m : Nat) :
    (s.endMode m).power = { s.power with
      cleanSince := s.drone, cur := m, target := m, transition := false, queuedReq := none, dies := (s.endMode m).power.dies } ∧
    ∀ i, (s.endMode m).diePower i =
      if i < 4 then { s.diePower i with stepDone := true, deferredAt := none, threshold := s.power.thresholdIn i m }
      else s.diePower i := by
  obtain ⟨honly, hdie⟩ := State.foldl_modDiePower
    (s := s.unclean.modPower (fun p => { p with cur := m, target := m, transition := false, queuedReq := none }))
    (F := fun s d x => { x with stepDone := true, deferredAt := none, threshold := s.power.thresholdIn d m })
    (fun t ht => by rw [ht]; rfl) 4
  exact ⟨congrArg State.power honly, hdie⟩

/-- A die has the same divider and rail voltage. -/
def State.SameRail (s t : State) (i : Nat) : Prop :=
  (t.diePower i).divider = (s.diePower i).divider ∧ (t.diePower i).railMv = (s.diePower i).railMv

theorem State.SameRail.trans {s t u : State} {i : Nat} (h : s.SameRail t i) (k : t.SameRail u i) : s.SameRail u i :=
  ⟨k.1.trans h.1, k.2.trans h.2⟩

theorem State.sameRail_startMode (s : State) (m i : Nat) : s.SameRail (s.startMode m) i := by
  rw [State.SameRail, (State.startMode_spec s m).2]
  split
  · exact ⟨rfl, rfl⟩
  · exact ⟨rfl, rfl⟩

theorem State.sameRail_endMode (s : State) (m i : Nat) : s.SameRail (s.endMode m) i := by
  rw [State.SameRail, (State.endMode_spec s m).2]
  split
  · exact ⟨rfl, rfl⟩
  · exact ⟨rfl, rfl⟩

theorem State.sameRail_requestMode (s : State) (m i : Nat) : s.SameRail (s.requestMode m) i := by
  unfold State.requestMode
  split
  · exact ⟨rfl, rfl⟩
  · split
    · exact ⟨rfl, rfl⟩
    · exact State.sameRail_startMode ..

theorem State.requestMode_of_idle {s : State} {m : Nat} (hidle : s.power.transition = false) (hm : m ≠ s.power.cur) :
    s.requestMode m = s.startMode m := by
  rw [State.requestMode, if_neg (by simp [hidle]), if_neg hm]

theorem State.requestMode_of_busy {s : State} (m : Nat) (hbusy : s.power.transition = true) :
    s.requestMode m = s.modPower (fun p => { p with queuedReq := some m }) := if_pos hbusy

/-- Whether the change that has ended is followed by another or not, rails and dividers stand. -/
theorem State.sameRail_finishMode (s : State) (m i : Nat) : s.SameRail (s.finishMode m) i := by
  unfold State.finishMode
  split
  · exact (State.sameRail_endMode ..).trans (State.sameRail_requestMode ..)
  · exact State.sameRail_endMode ..

theorem State.finishMode_of_no_request {s : State} (m : Nat) (h : s.power.queuedReq = none) : s.finishMode m = s.endMode m := by
  simp only [State.finishMode, h]

/-! ### The moves of a die -/

section
variable {s : State} {d : Nat}

theorem State.nextMove_rail_first (hdiv : s.modeDivider s.power.target < (s.diePower d).divider)
    (hrail : (s.diePower d).railMv < fusedMv d s.power.target) :
    s.nextMove d = .ramp (min (fusedMv d s.power.target) ((s.diePower d).railMv + 5)) := by
  simp [State.nextMove, hdiv, hrail, hrail.ne]

theorem State.nextMove_faster (hdiv : s.modeDivider s.power.target < (s.diePower d).divider)
    (hrail : (s.diePower d).railMv = fusedMv d s.power.target) : s.nextMove d = .divide ((s.diePower d).divider - 1) := by
  simp [State.nextMove, hdiv, hrail]

theorem State.nextMove_slower (hdiv : (s.diePower d).divider < s.modeDivider s.power.target) :
    s.nextMove d = .divide ((s.diePower d).divider + 1) := by
  simp [State.nextMove, hdiv, hdiv.not_gt]

theorem State.nextMove_rail_last (hdiv : (s.diePower d).divider = s.modeDivider s.power.target)
    (hrail : fusedMv d s.power.target < (s.diePower d).railMv) :
    s.nextMove d = .ramp (max (fusedMv d s.power.target) ((s.diePower d).railMv - 5)) := by
  simp [State.nextMove, hdiv, hrail.ne', hrail.not_gt]

theorem State.nextMove_done (hdiv : (s.diePower d).divider = s.modeDivider s.power.target)
    (hrail : (s.diePower d).railMv = fusedMv d s.power.target) : s.nextMove d = .done := by
  simp [State.nextMove, hdiv, hrail]

theorem State.nextMove_ne_done (h : (s.diePower d).divider ≠ s.modeDivider s.power.target ∨
    (s.diePower d).railMv ≠ fusedMv d s.power.target) : s.nextMove d ≠ .done := by
  unfold State.nextMove
  dsimp only
  grind

theorem State.moveFree_of_stretched (next : Nat) (h : s.stretched d = true) : s.moveFree d next = false := by
  simp [State.moveFree, h]

theorem State.moveFree_of_never_stretched (next : Nat) (h : s.stretched d = false) (hlast : (s.diePower d).lastStretch = 0) :
    s.moveFree d next = true := by
  simp [State.moveFree, h, hlast]

/-- The die has finished where it has no other move. -/
def State.markDone (s : State) (d : Nat) : State :=
  if s.nextMove d = .done then s.modDiePower d (fun x => { x with stepDone := true, deferredAt := none }) else s

/-- What follows a move: the change ends where every die has finished. -/
def State.closeMove (s : State) (d : Nat) : State :=
  if (List.range 4).all (fun i => ((s.markDone d).diePower i).stepDone) then
    (s.markDone d).finishMode (s.markDone d).power.target
  else s.markDone d

theorem State.makeMove_ramp {mv : Nat} (h : s.nextMove d = .ramp mv) : s.makeMove d =
    (s.modDiePower d (fun x => { x with railMv := mv, deferredAt := none, nextRamp := s.drone + 1000 })).closeMove d := by
  simp only [State.makeMove, h]
  rfl

theorem State.makeMove_divide {n : Nat} (h : s.nextMove d = .divide n) :
    s.makeMove d = (s.modDiePower d (fun x => { x with divider := n, deferredAt := none })).closeMove d := by
  simp only [State.makeMove, h]
  rfl

theorem State.makeMove_done (h : s.nextMove d = .done) : s.makeMove d = s.closeMove d := by
  simp only [State.makeMove, State.closeMove, State.markDone, h]

theorem State.sameRail_closeMove (s : State) (d : Nat) : s.SameRail (s.closeMove d) d := by
  have hmark : s.SameRail (s.markDone d) d := by
    unfold State.markDone
    split
    · rw [State.SameRail, State.diePower_modDiePower_same]; exact ⟨rfl, rfl⟩
    · exact ⟨rfl, rfl⟩
  unfold State.closeMove
  split
  · exact hmark.trans (State.sameRail_finishMode ..)
  · exact hmark

/-- A die that has nothing left to do, with no request waiting and the others finished, ends the change. -/
theorem State.closeMove_last (hmove : s.nextMove d = .done) (hreq : s.power.queuedReq = none)
    (hothers : ∀ i, i < 4 → i ≠ d → (s.diePower i).stepDone = true) :
    (s.closeMove d).power.cur = s.power.target ∧ (s.closeMove d).power.transition = false := by
  have hmark : s.markDone d = s.modDiePower d (fun x => { x with stepDone := true, deferredAt := none }) := if_pos hmove
  have hall : (List.range 4).all (fun i => ((s.markDone d).diePower i).stepDone) = true := by
    rw [List.all_eq_true]
    intro i hi
    by_cases hid : i = d
    · rw [hid, hmark, State.diePower_modDiePower_same]
    · rw [hmark, State.diePower_modDiePower_ne _ _ hid]; exact hothers i (List.mem_range.mp hi) hid
  have hidle : (s.markDone d).power.queuedReq = none := by rw [hmark]; exact hreq
  unfold State.closeMove
  rw [if_pos hall, State.finishMode_of_no_request _ hidle, (State.endMode_spec _ _).1, hmark]
  exact ⟨rfl, rfl⟩

/-! ### MODE_STEP -/

theorem exec_modeStep (d : Nat) (s : State) : exec (.modeStep d) s = execModeStep d s := rfl

end

section
variable {s : State} {d : Nat} (hheld : s.boot.held = false) (htransition : s.power.transition = true)
  (hdone : (s.diePower d).stepDone = false) (hd : d < 4)
include hheld htransition hdone hd

theorem State.execModeStep_done (hmove : s.nextMove d = .done) : execModeStep d s = .next (s.makeMove d) := by
  simp [execModeStep, hheld, htransition, hdone, hd, hmove]

/-- A step of the rail whose time has come and that no stretch holds back is made, or deferred where the regulator does not
acknowledge it (19_signals_and_mechanical.md R478). -/
theorem State.execModeStep_ramp {mv : Nat} (hmove : s.nextMove d = .ramp mv) (hfree : ∀ n, s.moveFree d n = true)
    (hramp : (s.diePower d).nextRamp ≤ s.drone) :
    ∃ t, execModeStep d s = .next t ∧ (t.diePower d).divider = (s.diePower d).divider ∧ ((t.diePower d).railMv = mv ∨
      (t.diePower d).railMv = (s.diePower d).railMv ∧ (t.diePower d).deferredAt = some ((s.diePower d).deferredAt.getD s.drone)) := by
  have hexec : execModeStep d s = .next (s.rampWrite d) := by
    simp [execModeStep, hheld, htransition, hdone, hd, hmove, hfree, hramp.not_gt]
  refine ⟨_, hexec, ?_⟩
  unfold State.rampWrite
  dsimp only
  split
  · rw [State.makeMove_ramp (s := (s.drawNat 2).2) hmove]
    obtain ⟨hdivider, hrail⟩ := State.sameRail_closeMove
      ((s.drawNat 2).2.modDiePower d (fun x => { x with railMv := mv, deferredAt := none, nextRamp := s.drone + 1000 })) d
    rw [State.diePower_modDiePower_same] at hdivider hrail
    exact ⟨hdivider, .inl hrail⟩
  · rw [State.deferMove, State.diePower_modDiePower_same]
    exact ⟨rfl, .inr ⟨rfl, rfl⟩⟩

/-- A step of the divider that no stretch holds back is made. -/
theorem State.execModeStep_divide {n : Nat} (hmove : s.nextMove d = .divide n) (hfree : s.moveFree d n = true) :
    ∃ t, execModeStep d s = .next t ∧ (t.diePower d).railMv = (s.diePower d).railMv ∧ (t.diePower d).divider = n := by
  have hexec : execModeStep d s = .next (s.makeMove d) := by
    simp [execModeStep, hheld, htransition, hdone, hd, hmove, hfree]
  refine ⟨_, hexec, ?_⟩
  rw [State.makeMove_divide hmove]
  obtain ⟨hdivider, hrail⟩ := State.sameRail_closeMove (s.modDiePower d (fun x => { x with divider := n, deferredAt := none })) d
  rw [State.diePower_modDiePower_same] at hdivider hrail
  exact ⟨hrail, hdivider⟩

/-- During a stretch a die's move is deferred. -/
theorem State.execModeStep_stretched (hmove : s.nextMove d ≠ .done) (hstretched : s.stretched d = true) :
    execModeStep d s = .next (s.deferMove d) := by
  unfold execModeStep
  rw [if_neg (by simp [hheld, htransition, hdone, hd])]
  cases h : s.nextMove d with
  | ramp mv => simp [State.moveFree_of_stretched _ hstretched]
  | divide n => simp [State.moveFree_of_stretched _ hstretched]
  | done => exact absurd h hmove

end

/-! ### A request, an abandoned change, droop -/

theorem exec_pwrModeWrite (p : Port) (v : Word) (s : State) : exec (.pwrModeWrite p v) s = execPwrModeWrite p v s := rfl
theorem exec_modeChangeAbandon (s : State) : exec .modeChangeAbandon s = execModeChangeAbandon s := rfl
theorem exec_droopTrip (d : Nat) (s : State) : exec (.droopTrip d) s = execDroopTrip d s := rfl
theorem exec_droopRelease (d : Nat) (s : State) : exec (.droopRelease d) s = execDroopRelease d s := rfl

/-- Every compute die has the divider and rail of a mode again. -/
theorem State.abandonMode_spec {s : State} (hreq : s.power.queuedReq = none) :
    s.abandonMode.power.abandoned = true ∧ s.abandonMode.power.transition = false ∧ s.abandonMode.power.cur = s.power.cur ∧
    ∀ i, i < 4 → (s.abandonMode.diePower i).divider = s.modeDivider s.power.cur ∧
      (s.abandonMode.diePower i).railMv = fusedMv i s.power.cur := by
  obtain ⟨honly, hdie⟩ := State.foldl_modDiePower (s := s)
    (F := fun t d x => { x with divider := t.modeDivider s.power.cur, railMv := fusedMv d s.power.cur })
    (fun t ht => by rw [ht]; rfl) 4
  unfold State.abandonMode
  dsimp only
  generalize (List.range 4).foldl (fun t d => t.modDiePower d (fun x =>
    { x with divider := t.modeDivider s.power.cur, railMv := fusedMv d s.power.cur })) s = u at honly hdie ⊢
  generalize hw : (u.modPower (fun p => { p with abandoned := true })).logErr powerRec = w
  have hpower : w.power = { s.power with dies := u.power.dies, abandoned := true } := by
    rw [← hw, State.logErr_power, honly]; rfl
  have hdies : ∀ i, w.diePower i = u.diePower i := fun i => by rw [State.diePower, hpower]; rfl
  rw [State.finishMode_of_no_request _ (by rw [hpower]; exact hreq), (State.endMode_spec w _).1, hpower]
  refine ⟨rfl, rfl, rfl, fun i hi => ?_⟩
  obtain ⟨hdivider, hrail⟩ := State.sameRail_endMode w s.power.cur i
  rw [hdivider, hrail, hdies, hdie, if_pos hi]
  exact ⟨rfl, rfl⟩

/-- Settles O47: the start of a change, each kind of move, its end, and droop, each by its lemma. -/
theorem modesChangeStepByStep : Obligations.ModesChangeStepByStep := by
  unfold Obligations.ModesChangeStepByStep
  intro p v d s hheld
  dsimp only
  refine ⟨fun hmay => ⟨fun hm hcur hidle => ?starts, fun hm hbusy => ?waits, fun hm => ?reserved⟩,
    fun hd hbusy hstep hramp => ⟨fun hclear hlast => ⟨fun hdiv hrail => ?railFirst, fun hdiv hrail => ?faster, fun hdiv => ?slower,
      fun hdiv hrail => ?railLast⟩, fun hstretched hgoal => ?deferred, fun hdiv hrail hreq hothers => ?ends⟩,
    fun hbusy hreq hlate => ?abandoned, fun hd hdroop => ?trip, fun hdroop => ?release⟩
  case starts =>
    have hexec : exec (.pwrModeWrite p v) s = .next (s.writePwrMode v) := by rw [exec_pwrModeWrite, execPwrModeWrite, if_pos hmay]
    refine ⟨_, hexec, ?_⟩
    unfold State.writePwrMode
    dsimp only
    rw [if_neg hm, State.requestMode_of_idle]
    · rw [(State.startMode_spec _ _).1]
      refine ⟨rfl, rfl, rfl, rfl, fun i hi => ?_⟩
      rw [(State.startMode_spec _ _).2, if_pos hi]
      exact ⟨rfl, rfl, rfl⟩
    · exact hidle
    · exact hcur
  case waits =>
    have hexec : exec (.pwrModeWrite p v) s = .next (s.writePwrMode v) := by rw [exec_pwrModeWrite, execPwrModeWrite, if_pos hmay]
    refine ⟨_, hexec, ?_⟩
    unfold State.writePwrMode
    dsimp only
    rw [if_neg hm, State.requestMode_of_busy]
    · exact ⟨rfl, rfl, rfl, rfl⟩
    · exact hbusy
  case reserved =>
    have hexec : exec (.pwrModeWrite p v) s = .next (s.writePwrMode v) := by rw [exec_pwrModeWrite, execPwrModeWrite, if_pos hmay]
    refine ⟨_, hexec, ?_⟩
    unfold State.writePwrMode
    dsimp only
    rw [if_pos hm]
    exact ⟨rfl, rfl, rfl⟩
  case railFirst =>
    exact State.execModeStep_ramp hheld hbusy hstep hd (State.nextMove_rail_first hdiv hrail)
      (fun n => State.moveFree_of_never_stretched n hclear hlast) hramp
  case faster =>
    obtain ⟨t, ht, hsame, hdivider⟩ := State.execModeStep_divide hheld hbusy hstep hd (State.nextMove_faster hdiv hrail)
      (State.moveFree_of_never_stretched _ hclear hlast)
    exact ⟨t, ht, hsame.trans hrail, hdivider⟩
  case slower =>
    exact State.execModeStep_divide hheld hbusy hstep hd (State.nextMove_slower hdiv) (State.moveFree_of_never_stretched _ hclear hlast)
  case railLast =>
    obtain ⟨t, ht, hdivider, hrailed⟩ := State.execModeStep_ramp hheld hbusy hstep hd (State.nextMove_rail_last hdiv hrail)
      (fun n => State.moveFree_of_never_stretched n hclear hlast) hramp
    exact ⟨t, ht, hdivider.trans hdiv, hrailed⟩
  case deferred =>
    refine ⟨_, State.execModeStep_stretched hheld hbusy hstep hd (State.nextMove_ne_done hgoal) hstretched, ?_⟩
    rw [State.deferMove, State.diePower_modDiePower_same]
    exact ⟨rfl, rfl, rfl, hbusy⟩
  case ends =>
    have hmove := State.nextMove_done hdiv hrail
    refine ⟨_, State.execModeStep_done hheld hbusy hstep hd hmove, ?_⟩
    rw [State.makeMove_done hmove]
    exact State.closeMove_last hmove hreq hothers
  case abandoned =>
    have hany : (List.range 4).any (fun d => (s.diePower d).deferredAt.any (fun t => decide (t + 2000 < s.drone))) = true := by
      obtain ⟨i, at_, hi, hat, hpast⟩ := hlate
      exact List.any_eq_true.mpr ⟨i, List.mem_range.mpr hi, by rw [hat]; exact decide_eq_true hpast⟩
    have hexec : exec .modeChangeAbandon s = .next s.abandonMode := by
      rw [exec_modeChangeAbandon, execModeChangeAbandon, if_pos (by simp [hheld, hbusy, hany])]
    exact ⟨_, hexec, State.abandonMode_spec hreq⟩
  case trip =>
    have hexec : exec (.droopTrip d) s = .next (s.modDiePower d (fun x =>
        { x with droop := true, trips := satAdd 0xFFFFFFFF x.trips 1 })) := by
      rw [exec_droopTrip, execDroopTrip, if_neg (by simp [hheld, hdroop, hd])]
    refine ⟨_, hexec, ?_⟩
    rw [State.stretched, State.diePower_modDiePower_same]
    exact ⟨rfl, rfl, rfl, fun i hi => State.diePower_modDiePower_ne _ _ hi⟩
  case release =>
    have hexec : exec (.droopRelease d) s = .next ((s.endStretch d).modDiePower d (fun x =>
        { x with droop := false, threshold := x.pendingThreshold.getD x.threshold, pendingThreshold := none })) := by
      rw [exec_droopRelease, execDroopRelease, if_neg (by simp [hheld, hdroop])]
    refine ⟨_, hexec, ?_⟩
    rw [State.diePower_modDiePower_same, State.endStretch, State.diePower_modDiePower_same]
    exact ⟨rfl, rfl, rfl, fun i hi => (State.diePower_modDiePower_ne _ _ hi).trans (State.diePower_modDiePower_ne _ _ hi)⟩

end Sys2Proof.Machine

namespace Sys2Proof.Machine

/-! ### Runs of a list -/

/-- What no step of a run changes, the run does not change. -/
theorem foldl_reads_same {σ α β : Type} {f : σ → α → σ} (g : σ → β) (h : ∀ s a, g (f s a) = g s) (l : List α) (s : σ) :
    g (l.foldl f s) = g s := by
  induction l generalizing s with
  | nil => rfl
  | cons a l ih => exact (ih _).trans (h s a)

/-- A run over the first elements of a list with their positions, each step of which touches its own place alone: place i is
as the step at i leaves it, on a state where it stands as it did at the start. -/
theorem foldl_zipIdx_reads {σ α β : Type} {f : σ → α × Nat → σ} {g : σ → Nat → β}
    (hne : ∀ s a k i, i ≠ k → g (f s (a, k)) i = g s i) (l : List α) :
    ∀ (n k : Nat) (s : σ), (∀ i, i < k → g (((l.zipIdx k).take n).foldl f s) i = g s i) ∧
      ∀ i a, i < n → l[i]? = some a →
        ∃ u, g u (k + i) = g s (k + i) ∧ g (((l.zipIdx k).take n).foldl f s) (k + i) = g (f u (a, k + i)) (k + i) := by
  induction l with
  | nil => exact fun n k s => ⟨fun i hi => by simp, fun i a hi h => by simp at h⟩
  | cons b l ih =>
    intro n k s
    cases n with
    | zero => exact ⟨fun i hi => rfl, fun i a hi => absurd hi (Nat.not_lt_zero i)⟩
    | succ n =>
      obtain ⟨hbelow, hat⟩ := ih n (k + 1) (f s (b, k))
      rw [List.zipIdx_cons, List.take_succ_cons, List.foldl_cons]
      refine ⟨fun i hi => (hbelow i (by omega)).trans (hne s b k i (by omega)), fun i a hi h => ?_⟩
      cases i with
      | zero =>
        obtain rfl : b = a := by simpa using h
        exact ⟨s, rfl, hbelow k (Nat.lt_succ_self k)⟩
      | succ i =>
        obtain ⟨u, hu, hres⟩ := hat i a (by omega) (by simpa using h)
        rw [Nat.add_right_comm, Nat.add_assoc] at hu hres
        exact ⟨u, hu.trans (hne s b k _ (by omega)), hres⟩

/-- Place i after a run over the first n elements of a list, each step of which touches its own place alone. -/
theorem foldl_zipIdx_reads_at {σ α β : Type} {f : σ → α × Nat → σ} {g : σ → Nat → β}
    (hne : ∀ s a k i, i ≠ k → g (f s (a, k)) i = g s i) {l : List α} {n i : Nat} {a : α} (hi : i < n) (h : l[i]? = some a) (s : σ) :
    ∃ u, g u i = g s i ∧ g ((l.zipIdx.take n).foldl f s) i = g (f u (a, i)) i := by
  simpa using (foldl_zipIdx_reads hne l n 0 s).2 i a hi h

/-! ### Charges (16_power_clocks_thermal.md R430, R431) -/

/-- Only the charges differ. -/
def Power.OnlyCharges (p q : Power) : Prop := q = { p with ctxEnergy := q.ctxEnergy, unattr := q.unattr }

namespace Power.OnlyCharges

variable {p q r : Power}

theorem refl (p : Power) : p.OnlyCharges p := rfl

theorem trans (h : p.OnlyCharges q) (k : q.OnlyCharges r) : p.OnlyCharges r := by
  rw [Power.OnlyCharges] at *
  rw [k, h]

theorem charge (h : p.OnlyCharges q) (ctx : Option Nat) (fj : Nat) : p.OnlyCharges (q.charge ctx fj) := by
  refine h.trans ?_
  cases ctx with
  | none => rfl
  | some c => rfl

theorem foldl (h : p.OnlyCharges q) (l : List CtxEnergy) (f : CtxEnergy → Nat) :
    p.OnlyCharges (l.foldl (fun p e => p.charge e.ctx (f e)) q) := by
  induction l generalizing q with
  | nil => exact h
  | cons e l ih => exact ih (h.charge ..)

theorem chargeDie (p : Power) (g : Nat × Nat) (a : DieActivity) : p.OnlyCharges (p.chargeDie g a) := by
  unfold Power.chargeDie
  dsimp only
  split
  · exact ((refl p).foldl ..).charge ..
  · exact (((refl p).foldl ..).foldl ..).charge ..

end Power.OnlyCharges

/-- One die's part of an energy interval. -/
def State.chargeOne (s : State) (a : DieActivity) : State :=
  (s.modPower (fun p => p.chargeDie (s.gFactor a.die) a)).modDiePower a.die (fun x => x.monitor a)

/-- What the charges of an interval leave: all but the charges themselves and what the dies report. -/
structure State.Charged (s t : State) : Prop where
  state : t = { s with power := t.power }
  power : t.power = { s.power with ctxEnergy := t.power.ctxEnergy, unattr := t.power.unattr, dies := t.power.dies }
  floorTherm : ∀ d, (t.diePower d).floorTherm = (s.diePower d).floorTherm

theorem State.diePower_chargeOne_same (s : State) (a : DieActivity) :
    (s.chargeOne a).diePower a.die = (s.diePower a.die).monitor a := by
  have hdies : (s.modPower (fun p => p.chargeDie (s.gFactor a.die) a)).diePower a.die = s.diePower a.die := by
    rw [State.diePower, State.modPower, (Power.OnlyCharges.chargeDie s.power _ a)]; rfl
  rw [State.chargeOne, State.diePower_modDiePower_same, hdies]

theorem State.Charged.chargeOne {s t : State} (h : s.Charged t) (a : DieActivity) : s.Charged (t.chargeOne a) := by
  have hcharge := Power.OnlyCharges.chargeDie t.power (t.gFactor a.die) a
  obtain ⟨hstate, hpower, hfloor⟩ := h
  refine ⟨?_, ?_, fun d => (?_ : _ = (t.diePower d).floorTherm).trans (hfloor d)⟩
  · rw [State.chargeOne, hstate]; rfl
  · have hdies : (t.chargeOne a).power = { t.power.chargeDie (t.gFactor a.die) a with dies := (t.chargeOne a).power.dies } := rfl
    rw [hdies, hcharge, hpower]
  · by_cases hd : d = a.die
    · rw [hd, State.diePower_chargeOne_same]; rfl
    · rw [State.chargeOne, State.diePower_modDiePower_ne _ _ hd, State.diePower, State.modPower, hcharge]
      rfl

theorem State.charged_foldl (s : State) (e : List DieActivity) : s.Charged (e.foldl State.chargeOne s) := by
  have hfold : ∀ (e : List DieActivity) (t : State), s.Charged t → s.Charged (e.foldl State.chargeOne t) := by
    intro e
    induction e with
    | nil => exact fun t h => h
    | cons a e ih => exact fun t h => ih _ (h.chargeOne a)
  exact hfold e s ⟨rfl, rfl, fun _ => rfl⟩

theorem State.Charged.anyFloor {s t : State} (h : s.Charged t) : t.anyFloor = s.anyFloor := by
  have hdie : ∀ d, t.dieFloor d = s.dieFloor d := fun d => by
    rw [State.dieFloor, State.dieFloor, h.floorTherm, h.power]
  simp only [State.anyFloor, funext hdie]

/-! ### The cap's level (16_power_clocks_thermal.md R425) -/

/-- An evaluation sets the level, how long it has stood at 16 and the mark of a passed cap, and may make a record. -/
theorem State.evaluateCap_eq (s : State) (last : Nat) : ∃ sat passed, s.evaluateCap last =
    (fun u : State => if passed then u.logErr powerRec else u) (s.modPower (fun p => { p with
      capL := capLevel s.anyFloor s.power.cur s.power.capL s.cap s.power.history.sum last, capSat := sat,
      overCap := passed || p.overCap })) := by
  simp only [State.evaluateCap]
  split
  · exact ⟨_, true, rfl⟩
  · exact ⟨_, false, rfl⟩

theorem State.evaluateCap_spec (s : State) (last : Nat) :
    (s.evaluateCap last).mem = s.mem ∧ ∃ sat passed, (s.evaluateCap last).power = { s.power with
      capL := capLevel s.anyFloor s.power.cur s.power.capL s.cap s.power.history.sum last, capSat := sat, overCap := passed } := by
  obtain ⟨sat, passed, heq⟩ := s.evaluateCap_eq last
  rw [heq]
  generalize capLevel s.anyFloor s.power.cur s.power.capL s.cap s.power.history.sum last = l
  cases passed with
  | true => exact ⟨State.logErr_mem .., sat, true, State.logErr_power ..⟩
  | false => exact ⟨rfl, sat, s.power.overCap, rfl⟩

theorem capLevel_outside_full (floor : Bool) {mode : Nat} (l cap sum last : Nat) (h : mode ≠ 0) :
    capLevel floor mode l cap sum last = 0 := if_pos h

theorem capLevel_floor (l cap sum last : Nat) : capLevel true 0 l cap sum last = l := rfl

/-- In FULL, with the mean above the cap, the level rises until it is 16. -/
theorem capLevel_rises {l cap sum last : Nat} (hsum : cap * 1000000 < sum) :
    l < capLevel false 0 l cap sum last ∨ capLevel false 0 l cap sum last = 16 := by
  unfold capLevel
  rw [if_neg (by decide), if_neg (by decide), if_pos hsum]
  split
  · omega
  · omega

/-! ### ENERGY_INTERVAL -/

theorem exec_energyInterval (e : List DieActivity) (s : State) : exec (.energyInterval e) s = execEnergyInterval e s := rfl

/-- What an interval adds to the package's energy, in nJ. -/
def State.intervalEnergy (s : State) (e : List DieActivity) : Nat :=
  (e.foldl State.chargeOne s).power.charged - s.power.charged

/-- The energies of the last 100 intervals. -/
def State.intervalHistory (s : State) (e : List DieActivity) : List Nat := (s.intervalEnergy e :: s.power.history).take 100

/-- What an interval makes of the power state, with the charges that `State.chargeOne` makes. -/
theorem State.energyInterval_spec {s : State} (hheld : s.boot.held = false) (e : List DieActivity) :
    ∃ t, exec (.energyInterval e) s = .next t ∧ t.mem = s.mem ∧ ∃ sat passed,
      t.power = { (e.foldl State.chargeOne s).power with
        energy := s.power.energy + s.intervalEnergy e, history := s.intervalHistory e,
        capL := capLevel s.anyFloor s.power.cur s.power.capL s.cap (s.intervalHistory e).sum (s.intervalEnergy e),
        capSat := sat, overCap := passed } := by
  have hexec : execEnergyInterval e s = .next (((e.foldl State.chargeOne s).modPower (fun p =>
      { p with energy := p.energy + s.intervalEnergy e, history := (s.intervalEnergy e :: p.history).take 100 })).evaluateCap
        (s.intervalEnergy e)) := by
    rw [execEnergyInterval, if_neg (by simp [hheld])]; rfl
  have hcharged := State.charged_foldl s e
  refine ⟨_, hexec, ?_⟩
  unfold State.intervalHistory
  generalize s.intervalEnergy e = last
  generalize e.foldl State.chargeOne s = u at hcharged ⊢
  obtain ⟨hmem, sat, passed, hpower⟩ := State.evaluateCap_spec (u.modPower (fun p =>
    { p with energy := p.energy + last, history := (last :: p.history).take 100 })) last
  have henergy : u.power.energy = s.power.energy := by rw [hcharged.power]
  have hhistory : u.power.history = s.power.history := by rw [hcharged.power]
  have hcur : u.power.cur = s.power.cur := by rw [hcharged.power]
  have hcapL : u.power.capL = s.power.capL := by rw [hcharged.power]
  have hcap : u.cap = s.cap := by rw [State.cap, hcur, hcharged.state]; rfl
  have hfloor : (u.modPower (fun p => { p with energy := p.energy + last, history := (last :: p.history).take 100 })).anyFloor =
      s.anyFloor := hcharged.anyFloor
  have hcap' : (u.modPower (fun p => { p with energy := p.energy + last, history := (last :: p.history).take 100 })).cap = s.cap := hcap
  refine ⟨hmem.trans (by rw [hcharged.state]; rfl), sat, passed, ?_⟩
  rw [hpower, hfloor, hcap']
  simp only [State.modPower, henergy, hhistory, hcur, hcapL]

/-- One context that ran alone on a compute die bears its dynamic energy and, where that is not 0, the die's static energy. -/
theorem Power.chargeDie_alone (p : Power) (g : Nat × Nat) {a : DieActivity} {e : CtxEnergy} {c dyn static : Nat} (hdie : a.die < 4)
    (hevents : a.events = [e]) (hctx : e.ctx = some c) (hdyn : dynamicOf g a.die a.mv e = dyn)
    (hstatic : staticFj a.die a.mv a.temp * g.1 / g.2 = static) :
    (p.chargeDie g a).unattr = p.unattr + (if dyn = 0 then static else 0) ∧
    Table.get 0 (p.chargeDie g a).ctxEnergy c = Table.get 0 p.ctxEnergy c + dyn + (if dyn = 0 then 0 else static) := by
  unfold Power.chargeDie
  rw [hevents, hstatic]
  simp only [List.map_cons, List.map_nil, List.foldl_cons, List.foldl_nil, List.sum_cons, List.sum_nil, hdyn, hctx, Option.isSome_some,
    if_true, Nat.add_zero]
  by_cases hzero : dyn = 0
  · simp [hzero, Power.charge]
  · have hshare : static * dyn / dyn = static := Nat.mul_div_cancel _ (Nat.pos_of_ne_zero hzero)
    simp [hzero, hdie.not_ge, hshare, Power.charge]

theorem dynamicOf_macs_and_lines (die mv c m l : Nat) :
    dynamicOf (106, 100) die mv ⟨some c, [(.macFp8, m), (.hbmLine, l)]⟩ =
      m * Config.energyCoef die .macFp8 * mv ^ 2 * 106 / (750 ^ 2 * 100) + l * Config.energyCoef die .hbmLine := by
  simp [dynamicOf, compensated, eventSum, followsRail]

/-! ### Alerts (16_power_clocks_thermal.md R429) -/

theorem exec_vrAlert (b : Nat) (s : State) : exec (.vrAlert b) s = execVrAlert b s := rfl
theorem exec_floorExit (s : State) : exec .floorExit s = execFloorExit s := rfl

theorem getLsbD_or_two_pow (x : Byte) {b : Nat} (hb : b < 8) : (x ||| BitVec.ofNat 8 (2 ^ b)).getLsbD b = true := by
  rw [BitVec.getLsbD_or, BitVec.getLsbD_ofNat, Nat.testBit_two_pow_self]
  simp [hb]

/-- While an alert stands, every die is at FLOOR. -/
theorem State.dieFloor_of_alert {s : State} (h : s.power.floorAlert = true) (d : Nat) : s.dieFloor d = true := by
  simp [State.dieFloor, h]

/-! ### Heat (16_power_clocks_thermal.md R434, Table PWR-6) -/

/-- Only what a sample marks of the package's power state differs. -/
def State.OnlyMarks (s t : State) : Prop :=
  t = { s with power := { s.power with cleanSince := t.power.cleanSince, throttled := t.power.throttled } }

theorem State.OnlyMarks.trans {s t u : State} (h : s.OnlyMarks t) (k : t.OnlyMarks u) : s.OnlyMarks u := by
  rw [State.OnlyMarks] at *
  rw [k, h]

/-- What a sample of a die marks, by whether it is or was at FLOOR and by its level. -/
def State.markHeat (s : State) (floor : Bool) (level : Nat) : State :=
  let s := if floor then s.unclean else s
  if 0 < level then s.unclean.modPower (fun p => { p with throttled := true }) else s

theorem State.onlyMarks_markHeat (s : State) (floor : Bool) (level : Nat) : s.OnlyMarks (s.markHeat floor level) := by
  have hfloor : s.OnlyMarks (if floor then s.unclean else s) := by
    cases floor with
    | true => rfl
    | false => rfl
  unfold State.markHeat
  dsimp only
  split
  · exact hfloor.trans rfl
  · exact hfloor

/-- A sample of a die sets its heat, perhaps the end of a stretch, and marks. -/
theorem State.heatDie_eq (s : State) (d sensor t : Nat) :
    ∃ u, (u = s.modDiePower d (fun x => x.heat sensor t) ∨ u = (s.modDiePower d (fun x => x.heat sensor t)).endStretch d) ∧
      u.OnlyMarks (s.heatDie d sensor t) := by
  let v := s.modDiePower d (fun x => x.heat sensor t)
  have heq : s.heatDie d sensor t =
      (if (s.diePower d).floorTherm && !(v.diePower d).floorTherm then v.endStretch d else v).markHeat
        ((v.diePower d).floorTherm || (s.diePower d).floorTherm) (v.diePower d).thermL := rfl
  rw [heq]
  refine ⟨_, ?_, State.onlyMarks_markHeat ..⟩
  split
  · exact .inr rfl
  · exact .inl rfl

/-- A sample of one die leaves memory, the other dies, stacks and modules. -/
theorem State.heatDie_frame (s : State) (d sensor t : Nat) :
    (s.heatDie d sensor t).mem = s.mem ∧ (s.heatDie d sensor t).power.hbm = s.power.hbm ∧
    (s.heatDie d sensor t).power.hbmSlow = s.power.hbmSlow ∧
    (s.heatDie d sensor t).power.flashSuspended = s.power.flashSuspended ∧
    ∀ i, i ≠ d → (s.heatDie d sensor t).diePower i = s.diePower i := by
  obtain ⟨u, hu, hmarks⟩ := s.heatDie_eq d sensor t
  have hdie : ∀ i, (s.heatDie d sensor t).diePower i = u.diePower i := fun i => by rw [hmarks]; rfl
  simp only [hdie]
  rw [hmarks]
  obtain rfl | rfl := hu
  · exact ⟨rfl, rfl, rfl, rfl, fun i hi => State.diePower_modDiePower_ne _ _ hi⟩
  · exact ⟨rfl, rfl, rfl, rfl,
      fun i hi => (State.diePower_modDiePower_ne _ _ hi).trans (State.diePower_modDiePower_ne _ _ hi)⟩

/-- A sample of one die sets its reading and moves its level. -/
theorem State.heatDie_die (s : State) (d sensor t : Nat) :
    ((s.heatDie d sensor t).diePower d).sensor = sensor ∧ ((s.heatDie d sensor t).diePower d).hottest = t ∧
    ((s.heatDie d sensor t).diePower d).thermL = if 100 ≤ t then min 16 ((s.diePower d).thermL + 2)
      else if t ≤ 97 then (s.diePower d).thermL - 1 else (s.diePower d).thermL := by
  obtain ⟨u, hu, hmarks⟩ := s.heatDie_eq d sensor t
  have hdie : (s.heatDie d sensor t).diePower d = u.diePower d := by rw [hmarks]; rfl
  rw [hdie]
  obtain rfl | rfl := hu
  · rw [State.diePower_modDiePower_same]; exact ⟨rfl, rfl, rfl⟩
  · rw [State.endStretch, State.diePower_modDiePower_same, State.diePower_modDiePower_same]; exact ⟨rfl, rfl, rfl⟩

theorem exec_thermalSample (r : ThermalReadings) (s : State) : exec (.thermalSample r) s = execThermalSample r s := rfl

/-- The dies of a sample, its stacks and its modules. -/
def State.heatDieAt (s : State) (p : (Nat × Nat) × Nat) : State := s.heatDie p.2 p.1.1 p.1.2
def State.heatDies (s : State) (l : List (Nat × Nat)) : State := (l.zipIdx.take 8).foldl State.heatDieAt s
def State.heatStack (s : State) (p : Nat × Nat) : State := s.modPower (fun x => x.heatStack p.2 p.1)
def State.heatStacks (s : State) (l : List Nat) : State := (l.zipIdx.take 16).foldl State.heatStack s
def State.heatModule (s : State) (p : Nat × Nat) : State := s.modPower (fun x => x.heatModule p.2 p.1)
def State.heatModules (s : State) (l : List Nat) : State := (l.zipIdx.take 8).foldl State.heatModule s

theorem State.heatDies_frame (s : State) (l : List (Nat × Nat)) :
    (s.heatDies l).mem = s.mem ∧ (s.heatDies l).power.hbmSlow = s.power.hbmSlow ∧
    (s.heatDies l).power.flashSuspended = s.power.flashSuspended :=
  ⟨foldl_reads_same (f := State.heatDieAt) State.mem (fun u _ => (u.heatDie_frame ..).1) ..,
    foldl_reads_same (f := State.heatDieAt) (fun u : State => u.power.hbmSlow) (fun u _ => (u.heatDie_frame ..).2.2.1) ..,
    foldl_reads_same (f := State.heatDieAt) (fun u : State => u.power.flashSuspended) (fun u _ => (u.heatDie_frame ..).2.2.2.1) ..⟩

theorem State.heatStacks_frame (s : State) (l : List Nat) :
    (s.heatStacks l).mem = s.mem ∧ (s.heatStacks l).power.dies = s.power.dies ∧
    (s.heatStacks l).power.flashSuspended = s.power.flashSuspended :=
  ⟨foldl_reads_same State.mem (f := State.heatStack) (fun _ _ => rfl) .., foldl_reads_same (fun u : State => u.power.dies) (f := State.heatStack) (fun _ _ => rfl) ..,
    foldl_reads_same (fun u : State => u.power.flashSuspended) (f := State.heatStack) (fun _ _ => rfl) ..⟩

theorem State.heatModules_frame (s : State) (l : List Nat) :
    (s.heatModules l).mem = s.mem ∧ (s.heatModules l).power.dies = s.power.dies ∧
    (s.heatModules l).power.hbm = s.power.hbm ∧ (s.heatModules l).power.hbmSlow = s.power.hbmSlow :=
  ⟨foldl_reads_same State.mem (f := State.heatModule) (fun _ _ => rfl) .., foldl_reads_same (fun u : State => u.power.dies) (f := State.heatModule) (fun _ _ => rfl) ..,
    foldl_reads_same (fun u : State => u.power.hbm) (f := State.heatModule) (fun _ _ => rfl) ..,
    foldl_reads_same (fun u : State => u.power.hbmSlow) (f := State.heatModule) (fun _ _ => rfl) ..⟩

/-- A die that the sample reads. -/
theorem State.heatDies_die (s : State) {l : List (Nat × Nat)} {i sn c : Nat} (hi : i < 8) (h : l[i]? = some (sn, c)) :
    ((s.heatDies l).diePower i).sensor = sn ∧ ((s.heatDies l).diePower i).hottest = c ∧
    ((s.heatDies l).diePower i).thermL = if 100 ≤ c then min 16 ((s.diePower i).thermL + 2)
      else if c ≤ 97 then (s.diePower i).thermL - 1 else (s.diePower i).thermL := by
  obtain ⟨u, hu, hres⟩ := foldl_zipIdx_reads_at (f := State.heatDieAt) (g := State.diePower)
    (fun u a k i hik => (u.heatDie_frame k a.1 a.2).2.2.2.2 i hik) hi h s
  rw [State.heatDies, hres, ← hu]
  exact u.heatDie_die i sn c

/-- A stack that the sample reads: from 100 °C its rate halves, from 95 °C downwards it does not. -/
theorem State.heatStacks_stack (s : State) {l : List Nat} {i c : Nat} (hi : i < 16) (h : l[i]? = some c) :
    Table.get 0 (s.heatStacks l).power.hbm i = c ∧ (100 ≤ c → Table.get false (s.heatStacks l).power.hbmSlow i = true) ∧
    (c ≤ 95 → Table.get false (s.heatStacks l).power.hbmSlow i = false) := by
  obtain ⟨u, -, hres⟩ := foldl_zipIdx_reads_at (f := State.heatStack)
    (g := fun u i => (Table.get 0 u.power.hbm i, Table.get false u.power.hbmSlow i))
    (fun u a k i hik => Prod.ext (Table.get_put_ne _ _ _ hik) (Table.get_put_ne _ _ _ hik)) hi h s
  obtain ⟨hread, hslow⟩ := Prod.ext_iff.mp hres
  have hread' : Table.get 0 (s.heatStacks l).power.hbm i = c := hread.trans (Table.get_put_same ..)
  have hslow' : Table.get false (s.heatStacks l).power.hbmSlow i =
    ((Table.get false u.power.hbmSlow i || decide (100 ≤ c)) && decide (95 < c)) := hslow.trans (Table.get_put_same ..)
  refine ⟨hread', fun hc => ?_, fun hc => ?_⟩
  · rw [hslow']; simp [hc]; omega
  · rw [hslow']; simp [hc.not_gt]

/-- A module that the sample reads: from 90 °C it suspends programs, from 80 °C downwards it does not. -/
theorem State.heatModules_module (s : State) {l : List Nat} {i c : Nat} (hi : i < 8) (h : l[i]? = some c) :
    (90 ≤ c → Table.get false (s.heatModules l).power.flashSuspended i = true) ∧
    (c ≤ 80 → Table.get false (s.heatModules l).power.flashSuspended i = false) := by
  obtain ⟨u, -, hres⟩ := foldl_zipIdx_reads_at (f := State.heatModule)
    (g := fun u i => Table.get false u.power.flashSuspended i)
    (fun u a k i hik => Table.get_put_ne _ _ _ hik) hi h s
  have hheld : Table.get false (s.heatModules l).power.flashSuspended i =
    ((Table.get false u.power.flashSuspended i || decide (90 ≤ c)) && decide (80 < c)) := hres.trans (Table.get_put_same ..)
  refine ⟨fun hc => ?_, fun hc => ?_⟩
  · rw [hheld]; simp [hc]; omega
  · rw [hheld]; simp [hc.not_gt]

/-- THERMAL_SAMPLE: the dies, the stacks, the modules, then the greatest readings. -/
theorem State.thermalSample_spec {s : State} (hheld : s.boot.held = false) (r : ThermalReadings) :
    ∃ t, exec (.thermalSample r) s = .next t ∧ t.mem = s.mem ∧ t.power.dies = (s.heatDies r.dies).power.dies ∧
      t.power.hbm = ((s.heatDies r.dies).heatStacks r.hbm).power.hbm ∧
      t.power.hbmSlow = ((s.heatDies r.dies).heatStacks r.hbm).power.hbmSlow ∧
      t.power.flashSuspended = (((s.heatDies r.dies).heatStacks r.hbm).heatModules r.flash).power.flashSuspended := by
  obtain ⟨hmem1, -, -⟩ := s.heatDies_frame r.dies
  obtain ⟨hmem2, hdies2, -⟩ := (s.heatDies r.dies).heatStacks_frame r.hbm
  obtain ⟨hmem3, hdies3, hhbm3, hslow3⟩ := ((s.heatDies r.dies).heatStacks r.hbm).heatModules_frame r.flash
  have hexec : execThermalSample r s = .next ((((s.heatDies r.dies).heatStacks r.hbm).heatModules r.flash).modPower (fun p =>
      { p with hbmMax := greatest r.hbm, dieMax := greatest (r.dies.map Prod.snd),
               hotDie := ((r.dies.map Prod.snd).findIdx? (· = greatest (r.dies.map Prod.snd))).getD 0 })) := by
    rw [execThermalSample, if_neg (by simp [hheld])]; rfl
  exact ⟨_, hexec, hmem3.trans (hmem2.trans hmem1), hdies3.trans hdies2, hhbm3, hslow3, rfl⟩

theorem exec_thermalTrip (d sensor reading : Nat) (s : State) :
    exec (.thermalTrip d sensor reading) s = execThermalTrip d sensor reading s := rfl

/-- Settles O48: charges, the cap's level, alerts and heat, each by its lemma. -/
theorem energyAlertsAndHeatSetTheLevels : Obligations.EnergyAlertsAndHeatSetTheLevels := by
  unfold Obligations.EnergyAlertsAndHeatSetTheLevels
  intro s hheld
  refine ⟨fun e => ?interval, fun a c m l hdie hevents hcal => ?alone,
    fun b hb => ⟨fun hbit => ?alert, fun hbit => ?deaf⟩, fun halert => ⟨fun hlate hprev => ?exit, fun hearly => ?stay⟩,
    fun r => ?sample, fun d sn c => ⟨fun hhot => ?trip, fun hcool => ?below⟩⟩
  case interval =>
    obtain ⟨t, ht, hmem, sat, passed, hpower⟩ := State.energyInterval_spec hheld e
    have hcharged : t.power.charged = (e.foldl State.chargeOne s).power.charged := by rw [hpower]; rfl
    have hhistory : t.power.history = s.intervalHistory e := by rw [hpower]
    have hlevel : t.power.capL = capLevel s.anyFloor s.power.cur s.power.capL s.cap (s.intervalHistory e).sum (s.intervalEnergy e) := by
      rw [hpower]
    refine ⟨t, ht, by rw [hcharged, hpower]; rfl, fun a => by rw [State.byte, hmem]; rfl, fun hmode => ?_, fun hmode hfloor => ?_,
      fun hmode hfloor hsum _ => ?_⟩
    · rw [hlevel, capLevel_outside_full _ _ _ _ _ hmode]
    · rw [hlevel, hmode, hfloor, capLevel_floor]
    · rw [hhistory] at hsum
      rw [hlevel, hmode, hfloor]
      exact capLevel_rises hsum
  case alone =>
    obtain ⟨t, ht, -, sat, passed, hpower⟩ := State.energyInterval_spec hheld [a]
    have hfactor : s.gFactor a.die = (106, 100) := by simp [State.gFactor, hcal]
    have hreport : t.diePower a.die = (s.diePower a.die).monitor a := by
      rw [← State.diePower_chargeOne_same, State.diePower, hpower]; rfl
    obtain ⟨hunattr, hctx⟩ := Power.chargeDie_alone s.power (106, 100) hdie hevents rfl (dynamicOf_macs_and_lines ..) rfl
    have hcharges : t.power.unattr = (s.power.chargeDie (106, 100) a).unattr ∧
        t.power.ctxEnergy = (s.power.chargeDie (106, 100) a).ctxEnergy := by
      rw [hpower, ← hfactor]; exact ⟨rfl, rfl⟩
    refine ⟨t, ht, by rw [hreport]; rfl, by rw [hreport]; rfl, hcharges.1.trans hunattr, ?_⟩
    rw [hcharges.2]; exact hctx
  case alert =>
    have hexec : exec (.vrAlert b) s = .next ((s.unclean.modPower (fun p =>
        { p with floorAlert := true, seen := p.seen ||| BitVec.ofNat 8 (2 ^ b), level := p.level ||| BitVec.ofNat 8 (2 ^ b),
                 events := satAdd 0xFF p.events 1, alertAt := s.drone })).logErr { powerRec with unit := b }) := by
      rw [exec_vrAlert, execVrAlert, if_neg (by simp [hheld, hb, hbit])]
    refine ⟨_, hexec, fun d => State.dieFloor_of_alert (by rw [State.logErr_power]; rfl) d, ?_⟩
    rw [State.logErr_power]
    exact ⟨rfl, getLsbD_or_two_pow _ hb, getLsbD_or_two_pow _ hb, rfl⟩
  case deaf => rw [exec_vrAlert, execVrAlert, if_pos (by simp [hbit])]
  case exit =>
    have hpast : s.inTime (s.power.alertAt + 100000) = false := by simp [State.inTime]; omega
    obtain ⟨honly, hdie⟩ := State.foldl_modDiePower (s := s.unclean.modPower (fun p => { p with floorAlert := false, level := 0 }))
      (F := fun t _ x => { x with lastStretch := t.drone }) (fun t ht => by rw [ht]; rfl) 8
    refine ⟨_, by rw [exec_floorExit, execFloorExit, if_pos (by simp [hheld, halert, hpast])], ?_, ?_, fun d hd => ?_⟩
    · exact congrArg (fun t : State => t.power.floorAlert) honly
    · exact congrArg (fun t : State => t.power.level) honly
    · exact congrArg DiePower.lastStretch ((hdie d).trans (if_pos hd))
  case stay => rw [exec_floorExit, execFloorExit, if_neg (by simp [State.inTime, hearly])]
  case sample =>
    obtain ⟨t, ht, hmem, hdies, hhbm, hslow, hflash⟩ := State.thermalSample_spec hheld r
    refine ⟨t, ht, fun a => congrArg (Table.get memDefault · a) hmem, fun i sn c hi h => ?_, fun i c hi h => ?_, fun i c hi h => ?_⟩
    · have hdie : t.diePower i = (s.heatDies r.dies).diePower i := congrArg (Table.get DiePower.reset · i) hdies
      rw [hdie]
      exact s.heatDies_die hi h
    · rw [hhbm, hslow]
      exact (s.heatDies r.dies).heatStacks_stack hi h
    · rw [hflash]
      exact ((s.heatDies r.dies).heatStacks r.hbm).heatModules_module hi h
  case trip =>
    have hexec : exec (.thermalTrip d sn c) s = .next (((s.unclean.modPower (fun p => { p with trip := true })).modBoot
        (fun b => { b with thermtrip := true })).logErr { errRec 3 0x16 0x0033 d sn with aux0 := c }) := by
      have hlimit : decide (c < tripLimit d sn) = false := decide_eq_false (Nat.not_lt.mpr hhot)
      rw [exec_thermalTrip, execThermalTrip, if_neg (by simp [hheld, hlimit])]
    have hfatal := State.logErr_fatal ((s.unclean.modPower (fun p => { p with trip := true })).modBoot
      (fun b => { b with thermtrip := true })) { errRec 3 0x16 0x0033 d sn with aux0 := c } rfl
    refine ⟨_, hexec, ?_, ?_, hfatal, by simp [State.running, hfatal]⟩
    · rw [State.logErr_power]; rfl
    · rw [State.logErr_boot]; rfl
  case below =>
    have hlimit : decide (c < tripLimit d sn) = true := decide_eq_true hcool
    rw [exec_thermalTrip, execThermalTrip, if_pos (by simp [hlimit])]

end Sys2Proof.Machine

namespace Sys2Proof.Machine

/-! ### Stages of boot (18_boot_and_reset.md R468 to R470) -/

theorem exec_bootStage (r : BootReport) (s : State) : exec (.bootStage r) s = execBootStage r s := rfl

/-- A report of no running stage, or that meets a boot that has ended or waits, does nothing. -/
theorem execBootStage_of_idle {r : BootReport} {s : State}
    (h : s.boot.failedStage ≠ 0 ∨ s.boot.done = true ∨ s.boot.held = true ∨ s.stageRuns r.stage = false) :
    execBootStage r s = .next s := by
  rw [execBootStage, if_pos]
  obtain h | h | h | h := h <;> simp [h]

theorem execBootStage_of_running {r : BootReport} {s : State} (hheld : s.boot.held = false) (hdone : s.boot.done = false)
    (hrecovery : s.boot.recovery = false) (htrip : s.boot.thermtrip = false) (hfailed : s.boot.failedStage = 0)
    (hruns : s.stageRuns r.stage = true) :
    execBootStage r s = .next (if s.log.fatal then s.haltBoot r.stage 8 else if r.err ≠ 0 then s.haltBoot r.stage r.err
      else s.endStage r) := by
  rw [execBootStage, if_neg (by simp [hheld, hdone, hrecovery, htrip, hfailed, hruns])]

/-- A stage that fails halts boot and makes a record. -/
theorem State.haltBoot_spec (s : State) (stage err : Nat) :
    (s.haltBoot stage err).boot = { s.boot with failedStage := stage, err := err } ∧ (s.haltBoot stage err).mem = s.mem ∧
    (s.haltBoot stage err).cfg.booted = s.cfg.booted := by
  unfold State.haltBoot
  obtain ⟨_, _, _, _, h⟩ := State.logErr_frame ((s.modBoot (fun b => { b with failedStage := stage, err := err })).drawNat 65536).2
    { cfgRec with cls := 2, code := ((s.modBoot (fun b => { b with failedStage := stage, err := err })).drawNat 65536).1 }
  dsimp only
  rw [h]
  exact ⟨rfl, rfl, rfl⟩

theorem State.stageRuns_iff {s : State} {k : Nat} (hk : k ≠ 5) (hk' : k ≠ 6) : s.stageRuns k = decide (s.boot.stage = k) := by
  simp [State.stageRuns, hk, hk']

/-! ### Stage 0x2: the bank -/

/-- The items that a list puts in force. -/
def itemTable (l : List CfgItem) (t : Table (Option Word)) : Table (Option Word) :=
  l.foldl (fun t i => Table.put none t (itemKey i.sect i.code i.index) (some i.value)) t

theorem State.foldl_setItem (l : List CfgItem) (s : State) :
    l.foldl State.setItem s = s.modCfg (fun c => { c with items := itemTable l c.items }) := by
  induction l generalizing s with
  | nil => rfl
  | cons i l ih => exact ih _

theorem State.withItems_eq (s : State) (l : List CfgItem) :
    s.withItems l = s.modCfg (fun c => { c with items := itemTable l [] }) := State.foldl_setItem ..

/-- The checks of an image do not look at the note of the last failed verification. -/
theorem State.chooseBank_verifyErr (s : State) (f : Cfg → Nat) :
    (s.modCfg (fun c => { c with verifyErr := f c })).chooseBank = s.chooseBank := by
  have hverify : ∀ img, (s.modCfg (fun c => { c with verifyErr := f c })).verifyImage img = s.verifyImage img := by
    intro img
    unfold State.verifyImage
    simp only [State.withItems_eq]
    rfl
  have hjudge : ∀ b, (s.modCfg (fun c => { c with verifyErr := f c })).judgeBank b = s.judgeBank b := by
    intro b
    unfold State.judgeBank
    rw [hverify]
    rfl
  simp only [State.chooseBank, hjudge]
  rfl

/-- Boot's own state and which bank has booted stand. -/
def State.SameBank (s t : State) : Prop :=
  t.boot = s.boot ∧ t.cfg.booted = s.cfg.booted ∧ t.cfg.bank = s.cfg.bank ∧ t.cfg.seq = s.cfg.seq

theorem State.SameBank.trans {s t u : State} (h : s.SameBank t) (k : t.SameBank u) : s.SameBank u := by
  obtain ⟨hboot, hbooted, hbank, hseq⟩ := h
  obtain ⟨kboot, kbooted, kbank, kseq⟩ := k
  exact ⟨kboot.trans hboot, kbooted.trans hbooted, kbank.trans hbank, kseq.trans hseq⟩

theorem State.sameBank_logErr (s : State) (r : ErrRec) : s.SameBank (s.logErr r) := by
  obtain ⟨_, _, _, _, h⟩ := State.logErr_frame s r
  rw [h]
  exact ⟨rfl, rfl, rfl, rfl⟩

theorem State.sameBank_withItems (s : State) (l : List CfgItem) : s.SameBank (s.withItems l) := by
  rw [State.withItems_eq]
  exact ⟨rfl, rfl, rfl, rfl⟩

theorem State.sameBank_extend (s : State) (m : Nat) (bs : List Byte) : s.SameBank (s.extend m bs) := ⟨rfl, rfl, rfl, rfl⟩

/-- The bank taken is the one booted, with its sequence number. -/
theorem State.takeImage_spec (s : State) (b : Nat) :
    (s.takeImage b).boot = s.boot ∧ (s.takeImage b).cfg.booted = true ∧ (s.takeImage b).cfg.bank = b ∧
    (s.takeImage b).cfg.seq = BitVec.ofNat 32 (s.cfg.trailer b).seq := by
  unfold State.takeImage
  dsimp only
  generalize hu : s.modCfg _ = u
  have htaken : ∀ v, u.SameBank v → ∀ n, (v.modCfg (fun c => { c with quadsEnabled := n })).boot = s.boot ∧
      (v.modCfg (fun c => { c with quadsEnabled := n })).cfg.booted = true ∧
      (v.modCfg (fun c => { c with quadsEnabled := n })).cfg.bank = b ∧
      (v.modCfg (fun c => { c with quadsEnabled := n })).cfg.seq = BitVec.ofNat 32 (s.cfg.trailer b).seq := by
    rintro v ⟨hboot, hbooted, hbank, hseq⟩ n
    subst hu
    exact ⟨hboot, hbooted, hbank, hseq⟩
  have hlogged : u.SameBank (if s.fellBack b = true then u.logErr cfgRec else u) := by
    split
    · exact State.sameBank_logErr ..
    · exact ⟨rfl, rfl, rfl, rfl⟩
  exact htaken _ ((((hlogged.trans (State.sameBank_extend ..)).trans (State.sameBank_extend ..)).trans
    (State.sameBank_extend ..)).trans (State.sameBank_withItems ..)) _

/-- Stage 0x2 with a bank that passes every check. -/
theorem State.selectBank_of_some {s : State} {k : Nat} (h : s.chooseBank = some k) :
    s.selectBank.boot.stage = 3 ∧ s.selectBank.cfg.booted = true ∧ s.selectBank.cfg.bank = k ∧
    s.selectBank.cfg.seq = BitVec.ofNat 32 (s.cfg.trailer k).seq := by
  unfold State.selectBank
  simp only [State.chooseBank_verifyErr, h]
  obtain ⟨-, hbooted, hbank, hseq⟩ := State.takeImage_spec (s.modCfg (fun c =>
    { c with verifyErr := if s.bootVerifyErr = 0 then c.verifyErr else s.bootVerifyErr })) k
  exact ⟨rfl, hbooted, hbank, hseq⟩

/-- Stage 0x2 with none: recovery. -/
theorem State.selectBank_of_none {s : State} (h : s.chooseBank = none) :
    s.selectBank.boot = { s.boot with recovery := true, failedStage := 2, err := 1 } ∧ s.selectBank.cfg.booted = s.cfg.booted := by
  unfold State.selectBank
  simp only [State.chooseBank_verifyErr, h]
  obtain ⟨hboot, -, hbooted⟩ := State.haltBoot_spec ((s.modCfg (fun c =>
    { c with verifyErr := if s.bootVerifyErr = 0 then c.verifyErr else s.bootVerifyErr })).modBoot (fun b => { b with recovery := true })) 2 1
  exact ⟨hboot, hbooted⟩

/-! ### Stages 0x3 to 0x6 -/

/-- Stage 0x3: the mode of the image is in force, with its dividers and rails. -/
theorem State.bootMode_spec (s : State) :
    s.bootMode.boot = s.boot ∧ s.bootMode.power.cur = s.item 6 1 0 ∧
    ∀ d, s.bootMode.diePower d = if d < 4 then
      { s.diePower d with divider := s.modeDivider (s.item 6 1 0), railMv := fusedMv d (s.item 6 1 0) } else s.diePower d := by
  obtain ⟨honly, hdie⟩ := State.foldl_modDiePower
    (s := s.modPower (fun p => { p with req := s.item 6 1 0, cur := s.item 6 1 0, target := s.item 6 1 0 }))
    (F := fun t d x => { x with divider := t.modeDivider (s.item 6 1 0), railMv := fusedMv d (s.item 6 1 0) })
    (fun t ht => by rw [ht]; rfl) 4
  have hboot := congrArg State.boot honly
  have hcur := congrArg (fun t : State => t.power.cur) honly
  exact ⟨hboot, hcur, hdie⟩

/-- Stage 0x4 with no field record and no failed quad only goes on. -/
theorem State.startQuads_of_good {s : State} (hfield : s.cfg.field = []) :
    s.startQuads [] = s.modBoot (fun b => { b with stage := 5 }) := by
  simp [State.startQuads, hfield, State.selfTest]

/-- Only the links differ. -/
def State.OnlyLinks (s t : State) : Prop := t = { s with links := t.links }

theorem State.OnlyLinks.modLink {s t : State} (h : s.OnlyLinks t) (n : Nat) (f : Link → Link) : s.OnlyLinks (t.modLink n f) := by
  rw [State.OnlyLinks] at h ⊢
  conv_lhs => rw [h]
  rfl

theorem State.foldl_training (s : State) (n : Nat) :
    s.OnlyLinks ((List.range n).foldl (fun s k => if s.linkUnused k then s else s.startTraining k) s) ∧
    ∀ i, (((List.range n).foldl (fun s k => if s.linkUnused k then s else s.startTraining k) s).link i).st =
      if i < n ∧ s.linkUnused i = false then .training else (s.link i).st := by
  induction n with
  | zero => exact ⟨rfl, fun i => by simp⟩
  | succ n ih =>
    rw [List.range_succ, List.foldl_append, List.foldl_cons, List.foldl_nil]
    generalize (List.range n).foldl _ s = t at ih ⊢
    obtain ⟨honly, hlink⟩ := ih
    have hunused : t.linkUnused n = s.linkUnused n := by rw [honly]; rfl
    rw [hunused]
    cases hn : s.linkUnused n with
    | true =>
      refine ⟨honly, fun i => ?_⟩
      rw [if_pos rfl, hlink]
      by_cases hi : i = n
      · subst hi; simp [hn]
      · have hlt : i < n + 1 ↔ i < n := by omega
        simp only [hlt]
    | false =>
      rw [if_neg (by simp)]
      refine ⟨honly.modLink .., fun i => ?_⟩
      by_cases hi : i = n
      · subst hi
        simp [State.startTraining, hn]
      · have hlt : i < n + 1 ↔ i < n := by omega
        simp only [hlt]
        rw [← hlink, State.startTraining, State.link_modLink_ne _ _ hi]

/-- Once memory and flash have both finished, stage 0x7 starts and every link that the image uses begins to train. -/
theorem State.joinStages_spec (s : State) :
    s.joinStages = { s with boot := s.joinStages.boot, links := s.joinStages.links } ∧
    s.joinStages.boot.stage = (if s.boot.memDone && s.boot.flashDone then 7 else s.boot.stage) ∧
    ∀ n, n < 6 → (s.joinStages.link n).st =
      if s.boot.memDone && s.boot.flashDone && !s.linkUnused n then .training else (s.link n).st := by
  unfold State.joinStages State.startLinks
  cases hboth : s.boot.memDone && s.boot.flashDone with
  | false => exact ⟨rfl, rfl, fun n hn => by simp⟩
  | true =>
    obtain ⟨honly, hlink⟩ := State.foldl_training (s.modBoot (fun b => { b with stage := 7 })) 6
    rw [if_pos rfl]
    refine ⟨?_, ?_, fun n hn => ?_⟩
    · rw [honly]; rfl
    · rw [honly]; rfl
    · rw [hlink]
      have hsame : (s.modBoot (fun b => { b with stage := 7 })).linkUnused n = s.linkUnused n := rfl
      rw [hsame]
      simp [hn]
      rfl

/-- Stage 0x6: the tier is formatted as the image says, and what was formatted so stays. -/
theorem State.startFlash_spec (s : State) :
    s.startFlash.tier.formatted = (s.item 7 1 0, s.item 7 2 0) ∧
    (s.tier.formatted = (s.item 7 1 0, s.item 7 2 0) →
      s.startFlash.tier = { s.tier with readOnly := s.startFlash.tier.readOnly } ∧ s.startFlash.flash = s.flash) ∧
    (s.tier.formatted ≠ (s.item 7 1 0, s.item 7 2 0) → s.startFlash.tier.tiles = [] ∧ s.startFlash.flash = []) ∧
    s.startFlash.boot = s.boot ∧ s.startFlash.links = s.links ∧ ∀ n, s.startFlash.linkUnused n = s.linkUnused n := by
  unfold State.startFlash
  dsimp only
  by_cases hsame : s.tier.formatted = (s.item 7 1 0, s.item 7 2 0)
  · rw [if_pos (by exact hsame)]
    exact ⟨hsame, fun _ => ⟨rfl, rfl⟩, fun h => absurd hsame h, rfl, rfl, fun _ => rfl⟩
  · rw [if_neg (by exact hsame)]
    obtain ⟨_, _, _, _, hlog⟩ := State.logErr_frame { ((s.modTier (fun z => { z with readOnly := s.spentSpares })).modTier (fun z =>
      { z with tiles := [], placed := [], regions := [], formatted := (s.item 7 1 0, s.item 7 2 0), checkpoints := [],
               channels := Table.mapVals Channel.reset Channel.formatted z.channels })) with flash := [], flashPoison := [] } cfgRec
    rw [hlog]
    exact ⟨rfl, fun h => absurd h hsame, fun _ => ⟨rfl, rfl⟩, rfl, rfl, fun _ => rfl⟩

/-! ### Stage 0x7: the first stage -/

theorem State.hasBytes_of_mem_eq {s t : State} {pa : Nat} {bs : List Byte} (hmem : t.mem = s.mem) (h : s.hasBytes pa bs) :
    t.hasBytes pa bs := fun i hi => by
  rw [State.byte, hmem]
  exact h i hi

theorem State.mem_finishBoot (s : State) : s.finishBoot.mem = s.copyHostStage.mem := by
  simp only [State.finishBoot, State.modBoot_mem, State.modPower_mem]

/-- With no sector poisoned, the first stage stands at address 0 after it has been copied. -/
theorem State.hasBytes_copyHostStage {s : State} (hclean : ∀ i, s.sectorPoison i = false) :
    s.copyHostStage.hasBytes 0 (Config.hostFirstStage (sectionBytes s.bootImage 10)) := by
  intro i hi
  rw [State.copyHostStage, State.byte_writeMem (fun _ => ⟨fun _ => hclean _, fun _ => hclean _⟩)]
  rw [if_pos ⟨Nat.zero_le _, by omega⟩]
  simp

section
variable {s : State} {r : BootReport}

theorem State.measure_extend (s : State) (m : Nat) (bs : List Byte) :
    (s.extend m bs).cfg.measure m = Config.shake256 (s.cfg.measure m ++ Config.shake256 bs) := by
  unfold State.extend State.modCfg Cfg.measure
  exact Table.get_put_same ..

theorem State.endStage_rom (h : r.stage = 1) : s.endStage r = (s.extend 0 Config.bootRom).modBoot (fun b => { b with stage := 2 }) := by
  simp only [State.endStage, h]
theorem State.endStage_bank (h : r.stage = 2) : s.endStage r = s.selectBank := by simp only [State.endStage, h]
theorem State.endStage_power (h : r.stage = 3) : s.endStage r = s.bootMode.modBoot (fun b => { b with stage := 4 }) := by
  simp only [State.endStage, h]
theorem State.endStage_quads (h : r.stage = 4) : s.endStage r = s.startQuads r.selfTestFailed := by simp only [State.endStage, h]
theorem State.endStage_memory (h : r.stage = 5) :
    s.endStage r = (s.fillMemory.modBoot (fun b => { b with memDone := true })).joinStages := by
  simp only [State.endStage, h]
theorem State.endStage_flash (h : r.stage = 6) :
    s.endStage r = (s.startFlash.modBoot (fun b => { b with flashDone := true })).joinStages := by
  simp only [State.endStage, h]
theorem State.endStage_host (h : r.stage = 7) : s.endStage r = s.finishBoot := by simp only [State.endStage, h]

end

/-- Settles O55: each stage by the lemma of its end. -/
theorem bootRunsItsStages : Obligations.BootRunsItsStages := by
  unfold Obligations.BootRunsItsStages
  intro r s
  dsimp only
  refine ⟨fun hidle => execBootStage_of_idle hidle, fun hheld hdone hrecovery htrip hfailed hruns => ?_⟩
  have hexec := execBootStage_of_running hheld hdone hrecovery htrip hfailed hruns
  have hhalts : ∀ err, (s.haltBoot r.stage err).boot.failedStage = r.stage ∧ (s.haltBoot r.stage err).boot.err = err ∧
      (s.haltBoot r.stage err).boot.stage = s.boot.stage ∧ (s.haltBoot r.stage err).boot.done = false ∧
      (s.haltBoot r.stage err).boot.hostHeld = s.boot.hostHeld ∧ (s.haltBoot r.stage err).mem = s.mem := by
    intro err
    obtain ⟨hboot, hmem, -⟩ := s.haltBoot_spec r.stage err
    rw [hboot]
    exact ⟨rfl, rfl, rfl, hdone, rfl, hmem⟩
  rw [exec_bootStage, hexec]
  refine ⟨fun hfatal => ?fatal, fun hfatal herr => ?failed, fun hfatal herr => ?ends⟩
  case fatal => rw [if_pos hfatal]; exact ⟨_, rfl, hhalts 8⟩
  case failed => rw [if_neg (by simp [hfatal]), if_pos herr]; exact ⟨_, rfl, hhalts r.err⟩
  case ends =>
    rw [if_neg (by simp [hfatal]), if_neg (not_not.mpr herr)]
    refine ⟨fun hr => ?rom, fun hr => ?bank, fun hr => ?power, fun hr hfield hgood => ?quads, fun hr => ?memory, fun hr => ?flash,
      fun hr hclean => ?host⟩
    all_goals rw [hr] at hruns
    case rom => rw [State.endStage_rom hr]; exact ⟨_, rfl, rfl, State.measure_extend ..⟩
    case bank =>
      rw [State.endStage_bank hr]
      have hstage : s.boot.stage = 2 := by simpa [State.stageRuns] using hruns
      refine ⟨fun k hk => ⟨_, rfl, State.selectBank_of_some hk⟩, fun hnone => ?_⟩
      obtain ⟨hboot, hbooted⟩ := State.selectBank_of_none hnone
      refine ⟨_, rfl, ?_⟩
      rw [hboot]
      exact ⟨hstage, rfl, rfl, hbooted⟩
    case power =>
      rw [State.endStage_power hr]
      obtain ⟨hboot, hcur, hdie⟩ := s.bootMode_spec
      have hdie' : ∀ d, (s.bootMode.modBoot (fun b => { b with stage := 4 })).diePower d = s.bootMode.diePower d := fun _ => rfl
      refine ⟨_, rfl, ?_, hcur, fun d hd => ?_, fun d hd => ?_⟩
      · rw [State.modBoot, hboot]
      · rw [hdie', hdie, if_pos hd]; exact ⟨rfl, rfl⟩
      · rw [hdie', hdie, if_neg (by omega)]
    case quads => rw [State.endStage_quads hr, hgood]; exact congrArg _ (State.startQuads_of_good hfield)
    case memory =>
      rw [State.endStage_memory hr]
      have hstage : s.boot.stage = 5 := by simpa [State.stageRuns] using (Bool.and_eq_true_iff.mp hruns).1
      obtain ⟨hframe, hnext, hlink⟩ := (s.fillMemory.modBoot (fun b => { b with memDone := true })).joinStages_spec
      refine ⟨_, rfl, fun a => by rw [hframe]; rfl, fun i => by rw [hframe]; rfl, ?_, fun n hn => ?_⟩
      · rw [hnext]; simp [State.modBoot, State.fillMemory, hstage]
      · rw [hlink n hn]; rfl
    case flash =>
      rw [State.endStage_flash hr]
      have hstage : s.boot.stage = 5 := by simpa [State.stageRuns] using (Bool.and_eq_true_iff.mp hruns).1
      obtain ⟨hformat, hsame, hother, hboot, hlinks, hunused⟩ := s.startFlash_spec
      obtain ⟨hframe, hnext, hlink⟩ := (s.startFlash.modBoot (fun b => { b with flashDone := true })).joinStages_spec
      have htier : (s.startFlash.modBoot (fun b => { b with flashDone := true })).joinStages.tier = s.startFlash.tier := by rw [hframe]; rfl
      have hflash : (s.startFlash.modBoot (fun b => { b with flashDone := true })).joinStages.flash = s.startFlash.flash := by rw [hframe]; rfl
      refine ⟨_, rfl, ?_⟩
      rw [htier, hflash]
      refine ⟨hformat, hsame, hother, ?_, fun n hn => ?_⟩
      · rw [hnext]; simp [State.modBoot, hboot, hstage]
      · have hsame : (s.startFlash.modBoot (fun b => { b with flashDone := true })).link n = s.link n :=
          congrArg (Table.get Link.reset · n) hlinks
        have hused : (s.startFlash.modBoot (fun b => { b with flashDone := true })).linkUnused n = s.linkUnused n := hunused n
        rw [hlink n hn, hsame, hused]
        simp [State.modBoot, hboot]
    case host =>
      rw [State.endStage_host hr]
      exact ⟨_, rfl, rfl, rfl, rfl, State.hasBytes_of_mem_eq s.mem_finishBoot (State.hasBytes_copyHostStage hclean)⟩

end Sys2Proof.Machine

namespace Sys2Proof.Machine

/-! ### Package reset (18_boot_and_reset.md R462 to R464, Table BRT-3) -/

theorem exec_packageReset (c : ResetCause) (s : State) : exec (.packageReset c) s = execPackageReset c s := rfl
theorem exec_packageResetRelease (v : BitVec 16) (s : State) :
    exec (.packageResetRelease v) s = execPackageResetRelease v s := rfl
theorem exec_quadReset (p : Port) (q : Nat) (s : State) : exec (.quadReset p q) s = execQuadReset p q s := rfl
theorem exec_computeDieReset (p : Port) (d : Nat) (s : State) : exec (.computeDieReset p d) s = execComputeDieReset p d s := rfl
theorem exec_dieResetDone (d : Nat) (ok : List Bool) (s : State) : exec (.dieResetDone d ok) s = execDieResetDone d ok s := rfl
theorem exec_hostComplexReset (src : HostResetSource) (s : State) :
    exec (.hostComplexReset src) s = execHostComplexReset src s := rfl
theorem exec_hostResetRelease (s : State) : exec .hostResetRelease s = execHostResetRelease s := rfl
theorem exec_rstCauseFatalClear (p : Port) (s : State) : exec (.rstCauseFatalClear p) s = execRstCauseFatalClear p s := rfl

/-- A region whose load a reset cut off takes one of two states. -/
def State.settleRegion (s : State) (e : Nat × Nat) : State :=
  (s.drawNat 2).2.modTier (fun z => { z with regions := Table.put 0 z.regions e.1 (if (s.drawNat 2).1 = 0 then 0 else 3) })

/-- Settling the regions changes the tier and draws, no more. -/
theorem State.settleRegions_frame (s : State) :
    s.settleRegions.flash = s.flash ∧ s.settleRegions.cfg = s.cfg ∧ s.settleRegions.log = s.log :=
  ⟨foldl_reads_same (f := State.settleRegion) State.flash (fun _ _ => rfl) ..,
    foldl_reads_same (f := State.settleRegion) State.cfg (fun _ _ => rfl) ..,
    foldl_reads_same (f := State.settleRegion) State.log (fun _ _ => rfl) ..⟩

/-- What a package reset clears and what it keeps. -/
theorem State.restart_spec (s : State) (cause : Boot) (lost : Bool) :
    (s.restart cause lost).boot = { cause with
      afterFatal := (s.restart cause lost).boot.afterFatal, thermtrip := (s.restart cause lost).boot.thermtrip } ∧
    (s.restart cause lost).quads = [] ∧ (s.restart cause lost).mem = [] ∧ (s.restart cause lost).sync = [] ∧
    (s.restart cause lost).cores = [] ∧ (s.restart cause lost).coh = State.reset.coh ∧
    (s.restart cause lost).flash = s.flash ∧ (s.restart cause lost).cfg = s.cfg.restarted ∧
    (s.restart cause lost).log = if lost then ErrLog.reset
      else { ErrLog.reset with fatalMore := s.log.fatalMore, fatalLast := s.log.fatalLast } := by
  obtain ⟨hflash, hcfg, hlog⟩ := s.settleRegions_frame
  unfold State.restart
  dsimp only
  rw [hflash, hcfg, hlog]
  exact ⟨rfl, rfl, rfl, rfl, rfl, rfl, rfl, rfl, rfl⟩

/-! ### Quads (18_boot_and_reset.md R466) -/

/-- A queue that was never used has nothing to abort. -/
theorem State.killQueue_of_reset {s : State} {q j : Nat} (h : s.queue q j = Queue.reset) : s.killQueue q j = s := by
  simp [State.killQueue, h, Queue.reset]

/-- A quad's suspicion stands, and none of its windows holds a packet. -/
structure State.Unburdened (s t : State) (q : Nat) : Prop where
  score : (t.quad q).score = (s.quad q).score
  suspect : (t.quad q).suspect = (s.quad q).suspect
  held : ∀ w, (t.window q w).held = []

theorem State.Unburdened.modWindow {s t : State} {q : Nat} (h : s.Unburdened t q) (w : Nat) {f : Window → Window}
    (hf : ∀ x : Window, x.held = [] → (f x).held = []) : s.Unburdened (t.modWindow q w f) q := by
  have hquad : (t.modWindow q w f).quad q =
      { t.quad q with windows := Table.put Window.reset (t.quad q).windows w (f (t.window q w)) } := State.quad_modQuad_same ..
  refine ⟨?_, ?_, fun v => ?_⟩
  · rw [hquad]; exact h.score
  · rw [hquad]; exact h.suspect
  · rw [State.window, hquad]
    show (Table.get Window.reset (Table.put Window.reset _ _ _) _).held = _
    rw [Table.get_put]
    split
    · exact hf _ (h.held w)
    · exact h.held v

/-- Closing a window that holds no packet. -/
theorem State.Unburdened.shutWindow {s t : State} {q : Nat} (h : s.Unburdened t q) (w : Nat) : s.Unburdened (t.shutWindow q w) q := by
  have hclose : s.Unburdened (t.modWindow q w Window.close) q := h.modWindow w (fun x hx => hx)
  unfold State.shutWindow State.releaseHeld
  rw [hclose.held w]
  exact hclose.modWindow w (fun x hx => rfl)

theorem State.Unburdened.foldl_shutWindow {s t : State} {q : Nat} (h : s.Unburdened t q) (l : List Nat) :
    s.Unburdened (l.foldl (fun s w => s.shutWindow q w) t) q := by
  induction l generalizing t with
  | nil => exact h
  | cons w l ih => exact ih (h.shutWindow w)

/-- A quad's queues aborted and its windows closed. -/
def State.stopQuad (s : State) (q : Nat) : State :=
  (List.range 32).foldl (fun s w => s.shutWindow q w) ((List.range 16).foldl (fun s j => s.killQueue q j) s)

theorem State.quad_of_latches (s : State) (l : Table Word) (q : Nat) : State.quad { s with latches := l } q = s.quad q := rfl

theorem State.quad_resetQuad (s : State) (q : Nat) : (s.resetQuad q).quad q = ((s.stopQuad q).quad q).restarted := by
  unfold State.resetQuad State.stopQuad
  simp only [State.quad_modQuad_same, State.quad_of_latches]

/-- A quad with no queue and no window in use keeps its suspicion. -/
theorem State.resetQuad_suspicion {s : State} {q : Nat} (hqueues : (s.quad q).queues = []) (hwindows : (s.quad q).windows = []) :
    ((s.resetQuad q).quad q).score = (s.quad q).score ∧ ((s.resetQuad q).quad q).suspect = (s.quad q).suspect := by
  have hqueue : ∀ j, s.queue q j = Queue.reset := fun j => by rw [State.queue, Quad.queue, hqueues]; rfl
  have hkill : ∀ l : List Nat, l.foldl (fun s j => s.killQueue q j) s = s := by
    intro l
    induction l with
    | nil => rfl
    | cons j l ih => rw [List.foldl_cons, State.killQueue_of_reset (hqueue j), ih]
  have hstart : s.Unburdened s q := ⟨rfl, rfl, fun w => by rw [State.window, Quad.window, hwindows]; rfl⟩
  have hshut := hstart.foldl_shutWindow (List.range 32)
  rw [State.quad_resetQuad, State.stopQuad, hkill]
  generalize (List.range 32).foldl (fun (s : State) w => s.shutWindow q w) s = u at hshut ⊢
  exact ⟨hshut.score, hshut.suspect⟩

/-! ### Compute dies (18_boot_and_reset.md R465) -/

theorem State.byte_zeroMem (s : State) (pa n a : Nat) :
    (s.zeroMem pa n).byte a = if pa ≤ a ∧ a < pa + n then memDefault else s.byte a := Table.get_drop ..

/-- The end of a compute-die reset: memory of the die, then its sync objects, then the mark. -/
theorem State.resetDie_eq (s : State) (d : Nat) :
    ∃ (v z : State) (waits : List Reg) (regs : Table (List Reg)),
      z = (v.zeroMem (0x180000000000 + 16 * d * 0x2000000) (16 * 0x2000000)).zeroMem (0x180080000000 + d * 0x8000000) 0x8000000 ∧
      s.resetDie d = ({ z with sync := Table.drop z.sync (4096 * d) 4096, regs := regs } : State).modBoot (fun b =>
        { b with diesInReset := b.diesInReset ++ [d], rewaits := b.rewaits ++ waits }) := by
  unfold State.resetDie
  dsimp only
  generalize (State.linesHomed _ d).foldl (fun (s : State) l => s.purge l true) _ = u
  exact ⟨_, _, _, _, rfl, rfl⟩

/-- A compute-die reset clears the die's scratch, pool and sync objects. -/
theorem State.resetDie_spec (s : State) (d : Nat) :
    (s.resetDie d).boot.diesInReset.contains d = true ∧
    (∀ o, 4096 * d ≤ o → o < 4096 * (d + 1) → Table.get 0 (s.resetDie d).sync o = 0) ∧
    (∀ a, 0x180000000000 + 0x20000000 * d ≤ a → a < 0x180000000000 + 0x20000000 * (d + 1) → (s.resetDie d).byte a = 0) ∧
    ∀ a, 0x180080000000 + 0x8000000 * d ≤ a → a < 0x180080000000 + 0x8000000 * (d + 1) → (s.resetDie d).byte a = 0 := by
  obtain ⟨v, z, waits, regs, hz, heq⟩ := s.resetDie_eq d
  have hdies : (s.resetDie d).boot.diesInReset = z.boot.diesInReset ++ [d] := by rw [heq]; rfl
  have hsync : (s.resetDie d).sync = Table.drop z.sync (4096 * d) 4096 := by rw [heq]; rfl
  have hmem : (s.resetDie d).mem = z.mem := by rw [heq]; rfl
  have hbyte : ∀ a, (s.resetDie d).byte a = z.byte a := fun a => by rw [State.byte, hmem]; rfl
  refine ⟨by simp [hdies], fun o hlo hhi => ?_, fun a hlo hhi => ?_, fun a hlo hhi => ?_⟩
  · rw [hsync, Table.get_drop, if_pos (by omega)]
  · rw [hbyte, hz, State.byte_zeroMem, State.byte_zeroMem]
    split
    · rfl
    · rw [if_pos (by omega)]; rfl
  · rw [hbyte, hz, State.byte_zeroMem, if_pos (by omega)]
    rfl

/-- What a self-test leaves of what the die's return needs. -/
theorem State.selfTest_frame (s : State) (d : Nat) (failed : Nat → Bool) :
    (s.selfTest d failed).boot.diesInReset = s.boot.diesInReset ∧ (s.selfTest d failed).boot.rewaits = s.boot.rewaits ∧
    (s.selfTest d failed).boot.heldSync = s.boot.heldSync ∧ (s.selfTest d failed).coh = s.coh := by
  have hphys : ∀ (t : State) (p : Nat), ((t.failPhys d failed p).boot.diesInReset, (t.failPhys d failed p).boot.rewaits,
      (t.failPhys d failed p).boot.heldSync, (t.failPhys d failed p).coh) =
      (t.boot.diesInReset, t.boot.rewaits, t.boot.heldSync, t.coh) := by
    intro t p
    unfold State.failPhys
    split
    · dsimp only
      split
      · rfl
      · rfl
    · split
      · rfl
      · rfl
  have hfold := foldl_reads_same (f := fun (s : State) p => if failed p then s.failPhys d failed p else s)
    (fun t : State => (t.boot.diesInReset, t.boot.rewaits, t.boot.heldSync, t.coh))
    (fun t p => by split; exacts [hphys t p, rfl]) (List.range 18) s
  simpa [State.selfTest] using hfold

/-- A die comes back with nothing waiting for it. -/
theorem State.dieReturns_spec {s : State} (d : Nat) (ok : List Bool) (hwaits : s.boot.rewaits = []) (hheld : s.boot.heldSync = [])
    (hwaiting : s.coh.waiting = []) :
    (s.dieReturns d ok).boot.diesInReset = s.boot.diesInReset.filter (· ≠ d) := by
  obtain ⟨hdies, hwaits', hheld', hcoh⟩ := s.selfTest_frame d (fun p => !(ok.getD p true))
  rw [hwaits] at hwaits'
  rw [hheld] at hheld'
  rw [← hcoh] at hwaiting
  unfold State.dieReturns
  dsimp only
  generalize s.selfTest d (fun p => !(ok.getD p true)) = u at *
  simp [State.modBoot, State.releaseSync, State.syncAll, State.wakeHomes, State.servePasses, hwaits', hheld', hwaiting, hdies]

/-! ### The host complex goes down (18_boot_and_reset.md R467, 12_coherence.md R353) -/

/-- A tile that memory holds as its own: written, or dirty. -/
def State.Resident (s : State) (t : Nat) : Prop := s.tileSt t = .w ∨ s.tileSt t = .d

/-- Opening a tile changes memory, its poison and the tier. -/
theorem State.openTile_frame (s : State) (t : Nat) :
    ∃ m p z, s.openTile t = { s with mem := m, poison := p, tier := z } ∧ z.regions = s.tier.regions ∧
      (∀ a, a < tileAddr t ∨ tileAddr t + 4096 ≤ a → Table.get memDefault m a = s.byte a) ∧
      (∀ i, i < tileAddr t / 64 ∨ tileAddr t / 64 + 64 ≤ i → Table.get false p i = s.sectorPoison i) ∧
      (∀ y, y ≠ t → Table.get Tile.fresh z.tiles y = s.tile y) := by
  have hput : ∀ (u : State) x, u.tier.tiles = s.tier.tiles → ∀ y, y ≠ t →
      Table.get Tile.fresh (Table.put Tile.fresh u.tier.tiles t x) y = s.tile y :=
    fun u x hu y hy => (Table.get_put_ne _ _ _ hy).trans (by rw [hu]; rfl)
  have hflash : ∀ i, i < tileAddr t / 64 ∨ tileAddr t / 64 + 64 ≤ i → (s.fillFromFlash t).sectorPoison i = s.sectorPoison i := by
    intro i hi
    show Table.get false (Table.splice false _ _ _) _ = _
    rw [Table.get_splice, List.length_replicate, if_neg (by omega)]
    rfl
  have hzero : ∀ i, i < tileAddr t / 64 ∨ tileAddr t / 64 + 64 ≤ i → (s.fillZero t).sectorPoison i = s.sectorPoison i :=
    fun i hi => (Table.get_drop ..).trans (if_neg (by omega))
  unfold State.openTile
  split
  · exact ⟨_, _, _, rfl, rfl, fun _ _ => rfl, fun _ _ => rfl, hput s _ rfl⟩
  · exact ⟨_, _, _, rfl, rfl, fun _ _ => rfl, fun _ _ => rfl, fun _ _ => rfl⟩
  · exact ⟨_, _, _, rfl, rfl, fun _ _ => rfl, fun _ _ => rfl, fun _ _ => rfl⟩
  · exact ⟨_, _, _, rfl, rfl, fun a ha => s.byte_fillFromFlash_ne ha, hflash, hput (s.fillFromFlash t) _ rfl⟩
  · exact ⟨_, _, _, rfl, rfl, fun a ha => s.byte_fillFromFlash_ne ha, hflash, hput (s.fillFromFlash t) _ rfl⟩
  · exact ⟨_, _, _, rfl, rfl, fun a ha => (s.byte_fillZero t a).trans (if_neg (by omega)), hzero, hput (s.fillZero t) _ rfl⟩

theorem State.openTile_of_resident {s : State} {t : Nat} (h : s.Resident t) : s.openTile t = s := by
  unfold State.openTile
  obtain h | h := h
  · rw [h]
  · rw [h]

/-- A tile's state is what it was last set to, where that is not unused. -/
theorem State.tileSt_of_tile {s : State} {t : Nat} {x : Tile} (htile : s.tile t = x) (hx : x.st ≠ .u) : s.tileSt t = x.st := by
  simp [State.tileSt, htile, hx]

theorem State.resident_openTile (s : State) (t : Nat) : (s.openTile t).Resident t := by
  have hset : ∀ (u : State) (x : Tile), ((u.setTile t x).enterGroup t).tile t = x := fun u x => Table.get_put_same ..
  have hdirty : ∀ (u : State) (x : Tile), (u.setTile t x).tile t = x := fun u x => Table.get_put_same ..
  unfold State.openTile
  split
  · exact .inr (State.tileSt_of_tile (hdirty ..) (by simp))
  · next h => exact .inr h
  · next h => exact .inl h
  · exact .inl (State.tileSt_of_tile (hset ..) (by simp))
  · exact .inl (State.tileSt_of_tile (hset ..) (by simp))
  · exact .inl (State.tileSt_of_tile (hset ..) (by simp))

/-- A line's poison stands, and no fill from flash will come over it. -/
def State.Lost (s : State) (line : Nat) : Prop :=
  s.sectorPoison line = true ∧ (isTiered (line * 64) = true → s.Resident (tileOf (line * 64)))

/-- What poisoning lines whose owners are gone leaves: quads, boot, the directory, and memory outside the tiered range. -/
structure State.Losing (s t : State) : Prop where
  quads : t.quads = s.quads
  boot : t.boot = s.boot
  coh : t.coh = { s.coh with homes := t.coh.homes }
  byte : ∀ a, isTiered a = false → t.byte a = s.byte a

theorem State.Losing.refl (s : State) : s.Losing s := ⟨rfl, rfl, rfl, fun _ _ => rfl⟩

theorem State.Losing.trans {s t u : State} (h : s.Losing t) (k : t.Losing u) : s.Losing u :=
  ⟨k.quads.trans h.quads, k.boot.trans h.boot, by rw [k.coh, h.coh], fun a ha => (k.byte a ha).trans (h.byte a ha)⟩

/-- The bytes of a tile of the tiered range lie in the tiered range. -/
theorem isTiered_of_mem_tile {line a : Nat} (h : isTiered (line * 64) = true) (hlo : tileAddr (tileOf (line * 64)) ≤ a)
    (hhi : a < tileAddr (tileOf (line * 64)) + 4096) : isTiered a = true := by
  rw [isTiered_iff] at h ⊢
  unfold tileAddr tileOf tierBase at hlo hhi
  omega

/-- A line lies in the sectors of its tile. -/
theorem line_mem_tile {line : Nat} (h : isTiered (line * 64) = true) :
    tileAddr (tileOf (line * 64)) / 64 ≤ line ∧ line < tileAddr (tileOf (line * 64)) / 64 + 64 := by
  rw [isTiered_iff] at h
  unfold tileAddr tileOf tierBase
  omega

/-- A line outside a tile of the tiered range, as its own tile or its place shows. -/
theorem line_apart {line l : Nat} (h : isTiered (line * 64) = true)
    (hl : isTiered (l * 64) = true → tileOf (l * 64) ≠ tileOf (line * 64)) :
    l < tileAddr (tileOf (line * 64)) / 64 ∨ tileAddr (tileOf (line * 64)) / 64 + 64 ≤ l := by
  by_cases htier : isTiered (l * 64) = true
  · have hne := hl htier
    rw [isTiered_iff] at h htier
    unfold tileAddr tileOf tierBase at *
    omega
  · rw [isTiered_iff] at h htier
    unfold tileAddr tileOf tierBase
    omega

theorem State.losing_openLine (s : State) (line : Nat) : s.Losing (s.openLine line) := by
  unfold State.openLine
  split
  · next h =>
    obtain ⟨m, p, z, heq, -, hbyte, -, -⟩ := s.openTile_frame (tileOf (line * 64))
    rw [heq]
    refine ⟨rfl, rfl, rfl, fun a ha => hbyte a ?_⟩
    by_contra hin
    rw [not_or, not_lt, not_le] at hin
    exact absurd (isTiered_of_mem_tile h hin.1 hin.2) (by simp [ha])
  · exact State.Losing.refl s

/-- A lost line stays lost when another is opened. -/
theorem State.Lost.openLine {s : State} {l : Nat} (h : s.Lost l) (line : Nat) : (s.openLine line).Lost l := by
  unfold State.openLine
  split
  · next htier =>
    by_cases hsame : isTiered (l * 64) = true ∧ tileOf (l * 64) = tileOf (line * 64)
    · rw [State.openTile_of_resident (hsame.2 ▸ h.2 hsame.1)]
      exact h
    · have hne : isTiered (l * 64) = true → tileOf (l * 64) ≠ tileOf (line * 64) := fun hl heq => hsame ⟨hl, heq⟩
      obtain ⟨m, p, z, heq, hregions, -, hpoison, htile⟩ := s.openTile_frame (tileOf (line * 64))
      rw [heq]
      refine ⟨(hpoison l (line_apart htier hne)).trans h.1, fun hl => ?_⟩
      have hst : State.tileSt { s with mem := m, poison := p, tier := z } (tileOf (l * 64)) = s.tileSt (tileOf (l * 64)) := by
        have hx : State.tile { s with mem := m, poison := p, tier := z } (tileOf (l * 64)) = s.tile (tileOf (l * 64)) :=
          htile _ (hne hl)
        have hr : ∀ r, State.region { s with mem := m, poison := p, tier := z } r = s.region r :=
          fun r => congrArg (Table.get 0 · r) hregions
        unfold State.tileSt
        rw [hx]
        simp only [hr]
        rfl
      unfold State.Resident
      rw [hst]
      exact h.2 hl
  · exact h

/-- A line that is opened and poisoned is lost. -/
theorem State.Lost.of_poison {s : State} (line : Nat) : ((s.openLine line).setPoison line true).Lost line := by
  refine ⟨(State.sectorPoison_setPoison ..).trans (if_pos rfl), fun h => ?_⟩
  have hopen : s.openLine line = s.openTile (tileOf (line * 64)) := if_pos h
  rw [hopen]
  exact s.resident_openTile (tileOf (line * 64))

theorem State.Lost.setPoison {s : State} {l : Nat} (h : s.Lost l) (line : Nat) : (s.setPoison line true).Lost l := by
  refine ⟨?_, h.2⟩
  rw [State.sectorPoison_setPoison]
  split
  · rfl
  · exact h.1

/-- Poison, residence and what `State.Losing` names do not depend on a home's registers and records. -/
theorem State.loseOwner_eq (s : State) (line : Nat) :
    ((s.dirEntry line).owner = none ∧ s.loseOwner line = s) ∨
    ∃ homes ev a b l, s.loseOwner line = { (s.openLine line).setPoison line true with
      coh := { (s.openLine line).coh with homes := homes },
      cfg := { (s.openLine line).cfg with events := ev, lostA := a, lostB := b }, log := l } := by
  unfold State.loseOwner
  cases howner : (s.dirEntry line).owner with
  | none => exact .inl ⟨rfl, rfl⟩
  | some o =>
    refine .inr ?_
    obtain ⟨ev, a, b, l, hlog⟩ := State.logErr_frame (s.poisonLine line 3 o)
      { errRec 2 0x12 0x0023 ((s.poisonLine line 3 o).homeOf line / 4) ((s.poisonLine line 3 o).homeOf line % 4) with
        addr := BitVec.ofNat 64 (2 ^ 63 + line * 64), aux0 := o }
    exact ⟨_, ev, a, b, l, hlog⟩

theorem State.losing_loseOwner (s : State) (line : Nat) : s.Losing (s.loseOwner line) := by
  obtain ⟨-, heq⟩ | ⟨homes, ev, a, b, l, heq⟩ := s.loseOwner_eq line
  · rw [heq]; exact State.Losing.refl s
  · rw [heq]
    obtain ⟨hquads, hboot, hcoh, hbyte⟩ := s.losing_openLine line
    exact ⟨hquads, hboot, by rw [hcoh], hbyte⟩

theorem State.Lost.loseOwner {s : State} {l : Nat} (h : s.Lost l) (line : Nat) : (s.loseOwner line).Lost l := by
  obtain ⟨-, heq⟩ | ⟨homes, ev, a, b, l', heq⟩ := s.loseOwner_eq line
  · rw [heq]; exact h
  · rw [heq]; exact (h.openLine line).setPoison line

theorem State.lost_loseOwner {s : State} {line o : Nat} (h : (s.dirEntry line).owner = some o) : (s.loseOwner line).Lost line := by
  obtain ⟨hnone, -⟩ | ⟨homes, ev, a, b, l', heq⟩ := s.loseOwner_eq line
  · rw [hnone] at h; cases h
  · rw [heq]; exact State.Lost.of_poison line

/-- After the directory has been gone through, every line that an agent owned is lost. -/
theorem State.foldl_loseOwner (ls : List Nat) (s : State) :
    s.Losing (ls.foldl State.loseOwner s) ∧
    (∀ l, s.Lost l → (ls.foldl State.loseOwner s).Lost l) ∧
    ∀ l o, l ∈ ls → (s.dirEntry l).owner = some o → (ls.foldl State.loseOwner s).Lost l := by
  induction ls generalizing s with
  | nil => exact ⟨State.Losing.refl s, fun l h => h, fun l o hl => by cases hl⟩
  | cons x ls ih =>
    obtain ⟨hlosing, hkept, hlost⟩ := ih (s.loseOwner x)
    have hstep := s.losing_loseOwner x
    refine ⟨hstep.trans hlosing, fun l h => hkept l (h.loseOwner x), fun l o hl ho => ?_⟩
    have hdir : (s.loseOwner x).dirEntry l = s.dirEntry l := by rw [State.dirEntry, hstep.coh]; rfl
    obtain rfl | hl := List.mem_cons.mp hl
    · exact hkept l (State.lost_loseOwner ho)
    · exact hlost l o hl (by rw [hdir]; exact ho)

/-- A line with an owner stands in the directory. -/
theorem State.mem_dir_of_owner {s : State} {line o : Nat} (h : (s.dirEntry line).owner = some o) :
    line ∈ s.coh.dir.map Prod.fst := by
  by_contra hnot
  have hnone : s.dirEntry line = DirEntry.none :=
    Table.get_of_forall_ne _ (fun e he heq => hnot (List.mem_map.mpr ⟨e, he, heq⟩))
  rw [hnone] at h
  cases h

/-- The host complex as it goes down, with no transaction open. -/
theorem State.hostDown_spec {s : State} (htxns : s.coh.txns = []) :
    s.hostDown.coh.closed = true ∧ s.hostDown.boot = { s.boot with hostHeld := true } ∧ s.hostDown.cores = [] ∧
    s.hostDown.coh.lines = [] ∧ s.hostDown.coh.dir = [] ∧ s.hostDown.quads = s.quads ∧
    (∀ a, isTiered a = false → s.hostDown.byte a = s.byte a) ∧
    ∀ line o, (s.dirEntry line).owner = some o → s.hostDown.sectorPoison line = true := by
  unfold State.hostDown
  dsimp only
  generalize hu : State.modCoh (State.modBoot (s.modCoh (fun c => { c with closed := true })) (fun b => { b with hostHeld := true })) _ = u
  have hutxns : u.coh.txns = [] := by rw [← hu]; exact htxns
  have hudir : u.coh.dir = s.coh.dir := by rw [← hu]; rfl
  have hubyte : ∀ a, u.byte a = s.byte a := fun a => by rw [← hu]; rfl
  rw [hutxns, List.map_nil, List.foldl_nil]
  obtain ⟨hlosing, -, hlost⟩ := State.foldl_loseOwner (u.coh.dir.map Prod.fst) u
  generalize (u.coh.dir.map Prod.fst).foldl State.loseOwner u = v at hlosing hlost ⊢
  obtain ⟨hquads, hboot, hcoh, hbyte⟩ := hlosing
  refine ⟨?_, ?_, rfl, rfl, rfl, ?_, fun a ha => (hbyte a ha).trans (hubyte a), fun line o ho => ?_⟩
  · show v.coh.closed = true
    rw [hcoh, ← hu]; rfl
  · show v.boot = _
    rw [hboot, ← hu]; rfl
  · show v.quads = _
    rw [hquads, ← hu]; rfl
  · have huo : (u.dirEntry line).owner = some o := by rw [State.dirEntry, hudir]; exact ho
    exact (hlost line o (State.mem_dir_of_owner huo) huo).1

/-! ### The host complex comes back (18_boot_and_reset.md R467, R471) -/

/-- A write of memory leaves the caches and boot's state. -/
theorem State.writeMem_frame (s : State) (pa : Nat) (bs : List Byte) :
    (s.writeMem pa bs).coh = s.coh ∧ (s.writeMem pa bs).boot = s.boot := by
  have hclear : ∀ (u : State) lo n, (u.clearWhole lo n).coh = u.coh ∧ (u.clearWhole lo n).boot = u.boot := fun u lo n => by
    unfold State.clearWhole
    dsimp only
    split
    · exact ⟨rfl, rfl⟩
    · exact ⟨rfl, rfl⟩
  have hpart : ∀ (u : State) (c : Bool) lo b, (if c then u else u.setBytes lo b).coh = u.coh ∧
      (if c then u else u.setBytes lo b).boot = u.boot := fun u c lo b => by
    cases c with
    | true => exact ⟨rfl, rfl⟩
    | false => exact ⟨rfl, rfl⟩
  unfold State.writeMem
  dsimp only
  split
  · split
    · exact ⟨rfl, rfl⟩
    · exact hclear ..
  · rw [(hpart ..).1, (hpart ..).1, (hpart ..).2, (hpart ..).2]
    exact hclear ..

/-- The release of the host complex: its homes open; where the first stage measures as at boot, it is copied and the harts
start. -/
theorem State.hostResetRelease_spec {s : State} (hheld : s.boot.held = false) (hdone : s.boot.done = true)
    (hclosed : s.coh.closed = true) (hwaiting : s.coh.waiting = []) :
    ∃ t, exec .hostResetRelease s = .next t ∧ t.coh.closed = false ∧ t.boot.hostBusy = false ∧
      (Config.shake256 (List.replicate 64 0 ++ Config.shake256 (s.bootImage.take 16 ++ sectionBytes s.bootImage 10)) = s.cfg.measure 1 →
        (∀ i, s.sectorPoison i = false) →
        t.boot.hostHeld = false ∧ t.hasBytes 0 (Config.hostFirstStage (sectionBytes s.bootImage 10))) := by
  generalize hu : (s.modCoh (fun c => { c with closed := false })).modBoot (fun b => { b with hostBusy := false }) = u
  have hucoh : u.coh = { s.coh with closed := false } := by rw [← hu]; rfl
  have hubusy : u.boot.hostBusy = false := by rw [← hu]; rfl
  have huimage : u.bootImage = s.bootImage := by rw [← hu]; rfl
  have hupoison : ∀ i, u.sectorPoison i = s.sectorPoison i := fun i => by rw [← hu]; rfl
  have hexec : exec .hostResetRelease s = .next (State.wakeHomes
      (if Config.shake256 (List.replicate 64 0 ++ Config.shake256 (s.bootImage.take 16 ++ sectionBytes s.bootImage 10)) = u.cfg.measure 1
        then u.copyHostStage.modBoot (fun b => { b with hostHeld := false }) else u)) := by
    rw [exec_hostResetRelease, execHostResetRelease, if_neg (by simp [hheld, hdone, hclosed]), ← hu]
  have hmeasure : u.cfg.measure 1 = s.cfg.measure 1 := by rw [← hu]; rfl
  obtain ⟨hcopy, hbooted⟩ := u.writeMem_frame 0 (Config.hostFirstStage (sectionBytes u.bootImage 10))
  have hwake : ∀ v : State, v.coh = u.coh → v.wakeHomes = v := fun v hv => by
    rw [State.wakeHomes, hv, hucoh, hwaiting]; rfl
  rw [hmeasure] at hexec
  split at hexec
  · generalize hv : u.copyHostStage.modBoot (fun b => { b with hostHeld := false }) = v at hexec
    have hvcoh : v.coh = u.coh := by rw [← hv]; exact hcopy
    have hvboot : v.boot = { u.boot with hostHeld := false } := by rw [← hv]; exact congrArg (fun b => { b with hostHeld := false }) hbooted
    rw [hwake v hvcoh] at hexec
    refine ⟨v, hexec, by rw [hvcoh, hucoh], by rw [hvboot]; exact hubusy, fun _ hclean => ⟨by rw [hvboot], ?_⟩⟩
    have hbytes := State.hasBytes_copyHostStage (s := u) (fun i => (hupoison i).trans (hclean i))
    rw [huimage] at hbytes
    exact State.hasBytes_of_mem_eq (by rw [← hv, State.modBoot_mem]) hbytes
  · next hne =>
    rw [hwake _ rfl] at hexec
    exact ⟨u, hexec, by rw [hucoh], hubusy, fun heq => absurd heq hne⟩

/-- Settles O54: each level by the lemmas of what it clears and keeps. -/
theorem resetLevelsClearAndKeep : Obligations.ResetLevelsClearAndKeep := by
  unfold Obligations.ResetLevelsClearAndKeep
  intro p s
  refine ⟨?pin, fun htrip => ?power, fun hmay => ?ctrl, fun hmay => ?ignored, fun v => ⟨fun hheld => ?release, fun hheld => ?running⟩,
    fun q hmay hdone => ⟨fun hopen => ?quad, fun hclosed => ?absent⟩, fun d hmay hdone hd hbusy => ?die,
    fun d ok => ⟨fun hreset hwaits hsync hwaiting => ?returns, fun hreset => ?noReturn⟩,
    fun hheld hdone => ⟨fun hopen htxns => ?host, fun hclosed => ⟨?extended, fun hwaiting => ?hostBack⟩⟩,
    fun hmay => ?clear, fun hmay => ?noClear⟩
  case pin =>
    have hexec : exec (.packageReset .pin) s = .next (s.restart (s.boot.causedBy .pin) false) := rfl
    obtain ⟨hboot, hquads, hmem, hsync, hcores, hcoh, hflash, hcfg, hlog⟩ := s.restart_spec (s.boot.causedBy .pin) false
    refine ⟨_, hexec, ?_⟩
    rw [hboot, hquads, hmem, hsync, hcores, hcoh, hflash, hcfg, hlog]
    exact ⟨rfl, rfl, rfl, rfl, rfl, rfl, rfl, rfl, rfl, rfl, rfl, rfl, rfl, rfl, rfl, rfl, rfl⟩
  case power =>
    have hexec : exec (.packageReset .powerGood) s = .next (s.restart (s.boot.causedBy .powerGood) true) := by
      simp only [exec_packageReset, execPackageReset, State.powerLost, htrip, if_true]
    have htripped : (s.restart (s.boot.causedBy .powerGood) true).boot.thermtrip = false := Bool.and_false _
    obtain ⟨hboot, hquads, hmem, -, -, -, hflash, -, hlog⟩ := s.restart_spec (s.boot.causedBy .powerGood) true
    refine ⟨_, hexec, ?_, ?_, htripped, ?_, hquads, hmem, hflash⟩
    · rw [hboot]; rfl
    · rw [hboot]; rfl
    · rw [hlog]; rfl
  case ctrl =>
    have hexec : exec (.packageReset (.ctrl p)) s = .next (s.restart (s.boot.causedBy (.ctrl p)) false) := by
      simp only [exec_packageReset, execPackageReset, hmay, if_true]
    obtain ⟨hboot, hquads, hmem, hsync, hcores, hcoh, hflash, hcfg, hlog⟩ := s.restart_spec (s.boot.causedBy (.ctrl p)) false
    refine ⟨_, hexec, ?_⟩
    rw [hboot, hquads, hmem, hlog]
    exact ⟨rfl, rfl, rfl, rfl, rfl, rfl, rfl⟩
  case ignored =>
    refine ⟨?_, fun q => ?_, fun d => ?_, ?_⟩
    · rw [exec_packageReset, execPackageReset]; simp [hmay]
    · rw [exec_quadReset, execQuadReset, if_neg (by simp [hmay])]
    · rw [exec_computeDieReset, execComputeDieReset, if_neg (by simp [hmay])]
    · rw [exec_hostComplexReset, execHostComplexReset]; simp [hmay]
  case release => rw [exec_packageResetRelease, execPackageResetRelease, if_pos hheld]; rfl
  case running => rw [exec_packageResetRelease, execPackageResetRelease, if_neg (by simp [hheld])]
  case quad =>
    have hexec : exec (.quadReset p q) s = .next (s.resetQuad q) := by
      rw [exec_quadReset, execQuadReset, if_pos (by simp [hmay, hdone, hopen])]
    refine ⟨s.resetQuad q, hexec, ?_, State.resetQuad_suspicion⟩
    rw [State.quad_resetQuad]
    generalize (s.stopQuad q).quad q = x
    rfl
  case absent => rw [exec_quadReset, execQuadReset, if_neg (by simp [hclosed])]
  case die =>
    have hexec : exec (.computeDieReset p d) s = .next (s.resetDie d) := by
      rw [exec_computeDieReset, execComputeDieReset, if_pos (by simp [hmay, hdone, hd, hbusy])]
    exact ⟨_, hexec, s.resetDie_spec d⟩
  case returns =>
    have hexec : exec (.dieResetDone d ok) s = .next (s.dieReturns d ok) := by
      rw [exec_dieResetDone, execDieResetDone, if_pos hreset]
    exact ⟨_, hexec, State.dieReturns_spec d ok hwaits hsync hwaiting⟩
  case noReturn => rw [exec_dieResetDone, execDieResetDone, if_neg (Bool.eq_false_iff.mp hreset)]
  case host =>
    have hexec : exec (.hostComplexReset .pin) s = .next (s.hostDown.modBoot (fun b =>
        { b with hostBusy := false, hostResets := satAdd 0xFF b.hostResets 1 })) := by
      rw [exec_hostComplexReset, execHostComplexReset]; simp [hheld, hdone, hopen]
    obtain ⟨hclosed, hboot, hcores, hlines, hdir, hquads, hbyte, hlost⟩ := State.hostDown_spec htxns
    generalize s.hostDown = u at *
    exact ⟨_, hexec, hclosed, by rw [State.modBoot, hboot], by rw [State.modBoot, hboot]; rfl, hcores, hlines, hdir, hquads, hbyte, hlost⟩
  case extended => rw [exec_hostComplexReset, execHostComplexReset]; simp [hclosed]
  case hostBack =>
    obtain ⟨t, ht, hopen, hfree, hstart⟩ := State.hostResetRelease_spec hheld hdone hclosed hwaiting
    exact ⟨t, ht, hopen, hfree, hstart⟩
  case clear => rw [exec_rstCauseFatalClear, execRstCauseFatalClear, if_pos hmay]; rfl
  case noClear => rw [exec_rstCauseFatalClear, execRstCauseFatalClear, if_neg (by simp [hmay])]

end Sys2Proof.Machine


namespace Sys2Proof.Machine

/-! ### What blame leaves of a quad (15_resilience.md R406, R407) -/

/-- A quad's registers after blame: the score is raised, and the quad is suspect once the score comes to 64. -/
theorem State.quad_blame_same (s : State) (q n : Nat) : (s.blame q n).quad q =
    { s.quad q with
      score := satAdd 0xFFFF (s.quad q).score n,
      suspect := if (s.quad q).score < 64 ∧ 64 ≤ satAdd 0xFFFF (s.quad q).score n then true else (s.quad q).suspect } := by
  unfold State.blame
  dsimp only
  split
  · unfold State.quad
    rw [State.logErr_quads]
    exact (State.quad_modQuad_same ..).trans (by rw [State.quad_modQuad_same]; rfl)
  · exact State.quad_modQuad_same ..

theorem State.quad_blame_ne (s : State) {p q : Nat} (n : Nat) (h : p ≠ q) : (s.blame q n).quad p = s.quad p := by
  unfold State.blame
  dsimp only
  split
  · unfold State.quad
    rw [State.logErr_quads]
    exact (State.quad_modQuad_ne _ _ h).trans (State.quad_modQuad_ne _ _ h)
  · exact State.quad_modQuad_ne _ _ h

theorem State.quad_logErr (s : State) (r : ErrRec) (q : Nat) : (s.logErr r).quad q = s.quad q := by
  unfold State.quad
  rw [State.logErr_quads]

theorem State.byte_of_mem_eq {s t : State} (h : t.mem = s.mem) (a : Nat) : t.byte a = s.byte a := by
  unfold State.byte
  rw [h]

/-- A record below DUE touches the log alone: no port gets an event. -/
theorem State.logErr_of_cls_lt_two (s : State) (r : ErrRec) (h : r.cls < 2) :
    s.logErr r = { s with log := (s.logErr r).log } := by
  unfold State.logErr
  simp only [ge_iff_le, Nat.not_le.mpr h, (Nat.ne_of_lt (Nat.lt_succ_of_lt h) : r.cls ≠ 3), if_false]
  rfl

/-! ### A command that replay gives up (15_resilience.md R404) -/

theorem Quad.fired_sameFields (x : Quad) (stn check : Nat) :
    (x.fired stn check).queues = x.queues ∧ x.SameMarks (x.fired stn check) := by
  unfold Quad.fired
  split
  · exact ⟨rfl, .of_fields⟩
  · split
    · exact ⟨rfl, .of_fields⟩
    · exact ⟨rfl, .refl x⟩

/-- Writing back a command leaves a quad's counts. -/
theorem State.quad_setCmd (s : State) (q j : Nat) (c : Cmd) :
    (s.setCmd q j c).quad q = (s.quad q).modQueue j (fun x => x.setCmd c) := State.quad_modQuad_same ..

/-- A broken run is the work of the station, which keeps the quads' marks, and the command written back with its status. -/
theorem State.breakRun_marks (s : State) (q j : Nat) (c : Cmd) (op status : Nat) (detail : Dword) :
    ∃ w d, s.Keeps True w ∧ s.breakRun q j c (stationRun op) status detail = w.setCmd q j d ∧ d.idx = c.idx ∧ d.ran = true ∧
      d.status = status := by
  have hdrawn : s.Keeps True (s.drawNat (2 ^ 32)).2 := (Keeps.refl s).drawNat
  have hrun := hdrawn.stationRun_keeps (op := op) (r := ⟨q, j, c, some (s.drawNat (2 ^ 32)).1⟩)
  unfold State.breakRun
  dsimp only
  split
  · next hx =>
    rw [hx] at hrun
    exact ⟨_, _, Keeps.foldl (fun _ h _ => h.drawn.countTiles) hrun, rfl, rfl, rfl, rfl⟩
  · exact ⟨_, _, hdrawn, rfl, rfl, rfl, rfl⟩

/-- A command still at work that replay gives up: the quad's score rises by 16, its other counts stand, and the command
holds the status. -/
theorem State.exhaust_of_not_ran {s t : State} {q j source code check passes : Nat} {idx : Word} {c : Cmd}
    (ht : t = s.exhaust q j c source code check passes) (hfind : (s.queue q j).find idx = some c) (hran : c.ran = false) :
    (∃ d, (t.queue q j).find idx = some d ∧ d.ran = true ∧ d.status = stReplayExhausted) ∧
      (t.quad q).score = satAdd 0xFFFF (s.quad q).score 16 ∧ (t.quad q).replays = (s.quad q).replays ∧
      (t.quad q).control = (s.quad q).control ∧ (t.quad q).exhausted = (s.quad q).exhausted := by
  generalize hu : (s.blame q 16).logErr { (s.blame q 16).cmdRec 2 source code q j c stReplayExhausted none with
    syndrome := 2 ^ check, aux0 := passes } = u
  have ht : t = u.breakRun q j c (stationRun (opcodeOf c.desc)) stReplayExhausted 0 := by
    rw [ht, State.exhaust, hu, State.breakCmd, hran]
    rfl
  have hblamed : u.quad q = _ := (hu ▸ State.quad_logErr ..).trans (State.quad_blame_same s q 16)
  obtain ⟨w, d, ⟨-, -, -, hmarks⟩, hset, hidx, hdran, hstatus⟩ :=
    u.breakRun_marks q j c (opcodeOf c.desc) stReplayExhausted 0
  obtain ⟨hscore, hreplays, hcontrol, hexhausted, hheld⟩ := hmarks trivial q
  have hthere : ((w.queue q j).find idx).isSome = true := by
    refine (hheld j idx).trans ?_
    rw [hblamed]
    show ((s.queue q j).find idx).isSome = true
    rw [hfind]
    rfl
  obtain ⟨c', hc'⟩ := Option.isSome_iff_exists.mp hthere
  have hsame : d.idx = c'.idx := by rw [hidx, Queue.idx_of_find hfind, Queue.idx_of_find hc']
  have hquad : t.quad q = (w.quad q).modQueue j (fun x => x.setCmd d) := by rw [ht, hset, State.quad_setCmd]
  rw [hblamed] at hscore hreplays hcontrol hexhausted
  rw [hquad]
  exact ⟨⟨d, by rw [ht, hset]; exact State.find_setCmd hc' hsame, hdran, hstatus⟩, hscore, hreplays, hcontrol, hexhausted⟩

/-! ### A unit that is marked -/

section
variable {q j stn unit check : Nat} {idx : Word} {c : Cmd} {s t : State}

/-- A quad in which a check has fired and a count is taken. -/
def State.countMark (s : State) (q stn check : Nat) (f : Quad → Quad) : State :=
  (s.modQuad q (fun x => x.fired stn check)).modQuad q f

theorem State.quad_countMark (s : State) (q stn check : Nat) (f : Quad → Quad) :
    (s.countMark q stn check f).quad q = f ((s.quad q).fired stn check) := by
  unfold State.countMark
  rw [State.quad_modQuad_same, State.quad_modQuad_same]

/-- A mark and a count leave the command where it is. -/
theorem State.find_countMark {f : Quad → Quad} (hf : ∀ x, (f x).queues = x.queues) (hfind : (s.queue q j).find idx = some c) :
    ((s.countMark q stn check f).queue q j).find idx = some c := by
  unfold State.queue Quad.queue
  rw [State.quad_countMark, hf, ((s.quad q).fired_sameFields stn check).1]
  exact hfind

/-- What the first three marks of a unit do. -/
theorem State.markUnit_of_lt (hcheck : check ≠ 5) (hpasses : Table.get 0 c.passes (stn * 2 ^ 32 + unit) < 3) :
    ∃ r, s.markUnit q j c stn unit check =
      (((s.countMark q stn check (fun x => { x with replays := satAdd 0xFFFF x.replays 1 })).blame q 1).logErr r).setCmd q j
        { c with passes := Table.put 0 c.passes (stn * 2 ^ 32 + unit) (Table.get 0 c.passes (stn * 2 ^ 32 + unit) + 1) } := by
  unfold State.markUnit
  simp only [if_neg hcheck, if_pos hpasses]
  exact ⟨_, rfl⟩

/-- What a further mark does. -/
theorem State.markUnit_of_le (hcheck : check ≠ 5) (hpasses : 3 ≤ Table.get 0 c.passes (stn * 2 ^ 32 + unit)) :
    s.markUnit q j c stn unit check =
      (s.countMark q stn check (fun x => { x with exhausted := satAdd 0xFF x.exhausted 1 })).exhaust q j c
        (stationSource stn) 0x0021 check (Table.get 0 c.passes (stn * 2 ^ 32 + unit)) := by
  unfold State.markUnit
  simp only [if_neg hcheck, if_neg (Nat.not_lt.mpr hpasses)]
  rfl

/-- What a control error does. -/
theorem State.markUnit_of_control : s.markUnit q j c stn unit 5 =
    (s.countMark q stn 5 (fun x => { x with control := satAdd 0xFF x.control 1 })).exhaust q j c 0x07 0x0022 5
      (Table.get 0 c.passes (stn * 2 ^ 32 + unit)) := rfl

/-- The first three marks of a unit replay it. -/
theorem State.markUnit_replays (ht : t = s.markUnit q j c stn unit check) (hfind : (s.queue q j).find idx = some c)
    (hcheck : check ≠ 5)
    (hpasses : Table.get 0 c.passes (stn * 2 ^ 32 + unit) < 3) :
    (t.queue q j).find idx = some { c with
      passes := Table.put 0 c.passes (stn * 2 ^ 32 + unit) (Table.get 0 c.passes (stn * 2 ^ 32 + unit) + 1) } ∧
      (t.quad q).replays = satAdd 0xFFFF (s.quad q).replays 1 ∧ (t.quad q).score = satAdd 0xFFFF (s.quad q).score 1 ∧
      ∀ a, t.byte a = s.byte a := by
  obtain ⟨r, hr⟩ := State.markUnit_of_lt (s := s) (q := q) (j := j) hcheck hpasses
  rw [hr] at ht
  obtain ⟨-, hscore, hreplays, -⟩ := (s.quad q).fired_sameFields stn check
  generalize hf : (fun x : Quad => { x with replays := satAdd 0xFFFF x.replays 1 }) = f at ht
  obtain ⟨hqueue, hmem, -⟩ := (s.countMark q stn check f).blame_frame q 1 j
  have hquad : ∃ g, t.quad q = (((s.countMark q stn check f).blame q 1).quad q).modQueue j g :=
    ⟨_, by rw [ht, State.quad_setCmd, State.quad_logErr]⟩
  obtain ⟨g, hquad⟩ := hquad
  rw [State.quad_blame_same, State.quad_countMark, ← hf] at hquad
  refine ⟨?_, ?_, ?_, State.byte_of_mem_eq ?_⟩
  · rw [ht]
    refine State.find_setCmd (c := c) ?_ rfl
    rw [State.queue_logErr, hqueue]
    exact State.find_countMark (fun _ => by rw [← hf]) hfind
  · rw [hquad, ← hreplays]; rfl
  · rw [hquad, ← hscore]; rfl
  · rw [ht]
    show (State.logErr _ r).mem = s.mem
    rw [State.logErr_mem, hmem]
    rfl

/-- The fourth mark of a unit ends the command. -/
theorem State.markUnit_exhausts (ht : t = s.markUnit q j c stn unit check) (hfind : (s.queue q j).find idx = some c)
    (hran : c.ran = false) (hcheck : check ≠ 5)
    (hpasses : 3 ≤ Table.get 0 c.passes (stn * 2 ^ 32 + unit)) :
    (∃ d, (t.queue q j).find idx = some d ∧ d.ran = true ∧ d.status = stReplayExhausted) ∧
      (t.quad q).exhausted = satAdd 0xFF (s.quad q).exhausted 1 ∧ (t.quad q).score = satAdd 0xFFFF (s.quad q).score 16 := by
  obtain ⟨-, hscore, -, -, hexhausted, -⟩ := (s.quad q).fired_sameFields stn check
  obtain ⟨hcmd, hs, -, -, he⟩ :=
    State.exhaust_of_not_ran (ht.trans (State.markUnit_of_le hcheck hpasses)) (State.find_countMark (fun _ => rfl) hfind) hran
  exact ⟨hcmd, by rw [he, State.quad_countMark, ← hexhausted], by rw [hs, State.quad_countMark, ← hscore]⟩

/-- A control error ends the command at once. -/
theorem State.markUnit_control (ht : t = s.markUnit q j c stn unit 5) (hfind : (s.queue q j).find idx = some c)
    (hran : c.ran = false) :
    (∃ d, (t.queue q j).find idx = some d ∧ d.ran = true ∧ d.status = stReplayExhausted) ∧
      (t.quad q).control = satAdd 0xFF (s.quad q).control 1 ∧ (t.quad q).replays = (s.quad q).replays := by
  obtain ⟨-, -, hreplays, hcontrol, -⟩ := (s.quad q).fired_sameFields stn 5
  obtain ⟨hcmd, -, hr, hc, -⟩ :=
    State.exhaust_of_not_ran (ht.trans State.markUnit_of_control) (State.find_countMark (fun _ => rfl) hfind) hran
  exact ⟨hcmd, by rw [hc, State.quad_countMark, ← hcontrol], by rw [hr, State.quad_countMark, ← hreplays]⟩

/-- Which unit REPLAY_UNIT marks, where no state that the quad's commands share is in error. -/
theorem exec_replayUnit (hfind : (s.queue q j).find idx = some c) (hruns : s.quadRuns q = true) (hphase : c.phase = .running)
    (hran : c.ran = false) (hheld : c.held.any (fun p => decide (p.1 = stn)) = true) (hcheck : check ≠ 6) :
    exec (.replayUnit q j idx stn unit check) s =
      .next (if s.hasCheck stn check = true then s.markUnit q j c stn unit check else s) := by
  show execReplayUnit .. = _
  unfold execReplayUnit
  simp [hfind, hruns, hphase, hran, hheld, hcheck]

/-- A parity error in state that the quad's commands share is FATAL. -/
theorem exec_replayUnit_shared (hfind : (s.queue q j).find idx = some c) (hruns : s.quadRuns q = true) :
    exec (.replayUnit q j idx stn unit 6) s = .next (s.fatal 0x07 0x0034 (q / 16) q) := by
  show execReplayUnit .. = _
  unfold execReplayUnit
  simp [hfind, hruns]

end

/-! ### Decay of the scores -/

/-- Where no key stands twice, a map of the values that keeps the default reads as the map of each value. -/
theorem Table.get_mapVals_of_nodup {α : Type} [DecidableEq α] {d : α} {f : α → α} (hd : f d = d) {t : Table α}
    (ht : (t.map Prod.fst).Nodup) (i : Nat) : Table.get d (Table.mapVals d f t) i = f (Table.get d t i) := by
  unfold Table.mapVals
  induction t with
  | nil => exact hd.symm
  | cons e t ih =>
    obtain ⟨k, v⟩ := e
    obtain ⟨hk, ht⟩ := List.nodup_cons.mp ht
    have ih := ih ht
    by_cases hi : k = i
    · subst hi
      rw [Table.get_cons, if_pos rfl, List.map_cons, List.filter_cons]
      split
      · rw [Table.get_cons, if_pos rfl]
      · next hv =>
        have habsent : Table.get d t k = d := Table.get_of_forall_ne d fun e he hek =>
          hk (List.mem_map.mpr ⟨e, he, hek⟩)
        rw [ih, habsent, hd]
        exact (by simpa using hv : f v = d).symm
    · rw [Table.get_cons, if_neg hi, List.map_cons, List.filter_cons]
      split
      · rw [Table.get_cons, if_neg hi]; exact ih
      · exact ih

/-- A quad after a decay of the scores. -/
theorem State.quad_decayed {s : State} (hkeys : (s.quads.map Prod.fst).Nodup) (p : Nat) :
    Table.get Quad.reset (Table.mapVals Quad.reset (fun x => { x with score := x.score - 1 }) s.quads) p =
      { s.quad p with score := (s.quad p).score - 1 } :=
  Table.get_mapVals_of_nodup (f := fun x : Quad => { x with score := x.score - 1 }) rfl hkeys p

/-! ### Patrol scrub -/

section
variable {pa src d u a : Nat} {x : Line} {found : EccFinding} {s : State}

/-- A word of memory that no cache holds and that no extension stands before is scrubbed where it is. -/
theorem State.scrub_of_uncached (hholders : s.holders (pa / 64) = []) (hext : s.hbmDie pa = none)
    (hcontrol : found ≠ .control) :
    s.scrub pa found = s.scrubWord pa found := by
  unfold State.scrub
  dsimp only
  rw [if_neg hcontrol, hholders, hext]
  exact ite_self _

/-- What an error found in a word of memory does, where its scrub is not switched off. -/
theorem State.scrubWord_of_place (hplace : s.wordPlace pa = some (src, d, u))
    (hon : bit (s.item 2 3 0) (scrubBit src) = false) :
    s.scrubWord pa .clean = s ∧
    (∃ r, r.cls = 0 ∧ s.scrubWord pa .corrected = s.logErr r) ∧
    (∃ r, s.scrubWord pa .uncorrectable = (s.setPoison (pa / 64) true).logErr r) := by
  unfold State.scrubWord
  simp only [hplace, hon]
  exact ⟨rfl, ⟨_, rfl, rfl⟩, ⟨_, rfl⟩⟩

/-- An uncorrectable error in a modified line that one cache holds poisons the line there. -/
theorem State.scrub_of_modified (hholders : s.holders (pa / 64) = [(a, x)]) (hst : x.st = .m) (htr : x.tr = .stable)
    (hon : bit (s.item 2 3 0) 1 = false) (hpinned : s.pinned (pa / 64) = false) :
    (s.scrub pa .uncorrectable).line a (pa / 64) = { x with poison := true } ∧
      (s.scrub pa .uncorrectable).mem = s.mem := by
  have hcache : s.scrub pa .uncorrectable = s.scrubCache a (pa / 64) x .uncorrectable := by
    unfold State.scrub
    simp [hholders, hst, htr, hon, hpinned]
  have hpoison : ∃ (r : ErrRec) (v : State), v.mem = s.mem ∧
      s.scrubCache a (pa / 64) x .uncorrectable = (v.setLine a (pa / 64) { x with poison := true }).logErr r := by
    unfold State.scrubCache
    simp only [hst, reduceCtorEq, if_false, ne_eq, not_true_eq_false, false_and, decide_false, Bool.false_and]
    refine ⟨_, _, ?_, rfl⟩
    split
    · rfl
    · rfl
  obtain ⟨r, v, hmem, hpoison⟩ := hpoison
  rw [hcache, hpoison]
  refine ⟨?_, (State.logErr_mem ..).trans hmem⟩
  unfold State.line
  rw [State.logErr_coh]
  exact line_setLine ..

end

/-- Settles O49: each clause is one of the lemmas above. -/
theorem checksScoresAndScrub : Obligations.ChecksScoresAndScrub := by
  unfold Obligations.ChecksScoresAndScrub
  intro q j stn unit check idx c s
  refine ⟨fun hruns hfind hphase hran hheld => ?_, fun hup => ?_, fun d w => ?_⟩
  · have hmarked : ∀ check, check ≠ 6 → s.hasCheck stn check = true →
        exec (.replayUnit q j idx stn unit check) s = .next (s.markUnit q j c stn unit check) := fun check hne hhas => by
      rw [exec_replayUnit hfind hruns hphase hran hheld hne, if_pos hhas]
    have hknown : s.hasCheck stn check = true → check ≠ 6 := by
      rintro hhas rfl
      simp [State.hasCheck] at hhas
    refine ⟨fun hhas h5 hn => ?_, fun hhas h5 hn => ?_, ?_, fun hhas h6 => ?_, ?_⟩
    · obtain ⟨hcmd, hreplays, hscore, hbytes⟩ := State.markUnit_replays rfl hfind h5 hn
      exact ⟨_, _, hmarked check (hknown hhas) hhas, hcmd, Table.get_put_same .., hran, hreplays, hscore, hbytes⟩
    · obtain ⟨⟨e, hcmd, hended, hstatus⟩, hexhausted, hscore⟩ := State.markUnit_exhausts rfl hfind hran h5 hn
      exact ⟨_, e, hmarked check (hknown hhas) hhas, hcmd, hended, hstatus, hexhausted, hscore⟩
    · rintro rfl
      obtain ⟨⟨e, hcmd, hended, hstatus⟩, hcontrol, hreplays⟩ := State.markUnit_control rfl hfind hran
      exact ⟨_, e, hmarked 5 (by decide) (by simp [State.hasCheck]), hcmd, hended, hstatus, hcontrol, hreplays⟩
    · rw [exec_replayUnit hfind hruns hphase hran hheld h6, hhas]
      rfl
    · rintro rfl
      exact ⟨_, exec_replayUnit_shared hfind hruns, State.fatal_log_fatal .., State.fatal_running ..⟩
  · refine ⟨fun hpresent => ?_, fun hkeys => ?_, fun pa src d u hholders hext hplace hon => ?_,
      fun pa a x hholders hst htr hon hpinned => ?_⟩
    · refine ⟨s.blame q 8, ?_, ?_, fun hlow hhigh => ?_, fun p hp => State.quad_blame_ne s 8 hp⟩
      · show execMarginWarning q s = _
        simp [execMarginWarning, hup, hpresent]
      · rw [State.quad_blame_same]
        rfl
      · rw [State.quad_blame_same]
        exact if_pos ⟨hlow, by unfold satAdd; omega⟩
    · refine ⟨{ s with quads := Table.mapVals Quad.reset (fun x => { x with score := x.score - 1 }) s.quads }, ?_, rfl,
        State.quad_decayed hkeys⟩
      show execSuspicionDecay s = _
      simp [execSuspicionDecay, hup]
    · have hscrub : ∀ found, found ≠ .control → exec (.scrubRead pa found) s = .next (s.scrubWord pa found) := by
        intro found hf
        show execScrubRead pa found s = _
        simp [execScrubRead, hup, State.scrub_of_uncached hholders hext hf]
      obtain ⟨hclean, ⟨r, hcls, hcorrected⟩, ⟨r', hpoisoned⟩⟩ := State.scrubWord_of_place hplace hon
      refine ⟨?_, ⟨_, hscrub _ (by decide), ?_⟩, ⟨_, hscrub _ (by decide), ?_⟩⟩
      · rw [hscrub _ (by decide), hclean]
      · rw [hcorrected]
        exact State.logErr_of_cls_lt_two s r (by omega)
      · rw [hpoisoned]
        have hsector : ∀ i, ((s.setPoison (pa / 64) true).logErr r').sectorPoison i = (s.setPoison (pa / 64) true).sectorPoison i := by
          intro i
          unfold State.sectorPoison
          rw [State.logErr_poison]
        refine ⟨?_, fun i hi => ?_, State.byte_of_mem_eq (State.logErr_mem ..)⟩
        · rw [hsector, State.sectorPoison_setPoison, if_pos rfl]
        · rw [hsector, State.sectorPoison_setPoison, if_neg hi]
    · obtain ⟨hline, hmem⟩ := State.scrub_of_modified hholders hst htr hon hpinned
      refine ⟨_, ?_, hline, State.byte_of_mem_eq hmem⟩
      show execScrubRead pa _ s = _
      simp [execScrubRead, hup]
  · refine ⟨fun hpos hfew hclosed => ⟨{ s with extWays := Table.put ExtWay.reset s.extWays (d * 16 + w) ExtWay.reset }, ?_, rfl,
      Table.get_put_same ..⟩, fun hopen => ?_⟩
    · show execExtErrorWindowExpire d w s = _
      unfold execExtErrorWindowExpire
      rw [if_pos ⟨hpos, hfew, hclosed⟩]
    · show execExtErrorWindowExpire d w s = _
      unfold execExtErrorWindowExpire
      rw [if_neg (by omega)]

end Sys2Proof.Machine
